-- ==== Sys2Proof/Word.lean ====
section
/-! DEFINITION. The word types of Esdex (spec 00_scope R8, 02_numbers R58) and a sorted table of values by key. -/

namespace Sys2Proof

/-- A byte of memory. -/
abbrev Byte := BitVec 8

/-- A 32-bit register value (R27). -/
abbrev Word := BitVec 32

/-- A 64-bit value: a register pair, an address, a PC (R28, R160). -/
abbrev DWord := BitVec 64

/-- One bit for each of the 64 lanes of a group (R85). -/
abbrev Mask := BitVec 64

/-- A 7-bit register field (R27): 0-87 V, 88-95 Q, 96-127 S. -/
abbrev Reg := BitVec 7

/-- Sparse data by key: keys strictly rising. -/
abbrev Tab (α : Type) := List (Nat × α)

end Sys2Proof
end

