-- ==== Sys2Proof/Events.lean ====
section
/-! DEFINITION. The data that the events of spec/opcode_table.json carry: what comes from outside the module, or what the rules leave to choice at that event. -/

namespace Sys2Proof

/-- One queue entry of a context image (14_tenancy R430). -/
structure QueueImage where
  q : Nat
  s : List Word
  full : Word
  pc : DWord
  erm3 : Word
  trapped : Bool
  notice : Bool
  trpc : DWord
  trinfo : Word
  traux : Word
  deriving DecidableEq, Repr

/-- A context image (R430): one process of a VF. -/
structure SlotImage where
  gtrt : DWord
  grdt : DWord
  map : Nat
  weight : Nat
  qmask : BitVec 64
  tvec : DWord
  queues : List QueueImage
  deriving DecidableEq, Repr

/-- What PL2 writes when it opens a VF (14_tenancy R428, 15_platform R469). -/
structure VfConfig where
  htrt : DWord
  hrdt : DWord
  logn : Nat
  mset : List Nat
  qtab : DWord
  weight : Nat
  mincl : Nat
  mintile : Nat
  minbw : Nat
  agtlen : Nat
  hvctx : Word
  slot0 : SlotImage
  deriving DecidableEq, Repr

/-- A load-store request of another module, arriving at its home here (16_fabric R482, R484). -/
inductive RemoteReq where
  | load (pa len : Nat)
  | store (pa : Nat) (bytes : List Byte)
  | atom (pa : Nat) (op : BitVec 4) (wide : Bool) (operand : DWord)
  | cas (pa : Nat) (expected replacement : DWord)
  deriving DecidableEq, Repr

/-- A request, and the port that it arrives at and is answered through (16_fabric R479). -/
structure PortReq where
  port : Nat
  req : RemoteReq
  deriving DecidableEq, Repr

/-- Where a message of UET goes, and the reliable ordered stream that it belongs to; none for unordered delivery (15_platform R475, 16_fabric R501). -/
structure UetHeader where
  mac : BitVec 48
  stream : Option Nat
  deriving DecidableEq, Repr

/-- Whom a watchdog or a limit names (14_tenancy R442, 13_translation R416). -/
inductive Watched where
  | group (gid : Nat)
  | queue (qid : Nat)
  deriving DecidableEq, Repr

/-- What the scheduler does to a grid's modules at a STEP (16_fabric R491). -/
inductive StepChange where
  | keep
  | add (modn : Nat)
  | withdraw (modn : Nat)
  deriving DecidableEq, Repr

/-- The team barrier (07 R242) or the grid barrier (R243). -/
inductive BarrierOf where
  | team (tag : Nat)
  | grid (grid : Nat)
  deriving DecidableEq, Repr

/-- The stage at which a store performs: core scope (05 R163), or the home (10 R310, R311). -/
inductive StoreStage where
  | core (gid : Nat)
  | home (core index : Nat)
  deriving DecidableEq, Repr

/-- What the patrol scrubber finds in a line (15_platform R465, R466, R468). -/
inductive ScrubError where
  | clean
  | corrected
  | uncorrectable
  deriving DecidableEq, Repr

/-- One calibration set that Almanac publishes (11_die_analogue R344, R361): the fitted values and the two tests' outcomes. -/
structure Publication where
  die : Nat
  tile : Nat
  gain : Tab Word
  offset : Tab Word
  u : Tab (BitVec 16)
  v : Tab (BitVec 16)
  rank : Nat
  metric : Word
  exactOk : Bool
  deriving DecidableEq, Repr

/-- What happens to the module from outside or of itself: the rows of spec/opcode_table.json that have no encoding. The agenda of the state lists these. -/
inductive Event where
  /-- R93 GTCMP_WRITE -/
  | gtcmpWrite (gid : Nat) (v : BitVec 64)
  /-- R94 WDL_WRITE -/
  | wdlWrite (gid : Nat) (v : BitVec 64)
  /-- R78 MFR_ACCESS -/
  | mfrAccess (gid : Nat) (v : Option (BitVec 32))
  /-- R435 CHRCTL_RESTART -/
  | chrctlRestart (vf pkg : Nat)
  /-- R434 PASSGH -/
  | passgh (vf : Nat) (gh : BitVec 32)
  /-- R434 HVCTX_WRITE -/
  | hvctxWrite (vf : Nat) (v : BitVec 32)
  /-- R433 QUEUE_DOORBELL -/
  | queueDoorbell (qid : Nat) (tail : BitVec 32)
  /-- R461 POWER_GOOD -/
  | powerGood
  /-- R461 CAMP_1 -/
  | camp1 (modn : BitVec 9) (mem : BitVec 4) (routes : List Nat)
  /-- R460 JOURNAL_BACKGROUND_ROW -/
  | journalBackgroundRow (die tile : Nat)
  /-- R461 SUMMIT -/
  | summit
  /-- R474 MANAGEMENT_RESET -/
  | managementReset
  /-- R472 STARFIX_TRIGGER_PIN -/
  | starfixTriggerPin
  /-- R472 MANAGEMENT_STARFIX -/
  | managementStarfix
  /-- R472 SNAPSHOT_READ -/
  | snapshotRead (seq : Nat)
  /-- R464 ATTESTATION_REQUEST -/
  | attestationRequest (vf : Option Nat) (nonce : List (BitVec 8))
  /-- R461 HEALTH_REQUEST -/
  | healthRequest
  /-- R501 UET_WRITE_RECEIVED -/
  | uetWriteReceived (hdr : UetHeader) (va : BitVec 64) (bytes : List (BitVec 8))
  /-- R475 UET_READ_RECEIVED -/
  | uetReadReceived (mac : BitVec 48) (va : BitVec 64) (len : Nat)
  /-- R482 REMOTE_REQUEST_RECEIVED -/
  | remoteRequestReceived (r : PortReq)
  /-- R477 VL_HOLD -/
  | vlHold (port vl : Nat) (hold : Bool)
  /-- R93 GTCMP_FIRE -/
  | gtcmpFire (gid : Nat)
  /-- R94 WDL_FIRE -/
  | wdlFire (gid : Nat)
  /-- R442 HANG_WATCHDOG -/
  | hangWatchdog (who : Watched)
  /-- R231 DET_TEAM_TIME_CAP -/
  | detTeamTimeCap (tag : Nat)
  /-- R385 CHE_TASK_WATCHDOG -/
  | cheTaskWatchdog (pkg vf : Nat)
  /-- R420 LEASE_TIMEOUT -/
  | leaseTimeout (grid n : Nat)
  /-- R416 MIGRATION_LIMIT -/
  | migrationLimit (who : Watched)
  /-- R490 PLACEMENT_LIMIT -/
  | placementLimit (grid : Nat)
  /-- R499 COLL_GATHER_TIMEOUT -/
  | collGatherTimeout (inst : Nat)
  /-- R452 CTXSW_ROLLBACK -/
  | ctxswRollback (qid : Nat)
  /-- R255 PREEMPTION_REQUEST -/
  | preemptionRequest (tag : Nat)
  /-- R257 SAVE_AT_TBAR -/
  | saveAtTbar (tag : Nat)
  /-- R257 FORCED_SAVE -/
  | forcedSave (tag : Nat)
  /-- R155 TEAM_PLACEMENT -/
  | teamPlacement (grid core p0 tag : Nat)
  /-- R258 TEAM_RESTORE -/
  | teamRestore (tag core p0 : Nat)
  /-- R259 VICTIM_EVICTION -/
  | victimEviction (tag : Nat)
  /-- R104 GROUP_RETIREMENT -/
  | groupRetirement (gid : Nat)
  /-- R446 GRID_RETIREMENT -/
  | gridRetirement (grid : Nat)
  /-- R108 STEP_BARRIER_COMPLETE -/
  | stepBarrierComplete (grid : Nat) (change : StepChange)
  /-- R242 TEAM_BARRIER_COMPLETE -/
  | teamBarrierComplete (b : BarrierOf)
  /-- R436 QP_QUANTUM_EXPIRY -/
  | qpQuantumExpiry (qp : Nat)
  /-- R376 CHE_QUANTUM_EXPIRY -/
  | cheQuantumExpiry (pkg : Nat)
  /-- R376 CHE_TASK_START -/
  | cheTaskStart (pkg vf : Nat)
  /-- R385 CHE_TASK_END -/
  | cheTaskEnd (pkg vf : Nat)
  /-- R361 ALMANAC_PUBLICATION -/
  | almanacPublication (sets : List Publication)
  /-- R468 PATROL_SCRUB -/
  | patrolScrub (line : Nat) (err : ScrubError)
  /-- R470 THROTTLE_DEEPER -/
  | throttleDeeper (vf : Option Nat) (draw : BitVec 16)
  /-- R470 THROTTLE_BACK -/
  | throttleBack (vf : Option Nat) (draw : BitVec 16)
  /-- R441 RESOURCE_RETIREMENT -/
  | resourceRetirement (channel : Bool) (n : Nat)
  /-- R480 PORT_RETIREMENT -/
  | portRetirement (port : Nat)
  /-- R368 UCIE_LINK_RETRAIN -/
  | ucieLinkRetrain (die : Nat) (work : Option Nat)
  /-- R88 LOAD_DATA_RETURN -/
  | loadDataReturn (gid id : Nat) (part : Option Nat)
  /-- R163 STORE_PERFORM -/
  | storePerform (st : StoreStage)
  /-- R182 ENGINE_LINE_WRITE -/
  | engineLineWrite (work piece : Nat)
  /-- R184 ENGINE_TOKEN_FILL -/
  | engineTokenFill (work : Nat)
  /-- R199 MATRIX_UNIT_OPERATION -/
  | matrixUnitOperation (core : Nat)
  /-- R265 SQE_OPERATION -/
  | sqeOperation (cluster : Nat)
  /-- R286 PX_BUCKET_UPDATE -/
  | pxBucketUpdate (work : Nat)
  /-- R410 TFENCE_INV_COMPLETE -/
  | tfenceInvComplete (id : Nat)
  /-- R309 L2_LINE_EVICTION -/
  | l2LineEviction (line : Nat)
  /-- R434 TRAP_NOTICE -/
  | trapNotice (gid : Nat)
  /-- R460 POWER_FAILURE -/
  | powerFailure
  /-- R428 VF_OPEN -/
  | vfOpen (vf : Nat) (cfg : VfConfig)
  /-- R428 VF_CLOSE -/
  | vfClose (vf : Nat)
  /-- R262 GRANULE_ASSIGNMENT -/
  | granuleAssignment (cluster granule : Nat) (vf : Option Nat)
  /-- R490 GRID_OFFER_RECEIVED -/
  | gridOfferReceived (grid modn : Nat) (accept : Bool)
  deriving DecidableEq, Repr

end Sys2Proof
end

