-- ==== Sys2Proof/Syntax.lean ====
section
/-! DEFINITION. The instructions and events of Esdex 1.0: one constructor for each row of spec/opcode_table.json. A field keeps its raw bits, as the encoding tables of 01_encoding R19, R23 and of each entry give them; a row without an encoding is an event, whose arguments say what happens and to whom. -/

namespace Sys2Proof

/-- One constructor per row of spec/opcode_table.json. Field names: d destination or token, a and b sources or block, p predicate, i immediate, o offset; the others are the modifiers of the entry. -/
inductive Instr where
  /-- R20 MOV_16: 16-bit two-address MOV copies V register A to V register D; with D equal to A it is the 16-bit NOP and only advances the PC. -/
  | mov16 (d : BitVec 6) (a : BitVec 5)
  /-- R20 ADD_16: 16-bit two-address ADD, D := D + A on V registers. -/
  | add16 (d : BitVec 6) (a : BitVec 5)
  /-- R20 SUB_16: 16-bit two-address SUB, D := D - A. -/
  | sub16 (d : BitVec 6) (a : BitVec 5)
  /-- R20 MUL_LO_16: 16-bit two-address MUL.LO. -/
  | mulLo16 (d : BitVec 6) (a : BitVec 5)
  /-- R20 AND_16: 16-bit two-address AND. -/
  | and16 (d : BitVec 6) (a : BitVec 5)
  /-- R20 OR_16: 16-bit two-address OR. -/
  | or16 (d : BitVec 6) (a : BitVec 5)
  /-- R20 XOR_16: 16-bit two-address XOR. -/
  | xor16 (d : BitVec 6) (a : BitVec 5)
  /-- R20 SHL_16: 16-bit two-address SHL. -/
  | shl16 (d : BitVec 6) (a : BitVec 5)
  /-- R20 SHR_16: 16-bit two-address SHR. -/
  | shr16 (d : BitVec 6) (a : BitVec 5)
  /-- R20 SAR_16: 16-bit two-address SAR. -/
  | sar16 (d : BitVec 6) (a : BitVec 5)
  /-- R20 MIN_S_16: 16-bit two-address signed MIN. -/
  | minS16 (d : BitVec 6) (a : BitVec 5)
  /-- R20 MAX_S_16: 16-bit two-address signed MAX. -/
  | maxS16 (d : BitVec 6) (a : BitVec 5)
  /-- R20 FADD_16: 16-bit two-address FP32 add. -/
  | fadd16 (d : BitVec 6) (a : BitVec 5)
  /-- R20 FSUB_16: 16-bit two-address FP32 subtract. -/
  | fsub16 (d : BitVec 6) (a : BitVec 5)
  /-- R20 FMUL_16: 16-bit two-address FP32 multiply. -/
  | fmul16 (d : BitVec 6) (a : BitVec 5)
  /-- R20 FMAX_16: 16-bit two-address FP32 maximum. -/
  | fmax16 (d : BitVec 6) (a : BitVec 5)
  /-- R117 ADD: 32-bit integer add modulo 2^32. -/
  | add (d : BitVec 7) (a : BitVec 7) (b : BitVec 7)
  /-- R117 SUB: 32-bit integer subtract. -/
  | sub (d : BitVec 7) (a : BitVec 7) (b : BitVec 7)
  /-- R117 MUL_LO: Low 32 bits of the product. -/
  | mulLo (d : BitVec 7) (a : BitVec 7) (b : BitVec 7)
  /-- R117 MUL_HI_S: High 32 bits of the signed product. -/
  | mulHiS (d : BitVec 7) (a : BitVec 7) (b : BitVec 7)
  /-- R117 MUL_HI_U: High 32 bits of the unsigned product. -/
  | mulHiU (d : BitVec 7) (a : BitVec 7) (b : BitVec 7)
  /-- R117 MULW_S: Full 64-bit signed product into an even pair. -/
  | mulwS (d : BitVec 7) (a : BitVec 7) (b : BitVec 7)
  /-- R117 MULW_U: Full 64-bit unsigned product into an even pair. -/
  | mulwU (d : BitVec 7) (a : BitVec 7) (b : BitVec 7)
  /-- R117 MAD: Read-modify-write multiply-add d := a x b + d. -/
  | mad (d : BitVec 7) (a : BitVec 7) (b : BitVec 7)
  /-- R117 AND: Bitwise AND. -/
  | and (d : BitVec 7) (a : BitVec 7) (b : BitVec 7)
  /-- R117 OR: Bitwise OR. -/
  | or (d : BitVec 7) (a : BitVec 7) (b : BitVec 7)
  /-- R117 XOR: Bitwise XOR. -/
  | xor (d : BitVec 7) (a : BitVec 7) (b : BitVec 7)
  /-- R117 ANDN: Bitwise a AND NOT b. -/
  | andn (d : BitVec 7) (a : BitVec 7) (b : BitVec 7)
  /-- R118 SHL: Shift left by the whole of b; counts of 32 or more give 0. -/
  | shl (d : BitVec 7) (a : BitVec 7) (b : BitVec 7)
  /-- R118 SHR: Logical shift right by the whole of b. -/
  | shr (d : BitVec 7) (a : BitVec 7) (b : BitVec 7)
  /-- R118 SAR: Arithmetic shift right by the whole of b. -/
  | sar (d : BitVec 7) (a : BitVec 7) (b : BitVec 7)
  /-- R118 ROTL: Rotate left by b[4:0]. -/
  | rotl (d : BitVec 7) (a : BitVec 7) (b : BitVec 7)
  /-- R117 MIN_S: Signed minimum. -/
  | minS (d : BitVec 7) (a : BitVec 7) (b : BitVec 7)
  /-- R117 MIN_U: Unsigned minimum. -/
  | minU (d : BitVec 7) (a : BitVec 7) (b : BitVec 7)
  /-- R117 MAX_S: Signed maximum. -/
  | maxS (d : BitVec 7) (a : BitVec 7) (b : BitVec 7)
  /-- R117 MAX_U: Unsigned maximum. -/
  | maxU (d : BitVec 7) (a : BitVec 7) (b : BitVec 7)
  /-- R119 PERM: Byte permute from a and old d under the nibbles of b. -/
  | perm (d : BitVec 7) (a : BitVec 7) (b : BitVec 7)
  /-- R120 BFX: Bit-field extract under the descriptor in b. -/
  | bfx (d : BitVec 7) (a : BitVec 7) (b : BitVec 7)
  /-- R120 BFI: Bit-field insert into old d under the descriptor in b. -/
  | bfi (d : BitVec 7) (a : BitVec 7) (b : BitVec 7)
  /-- R121 ABS: Integer absolute value. -/
  | abs (d : BitVec 7) (a : BitVec 7)
  /-- R121 NEG: Integer negate. -/
  | neg (d : BitVec 7) (a : BitVec 7)
  /-- R121 CLZ: Count leading zeros. -/
  | clz (d : BitVec 7) (a : BitVec 7)
  /-- R121 POPC: Population count. -/
  | popc (d : BitVec 7) (a : BitVec 7)
  /-- R121 BREV: Bit reverse. -/
  | brev (d : BitVec 7) (a : BitVec 7)
  /-- R121 MOV: 32-bit register move. -/
  | mov (d : BitVec 7) (a : BitVec 7)
  /-- R122 ADDI: Add a sign-extended 7-bit immediate. -/
  | addi (d : BitVec 7) (a : BitVec 7) (i : BitVec 7)
  /-- R122 ANDI: AND with a sign-extended immediate. -/
  | andi (d : BitVec 7) (a : BitVec 7) (i : BitVec 7)
  /-- R122 ORI: OR with a sign-extended immediate. -/
  | ori (d : BitVec 7) (a : BitVec 7) (i : BitVec 7)
  /-- R122 XORI: XOR with a sign-extended immediate. -/
  | xori (d : BitVec 7) (a : BitVec 7) (i : BitVec 7)
  /-- R122 SHLI: Shift left by an immediate 0-31. -/
  | shli (d : BitVec 7) (a : BitVec 7) (i : BitVec 7)
  /-- R122 SHRI: Logical shift right by an immediate. -/
  | shri (d : BitVec 7) (a : BitVec 7) (i : BitVec 7)
  /-- R122 SARI: Arithmetic shift right by an immediate. -/
  | sari (d : BitVec 7) (a : BitVec 7) (i : BitVec 7)
  /-- R123 LI: Load a sign-extended 14-bit immediate. -/
  | li (d : BitVec 7) (i : BitVec 14)
  /-- R123 LUI: Shift d left 14 and OR in a 14-bit immediate. -/
  | lui (d : BitVec 7) (i : BitVec 14)
  /-- R124 CMP_EQ: Integer compare equal into a predicate. -/
  | cmpEq (p : BitVec 7) (a : BitVec 7) (b : BitVec 7)
  /-- R124 CMP_NE: Integer compare not equal. -/
  | cmpNe (p : BitVec 7) (a : BitVec 7) (b : BitVec 7)
  /-- R124 CMP_LT_S: Signed less than. -/
  | cmpLtS (p : BitVec 7) (a : BitVec 7) (b : BitVec 7)
  /-- R124 CMP_LE_S: Signed less or equal. -/
  | cmpLeS (p : BitVec 7) (a : BitVec 7) (b : BitVec 7)
  /-- R124 CMP_GT_S: Signed greater than. -/
  | cmpGtS (p : BitVec 7) (a : BitVec 7) (b : BitVec 7)
  /-- R124 CMP_GE_S: Signed greater or equal. -/
  | cmpGeS (p : BitVec 7) (a : BitVec 7) (b : BitVec 7)
  /-- R124 CMP_LT_U: Unsigned less than. -/
  | cmpLtU (p : BitVec 7) (a : BitVec 7) (b : BitVec 7)
  /-- R124 CMP_LE_U: Unsigned less or equal. -/
  | cmpLeU (p : BitVec 7) (a : BitVec 7) (b : BitVec 7)
  /-- R124 CMP_GT_U: Unsigned greater than. -/
  | cmpGtU (p : BitVec 7) (a : BitVec 7) (b : BitVec 7)
  /-- R124 CMP_GE_U: Unsigned greater or equal. -/
  | cmpGeU (p : BitVec 7) (a : BitVec 7) (b : BitVec 7)
  /-- R126 ADD64: 64-bit pair add. -/
  | add64 (d : BitVec 7) (a : BitVec 7) (b : BitVec 7)
  /-- R126 SUB64: 64-bit pair subtract. -/
  | sub64 (d : BitVec 7) (a : BitVec 7) (b : BitVec 7)
  /-- R126 SHL64: 64-bit pair shift left. -/
  | shl64 (d : BitVec 7) (a : BitVec 7) (b : BitVec 7)
  /-- R126 SHR64: 64-bit pair logical shift right. -/
  | shr64 (d : BitVec 7) (a : BitVec 7) (b : BitVec 7)
  /-- R124 CMP64_EQ: 64-bit compare equal. -/
  | cmp64Eq (p : BitVec 7) (a : BitVec 7) (b : BitVec 7)
  /-- R124 CMP64_NE: 64-bit compare not equal. -/
  | cmp64Ne (p : BitVec 7) (a : BitVec 7) (b : BitVec 7)
  /-- R124 CMP64_LT_S: 64-bit signed less than. -/
  | cmp64LtS (p : BitVec 7) (a : BitVec 7) (b : BitVec 7)
  /-- R124 CMP64_LE_S: 64-bit signed less or equal. -/
  | cmp64LeS (p : BitVec 7) (a : BitVec 7) (b : BitVec 7)
  /-- R124 CMP64_GT_S: 64-bit signed greater than. -/
  | cmp64GtS (p : BitVec 7) (a : BitVec 7) (b : BitVec 7)
  /-- R124 CMP64_GE_S: 64-bit signed greater or equal. -/
  | cmp64GeS (p : BitVec 7) (a : BitVec 7) (b : BitVec 7)
  /-- R124 CMP64_LT_U: 64-bit unsigned less than. -/
  | cmp64LtU (p : BitVec 7) (a : BitVec 7) (b : BitVec 7)
  /-- R124 CMP64_LE_U: 64-bit unsigned less or equal. -/
  | cmp64LeU (p : BitVec 7) (a : BitVec 7) (b : BitVec 7)
  /-- R124 CMP64_GT_U: 64-bit unsigned greater than. -/
  | cmp64GtU (p : BitVec 7) (a : BitVec 7) (b : BitVec 7)
  /-- R124 CMP64_GE_U: 64-bit unsigned greater or equal. -/
  | cmp64GeU (p : BitVec 7) (a : BitVec 7) (b : BitVec 7)
  /-- R125 SEL: Per-lane select of a or b by the predicate named in the low opcode bits. -/
  | sel (p : BitVec 3) (d : BitVec 7) (a : BitVec 7) (b : BitVec 7)
  /-- R127 FADD: FP32 add, rounded once under FCSR. -/
  | fadd (d : BitVec 7) (a : BitVec 7) (b : BitVec 7)
  /-- R127 FSUB: FP32 subtract. -/
  | fsub (d : BitVec 7) (a : BitVec 7) (b : BitVec 7)
  /-- R127 FMUL: FP32 multiply. -/
  | fmul (d : BitVec 7) (a : BitVec 7) (b : BitVec 7)
  /-- R127 FFMA: FP32 fused multiply-add a x b + d. -/
  | ffma (d : BitVec 7) (a : BitVec 7) (b : BitVec 7)
  /-- R127 FDIV: FP32 correctly rounded divide. -/
  | fdiv (d : BitVec 7) (a : BitVec 7) (b : BitVec 7)
  /-- R129 FMIN: FP32 minimum. -/
  | fmin (d : BitVec 7) (a : BitVec 7) (b : BitVec 7)
  /-- R129 FMAX: FP32 maximum. -/
  | fmax (d : BitVec 7) (a : BitVec 7) (b : BitVec 7)
  /-- R129 FCPYS: Copy sign of b onto a. -/
  | fcpys (d : BitVec 7) (a : BitVec 7) (b : BitVec 7)
  /-- R127 FSQRT: FP32 correctly rounded square root with optional static mode. -/
  | fsqrt (d : BitVec 7) (a : BitVec 7) (r : BitVec 3)
  /-- R129 FABS: Clear the sign bit. -/
  | fabs (d : BitVec 7) (a : BitVec 7)
  /-- R129 FNEG: Invert the sign bit. -/
  | fneg (d : BitVec 7) (a : BitVec 7)
  /-- R130 FCLASS: Classify a into a one-hot integer. -/
  | fclass (d : BitVec 7) (a : BitVec 7)
  /-- R132 FRINT: Round to an integral FP32 value. -/
  | frint (d : BitVec 7) (a : BitVec 7) (r : BitVec 3)
  /-- R134 FRCP: Approximate reciprocal. -/
  | frcp (d : BitVec 7) (a : BitVec 7)
  /-- R134 FRSQ: Approximate reciprocal square root. -/
  | frsq (d : BitVec 7) (a : BitVec 7)
  /-- R134 FEX2: Approximate 2^a. -/
  | fex2 (d : BitVec 7) (a : BitVec 7)
  /-- R134 FLG2: Approximate log2 a. -/
  | flg2 (d : BitVec 7) (a : BitVec 7)
  /-- R134 FSIN: Approximate sine. -/
  | fsin (d : BitVec 7) (a : BitVec 7)
  /-- R134 FCOS: Approximate cosine. -/
  | fcos (d : BitVec 7) (a : BitVec 7)
  /-- R133 FCMP_EQ: FP32 compare equal into a predicate. -/
  | fcmpEq (p : BitVec 7) (a : BitVec 7) (b : BitVec 7)
  /-- R133 FCMP_NE: FP32 compare not equal. -/
  | fcmpNe (p : BitVec 7) (a : BitVec 7) (b : BitVec 7)
  /-- R133 FCMP_LT: FP32 compare less than. -/
  | fcmpLt (p : BitVec 7) (a : BitVec 7) (b : BitVec 7)
  /-- R133 FCMP_LE: FP32 compare less or equal. -/
  | fcmpLe (p : BitVec 7) (a : BitVec 7) (b : BitVec 7)
  /-- R133 FCMP_GT: FP32 compare greater than. -/
  | fcmpGt (p : BitVec 7) (a : BitVec 7) (b : BitVec 7)
  /-- R133 FCMP_GE: FP32 compare greater or equal. -/
  | fcmpGe (p : BitVec 7) (a : BitVec 7) (b : BitVec 7)
  /-- R133 FCMP_UN: FP32 compare unordered. -/
  | fcmpUn (p : BitVec 7) (a : BitVec 7) (b : BitVec 7)
  /-- R136 DADD: FP64 add on pairs. -/
  | dadd (d : BitVec 7) (a : BitVec 7) (b : BitVec 7)
  /-- R136 DSUB: FP64 subtract. -/
  | dsub (d : BitVec 7) (a : BitVec 7) (b : BitVec 7)
  /-- R136 DMUL: FP64 multiply. -/
  | dmul (d : BitVec 7) (a : BitVec 7) (b : BitVec 7)
  /-- R136 DFMA: FP64 fused multiply-add. -/
  | dfma (d : BitVec 7) (a : BitVec 7) (b : BitVec 7)
  /-- R136 DDIV: FP64 divide. -/
  | ddiv (d : BitVec 7) (a : BitVec 7) (b : BitVec 7)
  /-- R136 DSQRT: FP64 square root. -/
  | dsqrt (d : BitVec 7) (a : BitVec 7) (r : BitVec 3)
  /-- R133 DCMP_EQ: FP64 compare equal. -/
  | dcmpEq (p : BitVec 7) (a : BitVec 7) (b : BitVec 7)
  /-- R133 DCMP_NE: FP64 compare not equal. -/
  | dcmpNe (p : BitVec 7) (a : BitVec 7) (b : BitVec 7)
  /-- R133 DCMP_LT: FP64 compare less than. -/
  | dcmpLt (p : BitVec 7) (a : BitVec 7) (b : BitVec 7)
  /-- R133 DCMP_LE: FP64 compare less or equal. -/
  | dcmpLe (p : BitVec 7) (a : BitVec 7) (b : BitVec 7)
  /-- R133 DCMP_GT: FP64 compare greater than. -/
  | dcmpGt (p : BitVec 7) (a : BitVec 7) (b : BitVec 7)
  /-- R133 DCMP_GE: FP64 compare greater or equal. -/
  | dcmpGe (p : BitVec 7) (a : BitVec 7) (b : BitVec 7)
  /-- R133 DCMP_UN: FP64 compare unordered. -/
  | dcmpUn (p : BitVec 7) (a : BitVec 7) (b : BitVec 7)
  /-- R137 HADD2_BF16: Packed BF16 pair add. -/
  | hadd2Bf16 (d : BitVec 7) (a : BitVec 7) (b : BitVec 7)
  /-- R137 HADD2_FP16: Packed FP16 pair add. -/
  | hadd2Fp16 (d : BitVec 7) (a : BitVec 7) (b : BitVec 7)
  /-- R137 HMUL2_BF16: Packed BF16 pair multiply. -/
  | hmul2Bf16 (d : BitVec 7) (a : BitVec 7) (b : BitVec 7)
  /-- R137 HMUL2_FP16: Packed FP16 pair multiply. -/
  | hmul2Fp16 (d : BitVec 7) (a : BitVec 7) (b : BitVec 7)
  /-- R137 HFMA2_BF16: Packed BF16 pair fused multiply-add. -/
  | hfma2Bf16 (d : BitVec 7) (a : BitVec 7) (b : BitVec 7)
  /-- R137 HFMA2_FP16: Packed FP16 pair fused multiply-add. -/
  | hfma2Fp16 (d : BitVec 7) (a : BitVec 7) (b : BitVec 7)
  /-- R138 CVT: Scalar format conversion selected by the conversion number. -/
  | cvt (d : BitVec 7) (a : BitVec 7) (c : BitVec 6) (o : BitVec 1)
  /-- R144 CVTB_PACK: Group-collective pack of FP32 lanes into two block-record byte images. -/
  | cvtbPack (d : BitVec 7) (a : BitVec 7) (f : BitVec 3)
  /-- R145 CVTB_UNPACK: Group-collective unpack of block-record byte images to FP32. -/
  | cvtbUnpack (d : BitVec 7) (a : BitVec 7) (f : BitVec 3)
  /-- R141 CBLOOK: Look up a CB4 code in an eight-register BF16 table. -/
  | cblook (d : BitVec 7) (a : BitVec 7) (b : BitVec 7)
  /-- R146 SHFL_IDX: Shuffle from an indexed lane. -/
  | shflIdx (d : BitVec 7) (a : BitVec 7) (b : BitVec 7)
  /-- R146 SHFL_UP: Shuffle from a lower lane. -/
  | shflUp (d : BitVec 7) (a : BitVec 7) (b : BitVec 7)
  /-- R146 SHFL_DN: Shuffle from a higher lane. -/
  | shflDn (d : BitVec 7) (a : BitVec 7) (b : BitVec 7)
  /-- R146 SHFL_XOR: Shuffle from lane i XOR b. -/
  | shflXor (d : BitVec 7) (a : BitVec 7) (b : BitVec 7)
  /-- R147 VOTE_ANY: Predicate true in active lanes if any active lane has q. -/
  | voteAny (p : BitVec 7) (q : BitVec 3) (n : BitVec 1)
  /-- R147 VOTE_ALL: Predicate true if every active lane has q. -/
  | voteAll (p : BitVec 7) (q : BitVec 3) (n : BitVec 1)
  /-- R147 VOTE_BAL: 64-bit ballot mask of q into an S pair. -/
  | voteBal (d : BitVec 7) (q : BitVec 3) (n : BitVec 1)
  /-- R149 REDX: Fixed pairwise tree reduction over active lanes into an S register. -/
  | redx (d : BitVec 7) (a : BitVec 7) (o : BitVec 4)
  /-- R150 SCAN: Inclusive or exclusive prefix combine over lanes. -/
  | scan (d : BitVec 7) (a : BitVec 7) (o : BitVec 4) (e : BitVec 1)
  /-- R151 MATCH: Lane match masks, or an all-equal test with .all. -/
  | matchOp (d : BitVec 7) (a : BitVec 7) (l : BitVec 1) (w : BitVec 1)
  /-- R102 JMP: Whole-group PC-relative jump. -/
  | jmp (o : BitVec 20)
  /-- R102 CALL: Jump and write the return address to S28:S29. -/
  | call (o : BitVec 20)
  /-- R102 JMPU_Z: Uniform branch if an S register is zero. -/
  | jmpuZ (d : BitVec 7) (i : BitVec 14)
  /-- R102 JMPU_NZ: Uniform branch if an S register is non-zero. -/
  | jmpuNz (d : BitVec 7) (i : BitVec 14)
  /-- R102 RET: Return to the address in an S pair. -/
  | ret (a : BitVec 7)
  /-- R95 IFP: Open a structured if on a predicate, adjusting ICNT and skipping if no lane active. -/
  | ifp (p : BitVec 7) (i : BitVec 14)
  /-- R95 ELSE: Switch lanes to the false path. -/
  | elseOp (i : BitVec 14)
  /-- R95 FI: Close a structured if, decrementing ICNT. -/
  | fi
  /-- R95 LOOP: Open a structured loop. -/
  | loop (i : BitVec 14)
  /-- R95 ENDL: Close a loop, branching back while any lane is active. -/
  | endl (i : BitVec 14)
  /-- R95 BRKP: Break lanes with the predicate out of the loop. -/
  | brkp (p : BitVec 7) (n : BitVec 6)
  /-- R95 CONTP: Continue lanes with the predicate to the next iteration. -/
  | contp (p : BitVec 7) (n : BitVec 6)
  /-- R104 EXIT: Set DONE in active lanes; group stops when all done. -/
  | exit
  /-- R105 YIELD: Advance and give up issue for a cycle; a switch point in .det grids. -/
  | yield
  /-- R105 NOP: 32-bit no operation. -/
  | nop
  /-- R98 REGION: Open an idempotent region: set REGPC, increment REGCNT, set REGV. -/
  | region
  /-- R107 STEP: Wait for tokens then arrive at the grid step barrier and block. -/
  | step
  /-- R109 SRD: Read a special register into D. -/
  | srd (d : BitVec 7) (i : BitVec 14)
  /-- R109 SWR: Write a special register from D; covers registers without behaviour of their own. -/
  | swr (d : BitVec 7) (i : BitVec 14)
  /-- R110 TRAP: Raise USER_TRAP with the immediate as auxiliary word. -/
  | trap (i : BitVec 14)
  /-- R168 LD_B8: Weak zero-extended byte load. -/
  | ldB8 (d : BitVec 7) (b : BitVec 7) (o : BitVec 7)
  /-- R168 LD_B8_S: Weak sign-extended byte load. -/
  | ldB8S (d : BitVec 7) (b : BitVec 7) (o : BitVec 7)
  /-- R168 LD_B16: Weak zero-extended halfword load. -/
  | ldB16 (d : BitVec 7) (b : BitVec 7) (o : BitVec 7)
  /-- R168 LD_B16_S: Weak sign-extended halfword load. -/
  | ldB16S (d : BitVec 7) (b : BitVec 7) (o : BitVec 7)
  /-- R168 LD_B32: Weak word load. -/
  | ldB32 (d : BitVec 7) (b : BitVec 7) (o : BitVec 7)
  /-- R168 LD_B64: Weak doubleword load into a pair. -/
  | ldB64 (d : BitVec 7) (b : BitVec 7) (o : BitVec 7)
  /-- R168 LD_B128: Weak 128-bit load into a quad. -/
  | ldB128 (d : BitVec 7) (b : BitVec 7) (o : BitVec 7)
  /-- R168 ST_B8: Weak byte store into the store queue. -/
  | stB8 (d : BitVec 7) (b : BitVec 7) (o : BitVec 7)
  /-- R168 ST_B16: Weak halfword store. -/
  | stB16 (d : BitVec 7) (b : BitVec 7) (o : BitVec 7)
  /-- R168 ST_B32: Weak word store. -/
  | stB32 (d : BitVec 7) (b : BitVec 7) (o : BitVec 7)
  /-- R168 ST_B64: Weak doubleword store. -/
  | stB64 (d : BitVec 7) (b : BitVec 7) (o : BitVec 7)
  /-- R168 ST_B128: Weak 128-bit store. -/
  | stB128 (d : BitVec 7) (b : BitVec 7) (o : BitVec 7)
  /-- R170 LD_STRONG: Strong load with ordering and scope. -/
  | ldStrong (d : BitVec 7) (a : BitVec 7) (z : BitVec 3) (s : BitVec 2) (o : BitVec 2)
  /-- R170 ST_STRONG: Strong store with ordering and scope. -/
  | stStrong (d : BitVec 7) (a : BitVec 7) (z : BitVec 3) (s : BitVec 2) (o : BitVec 2)
  /-- R173 LDFE: Wait for a full scratchpad word, read it and mark it empty. -/
  | ldfe (d : BitVec 7) (b : BitVec 7) (o : BitVec 7)
  /-- R173 STFE: Wait for an empty scratchpad word, write it and mark it full. -/
  | stfe (d : BitVec 7) (b : BitVec 7) (o : BitVec 7)
  /-- R175 FESET: Set a scratchpad word's tag full or empty. -/
  | feset (a : BitVec 7) (f : BitVec 1)
  /-- R175 FETEST: Test a scratchpad tag into a predicate. -/
  | fetest (p : BitVec 7) (a : BitVec 7)
  /-- R176 SPTEST: Write the window code of a generic address. -/
  | sptest (d : BitVec 7) (a : BitVec 7)
  /-- R177 SPCAST: Convert between generic address and space-relative offset. -/
  | spcast (d : BitVec 7) (a : BitVec 7) (s : BitVec 2) (g : BitVec 1)
  /-- R178 PREF: Prefetch a line into L1 or its home L2. -/
  | pref (a : BitVec 7) (l : BitVec 2)
  /-- R178 CCTL_INV1: Drop a line from this core's L1, sending U partials home. -/
  | cctlInv1 (a : BitVec 7)
  /-- R178 CCTL_WB2: Write a dirty L2 line back to LPDDR-6. -/
  | cctlWb2 (a : BitVec 7)
  /-- R178 CCTL_EVF: Mark a line evict-first in L2. -/
  | cctlEvf (a : BitVec 7)
  /-- R178 CCTL_INV1ALL: Drop every line of this core's L1. -/
  | cctlInv1all
  /-- R179 FENCE: Order the group's accesses as acquire, release or sc at a scope. -/
  | fence (s : BitVec 2) (k : BitVec 2)
  /-- R331 ATOM: Indivisible read-modify-write at the point of coherence returning the old value. -/
  | atom (d : BitVec 7) (a : BitVec 7) (o : BitVec 2) (w : BitVec 1) (c : BitVec 4)
  /-- R332 CAS: 64-bit compare-and-swap with .ar ordering. -/
  | cas (d : BitVec 7) (a : BitVec 7) (b : BitVec 7)
  /-- R333 RED: Reduction combine without returning a value. -/
  | red (d : BitVec 7) (a : BitVec 7) (o : BitVec 2) (w : BitVec 1) (c : BitVec 4)
  /-- R335 IFENCE_LOCAL: Discard this core's instruction cache and fetch buffers. -/
  | ifenceLocal
  /-- R335 IFENCE_DIE: Invalidate a code range in every instruction cache of the module. -/
  | ifenceDie (d : BitVec 7) (a : BitVec 7)
  /-- R182 CPY: Start a copy-engine byte copy with a token. -/
  | cpy (d : BitVec 7) (a : BitVec 7)
  /-- R182 GATHER: Start a per-lane gather into a packed destination. -/
  | gather (d : BitVec 7) (a : BitVec 7) (r : BitVec 7)
  /-- R182 SCATTER: Start a per-lane scatter from a packed source. -/
  | scatter (d : BitVec 7) (a : BitVec 7) (r : BitVec 7)
  /-- R185 TOKTEST: Test whether a token register is full, without waiting. -/
  | toktest (p : BitVec 7) (a : BitVec 7)
  /-- R188 AXBIND: Start the group's access-processor context at the .access entry. -/
  | axbind (a : BitVec 7)
  /-- R189 ASTRM: Start an affine stream of vector entries into a Q register. -/
  | astrm (a : BitVec 7) (q : BitVec 3)
  /-- R190 QPUSH_S: Push a broadcast scalar entry into a queue. -/
  | qpushS (a : BitVec 7) (q : BitVec 3)
  /-- R190 QPUSH_M: Load 256 bytes and push them as a vector entry. -/
  | qpushM (a : BitVec 7) (q : BitVec 3)
  /-- R238 BARINIT: Initialise a barrier object. -/
  | barinit (d : BitVec 7) (a : BitVec 7)
  /-- R239 BARARR: Arrive at a barrier and return the phase token. -/
  | bararr (d : BitVec 7) (a : BitVec 7)
  /-- R240 BARTX: Add announced bytes to a barrier's pending bytes. -/
  | bartx (d : BitVec 7) (a : BitVec 7)
  /-- R241 BARWAIT: Wait on a barrier phase token and write a status. -/
  | barwait (d : BitVec 7) (a : BitVec 7) (t : BitVec 7)
  /-- R242 TBAR: Team barrier: drain tokens and stores, arrive and block. -/
  | tbar
  /-- R243 GBAR: Grid barrier of a gang grid. -/
  | gbar
  /-- R211 SHAPE: Set the number of accumulator tiles the team holds. -/
  | shape (d : BitVec 7) (c : BitVec 3)
  /-- R212 SLCLAIM: Claim logical operand slots all or nothing. -/
  | slclaim (d : BitVec 7) (a : BitVec 7)
  /-- R212 SLREL: Release logical operand slots. -/
  | slrel (a : BitVec 7)
  /-- R215 LDSLOT: Load and latch an operand slot on the copy engine. -/
  | ldslot (d : BitVec 7) (a : BitVec 7)
  /-- R216 CBLOAD: Load a slot's CB4 codebook. -/
  | cbload (d : BitVec 7) (a : BitVec 7)
  /-- R218 MMA: Queue a matrix multiply-accumulate into a tile. -/
  | mma (s : BitVec 4) (a : BitVec 7) (b : BitVec 4) (t : BitVec 2)
  /-- R209 MMAS: Queue a structured-sparse matrix multiply-accumulate. -/
  | mmas (s : BitVec 4) (a : BitVec 7) (b : BitVec 4) (t : BitVec 2)
  /-- R219 ACCZ: Zero a tile and set its mode. -/
  | accz (t : BitVec 2) (m : BitVec 1)
  /-- R221 ACCRD: Read one half-row of a tile into V registers. -/
  | accrd (d : BitVec 7) (a : BitVec 7) (t : BitVec 2) (f : BitVec 1)
  /-- R221 ACCWR: Write one half-row of a tile from V registers. -/
  | accwr (d : BitVec 7) (a : BitVec 7) (t : BitVec 2) (f : BitVec 1)
  /-- R223 ACCST: Store a tile region with tensor scales to memory. -/
  | accst (d : BitVec 7) (a : BitVec 7) (t : BitVec 2) (z : BitVec 1) (o : BitVec 4)
  /-- R348 LAYERF: Forward analogue layer product with digital corrections. -/
  | layerf (d : BitVec 7) (a : BitVec 7) (f : BitVec 1) (l : BitVec 1) (s : BitVec 1)
  /-- R350 LAYERT: Transposed analogue layer product. -/
  | layert (d : BitVec 7) (a : BitVec 7) (f : BitVec 1) (l : BitVec 1) (s : BitVec 1)
  /-- R351 LAYERD: Exact digital layer product from the golden copy. -/
  | layerd (d : BitVec 7) (a : BitVec 7) (s : BitVec 1)
  /-- R367 ARXQ: Report a handle's standing into a 64-byte record. -/
  | arxq (d : BitVec 7) (a : BitVec 7)
  /-- R359 ADPSET: Write an adapter descriptor into the grid's adapter table. -/
  | adpset (d : BitVec 7) (a : BitVec 7)
  /-- R362 CALSET: Pin or release the grid's correction generation. -/
  | calset (d : BitVec 7) (a : BitVec 7)
  /-- R363 CALRD: Write one tile's calibration set to memory. -/
  | calrd (d : BitVec 7) (a : BitVec 7)
  /-- R364 ALMRUN: Run probe vectors through raw analogue and reference paths. -/
  | almrun (d : BitVec 7) (a : BitVec 7) (f : BitVec 1)
  /-- R366 ALMFIT: Fit a calibration set to ALMRUN results. -/
  | almfit (d : BitVec 7) (a : BitVec 7)
  /-- R291 CONFW: Write confidences and candidates of masked positions. -/
  | confw (d : BitVec 7) (a : BitVec 7) (v : BitVec 7)
  /-- R283 SCACC: Add lane values into SAT entries or the mass-on-masked buffer. -/
  | scacc (d : BitVec 7) (a : BitVec 7) (v : BitVec 7)
  /-- R283 SCRD: Copy SAT entries to memory. -/
  | scrd (d : BitVec 7) (a : BitVec 7)
  /-- R283 SCCLR: Clear SAT entries to +0. -/
  | scclr (d : BitVec 7) (a : BitVec 7)
  /-- R281 TOPK: Rank SAT entries and write the top k indices. -/
  | topk (d : BitVec 7) (a : BitVec 7)
  /-- R274 POSXL: Translate logical positions through a block table per lane. -/
  | posxl (d : BitVec 7) (a : BitVec 7) (p : BitVec 3) (m : BitVec 3)
  /-- R277 SURV: Compute pending survivor sets from a keep list. -/
  | surv (d : BitVec 7) (a : BitVec 7)
  /-- R278 COMPACT: Forward a survivor compaction task to a channel engine. -/
  | compact (d : BitVec 7) (a : BitVec 7)
  /-- R286 PXFIND: Look up a prefix key in a bucket. -/
  | pxfind (d : BitVec 7) (a : BitVec 7)
  /-- R286 PXINS: Insert or reference a prefix key. -/
  | pxins (d : BitVec 7) (a : BitVec 7)
  /-- R286 PXREL: Release a prefix key reference. -/
  | pxrel (d : BitVec 7) (a : BitVec 7)
  /-- R292 UNMASK: Commit the top-ranked masked positions of a sequence record. -/
  | unmask (d : BitVec 7) (a : BitVec 7)
  /-- R294 DIRTY: Build the dirty map and update ages after UNMASK. -/
  | dirty (d : BitVec 7) (a : BitVec 7)
  /-- R295 DMAPRD: Per-lane load of a dirty-map word and bit. -/
  | dmaprd (d : BitVec 7) (a : BitVec 7) (p : BitVec 3) (m : BitVec 3)
  /-- R373 CHLAUNCH: Place a task in the VF's ring of a channel engine. -/
  | chlaunch (d : BitVec 7) (a : BitVec 7)
  /-- R381 ASTM: Strided address stream on the fetch or store port. -/
  | astm (b : BitVec 7) (a : BitVec 7) (c : BitVec 4) (k : BitVec 1) (t : BitVec 1)
  /-- R381 AGAT: Address-list stream on the fetch or store port. -/
  | agat (l : BitVec 7) (a : BitVec 7) (k : BitVec 1) (t : BitVec 1)
  /-- R381 AQP: Push one fetch address. -/
  | aqp (a : BitVec 7) (t : BitVec 1)
  /-- R381 ASTQ: Pop and store one result beat. -/
  | astq (a : BitVec 7) (t : BitVec 1)
  /-- R383 XPOP: Pop the oldest fetch beat into an X register. -/
  | xpop (d : BitVec 7)
  /-- R384 XOP: Lane-wise arithmetic on X registers. -/
  | xop (d : BitVec 7) (a : BitVec 7) (o : BitVec 3) (y : BitVec 2)
  /-- R383 XPUSH: Push an X register to the result queue. -/
  | xpush (a : BitVec 7)
  /-- R385 CHEND: End a program pass or end the address thread. -/
  | chend
  /-- R408 TFENCE_PT: Make earlier page-table stores visible to walkers. -/
  | tfencePt (s : BitVec 2)
  /-- R408 TFENCE_WALK: Discard in-flight walks of this core. -/
  | tfenceWalk
  /-- R409 TFENCE_INV: Remove cached translations of a range and wait for their users. -/
  | tfenceInv (a : BitVec 7) (e : BitVec 1) (s : BitVec 2) (g : BitVec 1)
  /-- R415 MIGRATE: Move a page under a migrating leaf with copy and invalidation. -/
  | migrate (d : BitVec 7) (a : BitVec 7) (f : BitVec 1) (h : BitVec 1)
  /-- R423 PTQ: Translate without access and report PA and attributes. -/
  | ptq (d : BitVec 7) (a : BitVec 7) (k : BitVec 2) (h : BitVec 1)
  /-- R424 RNGINV: Remove cached range descriptors. -/
  | rnginv (a : BitVec 7) (s : BitVec 2) (h : BitVec 1)
  /-- R422 LEASEQ: Report the lease covering a VA. -/
  | leaseq (d : BitVec 7) (a : BitVec 7)
  /-- R446 LAUNCH: Check and hand a grid to the dispatcher. -/
  | launch (d : BitVec 7) (a : BitVec 7)
  /-- R447 QWAIT: Wait on a semaphore condition, optionally decrementing. -/
  | qwait (d : BitVec 7) (a : BitVec 7) (c : BitVec 2) (e : BitVec 1)
  /-- R447 QSIG: Add to or set a semaphore word. -/
  | qsig (d : BitVec 7) (a : BitVec 7) (s : BitVec 1)
  /-- R448 QJMP: Jump within the ring by moving HEAD. -/
  | qjmp (o : BitVec 20)
  /-- R449 QSTOP_STOP: Make a queue STOPPED at its next boundary. -/
  | qstopStop (a : BitVec 7)
  /-- R449 QSTOP_START: Return a STOPPED queue to running. -/
  | qstopStart (a : BitVec 7)
  /-- R451 CTXSW: Indivisibly switch a process slot to a new image. -/
  | ctxsw (d : BitVec 7) (a : BitVec 7)
  /-- R451 CTXSV: Save a process slot's image, optionally freeing it. -/
  | ctxsv (d : BitVec 7) (a : BitVec 7) (f : BitVec 1)
  /-- R451 CTXLD: Load a process image into an empty slot. -/
  | ctxld (d : BitVec 7) (a : BitVec 7)
  /-- R457 ARPROG: Stage and program one tile through the journal. -/
  | arprog (d : BitVec 7) (a : BitVec 7)
  /-- R458 ARCOMMIT_TILE: Seal a reprogrammed tile and make it UNCAL. -/
  | arcommitTile (d : BitVec 7) (a : BitVec 7)
  /-- R458 ARCOMMIT_GRANT: Write a valid AGT entry for a VF. -/
  | arcommitGrant (d : BitVec 7) (a : BitVec 7)
  /-- R458 ARCOMMIT_REVOKE: Revoke an AGT entry, waiting for in-flight users. -/
  | arcommitRevoke (d : BitVec 7) (a : BitVec 7)
  /-- R459 ARSTAT: Write a tile status report. -/
  | arstat (d : BitVec 7) (a : BitVec 7)
  /-- R42 DECTAB_LOAD: Load a decode-table image into a slot. -/
  | dectabLoad (d : BitVec 7) (a : BitVec 7)
  /-- R454 DECTAB_CLR: Empty a decode-table slot. -/
  | dectabClr (d : BitVec 7) (a : BitVec 7)
  /-- R453 HVCALL: Enter the PL2 hypervisor handler with a call number. -/
  | hvcall (i : BitVec 14)
  /-- R455 QOSSET: Write a VF's QoS minima if within capacity. -/
  | qosset (d : BitVec 7) (a : BitVec 7)
  /-- R253 ERET_RESUME: Resume a trapped group at or after the trapping instruction. -/
  | eretResume (d : BitVec 7) (a : BitVec 7)
  /-- R253 ERET_SKIP: Resume a trapped group past the trapped instruction. -/
  | eretSkip (d : BitVec 7) (a : BitVec 7)
  /-- R253 ERET_REGION: Replay a trapped group's region from after REGION. -/
  | eretRegion (d : BitVec 7) (a : BitVec 7)
  /-- R253 ERET_ABORT: End a trapped group, which retires. -/
  | eretAbort (d : BitVec 7) (a : BitVec 7)
  /-- R253 ERET_SELF: Return a queue context from its own trap handler. -/
  | eretSelf
  /-- R473 STARFIX: Trigger a Starfix snapshot and return its sequence number. -/
  | starfix (d : BitVec 7)
  /-- R474 HALT: Stop all contexts, flush L2 and enter T3. -/
  | halt
  /-- R496 COLL: Join a collective instance across grid members. -/
  | coll (d : BitVec 7) (a : BitVec 7) (o : BitVec 2) (y : BitVec 2) (x : BitVec 1)
  /-- R93 GTCMP_WRITE: Writing GTCMP re-arms the resident-time compare. -/
  | gtcmpWrite (gid : Nat) (v : BitVec 64)
  /-- R94 WDL_WRITE: Writing WDL re-arms the wall-deadline compare. -/
  | wdlWrite (gid : Nat) (v : BitVec 64)
  /-- R78 MFR_ACCESS: SRD or SWR of MFR waits for earlier matrix operations before acting. -/
  | mfrAccess (gid : Nat) (v : Option (BitVec 32))
  /-- R435 CHRCTL_RESTART: Writing CHRCTL with RESTART clears a ring's halt. -/
  | chrctlRestart (vf pkg : Nat)
  /-- R434 PASSGH: Writing a group handle passes that group's trap to PL1. -/
  | passgh (vf : Nat) (gh : BitVec 32)
  /-- R434 HVCTX_WRITE: Writing HVCTX names the PL2 notice context and delivers held notices. -/
  | hvctxWrite (vf : Nat) (v : BitVec 32)
  /-- R433 QUEUE_DOORBELL: A write to a queue descriptor's TAIL wakes its context. -/
  | queueDoorbell (qid : Nat) (tail : BitVec 32)
  /-- R461 POWER_GOOD: Power-good starts Camp 0 with tiles SAFE. -/
  | powerGood
  /-- R461 CAMP_1: Camp 1 completes training, module numbering and journal replay. -/
  | camp1 (modn : BitVec 9) (mem : BitVec 4) (routes : List Nat)
  /-- R460 JOURNAL_BACKGROUND_ROW: Background programming of a row with no INTENT after Camp 1. -/
  | journalBackgroundRow (die tile : Nat)
  /-- R461 SUMMIT: Almanac warm-up completes and all work is accepted. -/
  | summit
  /-- R474 MANAGEMENT_RESET: A management reset leaves T3 and restarts at Camp 0. -/
  | managementReset
  /-- R472 STARFIX_TRIGGER_PIN: An external trigger pin latches a snapshot. -/
  | starfixTriggerPin
  /-- R472 MANAGEMENT_STARFIX: A management-endpoint request triggers a snapshot. -/
  | managementStarfix
  /-- R472 SNAPSHOT_READ: The management endpoint reads and frees a snapshot. -/
  | snapshotRead (seq : Nat)
  /-- R464 ATTESTATION_REQUEST: A nonce request yields a signed attestation report. -/
  | attestationRequest (vf : Option Nat) (nonce : List (BitVec 8))
  /-- R461 HEALTH_REQUEST: The management endpoint answers a health request. -/
  | healthRequest
  /-- R501 UET_WRITE_RECEIVED: A UET remote write arriving at a VF endpoint performs as weak line writes. -/
  | uetWriteReceived (hdr : UetHeader) (va : BitVec 64) (bytes : List (BitVec 8))
  /-- R475 UET_READ_RECEIVED: A UET remote read arriving at an endpoint is served. -/
  | uetReadReceived (mac : BitVec 48) (va : BitVec 64) (len : Nat)
  /-- R482 REMOTE_REQUEST_RECEIVED: A load-store request arriving on a Ropeline port is served at its home. -/
  | remoteRequestReceived (r : PortReq)
  /-- R477 VL_HOLD: A hop hold signal on a virtual lane stops or resumes sending. -/
  | vlHold (port vl : Nat) (hold : Bool)
  /-- R93 GTCMP_FIRE: GTIME reaches GTCMP and the group takes TIMER. -/
  | gtcmpFire (gid : Nat)
  /-- R94 WDL_FIRE: CYCLE reaches WDL and the group takes TIMER. -/
  | wdlFire (gid : Nat)
  /-- R442 HANG_WATCHDOG: The watchdog count reaches its limit: WATCHDOG or FAULTED. -/
  | hangWatchdog (who : Watched)
  /-- R231 DET_TEAM_TIME_CAP: A .det team's count reaches its cap and every group takes WATCHDOG. -/
  | detTeamTimeCap (tag : Nat)
  /-- R385 CHE_TASK_WATCHDOG: A stalled channel-engine task ends with WATCHDOG after 1 ms. -/
  | cheTaskWatchdog (pkg vf : Nat)
  /-- R420 LEASE_TIMEOUT: The lease timeout expires and the lease is revoked. -/
  | leaseTimeout (grid n : Nat)
  /-- R416 MIGRATION_LIMIT: M stays set 10 ms and the waiting access takes TRANSLATION code 6. -/
  | migrationLimit (who : Watched)
  /-- R490 PLACEMENT_LIMIT: After 1 s a launch short of modules or lease entries fails. -/
  | placementLimit (grid : Nat)
  /-- R499 COLL_GATHER_TIMEOUT: A COLL instance missing members after 1 s closes with 0x14. -/
  | collGatherTimeout (inst : Nat)
  /-- R452 CTXSW_ROLLBACK: A CTXSW not flipped 20 us after issue under pre-emption is rolled back. -/
  | ctxswRollback (qid : Nat)
  /-- R255 PREEMPTION_REQUEST: A team is chosen for pre-emption and drained, flushed or saved. -/
  | preemptionRequest (tag : Nat)
  /-- R257 SAVE_AT_TBAR: The team stops at TBAR completion and its live state is saved. -/
  | saveAtTbar (tag : Nat)
  /-- R257 FORCED_SAVE: After 40,000 cycles without TBAR every group stops and full state is saved. -/
  | forcedSave (tag : Nat)
  /-- R155 TEAM_PLACEMENT: The dispatcher places a team when resources are free. -/
  | teamPlacement (grid core p0 tag : Nat)
  /-- R258 TEAM_RESTORE: A saved team is switched back or restored from spill. -/
  | teamRestore (tag core p0 : Nat)
  /-- R259 VICTIM_EVICTION: A team blocked at STEP or a cluster barrier is evicted for another. -/
  | victimEviction (tag : Nat)
  /-- R104 GROUP_RETIREMENT: A done group with all tokens full retires. -/
  | groupRetirement (gid : Nat)
  /-- R446 GRID_RETIREMENT: All teams retired: leases, SAT and map count released; LAUNCH token fills. -/
  | gridRetirement (grid : Nat)
  /-- R108 STEP_BARRIER_COMPLETE: The step barrier completes; modules may be added or withdrawn before release. -/
  | stepBarrierComplete (grid : Nat) (change : StepChange)
  /-- R242 TEAM_BARRIER_COMPLETE: Last arrival completes TBAR or GBAR and releases the groups. -/
  | teamBarrierComplete (b : BarrierOf)
  /-- R436 QP_QUANTUM_EXPIRY: A VF's queue-processor quantum ends and the next VF is served. -/
  | qpQuantumExpiry (qp : Nat)
  /-- R376 CHE_QUANTUM_EXPIRY: A channel-engine quantum ends and the task is parked. -/
  | cheQuantumExpiry (pkg : Nat)
  /-- R376 CHE_TASK_START: A ring starts its next task after the previous one ended. -/
  | cheTaskStart (pkg vf : Nat)
  /-- R385 CHE_TASK_END: Both threads end; the task's token fills. -/
  | cheTaskEnd (pkg vf : Nat)
  /-- R361 ALMANAC_PUBLICATION: Almanac publishes calibration sets, advances CGEN and flags or clears DRIFT. -/
  | almanacPublication (sets : List Publication)
  /-- R468 PATROL_SCRUB: The patrol scrubber reads and corrects LPDDR-6 and L2 lines. -/
  | patrolScrub (line : Nat) (err : ScrubError)
  /-- R470 THROTTLE_DEEPER: A power cap is reached and throttling moves one step deeper. -/
  | throttleDeeper (vf : Option Nat) (draw : BitVec 16)
  /-- R470 THROTTLE_BACK: Draw below 90 % for 10 ms moves throttling one step back. -/
  | throttleBack (vf : Option Nat) (draw : BitVec 16)
  /-- R441 RESOURCE_RETIREMENT: A cluster or channel is retired and minima are rescaled with OVERCOMMIT. -/
  | resourceRetirement (channel : Bool) (n : Nat)
  /-- R480 PORT_RETIREMENT: A Ropeline port that fails retraining is retired. -/
  | portRetirement (port : Nat)
  /-- R368 UCIE_LINK_RETRAIN: A second flit failure ends its work with INTEGRITY and retrains the link. -/
  | ucieLinkRetrain (die : Nat) (work : Option Nat)
  /-- R88 LOAD_DATA_RETURN: A long-latency producer writes its result and marks the register full. -/
  | loadDataReturn (gid id : Nat) (part : Option Nat)
  /-- R163 STORE_PERFORM: The head store leaves the store queue and performs at core scope. -/
  | storePerform (st : StoreStage)
  /-- R182 ENGINE_LINE_WRITE: An engine writes one destination line and subtracts barrier bytes. -/
  | engineLineWrite (work piece : Nat)
  /-- R184 ENGINE_TOKEN_FILL: Engine work ends and its token fills with its status. -/
  | engineTokenFill (work : Nat)
  /-- R199 MATRIX_UNIT_OPERATION: The matrix unit performs the next queued matrix operation. -/
  | matrixUnitOperation (core : Nat)
  /-- R265 SQE_OPERATION: The SQE performs the next queued local operation indivisibly. -/
  | sqeOperation (cluster : Nat)
  /-- R286 PX_BUCKET_UPDATE: A forwarded PX operation performs its bucket read-modify-write at home. -/
  | pxBucketUpdate (work : Nat)
  /-- R410 TFENCE_INV_COMPLETE: All users of removed translations drain and the invalidation completes. -/
  | tfenceInvComplete (id : Nat)
  /-- R309 L2_LINE_EVICTION: A line leaves the L2 after invalidations, recalls and write-back. -/
  | l2LineEviction (line : Nat)
  /-- R434 TRAP_NOTICE: A core group's trap reaches the issuing queue context as a notice. -/
  | trapNotice (gid : Nat)
  /-- R460 POWER_FAILURE: Power fails at any instant; volatile state is lost and only the journal NVM, tile weights and any completed cairns survive for Camp 1 replay. -/
  | powerFailure
  /-- R428 VF_OPEN: PL2 opens a VF: writes its host space, QTAB, weight, minima and AGTLEN, names HVCTX, loads slot 0 and enables its endpoint. -/
  | vfOpen (vf : Nat) (cfg : VfConfig)
  /-- R428 VF_CLOSE: PL2 closes a VF: stops its queue contexts, ends its grids, ends its channel-engine tasks with LEASE_REVOKED, revokes its grants, clears its granules and empties its slots. -/
  | vfClose (vf : Nat)
  /-- R262 GRANULE_ASSIGNMENT: PL2 assigns a cluster-memory granule to a VF, clearing it to zero when it changes VF. -/
  | granuleAssignment (cluster granule : Nat) (vf : Option Nat)
  /-- R490 GRID_OFFER_RECEIVED: A module of the VF's module set receives a multi-module grid offer and accepts or declines it. -/
  | gridOfferReceived (grid modn : Nat) (accept : Bool)
  deriving DecidableEq, Repr

end Sys2Proof
end

