-- ==== Sys2Proof/Decode.lean ====
section
/-! DEFINITION. Decoding under decode map 1 (01_encoding R16-R46), the encoder, the opcode of each instruction, and the role of every register field (R28-R36 and the field tables of each entry). -/

namespace Sys2Proof

/-! ## Words and fields (R23) -/

/-- A 32-bit word from its opcode and its three 7-bit fields: [31:25], [24:18], [17:11], OP10 in [10:1], 1 in [0]. -/
def packWord (op : BitVec 10) (d a b : BitVec 7) : BitVec 32 := b ++ a ++ d ++ op ++ 1#1

def wordOp (w : BitVec 32) : Nat := (w.extractLsb' 1 10).toNat
def wordD (w : BitVec 32) : BitVec 7 := w.extractLsb' 11 7
def wordA (w : BitVec 32) : BitVec 7 := w.extractLsb' 18 7
def wordB (w : BitVec 32) : BitVec 7 := w.extractLsb' 25 7

/-- An instruction as stored: a halfword with bit 0 = 0, or a 32-bit word with bit 0 = 1 (R16). -/
inductive Code where
  | half (h : BitVec 16)
  | word (w : BitVec 32)
  deriving DecidableEq, Repr

/-- The sixteen 16-bit operations (R20). -/
def decodeOp4 (op : Nat) (d : BitVec 6) (a : BitVec 5) : Option Instr :=
  match op with
  | 0 => some (.mov16 d a)
  | 1 => some (.add16 d a)
  | 2 => some (.sub16 d a)
  | 3 => some (.mulLo16 d a)
  | 4 => some (.and16 d a)
  | 5 => some (.or16 d a)
  | 6 => some (.xor16 d a)
  | 7 => some (.shl16 d a)
  | 8 => some (.shr16 d a)
  | 9 => some (.sar16 d a)
  | 10 => some (.minS16 d a)
  | 11 => some (.maxS16 d a)
  | 12 => some (.fadd16 d a)
  | 13 => some (.fsub16 d a)
  | 14 => some (.fmul16 d a)
  | 15 => some (.fmax16 d a)
  | _ => none

def decodeHalf (h : BitVec 16) : Option Instr :=
  if h.getLsbD 0 then none else decodeOp4 (h.extractLsb' 1 4).toNat (h.extractLsb' 5 6) (h.extractLsb' 11 5)

/-- Operations 0x000 to 0x00F: none where unmapped or a reserved bit is set (R26, R45). -/
def decodeGroup0 (op : Nat) (d a b : BitVec 7) : Option Instr :=
  match op with
  | 0 => some (.add d a b)
  | 1 => some (.sub d a b)
  | 2 => some (.mulLo d a b)
  | 3 => some (.mulHiS d a b)
  | 4 => some (.mulHiU d a b)
  | 5 => some (.mulwS d a b)
  | 6 => some (.mulwU d a b)
  | 7 => some (.mad d a b)
  | 8 => some (.and d a b)
  | 9 => some (.or d a b)
  | 10 => some (.xor d a b)
  | 11 => some (.andn d a b)
  | 12 => some (.shl d a b)
  | 13 => some (.shr d a b)
  | 14 => some (.sar d a b)
  | 15 => some (.rotl d a b)
  | _ => none

/-- Operations 0x010 to 0x01F: none where unmapped or a reserved bit is set (R26, R45). -/
def decodeGroup1 (op : Nat) (d a b : BitVec 7) : Option Instr :=
  match op with
  | 16 => some (.minS d a b)
  | 17 => some (.minU d a b)
  | 18 => some (.maxS d a b)
  | 19 => some (.maxU d a b)
  | 20 => some (.perm d a b)
  | 21 => some (.bfx d a b)
  | 22 => some (.bfi d a b)
  | 24 => if b = 0 then some (.abs d a) else none
  | 25 => if b = 0 then some (.neg d a) else none
  | 26 => if b = 0 then some (.clz d a) else none
  | 27 => if b = 0 then some (.popc d a) else none
  | 28 => if b = 0 then some (.brev d a) else none
  | 29 => if b = 0 then some (.mov d a) else none
  | _ => none

/-- Operations 0x020 to 0x02F: none where unmapped or a reserved bit is set (R26, R45). -/
def decodeGroup2 (op : Nat) (d a b : BitVec 7) : Option Instr :=
  match op with
  | 32 => some (.addi d a b)
  | 33 => some (.andi d a b)
  | 34 => some (.ori d a b)
  | 35 => some (.xori d a b)
  | 36 => some (.shli d a b)
  | 37 => some (.shri d a b)
  | 38 => some (.sari d a b)
  | 40 => some (.li d ((b) ++ (a)))
  | 41 => some (.lui d ((b) ++ (a)))
  | _ => none

/-- Operations 0x030 to 0x03F: none where unmapped or a reserved bit is set (R26, R45). -/
def decodeGroup3 (op : Nat) (d a b : BitVec 7) : Option Instr :=
  match op with
  | 48 => some (.cmpEq d a b)
  | 49 => some (.cmpNe d a b)
  | 50 => some (.cmpLtS d a b)
  | 51 => some (.cmpLeS d a b)
  | 52 => some (.cmpGtS d a b)
  | 53 => some (.cmpGeS d a b)
  | 54 => some (.cmpLtU d a b)
  | 55 => some (.cmpLeU d a b)
  | 56 => some (.cmpGtU d a b)
  | 57 => some (.cmpGeU d a b)
  | _ => none

/-- Operations 0x040 to 0x04F: none where unmapped or a reserved bit is set (R26, R45). -/
def decodeGroup4 (op : Nat) (d a b : BitVec 7) : Option Instr :=
  match op with
  | 64 => some (.add64 d a b)
  | 65 => some (.sub64 d a b)
  | 66 => some (.shl64 d a b)
  | 67 => some (.shr64 d a b)
  | 72 => some (.cmp64Eq d a b)
  | 73 => some (.cmp64Ne d a b)
  | 74 => some (.cmp64LtS d a b)
  | 75 => some (.cmp64LeS d a b)
  | 76 => some (.cmp64GtS d a b)
  | 77 => some (.cmp64GeS d a b)
  | 78 => some (.cmp64LtU d a b)
  | 79 => some (.cmp64LeU d a b)
  | _ => none

/-- Operations 0x050 to 0x05F: none where unmapped or a reserved bit is set (R26, R45). -/
def decodeGroup5 (op : Nat) (d a b : BitVec 7) : Option Instr :=
  match op with
  | 80 => some (.cmp64GtU d a b)
  | 81 => some (.cmp64GeU d a b)
  | _ => none

/-- Operations 0x070 to 0x07F: none where unmapped or a reserved bit is set (R26, R45). -/
def decodeGroup7 (op : Nat) (d a b : BitVec 7) : Option Instr :=
  match op with
  | 112 => some (.sel 0 d a b)
  | 113 => some (.sel 1 d a b)
  | 114 => some (.sel 2 d a b)
  | 115 => some (.sel 3 d a b)
  | 116 => some (.sel 4 d a b)
  | 117 => some (.sel 5 d a b)
  | 118 => some (.sel 6 d a b)
  | 119 => some (.sel 7 d a b)
  | _ => none

/-- Operations 0x080 to 0x08F: none where unmapped or a reserved bit is set (R26, R45). -/
def decodeGroup8 (op : Nat) (d a b : BitVec 7) : Option Instr :=
  match op with
  | 128 => some (.fadd d a b)
  | 129 => some (.fsub d a b)
  | 130 => some (.fmul d a b)
  | 131 => some (.ffma d a b)
  | 132 => some (.fdiv d a b)
  | 133 => some (.fmin d a b)
  | 134 => some (.fmax d a b)
  | 135 => some (.fcpys d a b)
  | 136 => if b.extractLsb' 3 4 = 0 then some (.fsqrt d a (b.extractLsb' 0 3)) else none
  | 137 => if b = 0 then some (.fabs d a) else none
  | 138 => if b = 0 then some (.fneg d a) else none
  | 139 => if b = 0 then some (.fclass d a) else none
  | 140 => if b.extractLsb' 3 4 = 0 then some (.frint d a (b.extractLsb' 0 3)) else none
  | _ => none

/-- Operations 0x090 to 0x09F: none where unmapped or a reserved bit is set (R26, R45). -/
def decodeGroup9 (op : Nat) (d a b : BitVec 7) : Option Instr :=
  match op with
  | 144 => if b = 0 then some (.frcp d a) else none
  | 145 => if b = 0 then some (.frsq d a) else none
  | 146 => if b = 0 then some (.fex2 d a) else none
  | 147 => if b = 0 then some (.flg2 d a) else none
  | 148 => if b = 0 then some (.fsin d a) else none
  | 149 => if b = 0 then some (.fcos d a) else none
  | 152 => some (.fcmpEq d a b)
  | 153 => some (.fcmpNe d a b)
  | 154 => some (.fcmpLt d a b)
  | 155 => some (.fcmpLe d a b)
  | 156 => some (.fcmpGt d a b)
  | 157 => some (.fcmpGe d a b)
  | 158 => some (.fcmpUn d a b)
  | _ => none

/-- Operations 0x0A0 to 0x0AF: none where unmapped or a reserved bit is set (R26, R45). -/
def decodeGroup10 (op : Nat) (d a b : BitVec 7) : Option Instr :=
  match op with
  | 160 => some (.dadd d a b)
  | 161 => some (.dsub d a b)
  | 162 => some (.dmul d a b)
  | 163 => some (.dfma d a b)
  | 164 => some (.ddiv d a b)
  | 165 => if b.extractLsb' 3 4 = 0 then some (.dsqrt d a (b.extractLsb' 0 3)) else none
  | 168 => some (.dcmpEq d a b)
  | 169 => some (.dcmpNe d a b)
  | 170 => some (.dcmpLt d a b)
  | 171 => some (.dcmpLe d a b)
  | 172 => some (.dcmpGt d a b)
  | 173 => some (.dcmpGe d a b)
  | 174 => some (.dcmpUn d a b)
  | _ => none

/-- Operations 0x0B0 to 0x0BF: none where unmapped or a reserved bit is set (R26, R45). -/
def decodeGroup11 (op : Nat) (d a b : BitVec 7) : Option Instr :=
  match op with
  | 176 => some (.hadd2Bf16 d a b)
  | 177 => some (.hadd2Fp16 d a b)
  | 178 => some (.hmul2Bf16 d a b)
  | 179 => some (.hmul2Fp16 d a b)
  | 180 => some (.hfma2Bf16 d a b)
  | 181 => some (.hfma2Fp16 d a b)
  | _ => none

/-- Operations 0x0C0 to 0x0CF: none where unmapped or a reserved bit is set (R26, R45). -/
def decodeGroup12 (op : Nat) (d a b : BitVec 7) : Option Instr :=
  match op with
  | 192 => some (.cvt d a (b.extractLsb' 0 6) (b.extractLsb' 6 1))
  | 193 => if b.extractLsb' 3 4 = 0 then some (.cvtbPack d a (b.extractLsb' 0 3)) else if b.extractLsb' 3 4 = 8 then some (.cvtbUnpack d a (b.extractLsb' 0 3)) else none
  | 194 => some (.cblook d a b)
  | _ => none

/-- Operations 0x100 to 0x10F: none where unmapped or a reserved bit is set (R26, R45). -/
def decodeGroup16 (op : Nat) (d a b : BitVec 7) : Option Instr :=
  match op with
  | 256 => some (.shflIdx d a b)
  | 257 => some (.shflUp d a b)
  | 258 => some (.shflDn d a b)
  | 259 => some (.shflXor d a b)
  | 260 => if b.extractLsb' 4 3 = 0 ∧ a = 0 then some (.voteAny d (b.extractLsb' 0 3) (b.extractLsb' 3 1)) else none
  | 261 => if b.extractLsb' 4 3 = 0 ∧ a = 0 then some (.voteAll d (b.extractLsb' 0 3) (b.extractLsb' 3 1)) else none
  | 262 => if b.extractLsb' 4 3 = 0 ∧ a = 0 then some (.voteBal d (b.extractLsb' 0 3) (b.extractLsb' 3 1)) else none
  | 263 => if b.extractLsb' 4 3 = 0 then some (.redx d a (b.extractLsb' 0 4)) else none
  | 264 => if b.extractLsb' 5 2 = 0 then some (.scan d a (b.extractLsb' 0 4) (b.extractLsb' 4 1)) else none
  | 265 => if b.extractLsb' 2 5 = 0 then some (.matchOp d a (b.extractLsb' 0 1) (b.extractLsb' 1 1)) else none
  | _ => none

/-- Operations 0x110 to 0x11F: none where unmapped or a reserved bit is set (R26, R45). -/
def decodeGroup17 (op : Nat) (d a b : BitVec 7) : Option Instr :=
  match op with
  | 272 => if d.extractLsb' 0 1 = 0 then some (.jmp ((b) ++ (a) ++ (d.extractLsb' 1 6))) else none
  | 273 => if d.extractLsb' 0 1 = 0 then some (.call ((b) ++ (a) ++ (d.extractLsb' 1 6))) else none
  | 274 => some (.jmpuZ d ((b) ++ (a)))
  | 275 => some (.jmpuNz d ((b) ++ (a)))
  | 276 => if b = 0 ∧ d = 0 then some (.ret a) else none
  | 280 => some (.ifp d ((b) ++ (a)))
  | 281 => if d = 0 then some (.elseOp ((b) ++ (a))) else none
  | 282 => if d = 0 ∧ a = 0 ∧ b = 0 then some (.fi) else none
  | 283 => if d = 0 then some (.loop ((b) ++ (a))) else none
  | 284 => if d = 0 then some (.endl ((b) ++ (a))) else none
  | 285 => if b.extractLsb' 6 1 = 0 ∧ a = 0 then some (.brkp d (b.extractLsb' 0 6)) else none
  | 286 => if b.extractLsb' 6 1 = 0 ∧ a = 0 then some (.contp d (b.extractLsb' 0 6)) else none
  | _ => none

/-- Operations 0x120 to 0x12F: none where unmapped or a reserved bit is set (R26, R45). -/
def decodeGroup18 (op : Nat) (d a b : BitVec 7) : Option Instr :=
  match op with
  | 288 => if d = 0 ∧ a = 0 ∧ b = 0 then some (.exit) else none
  | 289 => if d = 0 ∧ a = 0 ∧ b = 0 then some (.yield) else none
  | 290 => if d = 0 ∧ a = 0 ∧ b = 0 then some (.nop) else none
  | 291 => if d = 0 ∧ a = 0 ∧ b = 0 then some (.region) else none
  | 292 => if d = 0 ∧ a = 0 ∧ b = 0 then some (.step) else none
  | 296 => some (.srd d ((b) ++ (a)))
  | 297 => some (.swr d ((b) ++ (a)))
  | 298 => if d = 0 then some (.trap ((b) ++ (a))) else none
  | _ => none

/-- Operations 0x140 to 0x14F: none where unmapped or a reserved bit is set (R26, R45). -/
def decodeGroup20 (op : Nat) (d a b : BitVec 7) : Option Instr :=
  match op with
  | 320 => some (.ldB8 d a b)
  | 321 => some (.ldB8S d a b)
  | 322 => some (.ldB16 d a b)
  | 323 => some (.ldB16S d a b)
  | 324 => some (.ldB32 d a b)
  | 325 => some (.ldB64 d a b)
  | 326 => some (.ldB128 d a b)
  | 328 => some (.stB8 d a b)
  | 329 => some (.stB16 d a b)
  | 330 => some (.stB32 d a b)
  | 331 => some (.stB64 d a b)
  | 332 => some (.stB128 d a b)
  | _ => none

/-- Operations 0x150 to 0x15F: none where unmapped or a reserved bit is set (R26, R45). -/
def decodeGroup21 (op : Nat) (d a b : BitVec 7) : Option Instr :=
  match op with
  | 336 => some (.ldStrong d a (b.extractLsb' 0 3) (b.extractLsb' 3 2) (b.extractLsb' 5 2))
  | 337 => some (.stStrong d a (b.extractLsb' 0 3) (b.extractLsb' 3 2) (b.extractLsb' 5 2))
  | 340 => some (.ldfe d a b)
  | 341 => some (.stfe d a b)
  | 342 => if b.extractLsb' 1 6 = 0 ∧ d = 0 then some (.feset a (b.extractLsb' 0 1)) else none
  | 343 => if b = 0 then some (.fetest d a) else none
  | 344 => if b = 0 then some (.sptest d a) else none
  | 345 => if b.extractLsb' 3 4 = 0 then some (.spcast d a (b.extractLsb' 0 2) (b.extractLsb' 2 1)) else none
  | 348 => if b.extractLsb' 2 5 = 0 ∧ d = 0 then some (.pref a (b.extractLsb' 0 2)) else none
  | 349 => if b = 0 ∧ d = 0 then some (.cctlInv1 a) else if b = 1 ∧ d = 0 then some (.cctlWb2 a) else if b = 2 ∧ d = 0 then some (.cctlEvf a) else if d = 0 ∧ a = 0 ∧ b = 3 then some (.cctlInv1all) else none
  | 350 => if d = 0 ∧ a = 0 ∧ b.extractLsb' 0 3 = 0 then some (.fence (b.extractLsb' 3 2) (b.extractLsb' 5 2)) else none
  | _ => none

/-- Operations 0x160 to 0x16F: none where unmapped or a reserved bit is set (R26, R45). -/
def decodeGroup22 (op : Nat) (d a b : BitVec 7) : Option Instr :=
  match op with
  | 352 => some (.atom d a (b.extractLsb' 0 2) (b.extractLsb' 2 1) (b.extractLsb' 3 4))
  | 353 => some (.cas d a b)
  | 354 => some (.red d a (b.extractLsb' 0 2) (b.extractLsb' 2 1) (b.extractLsb' 3 4))
  | 355 => if d = 0 ∧ a = 0 ∧ b = 0 then some (.ifenceLocal) else if b = 1 then some (.ifenceDie d a) else none
  | _ => none

/-- Operations 0x1C0 to 0x1CF: none where unmapped or a reserved bit is set (R26, R45). -/
def decodeGroup28 (op : Nat) (d a b : BitVec 7) : Option Instr :=
  match op with
  | 448 => if b = 0 then some (.cpy d a) else none
  | 449 => some (.gather d a b)
  | 450 => some (.scatter d a b)
  | 451 => if b = 0 then some (.toktest d a) else none
  | 456 => if b = 0 ∧ d = 0 then some (.axbind a) else none
  | 457 => if b.extractLsb' 3 4 = 0 ∧ d = 0 then some (.astrm a (b.extractLsb' 0 3)) else none
  | 458 => if b.extractLsb' 3 4 = 0 ∧ d = 0 then some (.qpushS a (b.extractLsb' 0 3)) else if b.extractLsb' 3 4 = 1 ∧ d = 0 then some (.qpushM a (b.extractLsb' 0 3)) else none
  | _ => none

/-- Operations 0x1D0 to 0x1DF: none where unmapped or a reserved bit is set (R26, R45). -/
def decodeGroup29 (op : Nat) (d a b : BitVec 7) : Option Instr :=
  match op with
  | 464 => if b = 0 then some (.barinit d a) else none
  | 465 => if b = 0 then some (.bararr d a) else none
  | 466 => if b = 0 then some (.bartx d a) else none
  | 467 => some (.barwait d a b)
  | 468 => if d = 0 ∧ a = 0 ∧ b = 0 then some (.tbar) else none
  | 469 => if d = 0 ∧ a = 0 ∧ b = 0 then some (.gbar) else none
  | _ => none

/-- Operations 0x200 to 0x20F: none where unmapped or a reserved bit is set (R26, R45). -/
def decodeGroup32 (op : Nat) (d a b : BitVec 7) : Option Instr :=
  match op with
  | 512 => if b.extractLsb' 3 4 = 0 ∧ a = 0 then some (.shape d (b.extractLsb' 0 3)) else none
  | 513 => if b = 0 then some (.slclaim d a) else none
  | 514 => if b = 0 ∧ d = 0 then some (.slrel a) else none
  | 515 => if b = 0 then some (.ldslot d a) else none
  | 516 => if b = 0 then some (.cbload d a) else none
  | 520 => if b.extractLsb' 6 1 = 0 ∧ d.extractLsb' 4 3 = 0 then some (.mma (d.extractLsb' 0 4) a (b.extractLsb' 0 4) (b.extractLsb' 4 2)) else none
  | 521 => if b.extractLsb' 6 1 = 0 ∧ d.extractLsb' 4 3 = 0 then some (.mmas (d.extractLsb' 0 4) a (b.extractLsb' 0 4) (b.extractLsb' 4 2)) else none
  | _ => none

/-- Operations 0x210 to 0x21F: none where unmapped or a reserved bit is set (R26, R45). -/
def decodeGroup33 (op : Nat) (d a b : BitVec 7) : Option Instr :=
  match op with
  | 528 => if b.extractLsb' 3 4 = 0 ∧ d = 0 ∧ a = 0 then some (.accz (b.extractLsb' 0 2) (b.extractLsb' 2 1)) else none
  | 529 => if b.extractLsb' 3 4 = 0 then some (.accrd d a (b.extractLsb' 0 2) (b.extractLsb' 2 1)) else none
  | 530 => if b.extractLsb' 3 4 = 0 then some (.accwr d a (b.extractLsb' 0 2) (b.extractLsb' 2 1)) else none
  | 531 => some (.accst d a (b.extractLsb' 0 2) (b.extractLsb' 2 1) (b.extractLsb' 3 4))
  | _ => none

/-- Operations 0x240 to 0x24F: none where unmapped or a reserved bit is set (R26, R45). -/
def decodeGroup36 (op : Nat) (d a b : BitVec 7) : Option Instr :=
  match op with
  | 576 => if b.extractLsb' 3 4 = 0 then some (.layerf d a (b.extractLsb' 0 1) (b.extractLsb' 1 1) (b.extractLsb' 2 1)) else none
  | 577 => if b.extractLsb' 3 4 = 0 then some (.layert d a (b.extractLsb' 0 1) (b.extractLsb' 1 1) (b.extractLsb' 2 1)) else none
  | 578 => if b.extractLsb' 3 4 = 0 ∧ b.extractLsb' 0 2 = 0 then some (.layerd d a (b.extractLsb' 2 1)) else none
  | 584 => if b = 0 then some (.arxq d a) else none
  | 585 => if b = 0 then some (.adpset d a) else none
  | 586 => if b = 0 then some (.calset d a) else none
  | 587 => if b = 0 then some (.calrd d a) else none
  | _ => none

/-- Operations 0x250 to 0x25F: none where unmapped or a reserved bit is set (R26, R45). -/
def decodeGroup37 (op : Nat) (d a b : BitVec 7) : Option Instr :=
  match op with
  | 592 => if b.extractLsb' 1 6 = 0 then some (.almrun d a (b.extractLsb' 0 1)) else none
  | 593 => if b = 0 then some (.almfit d a) else none
  | _ => none

/-- Operations 0x280 to 0x28F: none where unmapped or a reserved bit is set (R26, R45). -/
def decodeGroup40 (op : Nat) (d a b : BitVec 7) : Option Instr :=
  match op with
  | 640 => some (.confw d a b)
  | 641 => some (.scacc d a b)
  | 642 => if b = 0 then some (.scrd d a) else none
  | 643 => if b = 0 then some (.scclr d a) else none
  | 644 => if b = 0 then some (.topk d a) else none
  | 645 => if b.extractLsb' 3 1 = 0 then some (.posxl d a (b.extractLsb' 0 3) (b.extractLsb' 4 3)) else none
  | 646 => if b = 0 then some (.surv d a) else none
  | 647 => if b = 0 then some (.compact d a) else none
  | 648 => if b = 0 then some (.pxfind d a) else none
  | 649 => if b = 0 then some (.pxins d a) else none
  | 650 => if b = 0 then some (.pxrel d a) else none
  | 651 => if b = 0 then some (.unmask d a) else none
  | 652 => if b = 0 then some (.dirty d a) else none
  | 653 => if b.extractLsb' 3 1 = 0 then some (.dmaprd d a (b.extractLsb' 0 3) (b.extractLsb' 4 3)) else none
  | _ => none

/-- Operations 0x2C0 to 0x2CF: none where unmapped or a reserved bit is set (R26, R45). -/
def decodeGroup44 (op : Nat) (d a b : BitVec 7) : Option Instr :=
  match op with
  | 704 => if b = 0 then some (.chlaunch d a) else none
  | 712 => if b.extractLsb' 6 1 = 0 then some (.astm d a (b.extractLsb' 0 4) (b.extractLsb' 4 1) (b.extractLsb' 5 1)) else none
  | 713 => if b.extractLsb' 6 1 = 0 ∧ b.extractLsb' 0 4 = 0 then some (.agat d a (b.extractLsb' 4 1) (b.extractLsb' 5 1)) else none
  | 714 => if b.extractLsb' 6 1 = 0 ∧ b.extractLsb' 0 5 = 0 ∧ d = 0 then some (.aqp a (b.extractLsb' 5 1)) else none
  | 715 => if b.extractLsb' 6 1 = 0 ∧ b.extractLsb' 0 5 = 0 ∧ d = 0 then some (.astq a (b.extractLsb' 5 1)) else none
  | _ => none

/-- Operations 0x2D0 to 0x2DF: none where unmapped or a reserved bit is set (R26, R45). -/
noncomputable def decodeGroup45 (op : Nat) (d a b : BitVec 7) : Option Instr :=
  match op with
  | 720 => if a = 0 ∧ b = 0 then some (.xpop d) else none
  | 721 => if b.extractLsb' 5 2 = 0 then some (.xop d a (b.extractLsb' 0 3) (b.extractLsb' 3 2)) else none
  | 722 => if b = 0 ∧ d = 0 then some (.xpush a) else none
  | 728 => if d = 0 ∧ a = 0 ∧ b = 0 then some (.chend) else none
  | _ => none

/-- Operations 0x2E0 to 0x2EF: none where unmapped or a reserved bit is set (R26, R45). -/
noncomputable def decodeGroup46 (op : Nat) (d a b : BitVec 7) : Option Instr :=
  match op with
  | 736 => if b.extractLsb' 5 2 = 0 ∧ d = 0 ∧ a = 0 ∧ b.extractLsb' 0 3 = 0 then some (.tfencePt (b.extractLsb' 3 2)) else if d = 0 ∧ a = 0 ∧ b = 2 then some (.tfenceWalk) else if b.extractLsb' 6 1 = 0 ∧ b.extractLsb' 0 2 = 1 ∧ d = 0 then some (.tfenceInv a (b.extractLsb' 2 1) (b.extractLsb' 3 2) (b.extractLsb' 5 1)) else none
  | 737 => if b.extractLsb' 2 5 = 0 then some (.migrate d a (b.extractLsb' 0 1) (b.extractLsb' 1 1)) else none
  | 738 => if b.extractLsb' 3 4 = 0 then some (.ptq d a (b.extractLsb' 0 2) (b.extractLsb' 2 1)) else none
  | 739 => if b.extractLsb' 6 1 = 0 ∧ b.extractLsb' 0 3 = 0 ∧ d = 0 then some (.rnginv a (b.extractLsb' 3 2) (b.extractLsb' 5 1)) else none
  | 740 => if b = 0 then some (.leaseq d a) else none
  | _ => none

/-- Operations 0x300 to 0x30F: none where unmapped or a reserved bit is set (R26, R45). -/
noncomputable def decodeGroup48 (op : Nat) (d a b : BitVec 7) : Option Instr :=
  match op with
  | 768 => if b = 0 then some (.launch d a) else none
  | 769 => if b.extractLsb' 3 4 = 0 then some (.qwait d a (b.extractLsb' 0 2) (b.extractLsb' 2 1)) else none
  | 770 => if b.extractLsb' 1 6 = 0 then some (.qsig d a (b.extractLsb' 0 1)) else none
  | 771 => if d.extractLsb' 0 1 = 0 then some (.qjmp ((b) ++ (a) ++ (d.extractLsb' 1 6))) else none
  | 772 => if b = 0 ∧ d = 0 then some (.qstopStop a) else if b = 1 ∧ d = 0 then some (.qstopStart a) else none
  | 776 => if b = 0 then some (.ctxsw d a) else none
  | 777 => if b.extractLsb' 1 6 = 0 then some (.ctxsv d a (b.extractLsb' 0 1)) else none
  | 778 => if b = 0 then some (.ctxld d a) else none
  | _ => none

/-- Operations 0x310 to 0x31F: none where unmapped or a reserved bit is set (R26, R45). -/
noncomputable def decodeGroup49 (op : Nat) (d a b : BitVec 7) : Option Instr :=
  match op with
  | 784 => if b = 0 then some (.arprog d a) else none
  | 785 => if b = 0 then some (.arcommitTile d a) else if b = 1 then some (.arcommitGrant d a) else if b = 2 then some (.arcommitRevoke d a) else none
  | 786 => if b = 0 then some (.arstat d a) else none
  | 792 => if b = 0 then some (.dectabLoad d a) else if b = 1 then some (.dectabClr d a) else none
  | 793 => if d = 0 then some (.hvcall ((b) ++ (a))) else none
  | 794 => if b = 0 then some (.qosset d a) else none
  | _ => none

/-- Operations 0x340 to 0x34F: none where unmapped or a reserved bit is set (R26, R45). -/
noncomputable def decodeGroup52 (op : Nat) (d a b : BitVec 7) : Option Instr :=
  match op with
  | 832 => if b = 0 then some (.eretResume d a) else if b = 1 then some (.eretSkip d a) else if b = 2 then some (.eretRegion d a) else if b = 3 then some (.eretAbort d a) else if d = 0 ∧ a = 0 ∧ b = 4 then some (.eretSelf) else none
  | 840 => if a = 0 ∧ b = 0 then some (.starfix d) else none
  | 841 => if d = 0 ∧ a = 0 ∧ b = 0 then some (.halt) else none
  | _ => none

/-- Operations 0x350 to 0x35F: none where unmapped or a reserved bit is set (R26, R45). -/
noncomputable def decodeGroup53 (op : Nat) (d a b : BitVec 7) : Option Instr :=
  match op with
  | 848 => if b.extractLsb' 5 2 = 0 then some (.coll d a (b.extractLsb' 0 2) (b.extractLsb' 2 2) (b.extractLsb' 4 1)) else none
  | _ => none

/-- Operation number (OPN, R41) and fields to an instruction. It is not compiled: the runtime has no tags for more than 244 constructors with fields. -/
noncomputable def decodeFields (op : Nat) (d a b : BitVec 7) : Option Instr :=
  match op / 16 with
  | 0 => decodeGroup0 op d a b
  | 1 => decodeGroup1 op d a b
  | 2 => decodeGroup2 op d a b
  | 3 => decodeGroup3 op d a b
  | 4 => decodeGroup4 op d a b
  | 5 => decodeGroup5 op d a b
  | 7 => decodeGroup7 op d a b
  | 8 => decodeGroup8 op d a b
  | 9 => decodeGroup9 op d a b
  | 10 => decodeGroup10 op d a b
  | 11 => decodeGroup11 op d a b
  | 12 => decodeGroup12 op d a b
  | 16 => decodeGroup16 op d a b
  | 17 => decodeGroup17 op d a b
  | 18 => decodeGroup18 op d a b
  | 20 => decodeGroup20 op d a b
  | 21 => decodeGroup21 op d a b
  | 22 => decodeGroup22 op d a b
  | 28 => decodeGroup28 op d a b
  | 29 => decodeGroup29 op d a b
  | 32 => decodeGroup32 op d a b
  | 33 => decodeGroup33 op d a b
  | 36 => decodeGroup36 op d a b
  | 37 => decodeGroup37 op d a b
  | 40 => decodeGroup40 op d a b
  | 44 => decodeGroup44 op d a b
  | 45 => decodeGroup45 op d a b
  | 46 => decodeGroup46 op d a b
  | 48 => decodeGroup48 op d a b
  | 49 => decodeGroup49 op d a b
  | 52 => decodeGroup52 op d a b
  | 53 => decodeGroup53 op d a b
  | _ => none

noncomputable def decodeWord (w : BitVec 32) : Option Instr :=
  if w.getLsbD 0 then decodeFields (wordOp w) (wordD w) (wordA w) (wordB w) else none

noncomputable def decodeCode : Code → Option Instr
  | .half h => decodeHalf h
  | .word w => decodeWord w

/-- The first instruction of a list of bytes, lowest address first, with the bytes after it (R8, R16). -/
noncomputable def decodeBytes : List Byte → Option (Instr × List Byte)
  | b0 :: b1 :: rest =>
    if b0.getLsbD 0 then
      match rest with
      | b2 :: b3 :: rest' => (decodeWord (b3 ++ b2 ++ b1 ++ b0)).map (·, rest')
      | _ => none
    else (decodeHalf (b1 ++ b0)).map (·, rest)
  | _ => none

/-- The four bytes of a word as stored. -/
def bytesOfWord (w : Nat) : List Byte :=
  [BitVec.ofNat 8 w, BitVec.ofNat 8 (w / 256), BitVec.ofNat 8 (w / 65536), BitVec.ofNat 8 (w / 16777216)]

/-- What the decoder reads from an instruction whose bits are w, as spec/opcode_table.json numbers them. -/
noncomputable def decodeTableWord (nbits w : Nat) : Option Instr :=
  (decodeBytes (bytesOfWord (w % 2 ^ nbits))).map (·.1)

/-! ## Encoding -/

structure Fields where
  op : BitVec 10
  d : BitVec 7
  a : BitVec 7
  b : BitVec 7
  deriving DecidableEq, Repr

/-- The fields of a 32-bit instruction; none for a 16-bit instruction and for an event. -/
def encodeFields (i : Instr) : Option Fields :=
  match i with
  | .mov16 _ _ => none
  | .add16 _ _ => none
  | .sub16 _ _ => none
  | .mulLo16 _ _ => none
  | .and16 _ _ => none
  | .or16 _ _ => none
  | .xor16 _ _ => none
  | .shl16 _ _ => none
  | .shr16 _ _ => none
  | .sar16 _ _ => none
  | .minS16 _ _ => none
  | .maxS16 _ _ => none
  | .fadd16 _ _ => none
  | .fsub16 _ _ => none
  | .fmul16 _ _ => none
  | .fmax16 _ _ => none
  | .add d a b => some { op := 0x000, d := d, a := a, b := b }
  | .sub d a b => some { op := 0x001, d := d, a := a, b := b }
  | .mulLo d a b => some { op := 0x002, d := d, a := a, b := b }
  | .mulHiS d a b => some { op := 0x003, d := d, a := a, b := b }
  | .mulHiU d a b => some { op := 0x004, d := d, a := a, b := b }
  | .mulwS d a b => some { op := 0x005, d := d, a := a, b := b }
  | .mulwU d a b => some { op := 0x006, d := d, a := a, b := b }
  | .mad d a b => some { op := 0x007, d := d, a := a, b := b }
  | .and d a b => some { op := 0x008, d := d, a := a, b := b }
  | .or d a b => some { op := 0x009, d := d, a := a, b := b }
  | .xor d a b => some { op := 0x00A, d := d, a := a, b := b }
  | .andn d a b => some { op := 0x00B, d := d, a := a, b := b }
  | .shl d a b => some { op := 0x00C, d := d, a := a, b := b }
  | .shr d a b => some { op := 0x00D, d := d, a := a, b := b }
  | .sar d a b => some { op := 0x00E, d := d, a := a, b := b }
  | .rotl d a b => some { op := 0x00F, d := d, a := a, b := b }
  | .minS d a b => some { op := 0x010, d := d, a := a, b := b }
  | .minU d a b => some { op := 0x011, d := d, a := a, b := b }
  | .maxS d a b => some { op := 0x012, d := d, a := a, b := b }
  | .maxU d a b => some { op := 0x013, d := d, a := a, b := b }
  | .perm d a b => some { op := 0x014, d := d, a := a, b := b }
  | .bfx d a b => some { op := 0x015, d := d, a := a, b := b }
  | .bfi d a b => some { op := 0x016, d := d, a := a, b := b }
  | .abs d a => some { op := 0x018, d := d, a := a, b := 0#7 }
  | .neg d a => some { op := 0x019, d := d, a := a, b := 0#7 }
  | .clz d a => some { op := 0x01A, d := d, a := a, b := 0#7 }
  | .popc d a => some { op := 0x01B, d := d, a := a, b := 0#7 }
  | .brev d a => some { op := 0x01C, d := d, a := a, b := 0#7 }
  | .mov d a => some { op := 0x01D, d := d, a := a, b := 0#7 }
  | .addi d a i => some { op := 0x020, d := d, a := a, b := i }
  | .andi d a i => some { op := 0x021, d := d, a := a, b := i }
  | .ori d a i => some { op := 0x022, d := d, a := a, b := i }
  | .xori d a i => some { op := 0x023, d := d, a := a, b := i }
  | .shli d a i => some { op := 0x024, d := d, a := a, b := i }
  | .shri d a i => some { op := 0x025, d := d, a := a, b := i }
  | .sari d a i => some { op := 0x026, d := d, a := a, b := i }
  | .li d i => some { op := 0x028, d := d, a := i.extractLsb' 0 7, b := i.extractLsb' 7 7 }
  | .lui d i => some { op := 0x029, d := d, a := i.extractLsb' 0 7, b := i.extractLsb' 7 7 }
  | .cmpEq p a b => some { op := 0x030, d := p, a := a, b := b }
  | .cmpNe p a b => some { op := 0x031, d := p, a := a, b := b }
  | .cmpLtS p a b => some { op := 0x032, d := p, a := a, b := b }
  | .cmpLeS p a b => some { op := 0x033, d := p, a := a, b := b }
  | .cmpGtS p a b => some { op := 0x034, d := p, a := a, b := b }
  | .cmpGeS p a b => some { op := 0x035, d := p, a := a, b := b }
  | .cmpLtU p a b => some { op := 0x036, d := p, a := a, b := b }
  | .cmpLeU p a b => some { op := 0x037, d := p, a := a, b := b }
  | .cmpGtU p a b => some { op := 0x038, d := p, a := a, b := b }
  | .cmpGeU p a b => some { op := 0x039, d := p, a := a, b := b }
  | .add64 d a b => some { op := 0x040, d := d, a := a, b := b }
  | .sub64 d a b => some { op := 0x041, d := d, a := a, b := b }
  | .shl64 d a b => some { op := 0x042, d := d, a := a, b := b }
  | .shr64 d a b => some { op := 0x043, d := d, a := a, b := b }
  | .cmp64Eq p a b => some { op := 0x048, d := p, a := a, b := b }
  | .cmp64Ne p a b => some { op := 0x049, d := p, a := a, b := b }
  | .cmp64LtS p a b => some { op := 0x04A, d := p, a := a, b := b }
  | .cmp64LeS p a b => some { op := 0x04B, d := p, a := a, b := b }
  | .cmp64GtS p a b => some { op := 0x04C, d := p, a := a, b := b }
  | .cmp64GeS p a b => some { op := 0x04D, d := p, a := a, b := b }
  | .cmp64LtU p a b => some { op := 0x04E, d := p, a := a, b := b }
  | .cmp64LeU p a b => some { op := 0x04F, d := p, a := a, b := b }
  | .cmp64GtU p a b => some { op := 0x050, d := p, a := a, b := b }
  | .cmp64GeU p a b => some { op := 0x051, d := p, a := a, b := b }
  | .sel p d a b => some { op := 14#7 ++ p, d := d, a := a, b := b }
  | .fadd d a b => some { op := 0x080, d := d, a := a, b := b }
  | .fsub d a b => some { op := 0x081, d := d, a := a, b := b }
  | .fmul d a b => some { op := 0x082, d := d, a := a, b := b }
  | .ffma d a b => some { op := 0x083, d := d, a := a, b := b }
  | .fdiv d a b => some { op := 0x084, d := d, a := a, b := b }
  | .fmin d a b => some { op := 0x085, d := d, a := a, b := b }
  | .fmax d a b => some { op := 0x086, d := d, a := a, b := b }
  | .fcpys d a b => some { op := 0x087, d := d, a := a, b := b }
  | .fsqrt d a r => some { op := 0x088, d := d, a := a, b := (0#4 ++ r : BitVec 7) }
  | .fabs d a => some { op := 0x089, d := d, a := a, b := 0#7 }
  | .fneg d a => some { op := 0x08A, d := d, a := a, b := 0#7 }
  | .fclass d a => some { op := 0x08B, d := d, a := a, b := 0#7 }
  | .frint d a r => some { op := 0x08C, d := d, a := a, b := (0#4 ++ r : BitVec 7) }
  | .frcp d a => some { op := 0x090, d := d, a := a, b := 0#7 }
  | .frsq d a => some { op := 0x091, d := d, a := a, b := 0#7 }
  | .fex2 d a => some { op := 0x092, d := d, a := a, b := 0#7 }
  | .flg2 d a => some { op := 0x093, d := d, a := a, b := 0#7 }
  | .fsin d a => some { op := 0x094, d := d, a := a, b := 0#7 }
  | .fcos d a => some { op := 0x095, d := d, a := a, b := 0#7 }
  | .fcmpEq p a b => some { op := 0x098, d := p, a := a, b := b }
  | .fcmpNe p a b => some { op := 0x099, d := p, a := a, b := b }
  | .fcmpLt p a b => some { op := 0x09A, d := p, a := a, b := b }
  | .fcmpLe p a b => some { op := 0x09B, d := p, a := a, b := b }
  | .fcmpGt p a b => some { op := 0x09C, d := p, a := a, b := b }
  | .fcmpGe p a b => some { op := 0x09D, d := p, a := a, b := b }
  | .fcmpUn p a b => some { op := 0x09E, d := p, a := a, b := b }
  | .dadd d a b => some { op := 0x0A0, d := d, a := a, b := b }
  | .dsub d a b => some { op := 0x0A1, d := d, a := a, b := b }
  | .dmul d a b => some { op := 0x0A2, d := d, a := a, b := b }
  | .dfma d a b => some { op := 0x0A3, d := d, a := a, b := b }
  | .ddiv d a b => some { op := 0x0A4, d := d, a := a, b := b }
  | .dsqrt d a r => some { op := 0x0A5, d := d, a := a, b := (0#4 ++ r : BitVec 7) }
  | .dcmpEq p a b => some { op := 0x0A8, d := p, a := a, b := b }
  | .dcmpNe p a b => some { op := 0x0A9, d := p, a := a, b := b }
  | .dcmpLt p a b => some { op := 0x0AA, d := p, a := a, b := b }
  | .dcmpLe p a b => some { op := 0x0AB, d := p, a := a, b := b }
  | .dcmpGt p a b => some { op := 0x0AC, d := p, a := a, b := b }
  | .dcmpGe p a b => some { op := 0x0AD, d := p, a := a, b := b }
  | .dcmpUn p a b => some { op := 0x0AE, d := p, a := a, b := b }
  | .hadd2Bf16 d a b => some { op := 0x0B0, d := d, a := a, b := b }
  | .hadd2Fp16 d a b => some { op := 0x0B1, d := d, a := a, b := b }
  | .hmul2Bf16 d a b => some { op := 0x0B2, d := d, a := a, b := b }
  | .hmul2Fp16 d a b => some { op := 0x0B3, d := d, a := a, b := b }
  | .hfma2Bf16 d a b => some { op := 0x0B4, d := d, a := a, b := b }
  | .hfma2Fp16 d a b => some { op := 0x0B5, d := d, a := a, b := b }
  | .cvt d a c o => some { op := 0x0C0, d := d, a := a, b := (o ++ c : BitVec 7) }
  | .cvtbPack d a f => some { op := 0x0C1, d := d, a := a, b := (0#4 ++ f : BitVec 7) }
  | .cvtbUnpack d a f => some { op := 0x0C1, d := d, a := a, b := (8#4 ++ f : BitVec 7) }
  | .cblook d a b => some { op := 0x0C2, d := d, a := a, b := b }
  | .shflIdx d a b => some { op := 0x100, d := d, a := a, b := b }
  | .shflUp d a b => some { op := 0x101, d := d, a := a, b := b }
  | .shflDn d a b => some { op := 0x102, d := d, a := a, b := b }
  | .shflXor d a b => some { op := 0x103, d := d, a := a, b := b }
  | .voteAny p q n => some { op := 0x104, d := p, a := 0#7, b := (0#3 ++ n ++ q : BitVec 7) }
  | .voteAll p q n => some { op := 0x105, d := p, a := 0#7, b := (0#3 ++ n ++ q : BitVec 7) }
  | .voteBal d q n => some { op := 0x106, d := d, a := 0#7, b := (0#3 ++ n ++ q : BitVec 7) }
  | .redx d a o => some { op := 0x107, d := d, a := a, b := (0#3 ++ o : BitVec 7) }
  | .scan d a o e => some { op := 0x108, d := d, a := a, b := (0#2 ++ e ++ o : BitVec 7) }
  | .matchOp d a l w => some { op := 0x109, d := d, a := a, b := (0#5 ++ w ++ l : BitVec 7) }
  | .jmp o => some { op := 0x110, d := ((o.extractLsb' 0 6) ++ 0#1 : BitVec 7), a := o.extractLsb' 6 7, b := o.extractLsb' 13 7 }
  | .call o => some { op := 0x111, d := ((o.extractLsb' 0 6) ++ 0#1 : BitVec 7), a := o.extractLsb' 6 7, b := o.extractLsb' 13 7 }
  | .jmpuZ d i => some { op := 0x112, d := d, a := i.extractLsb' 0 7, b := i.extractLsb' 7 7 }
  | .jmpuNz d i => some { op := 0x113, d := d, a := i.extractLsb' 0 7, b := i.extractLsb' 7 7 }
  | .ret a => some { op := 0x114, d := 0#7, a := a, b := 0#7 }
  | .ifp p i => some { op := 0x118, d := p, a := i.extractLsb' 0 7, b := i.extractLsb' 7 7 }
  | .elseOp i => some { op := 0x119, d := 0#7, a := i.extractLsb' 0 7, b := i.extractLsb' 7 7 }
  | .fi => some { op := 0x11A, d := 0#7, a := 0#7, b := 0#7 }
  | .loop i => some { op := 0x11B, d := 0#7, a := i.extractLsb' 0 7, b := i.extractLsb' 7 7 }
  | .endl i => some { op := 0x11C, d := 0#7, a := i.extractLsb' 0 7, b := i.extractLsb' 7 7 }
  | .brkp p n => some { op := 0x11D, d := p, a := 0#7, b := (0#1 ++ n : BitVec 7) }
  | .contp p n => some { op := 0x11E, d := p, a := 0#7, b := (0#1 ++ n : BitVec 7) }
  | .exit => some { op := 0x120, d := 0#7, a := 0#7, b := 0#7 }
  | .yield => some { op := 0x121, d := 0#7, a := 0#7, b := 0#7 }
  | .nop => some { op := 0x122, d := 0#7, a := 0#7, b := 0#7 }
  | .region => some { op := 0x123, d := 0#7, a := 0#7, b := 0#7 }
  | .step => some { op := 0x124, d := 0#7, a := 0#7, b := 0#7 }
  | .srd d i => some { op := 0x128, d := d, a := i.extractLsb' 0 7, b := i.extractLsb' 7 7 }
  | .swr d i => some { op := 0x129, d := d, a := i.extractLsb' 0 7, b := i.extractLsb' 7 7 }
  | .trap i => some { op := 0x12A, d := 0#7, a := i.extractLsb' 0 7, b := i.extractLsb' 7 7 }
  | .ldB8 d b o => some { op := 0x140, d := d, a := b, b := o }
  | .ldB8S d b o => some { op := 0x141, d := d, a := b, b := o }
  | .ldB16 d b o => some { op := 0x142, d := d, a := b, b := o }
  | .ldB16S d b o => some { op := 0x143, d := d, a := b, b := o }
  | .ldB32 d b o => some { op := 0x144, d := d, a := b, b := o }
  | .ldB64 d b o => some { op := 0x145, d := d, a := b, b := o }
  | .ldB128 d b o => some { op := 0x146, d := d, a := b, b := o }
  | .stB8 d b o => some { op := 0x148, d := d, a := b, b := o }
  | .stB16 d b o => some { op := 0x149, d := d, a := b, b := o }
  | .stB32 d b o => some { op := 0x14A, d := d, a := b, b := o }
  | .stB64 d b o => some { op := 0x14B, d := d, a := b, b := o }
  | .stB128 d b o => some { op := 0x14C, d := d, a := b, b := o }
  | .ldStrong d a z s o => some { op := 0x150, d := d, a := a, b := (o ++ s ++ z : BitVec 7) }
  | .stStrong d a z s o => some { op := 0x151, d := d, a := a, b := (o ++ s ++ z : BitVec 7) }
  | .ldfe d b o => some { op := 0x154, d := d, a := b, b := o }
  | .stfe d b o => some { op := 0x155, d := d, a := b, b := o }
  | .feset a f => some { op := 0x156, d := 0#7, a := a, b := (0#6 ++ f : BitVec 7) }
  | .fetest p a => some { op := 0x157, d := p, a := a, b := 0#7 }
  | .sptest d a => some { op := 0x158, d := d, a := a, b := 0#7 }
  | .spcast d a s g => some { op := 0x159, d := d, a := a, b := (0#4 ++ g ++ s : BitVec 7) }
  | .pref a l => some { op := 0x15C, d := 0#7, a := a, b := (0#5 ++ l : BitVec 7) }
  | .cctlInv1 a => some { op := 0x15D, d := 0#7, a := a, b := 0#7 }
  | .cctlWb2 a => some { op := 0x15D, d := 0#7, a := a, b := 1#7 }
  | .cctlEvf a => some { op := 0x15D, d := 0#7, a := a, b := 2#7 }
  | .cctlInv1all => some { op := 0x15D, d := 0#7, a := 0#7, b := 3#7 }
  | .fence s k => some { op := 0x15E, d := 0#7, a := 0#7, b := (k ++ s ++ 0#3 : BitVec 7) }
  | .atom d a o w c => some { op := 0x160, d := d, a := a, b := (c ++ w ++ o : BitVec 7) }
  | .cas d a b => some { op := 0x161, d := d, a := a, b := b }
  | .red d a o w c => some { op := 0x162, d := d, a := a, b := (c ++ w ++ o : BitVec 7) }
  | .ifenceLocal => some { op := 0x163, d := 0#7, a := 0#7, b := 0#7 }
  | .ifenceDie d a => some { op := 0x163, d := d, a := a, b := 1#7 }
  | .cpy d a => some { op := 0x1C0, d := d, a := a, b := 0#7 }
  | .gather d a r => some { op := 0x1C1, d := d, a := a, b := r }
  | .scatter d a r => some { op := 0x1C2, d := d, a := a, b := r }
  | .toktest p a => some { op := 0x1C3, d := p, a := a, b := 0#7 }
  | .axbind a => some { op := 0x1C8, d := 0#7, a := a, b := 0#7 }
  | .astrm a q => some { op := 0x1C9, d := 0#7, a := a, b := (0#4 ++ q : BitVec 7) }
  | .qpushS a q => some { op := 0x1CA, d := 0#7, a := a, b := (0#4 ++ q : BitVec 7) }
  | .qpushM a q => some { op := 0x1CA, d := 0#7, a := a, b := (1#4 ++ q : BitVec 7) }
  | .barinit d a => some { op := 0x1D0, d := d, a := a, b := 0#7 }
  | .bararr d a => some { op := 0x1D1, d := d, a := a, b := 0#7 }
  | .bartx d a => some { op := 0x1D2, d := d, a := a, b := 0#7 }
  | .barwait d a t => some { op := 0x1D3, d := d, a := a, b := t }
  | .tbar => some { op := 0x1D4, d := 0#7, a := 0#7, b := 0#7 }
  | .gbar => some { op := 0x1D5, d := 0#7, a := 0#7, b := 0#7 }
  | .shape d c => some { op := 0x200, d := d, a := 0#7, b := (0#4 ++ c : BitVec 7) }
  | .slclaim d a => some { op := 0x201, d := d, a := a, b := 0#7 }
  | .slrel a => some { op := 0x202, d := 0#7, a := a, b := 0#7 }
  | .ldslot d a => some { op := 0x203, d := d, a := a, b := 0#7 }
  | .cbload d a => some { op := 0x204, d := d, a := a, b := 0#7 }
  | .mma s a b t => some { op := 0x208, d := (0#3 ++ s : BitVec 7), a := a, b := (0#1 ++ t ++ b : BitVec 7) }
  | .mmas s a b t => some { op := 0x209, d := (0#3 ++ s : BitVec 7), a := a, b := (0#1 ++ t ++ b : BitVec 7) }
  | .accz t m => some { op := 0x210, d := 0#7, a := 0#7, b := (0#4 ++ m ++ t : BitVec 7) }
  | .accrd d a t f => some { op := 0x211, d := d, a := a, b := (0#4 ++ f ++ t : BitVec 7) }
  | .accwr d a t f => some { op := 0x212, d := d, a := a, b := (0#4 ++ f ++ t : BitVec 7) }
  | .accst d a t z o => some { op := 0x213, d := d, a := a, b := (o ++ z ++ t : BitVec 7) }
  | .layerf d a f l s => some { op := 0x240, d := d, a := a, b := (0#4 ++ s ++ l ++ f : BitVec 7) }
  | .layert d a f l s => some { op := 0x241, d := d, a := a, b := (0#4 ++ s ++ l ++ f : BitVec 7) }
  | .layerd d a s => some { op := 0x242, d := d, a := a, b := (0#4 ++ s ++ 0#2 : BitVec 7) }
  | .arxq d a => some { op := 0x248, d := d, a := a, b := 0#7 }
  | .adpset d a => some { op := 0x249, d := d, a := a, b := 0#7 }
  | .calset d a => some { op := 0x24A, d := d, a := a, b := 0#7 }
  | .calrd d a => some { op := 0x24B, d := d, a := a, b := 0#7 }
  | .almrun d a f => some { op := 0x250, d := d, a := a, b := (0#6 ++ f : BitVec 7) }
  | .almfit d a => some { op := 0x251, d := d, a := a, b := 0#7 }
  | .confw d a v => some { op := 0x280, d := d, a := a, b := v }
  | .scacc d a v => some { op := 0x281, d := d, a := a, b := v }
  | .scrd d a => some { op := 0x282, d := d, a := a, b := 0#7 }
  | .scclr d a => some { op := 0x283, d := d, a := a, b := 0#7 }
  | .topk d a => some { op := 0x284, d := d, a := a, b := 0#7 }
  | .posxl d a p m => some { op := 0x285, d := d, a := a, b := (m ++ 0#1 ++ p : BitVec 7) }
  | .surv d a => some { op := 0x286, d := d, a := a, b := 0#7 }
  | .compact d a => some { op := 0x287, d := d, a := a, b := 0#7 }
  | .pxfind d a => some { op := 0x288, d := d, a := a, b := 0#7 }
  | .pxins d a => some { op := 0x289, d := d, a := a, b := 0#7 }
  | .pxrel d a => some { op := 0x28A, d := d, a := a, b := 0#7 }
  | .unmask d a => some { op := 0x28B, d := d, a := a, b := 0#7 }
  | .dirty d a => some { op := 0x28C, d := d, a := a, b := 0#7 }
  | .dmaprd d a p m => some { op := 0x28D, d := d, a := a, b := (m ++ 0#1 ++ p : BitVec 7) }
  | .chlaunch d a => some { op := 0x2C0, d := d, a := a, b := 0#7 }
  | .astm b a c k t => some { op := 0x2C8, d := b, a := a, b := (0#1 ++ t ++ k ++ c : BitVec 7) }
  | .agat l a k t => some { op := 0x2C9, d := l, a := a, b := (0#1 ++ t ++ k ++ 0#4 : BitVec 7) }
  | .aqp a t => some { op := 0x2CA, d := 0#7, a := a, b := (0#1 ++ t ++ 0#5 : BitVec 7) }
  | .astq a t => some { op := 0x2CB, d := 0#7, a := a, b := (0#1 ++ t ++ 0#5 : BitVec 7) }
  | .xpop d => some { op := 0x2D0, d := d, a := 0#7, b := 0#7 }
  | .xop d a o y => some { op := 0x2D1, d := d, a := a, b := (0#2 ++ y ++ o : BitVec 7) }
  | .xpush a => some { op := 0x2D2, d := 0#7, a := a, b := 0#7 }
  | .chend => some { op := 0x2D8, d := 0#7, a := 0#7, b := 0#7 }
  | .tfencePt s => some { op := 0x2E0, d := 0#7, a := 0#7, b := (0#2 ++ s ++ 0#3 : BitVec 7) }
  | .tfenceWalk => some { op := 0x2E0, d := 0#7, a := 0#7, b := 2#7 }
  | .tfenceInv a e s g => some { op := 0x2E0, d := 0#7, a := a, b := (0#1 ++ g ++ s ++ e ++ 1#2 : BitVec 7) }
  | .migrate d a f h => some { op := 0x2E1, d := d, a := a, b := (0#5 ++ h ++ f : BitVec 7) }
  | .ptq d a k h => some { op := 0x2E2, d := d, a := a, b := (0#4 ++ h ++ k : BitVec 7) }
  | .rnginv a s h => some { op := 0x2E3, d := 0#7, a := a, b := (0#1 ++ h ++ s ++ 0#3 : BitVec 7) }
  | .leaseq d a => some { op := 0x2E4, d := d, a := a, b := 0#7 }
  | .launch d a => some { op := 0x300, d := d, a := a, b := 0#7 }
  | .qwait d a c e => some { op := 0x301, d := d, a := a, b := (0#4 ++ e ++ c : BitVec 7) }
  | .qsig d a s => some { op := 0x302, d := d, a := a, b := (0#6 ++ s : BitVec 7) }
  | .qjmp o => some { op := 0x303, d := ((o.extractLsb' 0 6) ++ 0#1 : BitVec 7), a := o.extractLsb' 6 7, b := o.extractLsb' 13 7 }
  | .qstopStop a => some { op := 0x304, d := 0#7, a := a, b := 0#7 }
  | .qstopStart a => some { op := 0x304, d := 0#7, a := a, b := 1#7 }
  | .ctxsw d a => some { op := 0x308, d := d, a := a, b := 0#7 }
  | .ctxsv d a f => some { op := 0x309, d := d, a := a, b := (0#6 ++ f : BitVec 7) }
  | .ctxld d a => some { op := 0x30A, d := d, a := a, b := 0#7 }
  | .arprog d a => some { op := 0x310, d := d, a := a, b := 0#7 }
  | .arcommitTile d a => some { op := 0x311, d := d, a := a, b := 0#7 }
  | .arcommitGrant d a => some { op := 0x311, d := d, a := a, b := 1#7 }
  | .arcommitRevoke d a => some { op := 0x311, d := d, a := a, b := 2#7 }
  | .arstat d a => some { op := 0x312, d := d, a := a, b := 0#7 }
  | .dectabLoad d a => some { op := 0x318, d := d, a := a, b := 0#7 }
  | .dectabClr d a => some { op := 0x318, d := d, a := a, b := 1#7 }
  | .hvcall i => some { op := 0x319, d := 0#7, a := i.extractLsb' 0 7, b := i.extractLsb' 7 7 }
  | .qosset d a => some { op := 0x31A, d := d, a := a, b := 0#7 }
  | .eretResume d a => some { op := 0x340, d := d, a := a, b := 0#7 }
  | .eretSkip d a => some { op := 0x340, d := d, a := a, b := 1#7 }
  | .eretRegion d a => some { op := 0x340, d := d, a := a, b := 2#7 }
  | .eretAbort d a => some { op := 0x340, d := d, a := a, b := 3#7 }
  | .eretSelf => some { op := 0x340, d := 0#7, a := 0#7, b := 4#7 }
  | .starfix d => some { op := 0x348, d := d, a := 0#7, b := 0#7 }
  | .halt => some { op := 0x349, d := 0#7, a := 0#7, b := 0#7 }
  | .coll d a o y x => some { op := 0x350, d := d, a := a, b := (0#2 ++ x ++ y ++ o : BitVec 7) }
  | .gtcmpWrite _ _ => none
  | .wdlWrite _ _ => none
  | .mfrAccess _ _ => none
  | .chrctlRestart _ _ => none
  | .passgh _ _ => none
  | .hvctxWrite _ _ => none
  | .queueDoorbell _ _ => none
  | .powerGood => none
  | .camp1 _ _ _ => none
  | .journalBackgroundRow _ _ => none
  | .summit => none
  | .managementReset => none
  | .starfixTriggerPin => none
  | .managementStarfix => none
  | .snapshotRead _ => none
  | .attestationRequest _ _ => none
  | .healthRequest => none
  | .uetWriteReceived _ _ _ => none
  | .uetReadReceived _ _ _ => none
  | .remoteRequestReceived _ => none
  | .vlHold _ _ _ => none
  | .gtcmpFire _ => none
  | .wdlFire _ => none
  | .hangWatchdog _ => none
  | .detTeamTimeCap _ => none
  | .cheTaskWatchdog _ _ => none
  | .leaseTimeout _ _ => none
  | .migrationLimit _ => none
  | .placementLimit _ => none
  | .collGatherTimeout _ => none
  | .ctxswRollback _ => none
  | .preemptionRequest _ => none
  | .saveAtTbar _ => none
  | .forcedSave _ => none
  | .teamPlacement _ _ _ _ => none
  | .teamRestore _ _ _ => none
  | .victimEviction _ => none
  | .groupRetirement _ => none
  | .gridRetirement _ => none
  | .stepBarrierComplete _ _ => none
  | .teamBarrierComplete _ => none
  | .qpQuantumExpiry _ => none
  | .cheQuantumExpiry _ => none
  | .cheTaskStart _ _ => none
  | .cheTaskEnd _ _ => none
  | .almanacPublication _ => none
  | .patrolScrub _ _ => none
  | .throttleDeeper _ _ => none
  | .throttleBack _ _ => none
  | .resourceRetirement _ _ => none
  | .portRetirement _ => none
  | .ucieLinkRetrain _ _ => none
  | .loadDataReturn _ _ _ => none
  | .storePerform _ => none
  | .engineLineWrite _ _ => none
  | .engineTokenFill _ => none
  | .matrixUnitOperation _ => none
  | .sqeOperation _ => none
  | .pxBucketUpdate _ => none
  | .tfenceInvComplete _ => none
  | .l2LineEviction _ => none
  | .trapNotice _ => none
  | .powerFailure => none
  | .vfOpen _ _ => none
  | .vfClose _ => none
  | .granuleAssignment _ _ _ => none
  | .gridOfferReceived _ _ _ => none

/-- The 16-bit instructions: OP4, D and A (R19). -/
def encodeHalf (i : Instr) : Option (BitVec 16) :=
  match i with
  | .mov16 d a => some (a ++ d ++ 0#4 ++ 0#1)
  | .add16 d a => some (a ++ d ++ 1#4 ++ 0#1)
  | .sub16 d a => some (a ++ d ++ 2#4 ++ 0#1)
  | .mulLo16 d a => some (a ++ d ++ 3#4 ++ 0#1)
  | .and16 d a => some (a ++ d ++ 4#4 ++ 0#1)
  | .or16 d a => some (a ++ d ++ 5#4 ++ 0#1)
  | .xor16 d a => some (a ++ d ++ 6#4 ++ 0#1)
  | .shl16 d a => some (a ++ d ++ 7#4 ++ 0#1)
  | .shr16 d a => some (a ++ d ++ 8#4 ++ 0#1)
  | .sar16 d a => some (a ++ d ++ 9#4 ++ 0#1)
  | .minS16 d a => some (a ++ d ++ 10#4 ++ 0#1)
  | .maxS16 d a => some (a ++ d ++ 11#4 ++ 0#1)
  | .fadd16 d a => some (a ++ d ++ 12#4 ++ 0#1)
  | .fsub16 d a => some (a ++ d ++ 13#4 ++ 0#1)
  | .fmul16 d a => some (a ++ d ++ 14#4 ++ 0#1)
  | .fmax16 d a => some (a ++ d ++ 15#4 ++ 0#1)
  | .add _ _ _ => none
  | .sub _ _ _ => none
  | .mulLo _ _ _ => none
  | .mulHiS _ _ _ => none
  | .mulHiU _ _ _ => none
  | .mulwS _ _ _ => none
  | .mulwU _ _ _ => none
  | .mad _ _ _ => none
  | .and _ _ _ => none
  | .or _ _ _ => none
  | .xor _ _ _ => none
  | .andn _ _ _ => none
  | .shl _ _ _ => none
  | .shr _ _ _ => none
  | .sar _ _ _ => none
  | .rotl _ _ _ => none
  | .minS _ _ _ => none
  | .minU _ _ _ => none
  | .maxS _ _ _ => none
  | .maxU _ _ _ => none
  | .perm _ _ _ => none
  | .bfx _ _ _ => none
  | .bfi _ _ _ => none
  | .abs _ _ => none
  | .neg _ _ => none
  | .clz _ _ => none
  | .popc _ _ => none
  | .brev _ _ => none
  | .mov _ _ => none
  | .addi _ _ _ => none
  | .andi _ _ _ => none
  | .ori _ _ _ => none
  | .xori _ _ _ => none
  | .shli _ _ _ => none
  | .shri _ _ _ => none
  | .sari _ _ _ => none
  | .li _ _ => none
  | .lui _ _ => none
  | .cmpEq _ _ _ => none
  | .cmpNe _ _ _ => none
  | .cmpLtS _ _ _ => none
  | .cmpLeS _ _ _ => none
  | .cmpGtS _ _ _ => none
  | .cmpGeS _ _ _ => none
  | .cmpLtU _ _ _ => none
  | .cmpLeU _ _ _ => none
  | .cmpGtU _ _ _ => none
  | .cmpGeU _ _ _ => none
  | .add64 _ _ _ => none
  | .sub64 _ _ _ => none
  | .shl64 _ _ _ => none
  | .shr64 _ _ _ => none
  | .cmp64Eq _ _ _ => none
  | .cmp64Ne _ _ _ => none
  | .cmp64LtS _ _ _ => none
  | .cmp64LeS _ _ _ => none
  | .cmp64GtS _ _ _ => none
  | .cmp64GeS _ _ _ => none
  | .cmp64LtU _ _ _ => none
  | .cmp64LeU _ _ _ => none
  | .cmp64GtU _ _ _ => none
  | .cmp64GeU _ _ _ => none
  | .sel _ _ _ _ => none
  | .fadd _ _ _ => none
  | .fsub _ _ _ => none
  | .fmul _ _ _ => none
  | .ffma _ _ _ => none
  | .fdiv _ _ _ => none
  | .fmin _ _ _ => none
  | .fmax _ _ _ => none
  | .fcpys _ _ _ => none
  | .fsqrt _ _ _ => none
  | .fabs _ _ => none
  | .fneg _ _ => none
  | .fclass _ _ => none
  | .frint _ _ _ => none
  | .frcp _ _ => none
  | .frsq _ _ => none
  | .fex2 _ _ => none
  | .flg2 _ _ => none
  | .fsin _ _ => none
  | .fcos _ _ => none
  | .fcmpEq _ _ _ => none
  | .fcmpNe _ _ _ => none
  | .fcmpLt _ _ _ => none
  | .fcmpLe _ _ _ => none
  | .fcmpGt _ _ _ => none
  | .fcmpGe _ _ _ => none
  | .fcmpUn _ _ _ => none
  | .dadd _ _ _ => none
  | .dsub _ _ _ => none
  | .dmul _ _ _ => none
  | .dfma _ _ _ => none
  | .ddiv _ _ _ => none
  | .dsqrt _ _ _ => none
  | .dcmpEq _ _ _ => none
  | .dcmpNe _ _ _ => none
  | .dcmpLt _ _ _ => none
  | .dcmpLe _ _ _ => none
  | .dcmpGt _ _ _ => none
  | .dcmpGe _ _ _ => none
  | .dcmpUn _ _ _ => none
  | .hadd2Bf16 _ _ _ => none
  | .hadd2Fp16 _ _ _ => none
  | .hmul2Bf16 _ _ _ => none
  | .hmul2Fp16 _ _ _ => none
  | .hfma2Bf16 _ _ _ => none
  | .hfma2Fp16 _ _ _ => none
  | .cvt _ _ _ _ => none
  | .cvtbPack _ _ _ => none
  | .cvtbUnpack _ _ _ => none
  | .cblook _ _ _ => none
  | .shflIdx _ _ _ => none
  | .shflUp _ _ _ => none
  | .shflDn _ _ _ => none
  | .shflXor _ _ _ => none
  | .voteAny _ _ _ => none
  | .voteAll _ _ _ => none
  | .voteBal _ _ _ => none
  | .redx _ _ _ => none
  | .scan _ _ _ _ => none
  | .matchOp _ _ _ _ => none
  | .jmp _ => none
  | .call _ => none
  | .jmpuZ _ _ => none
  | .jmpuNz _ _ => none
  | .ret _ => none
  | .ifp _ _ => none
  | .elseOp _ => none
  | .fi => none
  | .loop _ => none
  | .endl _ => none
  | .brkp _ _ => none
  | .contp _ _ => none
  | .exit => none
  | .yield => none
  | .nop => none
  | .region => none
  | .step => none
  | .srd _ _ => none
  | .swr _ _ => none
  | .trap _ => none
  | .ldB8 _ _ _ => none
  | .ldB8S _ _ _ => none
  | .ldB16 _ _ _ => none
  | .ldB16S _ _ _ => none
  | .ldB32 _ _ _ => none
  | .ldB64 _ _ _ => none
  | .ldB128 _ _ _ => none
  | .stB8 _ _ _ => none
  | .stB16 _ _ _ => none
  | .stB32 _ _ _ => none
  | .stB64 _ _ _ => none
  | .stB128 _ _ _ => none
  | .ldStrong _ _ _ _ _ => none
  | .stStrong _ _ _ _ _ => none
  | .ldfe _ _ _ => none
  | .stfe _ _ _ => none
  | .feset _ _ => none
  | .fetest _ _ => none
  | .sptest _ _ => none
  | .spcast _ _ _ _ => none
  | .pref _ _ => none
  | .cctlInv1 _ => none
  | .cctlWb2 _ => none
  | .cctlEvf _ => none
  | .cctlInv1all => none
  | .fence _ _ => none
  | .atom _ _ _ _ _ => none
  | .cas _ _ _ => none
  | .red _ _ _ _ _ => none
  | .ifenceLocal => none
  | .ifenceDie _ _ => none
  | .cpy _ _ => none
  | .gather _ _ _ => none
  | .scatter _ _ _ => none
  | .toktest _ _ => none
  | .axbind _ => none
  | .astrm _ _ => none
  | .qpushS _ _ => none
  | .qpushM _ _ => none
  | .barinit _ _ => none
  | .bararr _ _ => none
  | .bartx _ _ => none
  | .barwait _ _ _ => none
  | .tbar => none
  | .gbar => none
  | .shape _ _ => none
  | .slclaim _ _ => none
  | .slrel _ => none
  | .ldslot _ _ => none
  | .cbload _ _ => none
  | .mma _ _ _ _ => none
  | .mmas _ _ _ _ => none
  | .accz _ _ => none
  | .accrd _ _ _ _ => none
  | .accwr _ _ _ _ => none
  | .accst _ _ _ _ _ => none
  | .layerf _ _ _ _ _ => none
  | .layert _ _ _ _ _ => none
  | .layerd _ _ _ => none
  | .arxq _ _ => none
  | .adpset _ _ => none
  | .calset _ _ => none
  | .calrd _ _ => none
  | .almrun _ _ _ => none
  | .almfit _ _ => none
  | .confw _ _ _ => none
  | .scacc _ _ _ => none
  | .scrd _ _ => none
  | .scclr _ _ => none
  | .topk _ _ => none
  | .posxl _ _ _ _ => none
  | .surv _ _ => none
  | .compact _ _ => none
  | .pxfind _ _ => none
  | .pxins _ _ => none
  | .pxrel _ _ => none
  | .unmask _ _ => none
  | .dirty _ _ => none
  | .dmaprd _ _ _ _ => none
  | .chlaunch _ _ => none
  | .astm _ _ _ _ _ => none
  | .agat _ _ _ _ => none
  | .aqp _ _ => none
  | .astq _ _ => none
  | .xpop _ => none
  | .xop _ _ _ _ => none
  | .xpush _ => none
  | .chend => none
  | .tfencePt _ => none
  | .tfenceWalk => none
  | .tfenceInv _ _ _ _ => none
  | .migrate _ _ _ _ => none
  | .ptq _ _ _ _ => none
  | .rnginv _ _ _ => none
  | .leaseq _ _ => none
  | .launch _ _ => none
  | .qwait _ _ _ _ => none
  | .qsig _ _ _ => none
  | .qjmp _ => none
  | .qstopStop _ => none
  | .qstopStart _ => none
  | .ctxsw _ _ => none
  | .ctxsv _ _ _ => none
  | .ctxld _ _ => none
  | .arprog _ _ => none
  | .arcommitTile _ _ => none
  | .arcommitGrant _ _ => none
  | .arcommitRevoke _ _ => none
  | .arstat _ _ => none
  | .dectabLoad _ _ => none
  | .dectabClr _ _ => none
  | .hvcall _ => none
  | .qosset _ _ => none
  | .eretResume _ _ => none
  | .eretSkip _ _ => none
  | .eretRegion _ _ => none
  | .eretAbort _ _ => none
  | .eretSelf => none
  | .starfix _ => none
  | .halt => none
  | .coll _ _ _ _ _ => none
  | .gtcmpWrite _ _ => none
  | .wdlWrite _ _ => none
  | .mfrAccess _ _ => none
  | .chrctlRestart _ _ => none
  | .passgh _ _ => none
  | .hvctxWrite _ _ => none
  | .queueDoorbell _ _ => none
  | .powerGood => none
  | .camp1 _ _ _ => none
  | .journalBackgroundRow _ _ => none
  | .summit => none
  | .managementReset => none
  | .starfixTriggerPin => none
  | .managementStarfix => none
  | .snapshotRead _ => none
  | .attestationRequest _ _ => none
  | .healthRequest => none
  | .uetWriteReceived _ _ _ => none
  | .uetReadReceived _ _ _ => none
  | .remoteRequestReceived _ => none
  | .vlHold _ _ _ => none
  | .gtcmpFire _ => none
  | .wdlFire _ => none
  | .hangWatchdog _ => none
  | .detTeamTimeCap _ => none
  | .cheTaskWatchdog _ _ => none
  | .leaseTimeout _ _ => none
  | .migrationLimit _ => none
  | .placementLimit _ => none
  | .collGatherTimeout _ => none
  | .ctxswRollback _ => none
  | .preemptionRequest _ => none
  | .saveAtTbar _ => none
  | .forcedSave _ => none
  | .teamPlacement _ _ _ _ => none
  | .teamRestore _ _ _ => none
  | .victimEviction _ => none
  | .groupRetirement _ => none
  | .gridRetirement _ => none
  | .stepBarrierComplete _ _ => none
  | .teamBarrierComplete _ => none
  | .qpQuantumExpiry _ => none
  | .cheQuantumExpiry _ => none
  | .cheTaskStart _ _ => none
  | .cheTaskEnd _ _ => none
  | .almanacPublication _ => none
  | .patrolScrub _ _ => none
  | .throttleDeeper _ _ => none
  | .throttleBack _ _ => none
  | .resourceRetirement _ _ => none
  | .portRetirement _ => none
  | .ucieLinkRetrain _ _ => none
  | .loadDataReturn _ _ _ => none
  | .storePerform _ => none
  | .engineLineWrite _ _ => none
  | .engineTokenFill _ => none
  | .matrixUnitOperation _ => none
  | .sqeOperation _ => none
  | .pxBucketUpdate _ => none
  | .tfenceInvComplete _ => none
  | .l2LineEviction _ => none
  | .trapNotice _ => none
  | .powerFailure => none
  | .vfOpen _ _ => none
  | .vfClose _ => none
  | .granuleAssignment _ _ _ => none
  | .gridOfferReceived _ _ _ => none

/-- The word of an instruction; none for an event, which has no encoding. -/
def encode (i : Instr) : Option Code :=
  match encodeHalf i with
  | some h => some (.half h)
  | none => (encodeFields i).map (fun f => .word (packWord f.op f.d f.a f.b))

/-- The operation number of an instruction (R41): its opcode in map 1. 1,024 stands for a 16-bit instruction, 1,025 for an event. -/
def Instr.opn (i : Instr) : Nat :=
  match encodeHalf i with
  | some _ => 1024
  | none => match encodeFields i with
    | some f => f.op.toNat
    | none => 1025

/-- A row of the opcode table without an encoding: something that happens to the module. -/
def Instr.isEvent (i : Instr) : Bool := i.opn == 1025

/-- The operations of map 1 (R45). -/
def opMapped (op : Nat) : Bool :=
  [(0x000, 0x016), (0x018, 0x01D), (0x020, 0x026), (0x028, 0x029), (0x030, 0x039), (0x040, 0x043), (0x048, 0x051), (0x070, 0x077), (0x080, 0x08C), (0x090, 0x095), (0x098, 0x09E), (0x0A0, 0x0A5), (0x0A8, 0x0AE), (0x0B0, 0x0B5), (0x0C0, 0x0C2), (0x100, 0x109), (0x110, 0x114), (0x118, 0x11E), (0x120, 0x124), (0x128, 0x12A), (0x140, 0x146), (0x148, 0x14C), (0x150, 0x151), (0x154, 0x159), (0x15C, 0x15E), (0x160, 0x163), (0x1C0, 0x1C3), (0x1C8, 0x1CA), (0x1D0, 0x1D5), (0x200, 0x204), (0x208, 0x209), (0x210, 0x213), (0x240, 0x242), (0x248, 0x24B), (0x250, 0x251), (0x280, 0x28D), (0x2C0, 0x2C0), (0x2C8, 0x2CB), (0x2D0, 0x2D2), (0x2D8, 0x2D8), (0x2E0, 0x2E4), (0x300, 0x304), (0x308, 0x30A), (0x310, 0x312), (0x318, 0x31A), (0x340, 0x340), (0x348, 0x349), (0x350, 0x350)].any (fun r => decide (r.1 ≤ op) && decide (op ≤ r.2))

/-- FMT of an operation in map 1 (R41, R45): 0 RRR, 1 RI7, 2 I14, 3 M, 4 J21, 5 X. -/
def opFormat (op : Nat) : Nat :=
  if [(0x018, 0x01D), (0x088, 0x08C), (0x090, 0x095), (0x0A5, 0x0A5), (0x0C0, 0x0C1), (0x104, 0x109), (0x114, 0x114), (0x11A, 0x11A), (0x11D, 0x11E), (0x120, 0x124), (0x150, 0x151), (0x156, 0x15E), (0x160, 0x160), (0x162, 0x163), (0x1C0, 0x302), (0x304, 0x318), (0x31A, 0x350)].any (fun r => decide (r.1 ≤ op) && decide (op ≤ r.2)) then 5
  else if (0x020 ≤ op ∧ op ≤ 0x026) then 1
  else if op = 0x028 ∨ op = 0x029 ∨ op = 0x112 ∨ op = 0x113 ∨ op = 0x118 ∨ op = 0x119 ∨ op = 0x11B ∨ op = 0x11C ∨ op = 0x128 ∨ op = 0x129 ∨ op = 0x12A ∨ op = 0x319 then 2
  else if (0x140 ≤ op ∧ op ≤ 0x14C) ∨ op = 0x154 ∨ op = 0x155 then 3
  else if op = 0x110 ∨ op = 0x111 ∨ op = 0x303 then 4
  else 0


/-! ## The roles of register fields -/

/-- What a register field must name (R28, R32, R36 and the entries). -/
inductive Kind where
  /-- a 32-bit source: any register -/
  | word
  /-- a 32-bit store source: any register -/
  | data
  /-- an even V or S pair -/
  | pair
  /-- a V or S quad -/
  | quad
  /-- S0-S31 -/
  | s
  /-- an even S register -/
  | spair
  /-- S0-S30 -/
  | s30
  /-- a token register, S0-S30 (R36) -/
  | tok
  /-- a block of four S registers -/
  | blk4
  /-- a block of eight S registers -/
  | blk8
  /-- V0-V87 -/
  | v
  /-- an even V pair -/
  | vpair
  /-- V0-V87 or Q0-Q7 -/
  | vq
  /-- a predicate field -/
  | pred
  /-- judged when the instruction executes (SRD, SWR: R109) -/
  | any
  deriving DecidableEq, Repr

/-- One static requirement of an instruction: a field with what it names and whether it is read or written, or a condition of the entry. -/
inductive Use where
  | field (k : Kind) (f : BitVec 7) (reads writes : Bool)
  | cond (ok : Bool)
  deriving DecidableEq, Repr

def isV (f : BitVec 7) : Bool := decide (f.toNat < 88)
def isQ (f : BitVec 7) : Bool := decide (88 ≤ f.toNat) && decide (f.toNat < 96)
def isS (f : BitVec 7) : Bool := decide (96 ≤ f.toNat)
/-- A0-A15 or X0-X15 in a channel-engine thread (R378). -/
def isA (f : BitVec 7) : Bool := decide (f.toNat < 16)

def rd (k : Kind) (f : BitVec 7) : Use := .field k f true false
def wr (k : Kind) (f : BitVec 7) : Use := .field k f false true
def rw (k : Kind) (f : BitVec 7) : Use := .field k f true true

/-- R35: an S destination with a V or Q source is illegal. -/
def r35 (d : BitVec 7) (srcs : List (BitVec 7)) : Use := .cond (!(isS d && srcs.any (fun f => !isS f)))

/-- R36: the token register lies outside the block of n registers at a. -/
def tokOut (d a : BitVec 7) (n : Nat) : Use := .cond (!(decide (a.toNat ≤ d.toNat) && decide (d.toNat < a.toNat + n)))

/-- CVT numbers whose destination is a pair (R139). -/
def cvtDst (c : BitVec 6) : Kind :=
  if [0x00, 0x01, 0x02, 0x12, 0x13, 0x16, 0x17, 0x1C, 0x1D, 0x1E, 0x1F].contains c.toNat then .pair else .word

/-- CVT numbers whose source is a pair (R139). -/
def cvtSrc (c : BitVec 6) : Kind :=
  if [0x08, 0x09, 0x0A, 0x14, 0x15, 0x16, 0x17, 0x1A, 0x1B, 0x1E, 0x1F].contains c.toNat then .pair else .word

/-- The data field of a strong load by SIZE (R46). -/
def sizeKind (z : BitVec 3) : Kind := if z = 5 then .pair else if z = 6 then .quad else .word
def sizeData (z : BitVec 3) : Kind := if z = 5 then .pair else if z = 6 then .quad else .data
def atomKind (w : BitVec 1) : Kind := if w = 0 then .word else .pair

/-- May the field name this register in this role (R28, R32, R36)? A written 32-bit field may not name a Q register; a quad or pair never does. -/
def Kind.ok (k : Kind) (f : BitVec 7) (writes : Bool) : Bool :=
  let n := f.toNat
  match k with
  | .word => !(writes && isQ f)
  | .data => true
  | .pair => decide (n % 2 = 0) && !isQ f
  | .quad => decide (n % 4 = 0) && !isQ f
  | .s => isS f
  | .spair => isS f && decide (n % 2 = 0)
  | .s30 => isS f && decide (n ≠ 127)
  | .tok => isS f && decide (n ≠ 127)
  | .blk4 => isS f && decide (n % 4 = 0)
  | .blk8 => isS f && decide (n % 8 = 0)
  | .v => isV f
  | .vpair => isV f && decide (n % 2 = 0)
  | .vq => isV f || isQ f
  | .pred => decide (n < 8)
  | .any => !isQ f

/-- How many registers the role spans. -/
def Kind.span : Kind → Nat
  | .pair => 2 | .spair => 2 | .vpair => 2
  | .quad => 4 | .blk4 => 4 | .blk8 => 8
  | .pred => 0 | .any => 0
  | _ => 1

def Use.ok : Use → Bool
  | .field k f _ w => k.ok f w
  | .cond b => b

/-- An engine instruction with a token and an 8-register block (R36). -/
def tok8 (d a : BitVec 7) : List Use := [wr .tok d, rd .blk8 a, tokOut d a 8]
/-- An engine instruction with a token and a 4-register block (R36). -/
def tok4 (d a : BitVec 7) : List Use := [wr .tok d, rd .blk4 a, tokOut d a 4]

/-! The static requirements of each instruction: R28, R32, R35, R36, R152 and the illegal combinations of each entry. -/

namespace Uses

/-- A 16-bit instruction (R19): two V registers; D is read too but for MOV. -/
def half (reads : Bool) (d : BitVec 6) (a : BitVec 5) : List Use := [.field .v (d.setWidth 7) reads true, rd .v (a.setWidth 7)]
def add (d : BitVec 7) (a : BitVec 7) (b : BitVec 7) : List Use := [wr .word d, rd .word a, rd .word b, r35 d [a, b]]
def mulwS (d : BitVec 7) (a : BitVec 7) (b : BitVec 7) : List Use := [wr .pair d, rd .word a, rd .word b, r35 d [a, b]]
def mad (d : BitVec 7) (a : BitVec 7) (b : BitVec 7) : List Use := [rw .word d, rd .word a, rd .word b, r35 d [a, b]]
def abs (d : BitVec 7) (a : BitVec 7) : List Use := [wr .word d, rd .word a, r35 d [a]]
def shli (d : BitVec 7) (a : BitVec 7) (i : BitVec 7) : List Use := [wr .word d, rd .word a, r35 d [a], .cond (decide (i.toNat ≤ 31))]
def li (d : BitVec 7) : List Use := [wr .word d]
def lui (d : BitVec 7) : List Use := [rw .word d]
def cmpEq (p : BitVec 7) (a : BitVec 7) (b : BitVec 7) : List Use := [wr .pred p, rd .word a, rd .word b]
def add64 (d : BitVec 7) (a : BitVec 7) (b : BitVec 7) : List Use := [wr .pair d, rd .pair a, rd .pair b, r35 d [a, b]]
def shl64 (d : BitVec 7) (a : BitVec 7) (b : BitVec 7) : List Use := [wr .pair d, rd .pair a, rd .word b, r35 d [a, b]]
def cmp64Eq (p : BitVec 7) (a : BitVec 7) (b : BitVec 7) : List Use := [wr .pred p, rd .pair a, rd .pair b]
def sel (d : BitVec 7) (a : BitVec 7) (b : BitVec 7) : List Use := [wr .v d, rd .word a, rd .word b]
def fsqrt (d : BitVec 7) (a : BitVec 7) (r : BitVec 3) : List Use := [wr .word d, rd .word a, r35 d [a], .cond (r = 0 || r.getLsbD 2)]
def dfma (d : BitVec 7) (a : BitVec 7) (b : BitVec 7) : List Use := [rw .pair d, rd .pair a, rd .pair b, r35 d [a, b]]
def dsqrt (d : BitVec 7) (a : BitVec 7) (r : BitVec 3) : List Use := [wr .pair d, rd .pair a, r35 d [a], .cond (r = 0 || r.getLsbD 2)]
def cvt (d : BitVec 7) (a : BitVec 7) (c : BitVec 6) (o : BitVec 1) : List Use := [wr (cvtDst c) d, rd (cvtSrc c) a, r35 d [a], .cond (decide (c.toNat < 32)), .cond (o = 0 || (decide (0x0D ≤ c.toNat) && decide (c.toNat ≤ 0x17)))]
def cvtbPack (d : BitVec 7) (a : BitVec 7) (f : BitVec 3) : List Use := [wr .v d, rd .vq a, .cond (decide (f.toNat ≤ 4))]
def cblook (d : BitVec 7) (a : BitVec 7) (b : BitVec 7) : List Use := [wr .word d, rd .word a, rd .blk8 b, r35 d [a]]
def voteAny (p : BitVec 7) (q : BitVec 3) : List Use := [wr .pred p, rd .pred (q.setWidth 7)]
def voteBal (d : BitVec 7) (q : BitVec 3) : List Use := [wr .spair d, rd .pred (q.setWidth 7)]
def redx (d : BitVec 7) (a : BitVec 7) (o : BitVec 4) : List Use := [wr .s d, rd .vq a, .cond (decide (o.toNat ≤ 10))]
def scan (d : BitVec 7) (a : BitVec 7) (o : BitVec 4) : List Use := [wr .v d, rd .vq a, .cond (decide (o.toNat ≤ 10))]
def matchOp (d : BitVec 7) (a : BitVec 7) (l : BitVec 1) (w : BitVec 1) : List Use := [wr (if l = 0 then .vpair else .spair) d, rd (if w = 0 then .vq else .vpair) a]
def call  : List Use := [wr .spair 124]
def jmpuZ (d : BitVec 7) : List Use := [rd .s d]
def ret (a : BitVec 7) : List Use := [rd .spair a]
def ifp (p : BitVec 7) : List Use := [.field .pred p false false]
def srd (d : BitVec 7) : List Use := [.field .any d false false]
def ldB8 (d : BitVec 7) (b : BitVec 7) : List Use := [rd .pair b, wr .word d, r35 d [b]]
def ldB64 (d : BitVec 7) (b : BitVec 7) : List Use := [rd .pair b, wr .pair d, r35 d [b]]
def ldB128 (d : BitVec 7) (b : BitVec 7) : List Use := [rd .pair b, wr .quad d, r35 d [b]]
def stB8 (d : BitVec 7) (b : BitVec 7) : List Use := [rd .pair b, rd .data d, r35 d [b]]
def stB64 (d : BitVec 7) (b : BitVec 7) : List Use := [rd .pair b, rd .pair d, r35 d [b]]
def stB128 (d : BitVec 7) (b : BitVec 7) : List Use := [rd .pair b, rd .quad d, r35 d [b]]
def ldStrong (d : BitVec 7) (a : BitVec 7) (z : BitVec 3) (o : BitVec 2) : List Use := [rd .pair a, wr (sizeKind z) d, r35 d [a], .cond (z ≠ 7), .cond (o = 1 || o = 2)]
def stStrong (d : BitVec 7) (a : BitVec 7) (z : BitVec 3) (o : BitVec 2) : List Use := [rd .pair a, rd (sizeData z) d, r35 d [a], .cond (z ≠ 7 && z ≠ 1 && z ≠ 3), .cond (o = 1 || o = 3)]
def feset (a : BitVec 7) : List Use := [rd .pair a]
def fetest (p : BitVec 7) (a : BitVec 7) : List Use := [wr .pred p, rd .pair a]
def sptest (d : BitVec 7) (a : BitVec 7) : List Use := [wr .word d, rd .pair a, r35 d [a]]
def spcast (d : BitVec 7) (a : BitVec 7) (s : BitVec 2) : List Use := [wr .pair d, rd .pair a, r35 d [a], .cond (s ≠ 3)]
def pref (a : BitVec 7) (l : BitVec 2) : List Use := [rd .pair a, .cond (l ≠ 3)]
def fence (k : BitVec 2) : List Use := [.cond (k ≠ 0)]
def atom (d : BitVec 7) (a : BitVec 7) (w : BitVec 1) (c : BitVec 4) : List Use := [rd .pair a, rw (atomKind w) d, r35 d [a], .cond (decide (c.toNat ≤ 9)), .cond (!(c = 9 && w = 1))]
def cas (d : BitVec 7) (a : BitVec 7) (b : BitVec 7) : List Use := [rd .pair a, rw .pair d, rd .pair b, r35 d [a, b]]
def red (d : BitVec 7) (a : BitVec 7) (o : BitVec 2) (w : BitVec 1) (c : BitVec 4) : List Use := [rd .pair a, rd (if w = 0 then .data else .pair) d, .cond (!isQ d), r35 d [a], .cond (decide (c.toNat ≤ 9) && c ≠ 8), .cond (!(c = 9 && w = 1)), .cond (o = 0 || o = 2)]
def ifenceDie (d : BitVec 7) (a : BitVec 7) : List Use := [rd .s d, rd .spair a]
def cpy (d : BitVec 7) (a : BitVec 7) : List Use := tok8 d a
def gather (d : BitVec 7) (a : BitVec 7) (r : BitVec 7) : List Use := [wr .tok d, rd .blk8 a, tokOut d a 8, rd .vq r]
def toktest (p : BitVec 7) (a : BitVec 7) : List Use := [wr .pred p, .field .s30 a false false]
def axbind (a : BitVec 7) : List Use := [rd .blk4 a]
def qpushS (a : BitVec 7) : List Use := [rd .s a]
def barinit (d : BitVec 7) (a : BitVec 7) : List Use := [rd .spair a, rd .s d]
def bararr (d : BitVec 7) (a : BitVec 7) : List Use := [rd .spair a, wr .s d]
def barwait (d : BitVec 7) (a : BitVec 7) (t : BitVec 7) : List Use := [rd .spair a, rd .s t, wr .s d]
def shape (d : BitVec 7) (c : BitVec 3) : List Use := [wr .s30 d, .cond (decide (c.toNat ≤ 4))]
def slclaim (d : BitVec 7) (a : BitVec 7) : List Use := [wr .s30 d, rd .s a]
def cbload (d : BitVec 7) (a : BitVec 7) : List Use := tok4 d a
def mmas (s : BitVec 4) (a : BitVec 7) : List Use := [rd .s a, .cond (s.getLsbD 0 = false)]
def accrd (d : BitVec 7) (a : BitVec 7) (f : BitVec 1) : List Use := [wr (if f = 0 then .vpair else .v) d, rd .s a]
def accwr (d : BitVec 7) (a : BitVec 7) (f : BitVec 1) : List Use := [rd (if f = 0 then .vpair else .v) d, rd .s a]
def accst (d : BitVec 7) (a : BitVec 7) (z : BitVec 1) (o : BitVec 4) : List Use := [wr .tok d, rd .blk8 a, tokOut d a 8, .cond (decide (o.toNat ≤ 9)), .cond (!(z = 1 && decide (8 ≤ o.toNat)))]
def confw (d : BitVec 7) (a : BitVec 7) (v : BitVec 7) : List Use := [wr .tok d, rd .blk4 a, tokOut d a 4, rd .v v, rd .v (v + 1), rd .v (v + 2)]
def scacc (d : BitVec 7) (a : BitVec 7) (v : BitVec 7) : List Use := [wr .tok d, rd .blk4 a, tokOut d a 4, rd .v v, rd .v (v + 1)]
def posxl (d : BitVec 7) (a : BitVec 7) (p : BitVec 3) (m : BitVec 3) : List Use := [wr .vpair d, rd .word a, rd .blk4 (96 + 4 * m.setWidth 7), .field .pred (p.setWidth 7) false true]
def dmaprd (d : BitVec 7) (a : BitVec 7) (p : BitVec 3) (m : BitVec 3) : List Use := [wr .v d, rd .word a, rd .blk4 (96 + 4 * m.setWidth 7), .field .pred (p.setWidth 7) false true]
def astm (b : BitVec 7) (a : BitVec 7) : List Use := [.cond (isA b), .cond (isA a)]
def agat (l : BitVec 7) (a : BitVec 7) : List Use := [.cond (isA l), .cond (isA a)]
def aqp (a : BitVec 7) : List Use := [.cond (isA a)]
def xpop (d : BitVec 7) : List Use := [.cond (isA d)]
def xop (d : BitVec 7) (a : BitVec 7) (o : BitVec 3) (y : BitVec 2) : List Use := [.cond (isA d), .cond (isA a), .cond (decide (o.toNat ≤ 5)), .cond (y ≠ 3)]
def ptq (d : BitVec 7) (a : BitVec 7) (k : BitVec 2) : List Use := [wr .blk4 d, rd .spair a, .cond (k ≠ 3)]
def leaseq (d : BitVec 7) (a : BitVec 7) : List Use := [wr .spair d, rd .spair a]
def qwait (d : BitVec 7) (a : BitVec 7) (c : BitVec 2) (e : BitVec 1) : List Use := [rd .spair d, rd .spair a, .cond (c ≠ 3), .cond (!(e = 1 && (c = 1 || c = 2)))]
def qsig (d : BitVec 7) (a : BitVec 7) : List Use := [rd .spair d, rd .spair a]
def ctxsw (d : BitVec 7) (a : BitVec 7) : List Use := [wr .s d, rd .blk8 a]
def ctxsv (d : BitVec 7) (a : BitVec 7) : List Use := [wr .s d, rd .blk4 a]
def eretResume (d : BitVec 7) (a : BitVec 7) : List Use := [wr .s d, rd .s a]
def starfix (d : BitVec 7) : List Use := [wr .s d]
def coll (d : BitVec 7) (a : BitVec 7) (y : BitVec 2) : List Use := [wr .tok d, rd .blk8 a, tokOut d a 8, .cond (y ≠ 3)]
end Uses

/-- The static requirements of an instruction; an event has none. -/
def uses (i : Instr) : List Use :=
  match i with
  | .mov16 d a => Uses.half false d a
  | .add16 d a => Uses.half true d a
  | .sub16 d a => Uses.half true d a
  | .mulLo16 d a => Uses.half true d a
  | .and16 d a => Uses.half true d a
  | .or16 d a => Uses.half true d a
  | .xor16 d a => Uses.half true d a
  | .shl16 d a => Uses.half true d a
  | .shr16 d a => Uses.half true d a
  | .sar16 d a => Uses.half true d a
  | .minS16 d a => Uses.half true d a
  | .maxS16 d a => Uses.half true d a
  | .fadd16 d a => Uses.half true d a
  | .fsub16 d a => Uses.half true d a
  | .fmul16 d a => Uses.half true d a
  | .fmax16 d a => Uses.half true d a
  | .add d a b => Uses.add d a b
  | .sub d a b => Uses.add d a b
  | .mulLo d a b => Uses.add d a b
  | .mulHiS d a b => Uses.add d a b
  | .mulHiU d a b => Uses.add d a b
  | .mulwS d a b => Uses.mulwS d a b
  | .mulwU d a b => Uses.mulwS d a b
  | .mad d a b => Uses.mad d a b
  | .and d a b => Uses.add d a b
  | .or d a b => Uses.add d a b
  | .xor d a b => Uses.add d a b
  | .andn d a b => Uses.add d a b
  | .shl d a b => Uses.add d a b
  | .shr d a b => Uses.add d a b
  | .sar d a b => Uses.add d a b
  | .rotl d a b => Uses.add d a b
  | .minS d a b => Uses.add d a b
  | .minU d a b => Uses.add d a b
  | .maxS d a b => Uses.add d a b
  | .maxU d a b => Uses.add d a b
  | .perm d a b => Uses.mad d a b
  | .bfx d a b => Uses.add d a b
  | .bfi d a b => Uses.mad d a b
  | .abs d a => Uses.abs d a
  | .neg d a => Uses.abs d a
  | .clz d a => Uses.abs d a
  | .popc d a => Uses.abs d a
  | .brev d a => Uses.abs d a
  | .mov d a => Uses.abs d a
  | .addi d a _ => Uses.abs d a
  | .andi d a _ => Uses.abs d a
  | .ori d a _ => Uses.abs d a
  | .xori d a _ => Uses.abs d a
  | .shli d a i => Uses.shli d a i
  | .shri d a i => Uses.shli d a i
  | .sari d a i => Uses.shli d a i
  | .li d _ => Uses.li d
  | .lui d _ => Uses.lui d
  | .cmpEq p a b => Uses.cmpEq p a b
  | .cmpNe p a b => Uses.cmpEq p a b
  | .cmpLtS p a b => Uses.cmpEq p a b
  | .cmpLeS p a b => Uses.cmpEq p a b
  | .cmpGtS p a b => Uses.cmpEq p a b
  | .cmpGeS p a b => Uses.cmpEq p a b
  | .cmpLtU p a b => Uses.cmpEq p a b
  | .cmpLeU p a b => Uses.cmpEq p a b
  | .cmpGtU p a b => Uses.cmpEq p a b
  | .cmpGeU p a b => Uses.cmpEq p a b
  | .add64 d a b => Uses.add64 d a b
  | .sub64 d a b => Uses.add64 d a b
  | .shl64 d a b => Uses.shl64 d a b
  | .shr64 d a b => Uses.shl64 d a b
  | .cmp64Eq p a b => Uses.cmp64Eq p a b
  | .cmp64Ne p a b => Uses.cmp64Eq p a b
  | .cmp64LtS p a b => Uses.cmp64Eq p a b
  | .cmp64LeS p a b => Uses.cmp64Eq p a b
  | .cmp64GtS p a b => Uses.cmp64Eq p a b
  | .cmp64GeS p a b => Uses.cmp64Eq p a b
  | .cmp64LtU p a b => Uses.cmp64Eq p a b
  | .cmp64LeU p a b => Uses.cmp64Eq p a b
  | .cmp64GtU p a b => Uses.cmp64Eq p a b
  | .cmp64GeU p a b => Uses.cmp64Eq p a b
  | .sel _ d a b => Uses.sel d a b
  | .fadd d a b => Uses.add d a b
  | .fsub d a b => Uses.add d a b
  | .fmul d a b => Uses.add d a b
  | .ffma d a b => Uses.mad d a b
  | .fdiv d a b => Uses.add d a b
  | .fmin d a b => Uses.add d a b
  | .fmax d a b => Uses.add d a b
  | .fcpys d a b => Uses.add d a b
  | .fsqrt d a r => Uses.fsqrt d a r
  | .fabs d a => Uses.abs d a
  | .fneg d a => Uses.abs d a
  | .fclass d a => Uses.abs d a
  | .frint d a r => Uses.fsqrt d a r
  | .frcp d a => Uses.abs d a
  | .frsq d a => Uses.abs d a
  | .fex2 d a => Uses.abs d a
  | .flg2 d a => Uses.abs d a
  | .fsin d a => Uses.abs d a
  | .fcos d a => Uses.abs d a
  | .fcmpEq p a b => Uses.cmpEq p a b
  | .fcmpNe p a b => Uses.cmpEq p a b
  | .fcmpLt p a b => Uses.cmpEq p a b
  | .fcmpLe p a b => Uses.cmpEq p a b
  | .fcmpGt p a b => Uses.cmpEq p a b
  | .fcmpGe p a b => Uses.cmpEq p a b
  | .fcmpUn p a b => Uses.cmpEq p a b
  | .dadd d a b => Uses.add64 d a b
  | .dsub d a b => Uses.add64 d a b
  | .dmul d a b => Uses.add64 d a b
  | .dfma d a b => Uses.dfma d a b
  | .ddiv d a b => Uses.add64 d a b
  | .dsqrt d a r => Uses.dsqrt d a r
  | .dcmpEq p a b => Uses.cmp64Eq p a b
  | .dcmpNe p a b => Uses.cmp64Eq p a b
  | .dcmpLt p a b => Uses.cmp64Eq p a b
  | .dcmpLe p a b => Uses.cmp64Eq p a b
  | .dcmpGt p a b => Uses.cmp64Eq p a b
  | .dcmpGe p a b => Uses.cmp64Eq p a b
  | .dcmpUn p a b => Uses.cmp64Eq p a b
  | .hadd2Bf16 d a b => Uses.add d a b
  | .hadd2Fp16 d a b => Uses.add d a b
  | .hmul2Bf16 d a b => Uses.add d a b
  | .hmul2Fp16 d a b => Uses.add d a b
  | .hfma2Bf16 d a b => Uses.mad d a b
  | .hfma2Fp16 d a b => Uses.mad d a b
  | .cvt d a c o => Uses.cvt d a c o
  | .cvtbPack d a f => Uses.cvtbPack d a f
  | .cvtbUnpack d a f => Uses.cvtbPack d a f
  | .cblook d a b => Uses.cblook d a b
  | .shflIdx d a b => Uses.sel d a b
  | .shflUp d a b => Uses.sel d a b
  | .shflDn d a b => Uses.sel d a b
  | .shflXor d a b => Uses.sel d a b
  | .voteAny p q _ => Uses.voteAny p q
  | .voteAll p q _ => Uses.voteAny p q
  | .voteBal d q _ => Uses.voteBal d q
  | .redx d a o => Uses.redx d a o
  | .scan d a o _ => Uses.scan d a o
  | .matchOp d a l w => Uses.matchOp d a l w
  | .jmp _ => []
  | .call _ => Uses.call
  | .jmpuZ d _ => Uses.jmpuZ d
  | .jmpuNz d _ => Uses.jmpuZ d
  | .ret a => Uses.ret a
  | .ifp p _ => Uses.ifp p
  | .elseOp _ => []
  | .fi => []
  | .loop _ => []
  | .endl _ => []
  | .brkp p _ => Uses.ifp p
  | .contp p _ => Uses.ifp p
  | .exit => []
  | .yield => []
  | .nop => []
  | .region => []
  | .step => []
  | .srd d _ => Uses.srd d
  | .swr d _ => Uses.srd d
  | .trap _ => []
  | .ldB8 d b _ => Uses.ldB8 d b
  | .ldB8S d b _ => Uses.ldB8 d b
  | .ldB16 d b _ => Uses.ldB8 d b
  | .ldB16S d b _ => Uses.ldB8 d b
  | .ldB32 d b _ => Uses.ldB8 d b
  | .ldB64 d b _ => Uses.ldB64 d b
  | .ldB128 d b _ => Uses.ldB128 d b
  | .stB8 d b _ => Uses.stB8 d b
  | .stB16 d b _ => Uses.stB8 d b
  | .stB32 d b _ => Uses.stB8 d b
  | .stB64 d b _ => Uses.stB64 d b
  | .stB128 d b _ => Uses.stB128 d b
  | .ldStrong d a z _ o => Uses.ldStrong d a z o
  | .stStrong d a z _ o => Uses.stStrong d a z o
  | .ldfe d b _ => Uses.ldB8 d b
  | .stfe d b _ => Uses.stB8 d b
  | .feset a _ => Uses.feset a
  | .fetest p a => Uses.fetest p a
  | .sptest d a => Uses.sptest d a
  | .spcast d a s _ => Uses.spcast d a s
  | .pref a l => Uses.pref a l
  | .cctlInv1 a => Uses.feset a
  | .cctlWb2 a => Uses.feset a
  | .cctlEvf a => Uses.feset a
  | .cctlInv1all => []
  | .fence _ k => Uses.fence k
  | .atom d a _ w c => Uses.atom d a w c
  | .cas d a b => Uses.cas d a b
  | .red d a o w c => Uses.red d a o w c
  | .ifenceLocal => []
  | .ifenceDie d a => Uses.ifenceDie d a
  | .cpy d a => Uses.cpy d a
  | .gather d a r => Uses.gather d a r
  | .scatter d a r => Uses.gather d a r
  | .toktest p a => Uses.toktest p a
  | .axbind a => Uses.axbind a
  | .astrm a _ => Uses.axbind a
  | .qpushS a _ => Uses.qpushS a
  | .qpushM a _ => Uses.ret a
  | .barinit d a => Uses.barinit d a
  | .bararr d a => Uses.bararr d a
  | .bartx d a => Uses.barinit d a
  | .barwait d a t => Uses.barwait d a t
  | .tbar => []
  | .gbar => []
  | .shape d c => Uses.shape d c
  | .slclaim d a => Uses.slclaim d a
  | .slrel a => Uses.qpushS a
  | .ldslot d a => Uses.cpy d a
  | .cbload d a => Uses.cbload d a
  | .mma _ a _ _ => Uses.qpushS a
  | .mmas s a _ _ => Uses.mmas s a
  | .accz _ _ => []
  | .accrd d a _ f => Uses.accrd d a f
  | .accwr d a _ f => Uses.accwr d a f
  | .accst d a _ z o => Uses.accst d a z o
  | .layerf d a _ _ _ => Uses.cpy d a
  | .layert d a _ _ _ => Uses.cpy d a
  | .layerd d a _ => Uses.cpy d a
  | .arxq d a => Uses.cbload d a
  | .adpset d a => Uses.cpy d a
  | .calset d a => Uses.cbload d a
  | .calrd d a => Uses.cpy d a
  | .almrun d a _ => Uses.cpy d a
  | .almfit d a => Uses.cpy d a
  | .confw d a v => Uses.confw d a v
  | .scacc d a v => Uses.scacc d a v
  | .scrd d a => Uses.cbload d a
  | .scclr d a => Uses.cbload d a
  | .topk d a => Uses.cpy d a
  | .posxl d a p m => Uses.posxl d a p m
  | .surv d a => Uses.cpy d a
  | .compact d a => Uses.cpy d a
  | .pxfind d a => Uses.cpy d a
  | .pxins d a => Uses.cpy d a
  | .pxrel d a => Uses.cpy d a
  | .unmask d a => Uses.cbload d a
  | .dirty d a => Uses.cbload d a
  | .dmaprd d a p m => Uses.dmaprd d a p m
  | .chlaunch d a => Uses.cpy d a
  | .astm b a _ _ _ => Uses.astm b a
  | .agat l a _ _ => Uses.agat l a
  | .aqp a _ => Uses.aqp a
  | .astq a _ => Uses.aqp a
  | .xpop d => Uses.xpop d
  | .xop d a o y => Uses.xop d a o y
  | .xpush a => Uses.aqp a
  | .chend => []
  | .tfencePt _ => []
  | .tfenceWalk => []
  | .tfenceInv a _ _ _ => Uses.axbind a
  | .migrate d a _ _ => Uses.cpy d a
  | .ptq d a k _ => Uses.ptq d a k
  | .rnginv a _ _ => Uses.ret a
  | .leaseq d a => Uses.leaseq d a
  | .launch d a => Uses.cpy d a
  | .qwait d a c e => Uses.qwait d a c e
  | .qsig d a _ => Uses.qsig d a
  | .qjmp _ => []
  | .qstopStop a => Uses.qpushS a
  | .qstopStart a => Uses.qpushS a
  | .ctxsw d a => Uses.ctxsw d a
  | .ctxsv d a _ => Uses.ctxsv d a
  | .ctxld d a => Uses.ctxsv d a
  | .arprog d a => Uses.cpy d a
  | .arcommitTile d a => Uses.cpy d a
  | .arcommitGrant d a => Uses.cpy d a
  | .arcommitRevoke d a => Uses.cpy d a
  | .arstat d a => Uses.cbload d a
  | .dectabLoad d a => Uses.ctxsv d a
  | .dectabClr d a => Uses.ctxsv d a
  | .hvcall _ => []
  | .qosset d a => Uses.ctxsv d a
  | .eretResume d a => Uses.eretResume d a
  | .eretSkip d a => Uses.eretResume d a
  | .eretRegion d a => Uses.eretResume d a
  | .eretAbort d a => Uses.eretResume d a
  | .eretSelf => []
  | .starfix d => Uses.starfix d
  | .halt => []
  | .coll d a _ y _ => Uses.coll d a y
  | .gtcmpWrite _ _ => []
  | .wdlWrite _ _ => []
  | .mfrAccess _ _ => []
  | .chrctlRestart _ _ => []
  | .passgh _ _ => []
  | .hvctxWrite _ _ => []
  | .queueDoorbell _ _ => []
  | .powerGood => []
  | .camp1 _ _ _ => []
  | .journalBackgroundRow _ _ => []
  | .summit => []
  | .managementReset => []
  | .starfixTriggerPin => []
  | .managementStarfix => []
  | .snapshotRead _ => []
  | .attestationRequest _ _ => []
  | .healthRequest => []
  | .uetWriteReceived _ _ _ => []
  | .uetReadReceived _ _ _ => []
  | .remoteRequestReceived _ => []
  | .vlHold _ _ _ => []
  | .gtcmpFire _ => []
  | .wdlFire _ => []
  | .hangWatchdog _ => []
  | .detTeamTimeCap _ => []
  | .cheTaskWatchdog _ _ => []
  | .leaseTimeout _ _ => []
  | .migrationLimit _ => []
  | .placementLimit _ => []
  | .collGatherTimeout _ => []
  | .ctxswRollback _ => []
  | .preemptionRequest _ => []
  | .saveAtTbar _ => []
  | .forcedSave _ => []
  | .teamPlacement _ _ _ _ => []
  | .teamRestore _ _ _ => []
  | .victimEviction _ => []
  | .groupRetirement _ => []
  | .gridRetirement _ => []
  | .stepBarrierComplete _ _ => []
  | .teamBarrierComplete _ => []
  | .qpQuantumExpiry _ => []
  | .cheQuantumExpiry _ => []
  | .cheTaskStart _ _ => []
  | .cheTaskEnd _ _ => []
  | .almanacPublication _ => []
  | .patrolScrub _ _ => []
  | .throttleDeeper _ _ => []
  | .throttleBack _ _ => []
  | .resourceRetirement _ _ => []
  | .portRetirement _ => []
  | .ucieLinkRetrain _ _ => []
  | .loadDataReturn _ _ _ => []
  | .storePerform _ => []
  | .engineLineWrite _ _ => []
  | .engineTokenFill _ => []
  | .matrixUnitOperation _ => []
  | .sqeOperation _ => []
  | .pxBucketUpdate _ => []
  | .tfenceInvComplete _ => []
  | .l2LineEviction _ => []
  | .trapNotice _ => []
  | .powerFailure => []
  | .vfOpen _ _ => []
  | .vfClose _ => []
  | .granuleAssignment _ _ _ => []
  | .gridOfferReceived _ _ _ => []

/-- The register numbers an instruction reads through its fields (R87): S31 is never empty and is left out. -/
def Use.sources : Use → List Nat
  | .field k f true _ => (List.range k.span).map (fun n => f.toNat + n) |>.filter (· ≠ 127)
  | _ => []

/-- The register numbers an instruction writes and does not read: it waits while one is empty (R31). -/
def Use.targets : Use → List Nat
  | .field k f false true => (List.range k.span).map (fun n => f.toNat + n) |>.filter (· ≠ 127)
  | _ => []

/-- The V registers that a field names: R29 judges them against the group's budget. -/
def Use.vfields : Use → List Nat
  | .field .pred _ _ _ => []
  | .field _ f _ _ => if isV f then [f.toNat] else []
  | _ => []

/-- Every register field names an S register: what a queue processor and an access slice demand (R39, R186). -/
def Use.onlyS : Use → Bool
  | .field _ f _ _ => isS f
  | .cond _ => true

def Instr.sources (i : Instr) : List Nat := (uses i).flatMap Use.sources
def Instr.targets (i : Instr) : List Nat := (uses i).flatMap Use.targets
def Instr.vfields (i : Instr) : List Nat := (uses i).flatMap Use.vfields

/-- The row of an event (the runtime has no tags for it, so it is not compiled). -/
noncomputable def Event.toInstr (e : Event) : Instr :=
  match e with
  | .gtcmpWrite gid v => .gtcmpWrite gid v
  | .wdlWrite gid v => .wdlWrite gid v
  | .mfrAccess gid v => .mfrAccess gid v
  | .chrctlRestart vf pkg => .chrctlRestart vf pkg
  | .passgh vf gh => .passgh vf gh
  | .hvctxWrite vf v => .hvctxWrite vf v
  | .queueDoorbell qid tail => .queueDoorbell qid tail
  | .powerGood => .powerGood
  | .camp1 modn mem routes => .camp1 modn mem routes
  | .journalBackgroundRow die tile => .journalBackgroundRow die tile
  | .summit => .summit
  | .managementReset => .managementReset
  | .starfixTriggerPin => .starfixTriggerPin
  | .managementStarfix => .managementStarfix
  | .snapshotRead seq => .snapshotRead seq
  | .attestationRequest vf nonce => .attestationRequest vf nonce
  | .healthRequest => .healthRequest
  | .uetWriteReceived vf va bytes => .uetWriteReceived vf va bytes
  | .uetReadReceived vf va len => .uetReadReceived vf va len
  | .remoteRequestReceived r => .remoteRequestReceived r
  | .vlHold port vl hold => .vlHold port vl hold
  | .gtcmpFire gid => .gtcmpFire gid
  | .wdlFire gid => .wdlFire gid
  | .hangWatchdog who => .hangWatchdog who
  | .detTeamTimeCap tag => .detTeamTimeCap tag
  | .cheTaskWatchdog pkg vf => .cheTaskWatchdog pkg vf
  | .leaseTimeout grid n => .leaseTimeout grid n
  | .migrationLimit who => .migrationLimit who
  | .placementLimit grid => .placementLimit grid
  | .collGatherTimeout inst => .collGatherTimeout inst
  | .ctxswRollback qid => .ctxswRollback qid
  | .preemptionRequest tag => .preemptionRequest tag
  | .saveAtTbar tag => .saveAtTbar tag
  | .forcedSave tag => .forcedSave tag
  | .teamPlacement grid core p0 tag => .teamPlacement grid core p0 tag
  | .teamRestore tag core p0 => .teamRestore tag core p0
  | .victimEviction tag => .victimEviction tag
  | .groupRetirement gid => .groupRetirement gid
  | .gridRetirement grid => .gridRetirement grid
  | .stepBarrierComplete grid change => .stepBarrierComplete grid change
  | .teamBarrierComplete b => .teamBarrierComplete b
  | .qpQuantumExpiry qp => .qpQuantumExpiry qp
  | .cheQuantumExpiry pkg => .cheQuantumExpiry pkg
  | .cheTaskStart pkg vf => .cheTaskStart pkg vf
  | .cheTaskEnd pkg vf => .cheTaskEnd pkg vf
  | .almanacPublication sets => .almanacPublication sets
  | .patrolScrub line err => .patrolScrub line err
  | .throttleDeeper vf draw => .throttleDeeper vf draw
  | .throttleBack vf draw => .throttleBack vf draw
  | .resourceRetirement channel n => .resourceRetirement channel n
  | .portRetirement port => .portRetirement port
  | .ucieLinkRetrain die work => .ucieLinkRetrain die work
  | .loadDataReturn gid id part => .loadDataReturn gid id part
  | .storePerform st => .storePerform st
  | .engineLineWrite work piece => .engineLineWrite work piece
  | .engineTokenFill work => .engineTokenFill work
  | .matrixUnitOperation core => .matrixUnitOperation core
  | .sqeOperation cluster => .sqeOperation cluster
  | .pxBucketUpdate work => .pxBucketUpdate work
  | .tfenceInvComplete id => .tfenceInvComplete id
  | .l2LineEviction line => .l2LineEviction line
  | .trapNotice gid => .trapNotice gid
  | .powerFailure => .powerFailure
  | .vfOpen vf cfg => .vfOpen vf cfg
  | .vfClose vf => .vfClose vf
  | .granuleAssignment cluster granule vf => .granuleAssignment cluster granule vf
  | .gridOfferReceived grid modn accept => .gridOfferReceived grid modn accept

end Sys2Proof
end

