-- ==== Sys2Proof/Config.lean ====
section
/-! DEFINITION. What one ordering code fixes, and the free values: constants without a body, so that nothing in Lean can tell what they are. The assumption log names each. -/

namespace Sys2Proof.Config

/-- Package capacity is 48 packages (00_scope R2); bytes of LPDDR-6 at home here for MODID.MEM = 0 or 1 (R1, 12_die_channel R370). -/
def capacity (mem : BitVec 4) : Nat := 48 * (if mem = 0 then 128 else 64) * 2 ^ 30

def clusters : Nat := 12
def coresPerCluster : Nat := 8
def cores : Nat := 96
def arrayDies : Nat := 16
def tilesPerDie : Nat := 65536
def packages : Nat := 48
def channels : Nat := 192
def vfs : Nat := 32
def lanes : Nat := 64
def ports : Nat := 64

/-- Free value (04 R134; log 9): what the module's approximation unit answers, the same for the same input on one module. -/
opaque approx : Nat → Word → Word

/-- Free value (11 R356; log 10): the raw ADC code of a row, before the bound is applied. -/
opaque adcCode : Nat → Int

/-- Free value (11 R340; log 44): rows, columns and golden copy of an image, which PL2 keeps. -/
opaque image : Nat → Nat → Nat

/-- Free value (11 R366; log 11): what ALMFIT's least-squares sweeps answer, a function of all that they read: part 0 is the rank, 1 is U and 2 is V in FP64 codes, 3 is the image tile that it writes. -/
opaque fit : List Nat → Nat → Nat → Nat

/-- Free value (06 R224; log 69): the scale of a record whose 32 values are all infinite, by output format and signs. -/
opaque infiniteScale : List Nat → Nat

/-- Free value (11 R348; log 51): the driving code of a vector element that no scale brings to a number, by the numerator's and the scale's codes. -/
opaque nanCode : Nat → Nat → Nat

/-- Free values taken in turn from the counter `fresh` of the state (log 7). -/
opaque freeWord : Nat → Word
opaque freeDWord : Nat → DWord
opaque freeByte : Nat → Byte
opaque freeBool : Nat → Bool
opaque freeNat : Nat → Nat

/-- Free values (log 7): the choice that an instruction meets, by the counter `steps` of the state and what is chosen; within one step the same choice has the same answer. -/
opaque choice : Nat → Nat → Nat

/-- Free value (15 R468; log 52): the identity of a link or journal in an error-log entry, by class and number. -/
opaque linkId : Nat → Nat → Nat

/-- Free value (15 R463, R464; log 12): byte i of the Falcon-1024 signature of a digest under the module's key. -/
opaque falcon : List Byte → Nat → Byte

/-- Free value (15 R464; log 12): byte i of the measurement of a thing that the module has not loaded by an input of this model: the hypervisor firmware (1), and the golden copy of base image n (n + 2). -/
opaque measurement : Nat → Nat → Byte

/-- Free value (15 R462; log 57): byte i of the digest of the vendor's public key that the hub die has fused. -/
opaque fusedDigest : Nat → Byte

/-- Free value (15 R462; log 57): does a Falcon-1024 signature of a digest hold under a public key? Key, digest, signature. -/
opaque falconOk : List Byte → List Byte → List Byte → Bool

/-- Free value (15 R475; log 98): the MAC address of endpoint 0; that of endpoint n is n above it. -/
opaque macBase : BitVec 48

end Sys2Proof.Config
end

