-- ==== Sys2Proof/Machine/Num.lean ====
section
/-! DEFINITION. Number formats, exact values and the rounding helpers of 02_numbers (R58-R83): every value is computed exactly and rounded once. -/

namespace Sys2Proof.Machine

/-- An exact value: NaN, an infinity, or (-1)^neg x num / den with den > 0 (R69). A zero keeps its sign. -/
inductive XR where
  | nan
  | inf (neg : Bool)
  | fin (neg : Bool) (num den : Nat)
  deriving DecidableEq, Repr

/-- The four rounding modes in the order of FCSR.RM (R72). -/
inductive Rm where
  | rne | rtz | rup | rdn
  deriving DecidableEq, Repr

def Rm.ofBits (b : BitVec 2) : Rm :=
  if b = 0 then .rne else if b = 1 then .rtz else if b = 2 then .rup else .rdn

/-- Sticky flags in FCSR order: NV, DZ, OF, UF, NX in bits 4 to 0 (R72). MFR has SAT in bit 3 (R78). -/
abbrev Flags := BitVec 5

def flagNV : Flags := 16
def flagDZ : Flags := 8
def flagSAT : Flags := 8
def flagOF : Flags := 4
def flagUF : Flags := 2
def flagNX : Flags := 1

/-- What a format does with a value beyond its largest finite one (R59, R75, R76). -/
inductive Beyond where
  | infinity
  | nan
  | clamp
  deriving DecidableEq, Repr

/-- A floating-point format (R59, R66): exponent and fraction widths, bias, code of the largest finite magnitude, code of the canonical NaN. -/
structure Fmt where
  eb : Nat
  m : Nat
  bias : Nat
  maxCode : Nat
  canonNaN : Nat
  beyond : Beyond
  deriving DecidableEq, Repr

def fp64 : Fmt := { eb := 11, m := 52, bias := 1023, maxCode := 0x7FEFFFFFFFFFFFFF, canonNaN := 0x7FF8000000000000, beyond := .infinity }
def fp32 : Fmt := { eb := 8, m := 23, bias := 127, maxCode := 0x7F7FFFFF, canonNaN := 0x7FC00000, beyond := .infinity }
def fp16 : Fmt := { eb := 5, m := 10, bias := 15, maxCode := 0x7BFF, canonNaN := 0x7E00, beyond := .infinity }
def bf16 : Fmt := { eb := 8, m := 7, bias := 127, maxCode := 0x7F7F, canonNaN := 0x7FC0, beyond := .infinity }
def e4m3 : Fmt := { eb := 4, m := 3, bias := 7, maxCode := 0x7E, canonNaN := 0x7F, beyond := .nan }
def e5m2 : Fmt := { eb := 5, m := 2, bias := 15, maxCode := 0x7B, canonNaN := 0x7E, beyond := .infinity }
def e3m2 : Fmt := { eb := 3, m := 2, bias := 3, maxCode := 0x1F, canonNaN := 0, beyond := .clamp }
def e2m3 : Fmt := { eb := 2, m := 3, bias := 1, maxCode := 0x1F, canonNaN := 0, beyond := .clamp }
def e2m1 : Fmt := { eb := 2, m := 1, bias := 1, maxCode := 0x7, canonNaN := 0, beyond := .clamp }
def fa36 : Fmt := { eb := 8, m := 27, bias := 127, maxCode := 0x7F7FFFFFF, canonNaN := 0x7FC000000, beyond := .infinity }

def Fmt.width (f : Fmt) : Nat := 1 + f.eb + f.m

/-- The code with sign `neg` and magnitude `mag`. -/
def Fmt.signed (f : Fmt) (neg : Bool) (mag : Nat) : Nat := (if neg then 2 ^ (f.eb + f.m) else 0) + mag

def Fmt.isNeg (f : Fmt) (c : Nat) : Bool := decide (c / 2 ^ (f.eb + f.m) % 2 = 1)

def Fmt.mag (f : Fmt) (c : Nat) : Nat := c % 2 ^ (f.eb + f.m)

/-- The code that holds an infinity in a format that has one (R61). -/
def Fmt.infCode (f : Fmt) : Nat := f.maxCode + 1

def Fmt.isNaN (f : Fmt) (c : Nat) : Bool :=
  match f.beyond with
  | .infinity => decide (f.mag c > f.infCode)
  | .nan => decide (f.mag c > f.maxCode)
  | .clamp => false

/-- R62: a NaN whose top fraction bit is 0 is signalling; E4M3 and FA36 NaNs never are. -/
def Fmt.isSNaN (f : Fmt) (c : Nat) : Bool :=
  f.isNaN c && decide (f.beyond = .infinity) && decide (f ≠ fa36) && decide (c / 2 ^ (f.m - 1) % 2 = 0)

def Fmt.isSub (f : Fmt) (c : Nat) : Bool :=
  decide (0 < f.mag c) && decide (f.mag c < 2 ^ f.m)

/-- num / den scaled by 2^e. -/
def scalePow (num den : Nat) (e : Int) : Nat × Nat :=
  if 0 ≤ e then (num * 2 ^ e.toNat, den) else (num, den * 2 ^ (-e).toNat)

/-- Decode(code, fmt) of R69 under R60. -/
def Fmt.decode (f : Fmt) (c : Nat) : XR :=
  if f.isNaN c then .nan
  else if f.beyond = .infinity ∧ f.mag c = f.infCode then .inf (f.isNeg c)
  else
    let e := f.mag c / 2 ^ f.m
    let k := if e = 0 then f.mag c else 2 ^ f.m + f.mag c % 2 ^ f.m
    let q : Int := (if e = 0 then 1 else (e : Int)) - f.bias - f.m
    let r := scalePow k 1 q
    if k = 0 then .fin (f.isNeg c) 0 1 else .fin (f.isNeg c) r.1 r.2

/-- DAZ (R74): a subnormal code reads as the zero of its sign. -/
def Fmt.daz (f : Fmt) (on : Bool) (c : Nat) : Nat :=
  if on && f.isSub c then f.signed (f.isNeg c) 0 else c

/-- ScaleUE8 (R64). -/
def scaleUE8 (s : Nat) : XR :=
  if s = 255 then .nan else
    let r := scalePow 1 1 ((s : Int) - 127)
    .fin false r.1 r.2

/-- num / den to an integer by mode; the flag says whether it was inexact. -/
def roundQ (neg : Bool) (num den : Nat) (rm : Rm) : Nat × Bool :=
  let k := num / den
  let r := num % den
  let up := match rm with
    | .rne => decide (den < 2 * r) || (decide (2 * r = den) && decide (k % 2 = 1))
    | .rtz => false
    | .rup => !neg && decide (0 < r)
    | .rdn => neg && decide (0 < r)
  (if up then k + 1 else k, decide (0 < r))

/-- floor(log2 (num / den)) of a positive value. -/
def floorLog2 (num den : Nat) : Int :=
  let e : Int := (Nat.log2 num : Int) - Nat.log2 den
  let r := scalePow num den (-e)
  if r.1 < r.2 then e - 1 else e

/-- R75: does an overflow in this mode go to infinity? -/
def toInfinity (rm : Rm) (neg : Bool) : Bool :=
  match rm with
  | .rne => true
  | .rtz => false
  | .rup => !neg
  | .rdn => neg

/-- R75, R76: the magnitude written on overflow. -/
def overflowMag (f : Fmt) (rm : Rm) (neg sat : Bool) : Nat :=
  if sat || !toInfinity rm neg then f.maxCode
  else match f.beyond with
    | .infinity => f.infCode
    | .nan => f.canonNaN
    | .clamp => f.maxCode

/-- An infinity as source (R76): the magnitude and the flag. -/
def infinityMag (f : Fmt) (sat : Bool) : Nat × Flags :=
  match f.beyond with
  | .infinity => (if sat then f.maxCode else f.infCode, 0)
  | .nan => (if sat then f.maxCode else f.canonNaN, flagNV)
  | .clamp => (f.maxCode, flagNV)

/-- A NaN as source: the canonical NaN, or +0 with NV in FP6 and FP4 (R76). -/
def nanCode (f : Fmt) : Nat × Flags :=
  (f.canonNaN, if f.beyond = .clamp then flagNV else 0)

/-- RoundFP of R70 for a finite non-zero value, with `.sat` of R76. -/
def roundFin (neg : Bool) (num den : Nat) (f : Fmt) (rm : Rm) (ftz sat : Bool) : Nat × Flags :=
  let e := floorLog2 num den
  let qmin : Int := 1 - (f.bias : Int) - f.m
  let q := max (e - f.m) qmin
  let p := scalePow num den (-q)
  let (k, nx) := roundQ neg p.1 p.2 rm
  let mag := (q - qmin).toNat * 2 ^ f.m + k
  if f.maxCode < mag then
    let om := overflowMag f rm neg sat
    (if om = f.canonNaN ∧ f.beyond = .nan then om else f.signed neg om, flagOF ||| flagNX)
  else
    let pu := scalePow num den (f.m - e)
    let ku := (roundQ neg pu.1 pu.2 rm).1
    let tiny := decide (e < 1 - (f.bias : Int)) && !(decide (e = -(f.bias : Int)) && decide (ku = 2 ^ (f.m + 1)))
    if ftz && decide (0 < mag) && decide (mag < 2 ^ f.m) then
      (f.signed neg 0, flagUF ||| flagNX)
    else
      (f.signed neg mag, (if nx then flagNX else 0) ||| (if nx && tiny then flagUF else 0))

/-- RoundFP(x, fmt, rm, ftz) of R70, with the rules of R75 and R76; `sat` is the modifier of R76. -/
def roundSat (x : XR) (f : Fmt) (rm : Rm) (ftz sat : Bool) : Nat × Flags :=
  match x with
  | .nan => nanCode f
  | .inf neg =>
    let r := infinityMag f sat
    (if r.1 = f.canonNaN ∧ f.beyond = .nan then r.1 else f.signed neg r.1, r.2)
  | .fin neg num den =>
    if num = 0 then (f.signed neg 0, 0) else roundFin neg num den f rm ftz sat

def roundFP (x : XR) (f : Fmt) (rm : Rm) (ftz : Bool) : Nat × Flags := roundSat x f rm ftz false

/-- RoundF32 (R69): RNE, gradual, flags dropped. -/
def roundF32 (x : XR) : Nat := (roundFP x fp32 .rne false).1

def XR.isNaN : XR → Bool
  | .nan => true
  | _ => false

def XR.isZero : XR → Bool
  | .fin _ 0 _ => true
  | _ => false

def XR.isNeg : XR → Bool
  | .nan => false
  | .inf n => n
  | .fin n _ _ => n

def XR.neg : XR → XR
  | .nan => .nan
  | .inf n => .inf (!n)
  | .fin n a b => .fin (!n) a b

/-- a/b - shaped value from a signed numerator; `zneg` is the sign of an exact zero. -/
def XR.ofInt (i : Int) (den : Nat) (zneg : Bool) : XR :=
  if i = 0 then .fin zneg 0 1 else .fin (decide (i < 0)) i.natAbs den

def XR.signedNum (neg : Bool) (n : Nat) : Int := if neg then -(n : Int) else n

/-- The exact sum of two finite values over a common denominator. -/
def addFin (n1 : Bool) (a1 d1 : Nat) (n2 : Bool) (a2 d2 : Nat) (zneg : Bool) : XR :=
  if a1 = 0 ∧ a2 = 0 then .fin (if n1 = n2 then n1 else zneg) 0 1
  else if d2 % d1 = 0 then .ofInt (XR.signedNum n1 (a1 * (d2 / d1)) + XR.signedNum n2 a2) d2 zneg
  else if d1 % d2 = 0 then .ofInt (XR.signedNum n1 a1 + XR.signedNum n2 (a2 * (d1 / d2))) d1 zneg
  else .ofInt (XR.signedNum n1 (a1 * d2) + XR.signedNum n2 (a2 * d1)) (d1 * d2) zneg

/-- Exact addition; the flag is NV for infinities of opposite sign (R77, R127). `zneg` signs an exact zero of opposite operands (R128). -/
def XR.add (x y : XR) (zneg : Bool) : XR × Flags :=
  match x, y with
  | .nan, _ => (.nan, 0)
  | _, .nan => (.nan, 0)
  | .inf a, .inf b => if a = b then (.inf a, 0) else (.nan, flagNV)
  | .inf a, .fin _ _ _ => (.inf a, 0)
  | .fin _ _ _, .inf b => (.inf b, 0)
  | .fin n1 a1 d1, .fin n2 a2 d2 => (addFin n1 a1 d1 n2 a2 d2 zneg, 0)

/-- Exact product; NV for zero times infinity. -/
def XR.mul (x y : XR) : XR × Flags :=
  match x, y with
  | .nan, _ => (.nan, 0)
  | _, .nan => (.nan, 0)
  | .inf a, .inf b => (.inf (a != b), 0)
  | .inf a, .fin n k _ => if k = 0 then (.nan, flagNV) else (.inf (a != n), 0)
  | .fin n k _, .inf b => if k = 0 then (.nan, flagNV) else (.inf (n != b), 0)
  | .fin n1 a1 d1, .fin n2 a2 d2 => (if a1 * a2 = 0 then .fin (n1 != n2) 0 1 else .fin (n1 != n2) (a1 * a2) (d1 * d2), 0)

/-- Exact quotient with the flags of R127. -/
def XR.div (x y : XR) : XR × Flags :=
  match x, y with
  | .nan, _ => (.nan, 0)
  | _, .nan => (.nan, 0)
  | .inf _, .inf _ => (.nan, flagNV)
  | .inf a, .fin n _ _ => (.inf (a != n), 0)
  | .fin n _ _, .inf b => (.fin (n != b) 0 1, 0)
  | .fin n1 a1 d1, .fin n2 a2 d2 =>
    if a2 = 0 then (if a1 = 0 then (.nan, flagNV) else (.inf (n1 != n2), flagDZ))
    else if a1 = 0 then (.fin (n1 != n2) 0 1, 0)
    else (.fin (n1 != n2) (a1 * d2) (d1 * a2), 0)

/-- Integer square root, bit by bit from bit `b - 1` down. -/
def isqrtLoop (n : Nat) : Nat → Nat → Nat
  | 0, r => r
  | b + 1, r =>
    let t := r + 2 ^ b
    isqrtLoop n b (if t * t ≤ n then t else r)

def isqrt (n : Nat) : Nat := isqrtLoop n (Nat.log2 n / 2 + 1) 0

/-- Square root to at least 64 bits; an inexact root ends in a half unit, which no rounding of these formats can tell from the exact root. -/
def XR.sqrt : XR → XR × Flags
  | .nan => (.nan, 0)
  | .inf n => if n then (.nan, flagNV) else (.inf false, 0)
  | .fin n a d =>
    if a = 0 then (.fin n 0 1, 0)
    else if n then (.nan, flagNV)
    else
      let t := 66 + Nat.log2 d
      let v := a * 4 ^ t / d
      let r := isqrt v
      if r * r * d = a * 4 ^ t then (.fin false r (2 ^ t), 0)
      else (.fin false (2 * r + 1) (2 ^ (t + 1)), 0)

/-- -1, 0 or 1 by comparing two finite or infinite values; none when unordered. -/
def XR.cmp (x y : XR) : Option Int :=
  match x, y with
  | .nan, _ => none
  | _, .nan => none
  | .inf a, .inf b => some (if a = b then 0 else if a then -1 else 1)
  | .inf a, .fin _ _ _ => some (if a then -1 else 1)
  | .fin _ _ _, .inf b => some (if b then 1 else -1)
  | .fin n1 a1 d1, .fin n2 a2 d2 =>
    let l := XR.signedNum n1 (a1 * d2)
    let r := XR.signedNum n2 (a2 * d1)
    some (if l < r then -1 else if l = r then 0 else 1)

/-- ExactSum of R77: NaN if any is NaN (no flag), NV for both infinities; a zero sum is +0 unless every addend is -0. -/
def exactSum (l : List XR) : XR × Flags :=
  if l.any XR.isNaN then (.nan, 0)
  else
    let pos := l.any (· = .inf false)
    let negi := l.any (· = .inf true)
    if pos && negi then (.nan, flagNV)
    else if pos then (.inf false, 0)
    else if negi then (.inf true, 0)
    else (l.foldl (fun acc x => (acc.add x false).1) (.fin (decide (l ≠ []) && l.all (fun x => x.isZero && x.isNeg)) 0 1), 0)

/-- RoundInt (R69) of a finite value: the integer and whether it is inexact. -/
def roundInt (neg : Bool) (num den : Nat) (rm : Rm) : Int × Bool :=
  let r := roundQ neg num den rm
  (XR.signedNum neg r.1, r.2)

/-- FP to integer (R77): clamps with NV, NaN gives 0 with NV, an inexact result in range sets NX. -/
def toIntSat (x : XR) (lo hi : Int) (rm : Rm) : Int × Flags :=
  match x with
  | .nan => (0, flagNV)
  | .inf n => (if n then lo else hi, flagNV)
  | .fin n a d =>
    let r := roundInt n a d rm
    if r.1 < lo then (lo, flagNV)
    else if hi < r.1 then (hi, flagNV)
    else (r.1, if r.2 then flagNX else 0)

/-- Flags of reading operands: NV if any is a signalling NaN (R62). -/
def snanFlag (f : Fmt) (cs : List Nat) : Flags :=
  if cs.any f.isSNaN then flagNV else 0

/-- The per-lane controls of R72 that an operation uses. -/
structure FpCtl where
  rm : Rm
  ftz : Bool
  daz : Bool
  deriving DecidableEq, Repr

/-- RNE, gradual: what REDX, SCAN and memory reductions use (R74, R81, R148). -/
def FpCtl.plain : FpCtl := { rm := .rne, ftz := false, daz := false }

def FpCtl.ofFcsr (w : Word) : FpCtl :=
  { rm := .ofBits (w.extractLsb' 6 2), ftz := w.getLsbD 8, daz := w.getLsbD 9 }

def fpAdd (f : Fmt) (c : FpCtl) (a b : Nat) : Nat × Flags :=
  let a := f.daz c.daz a
  let b := f.daz c.daz b
  let x := (f.decode a).add (f.decode b) (c.rm = .rdn)
  let r := roundFP x.1 f c.rm c.ftz
  (r.1, r.2 ||| x.2 ||| snanFlag f [a, b])

/-- Sign inversion of b's bits, after which FSUB is FADD (R127, R128). -/
def Fmt.flip (f : Fmt) (c : Nat) : Nat := f.signed (!f.isNeg c) (f.mag c)

def fpSub (f : Fmt) (c : FpCtl) (a b : Nat) : Nat × Flags := fpAdd f c a (f.flip b)

def fpMul (f : Fmt) (c : FpCtl) (a b : Nat) : Nat × Flags :=
  let a := f.daz c.daz a
  let b := f.daz c.daz b
  let x := (f.decode a).mul (f.decode b)
  let r := roundFP x.1 f c.rm c.ftz
  (r.1, r.2 ||| x.2 ||| snanFlag f [a, b])

/-- a x b + d rounded once (R127). -/
def fpFma (f : Fmt) (c : FpCtl) (a b d : Nat) : Nat × Flags :=
  let a := f.daz c.daz a
  let b := f.daz c.daz b
  let d := f.daz c.daz d
  let p := (f.decode a).mul (f.decode b)
  let x := p.1.add (f.decode d) (c.rm = .rdn)
  let r := roundFP x.1 f c.rm c.ftz
  (r.1, r.2 ||| p.2 ||| x.2 ||| snanFlag f [a, b, d])

def fpDiv (f : Fmt) (c : FpCtl) (a b : Nat) : Nat × Flags :=
  let a := f.daz c.daz a
  let b := f.daz c.daz b
  let x := (f.decode a).div (f.decode b)
  let r := roundFP x.1 f c.rm c.ftz
  (r.1, r.2 ||| x.2 ||| snanFlag f [a, b])

def fpSqrt (f : Fmt) (c : FpCtl) (a : Nat) : Nat × Flags :=
  let a := f.daz c.daz a
  let x := (f.decode a).sqrt
  let r := roundFP x.1 f c.rm c.ftz
  (r.1, r.2 ||| x.2 ||| snanFlag f [a])

/-- FMIN and FMAX (R129): -0 below +0, one NaN gives the other operand, NV only for a signalling NaN. -/
def fpMinMax (f : Fmt) (c : FpCtl) (isMax : Bool) (a b : Nat) : Nat × Flags :=
  let a := f.daz c.daz a
  let b := f.daz c.daz b
  let fl := snanFlag f [a, b]
  if f.isNaN a && f.isNaN b then (f.canonNaN, fl)
  else if f.isNaN a then (b, fl)
  else if f.isNaN b then (a, fl)
  else
    let lt := match (f.decode a).cmp (f.decode b) with
      | some r => decide (r < 0) || (decide (r = 0) && f.isNeg a)
      | none => false
    (if lt = isMax then b else a, fl)

/-- FRINT (R132). -/
def fpRint (f : Fmt) (c : FpCtl) (a : Nat) : Nat × Flags :=
  let a := f.daz c.daz a
  match f.decode a with
  | .nan => (f.canonNaN, snanFlag f [a])
  | .inf _ => (a, 0)
  | .fin n num den =>
    let r := roundQ n num den c.rm
    if r.1 = 0 then (f.signed n 0, if r.2 then flagNX else 0)
    else ((roundFP (.fin n r.1 1) f .rne false).1, if r.2 then flagNX else 0)

/-- FCLASS (R130). -/
def fpClass (f : Fmt) (c : FpCtl) (a : Nat) : Nat :=
  let a := f.daz c.daz a
  if f.isNaN a then (if f.isSNaN a then 2 ^ 8 else 2 ^ 9)
  else
    let n := f.isNeg a
    if f.mag a = f.infCode then (if n then 2 ^ 0 else 2 ^ 7)
    else if f.mag a = 0 then (if n then 2 ^ 3 else 2 ^ 4)
    else if f.isSub a then (if n then 2 ^ 2 else 2 ^ 5)
    else (if n then 2 ^ 1 else 2 ^ 6)

/-- The conditions of FCMP and DCMP (R133). -/
inductive FCond where
  | eq | ne | lt | le | gt | ge | un
  deriving DecidableEq, Repr

def fpCmp (f : Fmt) (c : FpCtl) (cond : FCond) (a b : Nat) : Bool × Flags :=
  let a := f.daz c.daz a
  let b := f.daz c.daz b
  let quiet := cond = .eq ∨ cond = .ne ∨ cond = .un
  let fl : Flags := if f.isNaN a || f.isNaN b then (if quiet then snanFlag f [a, b] else flagNV) else 0
  match (f.decode a).cmp (f.decode b) with
  | none => (cond = .ne || cond = .un, fl)
  | some r =>
    (match cond with
      | .eq => decide (r = 0)
      | .ne => decide (r ≠ 0)
      | .lt => decide (r < 0)
      | .le => decide (r ≤ 0)
      | .gt => decide (0 < r)
      | .ge => decide (0 ≤ r)
      | .un => false, fl)

/-- FP to FP conversion (R77): `daz` and `ftz` apply where R140 says. -/
def fpConv (src dst : Fmt) (daz ftz sat : Bool) (rm : Rm) (a : Nat) : Nat × Flags :=
  let a := src.daz daz a
  let r := roundSat (src.decode a) dst rm ftz sat
  (r.1, r.2 ||| snanFlag src [a])

end Sys2Proof.Machine
end

