-- ==== Sys2Proof/Machine/Alu.lean ====
section
/-! DEFINITION. What the integer, logic and pair operations compute from operand values (04_lane_ops R117-R126, R148, 10_die_memory R331): pure functions, once for every agent that runs them. -/

namespace Sys2Proof.Machine

/-- Smaller and larger, signed or unsigned (R117). -/
def minS {w : Nat} (a b : BitVec w) : BitVec w := if a.slt b then a else b
def maxS {w : Nat} (a b : BitVec w) : BitVec w := if a.slt b then b else a
def minU {w : Nat} (a b : BitVec w) : BitVec w := if a.ult b then a else b
def maxU {w : Nat} (a b : BitVec w) : BitVec w := if a.ult b then b else a

/-- The 64-bit product of two words read as INT32 or UINT32 (R117). -/
def mulWide (signed : Bool) (a b : Word) : DWord :=
  if signed then a.signExtend 64 * b.signExtend 64 else a.setWidth 64 * b.setWidth 64

/-- Shifts by the whole of an unsigned count (R118, R126): the width or more gives 0, or all sign bits. -/
def shlBy {w : Nat} (a : BitVec w) (n : Nat) : BitVec w := if w ≤ n then 0 else a <<< n
def shrBy {w : Nat} (a : BitVec w) (n : Nat) : BitVec w := if w ≤ n then 0 else a >>> n
def sarBy {w : Nat} (a : BitVec w) (n : Nat) : BitVec w := a.sshiftRight (min n w)

def byteOf (a : Word) (k : Nat) : Byte := a.extractLsb' (8 * k) 8

/-- One result byte of PERM (R119). -/
def permByte (a d : Word) (sel : Nat) : Byte :=
  if sel ≤ 3 then byteOf a sel
  else if sel ≤ 7 then byteOf d (sel - 4)
  else if sel ≤ 11 then (if (byteOf a (sel - 8)).msb then 0xFF else 0)
  else 0

/-- PERM (R119). -/
def permBytes (a b d : Word) : Word :=
  let n (k : Nat) := (b.extractLsb' (4 * k) 4).toNat
  permByte a d (n 3) ++ permByte a d (n 2) ++ permByte a d (n 1) ++ permByte a d (n 0)

/-- The field descriptor of BFX and BFI (R120): position, length, sign control. -/
def fieldPos (b : Word) : Nat := (b.extractLsb' 0 5).toNat
def fieldLen (b : Word) : Nat := min (b.extractLsb' 8 6).toNat (32 - fieldPos b)

/-- 2^n - 1 as a word. -/
def onesBelow (n : Nat) : Word := BitVec.ofNat 32 (2 ^ n - 1)

def bfxOp (a b : Word) : Word :=
  let len := fieldLen b
  let f := (a >>> fieldPos b) &&& onesBelow len
  if b.getLsbD 15 && decide (0 < len) && f.getLsbD (len - 1) then f ||| ~~~(onesBelow len) else f

def bfiOp (a b d : Word) : Word :=
  let m := onesBelow (fieldLen b) <<< fieldPos b
  (d &&& ~~~m) ||| ((a <<< fieldPos b) &&& m)

/-- R121: 0x8000_0000 stays as it is. -/
def absOp (a : Word) : Word := if a.msb then 0 - a else a

def clzOp (a : Word) : Word := if a = 0 then 32 else BitVec.ofNat 32 (31 - Nat.log2 a.toNat)

def popcOp (a : Word) : Word := BitVec.ofNat 32 ((List.range 32).countP (fun k => a.getLsbD k))

def brevOp (a : Word) : Word := a.reverse

/-- The ten conditions of CMP and CMP64 (R124). -/
inductive Cond where
  | eq | ne | ltS | leS | gtS | geS | ltU | leU | gtU | geU
  deriving DecidableEq, Repr

def Cond.holds {w : Nat} (c : Cond) (a b : BitVec w) : Bool :=
  match c with
  | .eq => a == b
  | .ne => a != b
  | .ltS => a.slt b
  | .leS => a.sle b
  | .gtS => b.slt a
  | .geS => b.sle a
  | .ltU => a.ult b
  | .leU => a.ule b
  | .gtU => b.ult a
  | .geU => b.ule a

/-- The read-modify-write operations at memory (R330, R331): OP 0 to 9 on 32 or 64 bits. -/
def memOp {w : Nat} (op : Nat) (old x : BitVec w) : BitVec w :=
  match op with
  | 0 => old + x
  | 1 => old &&& x
  | 2 => old ||| x
  | 3 => old ^^^ x
  | 4 => minS old x
  | 5 => maxS old x
  | 6 => minU old x
  | 7 => maxU old x
  | 8 => x
  | _ => BitVec.ofNat w (roundF32 (exactSum [fp32.decode old.toNat, fp32.decode x.toNat]).1)

/-- The combine of REDX and SCAN (R148): x of the lower lanes, y of the higher; with the flags of the floating-point ones. -/
def combine (op : Nat) (x y : Word) : Word × Flags :=
  let fp (r : Nat × Flags) : Word × Flags := (BitVec.ofNat 32 r.1, r.2)
  match op with
  | 0 => (x + y, 0)
  | 1 => (minS x y, 0)
  | 2 => (maxS x y, 0)
  | 3 => (minU x y, 0)
  | 4 => (maxU x y, 0)
  | 5 => (x &&& y, 0)
  | 6 => (x ||| y, 0)
  | 7 => (x ^^^ y, 0)
  | 8 => fp (fpAdd fp32 .plain x.toNat y.toNat)
  | 9 => fp (fpMinMax fp32 .plain false x.toNat y.toNat)
  | _ => fp (fpMinMax fp32 .plain true x.toNat y.toNat)

/-- The result when no lane has a value (R148). -/
def combineNone (op : Nat) : Word :=
  match op with
  | 1 => 0x7FFFFFFF
  | 2 => 0x80000000
  | 3 => 0xFFFFFFFF
  | 5 => 0xFFFFFFFF
  | 8 => 0x80000000
  | 9 => 0x7FC00000
  | 10 => 0x7FC00000
  | _ => 0

/-- Combine with an absent side passing the other through (R148). -/
def combineOpt (op : Nat) (x y : Option Word) : Option Word × Flags :=
  match x, y with
  | some a, some b => let r := combine op a b; (some r.1, r.2)
  | some a, none => (some a, 0)
  | none, r => (r, 0)

/-- One level of the tree of REDX: neighbours are combined. -/
def redxLevel (op : Nat) : List (Option Word) → List (Option Word) × Flags
  | x :: y :: rest =>
    let r := combineOpt op x y
    let q := redxLevel op rest
    (r.1 :: q.1, r.2 ||| q.2)
  | l => (l, 0)

/-- n levels of the tree (R149). -/
def redxTree (op : Nat) : Nat → List (Option Word) → Flags → Option Word × Flags
  | 0, l, f => (l.headD none, f)
  | n + 1, l, f => let r := redxLevel op l; redxTree op n r.1 (f ||| r.2)

/-- One stride of SCAN (R150) over the lanes. -/
def scanStride (op : Nat) (stride : Nat) (l : List (Option Word)) : List (Option Word) × Flags :=
  let pairs := (List.replicate stride none ++ l).zip l
  let out := pairs.mapIdx (fun i p => if stride ≤ i then combineOpt op p.1 p.2 else (p.2, (0 : Flags)))
  (out.map (·.1), out.foldl (fun f p => f ||| p.2) 0)

def scanAll (op : Nat) (l : List (Option Word)) : List (Option Word) × Flags :=
  [1, 2, 4, 8, 16, 32].foldl (fun acc st => let r := scanStride op st acc.1; (r.1, acc.2 ||| r.2)) (l, 0)

/-- A conversion number of CVT (R139): how it reads, converts and writes. -/
inductive ConvKind where
  | ff (src dst : Fmt)
  | fi (src : Fmt) (signed : Bool) (bits : Nat)
  | if' (signed : Bool) (bits : Nat) (dst : Fmt)
  deriving DecidableEq, Repr

def convOf (c : Nat) : ConvKind :=
  match c with
  | 0x00 => .ff fp32 fp64 | 0x01 => .ff fp16 fp64 | 0x02 => .ff bf16 fp64 | 0x03 => .ff fp16 fp32
  | 0x04 => .ff bf16 fp32 | 0x05 => .ff e4m3 fp32 | 0x06 => .ff e5m2 fp32 | 0x07 => .ff e5m2 fp16
  | 0x08 => .ff fp64 fp32 | 0x09 => .ff fp64 fp16 | 0x0A => .ff fp64 bf16 | 0x0B => .ff fp32 fp16
  | 0x0C => .ff fp32 bf16 | 0x0D => .ff fp32 e4m3 | 0x0E => .ff fp32 e5m2 | 0x0F => .ff fp16 e5m2
  | 0x10 => .fi fp32 true 32 | 0x11 => .fi fp32 false 32 | 0x12 => .fi fp32 true 64 | 0x13 => .fi fp32 false 64
  | 0x14 => .fi fp64 true 32 | 0x15 => .fi fp64 false 32 | 0x16 => .fi fp64 true 64 | 0x17 => .fi fp64 false 64
  | 0x18 => .if' true 32 fp32 | 0x19 => .if' false 32 fp32 | 0x1A => .if' true 64 fp32 | 0x1B => .if' false 64 fp32
  | 0x1C => .if' true 32 fp64 | 0x1D => .if' false 32 fp64 | 0x1E => .if' true 64 fp64 | _ => .if' false 64 fp64

/-- Does DAZ or FTZ reach the format (R140)? -/
def fmtHasCtl (f : Fmt) : Bool := decide (f = fp64) || decide (f = fp32) || decide (f = fp16) || decide (f = bf16)

/-- CVT (R138-R140): `opt` is mod7[6]. -/
def convert (c : Nat) (opt : Bool) (ctl : FpCtl) (a : DWord) : DWord × Flags :=
  match convOf c with
  | .ff src dst =>
    let r := fpConv src dst (ctl.daz && fmtHasCtl src) (ctl.ftz && fmtHasCtl dst) opt ctl.rm (a.toNat % 2 ^ src.width)
    (BitVec.ofNat 64 r.1, r.2)
  | .fi src signed bits =>
    let code := src.daz ctl.daz (a.toNat % 2 ^ src.width)
    let lo : Int := if signed then -(2 ^ (bits - 1) : Nat) else 0
    let hi : Int := if signed then (2 ^ (bits - 1) : Nat) - 1 else (2 ^ bits : Nat) - 1
    let r := toIntSat (src.decode code) lo hi (if opt then .rtz else ctl.rm)
    (BitVec.ofInt 64 r.1 &&& BitVec.ofNat 64 (2 ^ bits - 1), r.2)
  | .if' signed bits dst =>
    let u := a.toNat % 2 ^ bits
    let v : Int := if signed && decide (2 ^ (bits - 1) ≤ u) then (u : Int) - (2 ^ bits : Nat) else u
    let r := roundFP (XR.ofInt v 1 false) dst ctl.rm ctl.ftz
    (BitVec.ofNat 64 r.1, r.2)

end Sys2Proof.Machine
end

