-- ==== Sys2Proof/Machine/State.lean ====
section
/-! DEFINITION. The state of a Gwynif module: every piece of state the spec names, as plain data. The default value of each field is its value at reset (INVENTORY.md, State). Registers are 0 where no other value is written here. -/

namespace Sys2Proof.Machine

/-! ## Why a step stops -/

/-- The machine stops: no instruction and no event of the spec stops it, so there is no constructor. -/
inductive Fault where
  deriving DecidableEq, Repr

/-- An instruction without a meaning. -/
inductive Refusal where
  /-- Raised by exec for an instruction that this model does not give a meaning. Safe. -/
  | notModelled (mnemonic : String)
  deriving DecidableEq, Repr

/-! ## Who acts -/

/-- An agent that runs instructions: a group, the access-processor context of a group, a queue context, or a thread of a channel-engine task (00 R5, 05 R186, 12 R378, 14 R429). A group id is tag x 16 + GRPIX; a queue id is vf x 64 + q for PL1 and 2048 + q for PL2. -/
inductive Agent where
  | group (gid : Nat)
  | axp (gid : Nat)
  | queue (qid : Nat)
  | cheA (pkg vf : Nat)
  | cheX (pkg vf : Nat)
  deriving DecidableEq, Repr

/-- A place where instructions issue (R154, R186, R378, R436). -/
inductive Place where
  | pipe (core p : Nat)
  | axp (gid : Nat)
  | qp (n : Nat)
  | cheA (pkg : Nat)
  | cheX (pkg : Nat)
  deriving DecidableEq, Repr

/-- A byte of memory that a program can name: global by PA, a team's scratchpad, or a cluster's memory of this module (R160). -/
inductive Loc where
  | glob (pa : Nat)
  | spad (tag off : Nat)
  | clu (c off : Nat)
  deriving DecidableEq, Repr

/-- Where an uncorrectable error strikes (15 R465; 16 R487). -/
inductive Strike where
  /-- a register of an agent, by field value and lane: class 0x01 -/
  | reg (a : Agent) (field lane : Nat)
  /-- a byte of a scratchpad or of cluster memory: class 0x02, as all to `decode` -/
  | byte (l : Loc)
  /-- a line of a core's L1 -/
  | copy (core line : Nat)
  /-- an operand slot, or an accumulator tile, of a team -/
  | slot (tag n : Nat)
  | tile (tag n : Nat)
  /-- the entry of a queue in the queue tables -/
  | queue (qid : Nat)
  /-- an opcode's entry of a decode map -/
  | decode (map op : Nat)
  /-- a line in the L2: class 0x03 -/
  | l2 (line : Nat)
  /-- the tag of a line in the L2: class 0x04 -/
  | l2Tag (line : Nat)
  /-- a line of LPDDR-6: class 0x05; of another module, an error that its home reports -/
  | low (line : Nat)
  /-- a flit of the next request for a line: of a hub link for a line of this module, class 0x06; of the Ropeline for another's, class 0x07 -/
  | flit (line : Nat)
  /-- a frame of the Ethernet port: class 0x08 -/
  | frame
  deriving DecidableEq, Repr

/-! ## Waiting and trapping -/

/-- A page of a space that an access was translated through, and its GPA page (13 R410). -/
structure PageUse where
  vf : Nat
  asid : Nat
  page : Nat
  gpa : Nat
  deriving DecidableEq, Repr

/-- A QWAIT that is registered at its word (14 R447): its condition (0 at least, 1 equal, 2 unequal), its operand, whether it subtracts, and the page it was translated through. -/
structure SemWait where
  pa : Nat
  cond : Nat
  value : DWord
  dec : Bool
  use : PageUse
  deriving DecidableEq, Repr

/-- Why an instruction cannot go on yet. A waiting agent executes its instruction again when it is chosen. -/
inductive Wait where
  /-- an empty register (R87), by field value -/
  | regs (fields : List Nat)
  /-- a full store queue (R163) -/
  | storeQueue
  /-- a full matrix queue (R199) -/
  | matrixQueue
  /-- a full SQE queue, ring or queue register (R265, R373, R190) -/
  | queueFull
  /-- a scratchpad tag (R173); `ldfe`: inside an LDFE, which no TIMER interrupts (R94) -/
  | tag (ldfe : Bool)
  /-- its tokens or store queue at TBAR, GBAR, STEP (R107, R242) -/
  | drain
  /-- earlier accesses of its own: fences, acquires, engine issue (R166, R170, R179) -/
  | accesses
  /-- a claim on a line, or room in the claim tables (R313) -/
  | claim
  /-- M = 1 in the leaf at this PA (R416) -/
  | migration (leaf : Nat)
  /-- an invalidation that has not completed (R410) -/
  | invalidation (id : Nat)
  /-- work that must end first: LAUNCH on leases, ARCOMMIT.revoke, CTXSW, matrix or adapter work -/
  | work
  /-- QWAIT on a semaphore word (R447) -/
  | semaphore (w : SemWait)
  deriving DecidableEq, Repr

/-- A trap (R12, R246): cause code, auxiliary word, address, lanes, and how it was met. -/
structure Trap where
  cause : Nat
  aux : Word := 0
  va : DWord := 0
  /-- lane-masked (R246): the lanes that met the cause; none for a whole-group trap -/
  lanes : Option Mask := none
  s2 : Bool := false
  tagF : BitVec 16 := 0
  tagO : BitVec 16 := 0
  /-- the PA of an INTEGRITY fault, for the error log (R468) -/
  pa : Nat := 0
  deriving DecidableEq, Repr

/-- Why a meaning ends early: it waits, or it traps. -/
inductive Stop where
  | wait (w : Wait)
  | trap (t : Trap)
  deriving DecidableEq, Repr

/-- The fault record of a trap (R250), as the core keeps it for ERET (R253). -/
structure TrapRec where
  trap : Trap
  lmask : Mask
  pc : DWord
  regpc : DWord
  regcnt : BitVec 16
  rgv : Bool
  deferred : Bool
  hv : Bool
  cyc : DWord
  /-- address of the record in memory (R249) -/
  addr : DWord := 0
  deriving DecidableEq, Repr

/-! ## Registers -/

/-- The registers that instructions name (R27, R84): V by 64 x number + lane, S by number, P by number. A register that is not listed holds 0; `empty` has a 1 for each empty register, by field value (R87). -/
structure RegFile where
  v : Tab Word := []
  s : Tab Word := []
  p : Tab Mask := []
  empty : BitVec 128 := 0
  erm : BitVec 128 := 0
  /-- the words with a parity error, by field value and lane (15 R465) -/
  bad : List (Nat × Nat) := []
  deriving DecidableEq, Repr

/-- An entry of a queue register (R189, R190). -/
inductive QEntry where
  | scalar (w : Word)
  | vector (ws : List Word)
  deriving DecidableEq, Repr

/-- One of Q0-Q7: entries oldest first, of which the first `consumed` were popped in the current region (R191). `again`: the entry that an instruction popped whose lane-masked fault ERET.resume may have it execute again (R30, R253; log 25). -/
structure QReg where
  entries : List QEntry := []
  consumed : Nat := 0
  again : Option QEntry := none
  deriving DecidableEq, Repr

/-- A stream started by ASTRM (R189): the next entry is number k. -/
structure AxpStream where
  start : Word
  stride : Word
  step : Word
  count : Nat
  k : Nat
  deriving DecidableEq, Repr

/-- The access-processor context of a group (R186-R190). -/
structure Axp where
  /-- its number among the 16 contexts of its core (R154, R187) -/
  num : Nat := 0
  regs : RegFile := {}
  pc : DWord := 0
  running : Bool := false
  streams : Tab AxpStream := []
  /-- the fault that stopped the slice, until the group takes it (R187) -/
  stopped : Option Trap := none
  /-- false until AXBIND first ran (R191) -/
  bound : Bool := false
  mlimit : Bool := false
  mwait : Option (Nat × Nat) := none
  deriving DecidableEq, Repr

/-! ## Memory accesses in progress -/

/-- The scopes of R4 as R46 numbers them, with fabric last. -/
inductive Scope where
  | core | clu | die | fab
  deriving DecidableEq, Repr

/-- An update-only operand (R315): operation, width in bytes, value. -/
structure RedOp where
  op : Nat
  width : Nat
  val : DWord
  deriving DecidableEq, Repr

/-- A translated page: input page, PA page, GPA page. -/
structure PageMap where
  page : Nat
  pa : Nat
  gpa : Nat
  deriving DecidableEq, Repr

/-- What an entry of a store queue does when it performs (R163, R174, R175, R179, R333). -/
inductive StoreKind where
  | plain
  | stfe
  | feset (full : Bool)
  /-- the operand of a part is its bytes -/
  | red (op width : Nat)
  | fence (scope : Scope)
  deriving DecidableEq, Repr

/-- What one lane stores: its bytes, its generic address, and the lanes that a fault of it would name (R487). -/
structure StPart where
  lanes : Mask
  va : Nat
  writes : List (Loc × Byte)
  deriving DecidableEq, Repr

/-- A store between issue and the home: its parts, lowest lane first (R163, R168). On its way home an entry has one part. -/
structure StoreEnt where
  seq : Nat
  gid : Nat
  kind : StoreKind := .plain
  parts : List StPart := []
  strong : Bool := false
  /-- a release at this scope (R170, R334) -/
  rel : Option Scope := none
  /-- the instant at which it left its store queue -/
  left : Nat := 0
  /-- the pages it was translated through, for TFENCE.inv (R410) -/
  pages : List PageUse := []
  deriving DecidableEq, Repr

/-- Where a byte of a pending load comes from: fixed at issue, or sampled when the load performs. -/
inductive Src where
  | byte (b : Byte)
  | at (l : Loc)
  deriving DecidableEq, Repr

/-- What a pending access does at its point of coherence (R168, R331, R332). -/
inductive AccKind where
  | load (signed : Bool)
  | atom (op : Nat)
  | cas
  | value
  /-- a lane load that writes this predicate with its destination (08 R275); the operand of a part is its predicate -/
  | lookup (p : Nat)
  deriving DecidableEq, Repr

/-- One element of a pending access: a lane (or none when uniform), its bytes, and for an atomic its operand and replacement (for a lane load, its predicate). -/
structure AccPart where
  lane : Option Nat
  src : List Src
  operand : DWord := 0
  swap : DWord := 0
  /-- first word of the destination that it fills -/
  off : Nat := 0
  /-- its generic address -/
  va : Nat := 0
  done : Bool := false
  deriving DecidableEq, Repr

/-- An access between issue and its return (R88): `dst` is the first register field of the destination, `width` its bytes. -/
structure Pending where
  id : Nat
  seq : Nat
  agent : Agent
  core : Nat
  kind : AccKind
  dst : Nat
  width : Nat
  parts : List AccPart
  strong : Bool := false
  /-- an acquire at this scope (R170, R334) -/
  acq : Option Scope := none
  /-- a release, for an atomic (R334) -/
  rel : Option Scope := none
  pages : List PageUse := []
  deriving DecidableEq, Repr

/-! ## Groups and teams -/

/-- What a BLOCKED group waits at (R226). -/
inductive Block where
  /-- BARWAIT on the object at this place, with its token and status register (R241); `byEngine`: its phase lacked only bytes when it blocked (R229) -/
  | barwait (obj : Loc) (token : Nat) (dst : Nat) (byEngine : Bool)
  | tbar
  | gbar
  | step
  deriving DecidableEq, Repr

/-- Group states (R226). -/
inductive Run where
  | eligible
  | waiting (w : Wait)
  | blocked (b : Block)
  | trapped
  | done
  deriving DecidableEq, Repr

/-- A group (R84). Per-lane tables list only lanes whose value is not 0. -/
structure Group where
  regs : RegFile := {}
  q : Tab QReg := []
  pc : DWord := 0
  icnt : Tab Nat := []
  done : Mask := 0
  parked : Mask := 0
  /-- the lanes to which ERET.resume confines one instruction (R253) -/
  only : Option Mask := none
  fcsr : Tab Word := []
  mfr : Word := 0
  gtime : DWord := 0
  gtcmp : DWord := BitVec.allOnes 64
  wdl : DWord := BitVec.allOnes 64
  regpc : DWord := 0
  regcnt : BitVec 16 := 0
  regv : Bool := false
  run : Run := .eligible
  trap : Option TrapRec := none
  /-- a trap whose record waits for a page that migrates (07 R251; 13 R416) -/
  recDue : Option TrapRec := none
  /-- its trap has not yet reached the handling context (R251, R434) -/
  noticeDue : Bool := false
  /-- a deferred trap (R247) and the instructions issued since (R248) -/
  deferred : Option (TrapRec × Nat) := none
  budget : Nat := 32
  /-- 0 no roles, 1 producer, 2 consumer (R90) -/
  role : Nat := 0
  pipe : Nat := 0
  /-- its resident slot on the pipeline (R154, R227) -/
  slot : Nat := 0
  sq : List StoreEnt := []
  /-- remote stores and REDs that failed: lanes and address (R487) -/
  failed : List (Mask × Nat) := []
  /-- lanes whose LDFE step is done (R173) -/
  feDone : Mask := 0
  /-- issue opportunities since it last issued (R227) -/
  age : Nat := 0
  /-- the watchdog count (R442) -/
  wdog : Nat := 0
  /-- the time cap of its team has been reached and it has yet to take WATCHDOG (R231) -/
  capDue : Bool := false
  /-- its wait on M passed the migration limit (13 R416) -/
  mlimit : Bool := false
  /-- the leaf whose M it waits for, and since when (13 R416) -/
  mwait : Option (Nat × Nat) := none
  /-- after a TFENCE.walk: the accesses stamped before this have performed before a walk of the group starts (13 R408) -/
  walkSeq : Nat := 0
  axp : Option Axp := none
  deriving DecidableEq, Repr

/-- State of an operand slot (06 R192). -/
inductive SlotState where
  | free | claimed | loading | valid
  deriving DecidableEq, Repr

/-- An operand slot (06 R192, R193): format, extents, element codes and scale bytes by line, codebook, sparsity record. -/
structure OpSlot where
  state : SlotState := .free
  fmt : Nat := 0
  klen : Nat := 0
  lines : Nat := 0
  data : Tab (List Nat) := []
  scales : Tab (List Nat) := []
  codebook : List Nat := []
  cbv : Bool := false
  sparsity : Nat := 0
  /-- its memory has an uncorrectable error (15 R465) -/
  bad : Bool := false
  deriving DecidableEq, Repr

/-- An accumulator tile (06 R197): INT36 or FA36; 128 elements by row, and a row not listed holds zeros. -/
structure AccTile where
  int : Bool := false
  rows : Tab (List (BitVec 36)) := []
  /-- its memory has an uncorrectable error (15 R465) -/
  bad : Bool := false
  deriving DecidableEq, Repr

/-- Whether a team runs, or how it is kept (R255-R258). -/
inductive Residence where
  | running
  /-- a team of a gang that has its room on a core and waits for its fellow teams (R260) -/
  | admitted
  | draining
  /-- to be flushed and restarted, once nothing of it is in flight (R255, R256) -/
  | flushing
  /-- to be saved: cycles since the request, and whether its groups were stopped (R257) -/
  | saving (cycles : Nat) (forced : Bool)
  | held
  | spilled
  | evicted
  deriving DecidableEq, Repr

/-- A team (R155-R158): where it is, what it owns. -/
structure Team where
  grid : Nat
  index : Nat
  x : Nat := 0
  y : Nat := 0
  z : Nat := 0
  core : Nat := 0
  cluster : Nat := 0
  p0 : Nat := 0
  res : Residence := .running
  ngrp : Nat := 1
  spadSize : Nat := 0
  /-- where its range lies in the core's scratchpad (R155) -/
  spadBase : Nat := 0
  spad : Tab Byte := []
  /-- the full words of its scratchpad, rising (R159) -/
  tags : List Nat := []
  slots : Tab OpSlot := []
  /-- logical slot to physical slot of the core (R194) -/
  slotMap : Tab Nat := []
  held : Nat := 0
  tiles : Tab AccTile := []
  stepArrived : Bool := false
  /-- the count against the .det time cap: GTIME of logical group 0 less the cycles held back by throttling (R231) -/
  capCount : Int := 0
  capFired : Bool := false
  /-- cycles that it ran on a core, for TAVG (R256) -/
  resident : Nat := 0
  placedAt : Nat := 0
  deriving DecidableEq, Repr

/-- An entry of a livemap table (R444). -/
structure LiveEntry where
  pc : DWord
  v : BitVec 128
  s : Word
  ranges : List (Nat × Nat)
  deriving DecidableEq, Repr

/-- A lease of a grid (13 R418): VA range in the issuing space, access, the pages recorded, and its revocation. -/
structure Lease where
  n : Nat
  va : Nat
  len : Nat
  rw : Bool
  /-- recorded translations: VA page start, length, PA (R418) -/
  ranges : List (Nat × Nat × Nat) := []
  /-- the GPA pages of those translations, in runs: first page and number of pages -/
  gpas : List (Nat × Nat) := []
  revoked : Bool := false
  /-- the instant of a pending revocation, while a TFENCE.inv waits (R420) -/
  pending : Option Nat := none
  deriving DecidableEq, Repr

/-- An adapter descriptor (11 R359): the eight words of its block as checked. -/
structure Adapter where
  words : List Word
  deriving DecidableEq, Repr

/-- The address space of an access (13 R387, R521): VF, slot's roots, level. -/
structure Space where
  vf : Nat
  asid : Nat
  gtrt : DWord
  grdt : DWord
  pl : Nat
  deriving DecidableEq, Repr

/-- A grid (14 R444-R446). -/
structure Grid where
  vf : Nat
  qid : Nat
  /-- the process slot whose context issued its LAUNCH (R439) -/
  slot : Nat := 0
  /-- the process instance of the queue context that issued its LAUNCH -/
  inst : Nat := 0
  space : Space
  entry : DWord
  access : DWord
  /-- address of the livemap table, or 0 -/
  livemap : DWord := 0
  spad : Nat := 0
  groups : Nat := 1
  det : Bool := false
  gang : Bool := false
  roles : Bool := false
  decmap : Nat := 1
  np : Nat := 1
  vp : Nat := 32
  nc : Nat := 0
  vc : Nat := 0
  minMods : Nat := 1
  maxMods : Nat := 1
  gx : Nat := 1
  gy : Nat := 1
  gz : Nat := 1
  idem : Bool := false
  pb : DWord := 0
  ps : Nat := 0
  satlen : Nat := 0
  farea : DWord := 0
  tcap : Nat := 20000000
  args : List Word := []
  leases : List Lease := []
  demands : List (Nat × Nat × Nat) := []
  /-- adapter table of 63 slots (11 R359) -/
  adapters : Tab Adapter := []
  /-- the generation pin (11 R362): none reads the current set -/
  pin : Option Nat := none
  /-- modules of the grid, this one first when it placed it (16 R490) -/
  mods : List Nat := []
  offered : List Nat := []
  /-- the module that issued it, if another (16 R490) -/
  home : Option Nat := none
  /-- its teams on other modules, by linear index: the module, and whether the team has retired -/
  abroad : Tab (Nat × Bool) := []
  /-- SAT extent base in each cluster where a team was placed (08 R268) -/
  sat : Tab Nat := []
  token : Nat := 0
  placed : Nat := 0
  /-- linear indices of the teams placed here -/
  taken : List Nat := []
  retired : Nat := 0
  /-- resident cycles of retired teams, for TAVG (07 R256) -/
  residentSum : Nat := 0
  waiting : Bool := false
  ended : Option Nat := none
  issuedAt : Nat := 0
  collCount : Tab Nat := []
  deriving DecidableEq, Repr

/-! ## Array dies -/

/-- Tile states (11 R339). -/
inductive TileState where
  | safe | uncal | ready | drift | reprogramming
  deriving DecidableEq, Repr

/-- An array tile (11 R338-R344; 14 R457-R459). -/
structure Tile where
  state : TileState := .safe
  /-- it holds an image -/
  programmed : Bool := false
  /-- 0 none, 1 verify failed, 2 staging lost, 3 digest mismatch at replay (14 R459) -/
  err : Nat := 0
  image : Nat := 0
  imageTile : Nat := 0
  /-- weight levels by row x 1024 + column, plus 8 (an unlisted pair has level 0) -/
  levels : Tab Nat := []
  /-- S_c by column, as FP32 words -/
  scale : Tab Word := []
  reprogrammings : Nat := 0
  /-- levels that a reprogramming has put into the rows, before ARCOMMIT.tile latches them -/
  newLevels : Tab Nat := []
  newImage : Nat := 0
  newTile : Nat := 0
  failRow : Nat := 0
  /-- the row whose read-back has matched and whose COMMIT is still to be written (14_tenancy R457) -/
  verified : Option Nat := none
  /-- rows committed by the reprogramming that ARCOMMIT.tile sealed (14_tenancy R459; 17_programs_module R507) -/
  rows : Nat := 0
  deriving DecidableEq, Repr

/-- A calibration set (11 R344, R361, R363). -/
structure CalSet where
  gen : Nat := 0
  /-- The generation that superseded it -/
  till : Option Nat := none
  gain : Tab Word := []
  offset : Tab Word := []
  u : Tab Word := []
  v : Tab Word := []
  rank : Nat := 0
  metric : Word := 0
  exactOk : Bool := true
  drift : Bool := false
  deriving DecidableEq, Repr

/-- A record of a die's journal (14 R456). -/
structure Cairn where
  kind : Nat
  part : Nat := 0
  image : Nat := 0
  tile : Nat := 0
  row : Nat := 0
  seq : Nat := 0
  body : List Byte := []
  /-- its CRC holds -/
  whole : Bool := true
  deriving DecidableEq, Repr

/-- What PL2 keeps of an image: rows, columns, and where its golden copy lies (11 R340). -/
structure Image where
  ki : Nat
  ni : Nat
  golden : Nat
  /-- the SHAKE256 measurement of the golden copy as PL2 loaded it (15 R464) -/
  sum : List Byte := []
  deriving DecidableEq, Repr

/-! ## Engine work -/

/-- The kinds of engine work: which instruction started it. -/
inductive WorkKind where
  | cpy | gather | scatter
  | ldslot (slot : Nat) | cbload (slot : Nat)
  | mma (sparse : Bool) | accz | accrd | accwr | accst
  | layerf | layert | layerd | arxq | adpset | calset | calrd | almrun | almfit
  | confw | scacc | scrd | scclr | topk | surv | compact | pxfind | pxins | pxrel | unmask | dirty
  | chlaunch | migrate (force host : Bool) | launch | arprog | arcommit | arstat | coll
  deriving DecidableEq, Repr

/-- Engine work in progress (R36, R37, R184): issuer and token, block words, lanes and lane values latched at issue, what has been written, and its status so far. -/
structure Work where
  id : Nat
  kind : WorkKind
  agent : Agent
  core : Nat := 0
  vf : Nat := 0
  grid : Nat := 0
  space : Space
  /-- the process instance of a queue context that issued it (14 R431) -/
  inst : Nat := 0
  token : Nat
  mods : Nat := 0
  blk : List Word := []
  /-- the lanes that take part -/
  lanes : Mask := 0
  /-- lane values latched at issue, by 64 x operand + lane -/
  vals : Tab Word := []
  /-- pieces (destination lines, steps) that have been done -/
  pieces : List Nat := []
  /-- translations it uses, by kind of access (13 R410) -/
  pages : List (Nat × PageMap) := []
  /-- translations that an invalidation has removed from it (13 R410) -/
  gone : List (Nat × PageMap) := []
  mlimit : Bool := false
  mwait : Option (Nat × Nat) := none
  /-- array tiles and calibration sets as they were at issue (11 R343, R360) -/
  tiles : Tab Tile := []
  sets : Tab CalSet := []
  /-- the barrier object of its locator (R181) -/
  bar : Option Loc := none
  /-- source lines already read, once each (R314), by line key -/
  srcLines : Tab (List Byte) := []
  /-- lowest failure so far: cause and INDEX -/
  status : Nat := 0
  index : Nat := 0
  /-- its token may fill -/
  ended : Bool := false
  stage : Nat := 0
  /-- values computed so far -/
  data : Tab (List Nat) := []
  seq : Nat := 0
  issuedAt : Nat := 0
  deriving DecidableEq, Repr

/-! ## Cores and clusters -/

/-- A line of L1 in state S (10 R310): its bytes, and whether an invalidation is waiting (R311). `counted`: an engine has written the line and counted it against a barrier, whose BARWAIT drops the copy (07 R244). -/
structure L1Line where
  bytes : List Byte
  inval : Bool := false
  counted : Bool := false
  /-- an uncorrectable error (15 R465) -/
  bad : Bool := false
  deriving DecidableEq, Repr

/-- What one stage of translation gives (13_translation R391, R394). `leaf` is the PA of the leaf entry and `pte` its value; `size` is 0 for 4 KiB, 1 for 64 KiB or a range, 2 for 2 MiB, 3 for 1 GiB (R423); `range` is the descriptor (R392). -/
structure Stage1 where
  out : Nat
  pol : Nat
  part : Nat
  plc : Nat
  pmod : Nat
  r : Bool
  w : Bool
  x : Bool
  u : Bool
  a : Bool
  d : Bool
  m : Bool
  size : Nat
  range : Option Nat
  leaf : Option Nat
  pte : Nat
  deriving DecidableEq, Repr

/-- A TLB entry (13_translation R396, R401): the combined translation of a run of `pages` pages of 4 KiB from `page`, with what both stages gave for its first page. -/
structure TlbEnt where
  vf : Nat
  asid : Nat
  page : Nat
  pages : Nat
  g : Stage1
  h : Stage1
  deriving DecidableEq, Repr

/-- A descriptor in a core's range buffer (13 R392): of a guest space (vf, asid) or of a VF's host space, its number and its 256 bits. -/
structure RangeEnt where
  vf : Nat
  asid : Nat
  host : Bool
  k : Nat
  d : Nat
  deriving DecidableEq, Repr

/-- An entry of the walk caches (13 R401, R402): the table of level `lvl` for the input addresses whose bits above that table's are `inputTop`. -/
structure WalkEnt where
  vf : Nat
  asid : Nat
  host : Bool
  lvl : Nat
  inputTop : Nat
  table : Nat
  deriving DecidableEq, Repr

/-- An earlier version of a 64-byte block of memory: the instant it was replaced, its bytes, who replaced it; `walk`: a walker may still read it (10 R328; 13 R403). -/
structure OldBlock where
  blk : Nat
  seq : Nat
  bytes : List Byte
  writer : Agent
  walk : Bool := true
  deriving DecidableEq, Repr

/-- A line that the L2 holds (10 R306, R308): its way in its set, and its policy: 0 normal, 1 evict-first, 2 retain. -/
structure L2Line where
  way : Nat
  pol : Nat
  deriving DecidableEq, Repr

/-- What a matrix operation does (06 R199). -/
inductive MatrixKind where
  | mma (sparse : Bool) (a b tile m n k : Nat)
  | accz (tile : Nat) (int : Bool)
  | accrd (tile row half : Nat) (f32 : Bool) (dst : Nat)
  | accwr (tile row half : Nat) (f32 : Bool) (vals : List DWord)
  | accst (tile : Nat) (work : Nat)
  deriving DecidableEq, Repr

/-- A matrix operation waiting in a core's matrix queue (06 R199). -/
structure MatrixOp where
  gid : Nat
  kind : MatrixKind
  deriving DecidableEq, Repr

/-- A core (R154): copies of lines, stores on their way home, matrix queue, .det holder. -/
structure Core where
  s : Tab L1Line := []
  /-- U partials by word address (10 R315) -/
  u : Tab RedOp := []
  tlb : List TlbEnt := []
  /-- the range buffer, newest first (13 R392) -/
  rbuf : List RangeEnt := []
  out : List StoreEnt := []
  matrix : List MatrixOp := []
  holder : Option Nat := none
  /-- the holder has just executed YIELD (R230) -/
  yielded : Bool := false
  /-- the instant at which the instruction cache was last discarded (10 R328) -/
  fetchFrom : Nat := 0
  /-- the lines that it has requested since (10 R328; 15 R472) -/
  code : List Nat := []
  deriving DecidableEq, Repr

/-- A cluster (08 R261-R268). -/
structure Cluster where
  mem : Tab Byte := []
  /-- granule owners: the VF plus 1, by granule (R262) -/
  owner : Tab Nat := []
  /-- the VF plus 1 to which a granule was last assigned (R263) -/
  last : Tab Nat := []
  sat : Tab (BitVec 36) := []
  sqe : List Nat := []
  retired : Bool := false
  deriving DecidableEq, Repr

/-! ## Queues and VFs -/

/-- States of a queue descriptor (14 R432). -/
inductive QState where
  | idle | running | waiting | stopped | faulted
  deriving DecidableEq, Repr

/-- A notice for a queue context (14 R434). -/
structure Notice where
  info : Word
  aux : Word
  recAt : DWord
  gh : Word
  deriving DecidableEq, Repr

/-- A queue context (14 R430-R435): registers, position in its ring, trap registers. -/
structure QCtx where
  regs : RegFile := {}
  pc : DWord := 0
  base : DWord := 0
  logsz : Nat := 12
  prio : Nat := 0
  slot : Nat := 0
  head : Nat := 0
  tail : Nat := 0
  en : Bool := false
  state : QState := .idle
  wait : Option Wait := none
  /-- running outside its ring: the PC counts, not HEAD (R433) -/
  away : Bool := false
  level : Nat := 1
  trapped : Bool := false
  notices : List Notice := []
  trpc : DWord := 0
  trinfo : Word := 0
  traux : Word := 0
  trrec : DWord := 0
  trgh : Word := 0
  wdog : Nat := 0
  mlimit : Bool := false
  mwait : Option (Nat × Nat) := none
  /-- the slot that its CTXSW is switching (14 R451, R452) -/
  swap : Option Nat := none
  /-- when that CTXSW issued (14 R452) -/
  swapAt : Nat := 0
  /-- the slot whose contexts its CTXSV has stopped (14 R451) -/
  saving : Option Nat := none
  vfsel : Word := 0
  /-- the process instance it belongs to: images that are saved and loaded again keep it (14 R431, R434) -/
  inst : Nat := 0
  deriving DecidableEq, Repr

/-- The saved entry of a queue context whose process is not loaded (14 R431, R434): where its 256 bytes lie, and the notices held for it. -/
structure SavedCtx where
  vf : Nat
  q : Nat
  inst : Nat
  /-- PAs of its four 64-byte pieces -/
  pas : List Nat
  notices : List Notice := []
  deriving DecidableEq, Repr

/-- A loaded process slot (14 R429, R430, R437). -/
structure PSlot where
  image : DWord := 0
  gtrt : DWord := 0
  grdt : DWord := 0
  map : Nat := 1
  weight : Nat := 1
  qmask : BitVec 64 := 0
  tvec : DWord := 0
  pass : Nat := 0
  /-- the queue that issued last (R438) -/
  lastQ : Nat := 63
  deriving DecidableEq, Repr

/-- An entry of an array grant table (11 R341). -/
structure Grant where
  words : List Word
  deriving DecidableEq, Repr

/-- A virtual function (14 R427). -/
structure Vf where
  isOpen : Bool := false
  endpoint : Bool := false
  htrt : DWord := 0
  hrdt : DWord := 0
  qtab : DWord := 0
  msetc : Word := 0
  mset : Tab Word := []
  weight : Nat := 1
  vfpcap : Word := 0
  agtlen : Nat := 0
  agt : Tab Grant := []
  slots : Tab PSlot := []
  /-- slots that were runnable at the last choice (R437) -/
  runSlots : List Nat := []
  chfslot : DWord := 0
  chhalt : BitVec 48 := 0
  hvvec : DWord := 0
  hvctx : Word := 0
  held : List Notice := []
  mincl : Nat := 0
  mintile : Nat := 0
  minbw : Nat := 0
  scaled : Bool := false
  /-- its own throttling, and the instant of its last change (15 R470) -/
  throttled : Nat := 0
  throttledAt : Nat := 0
  /-- since when its draw has stayed below 90 % of its cap (15 R470) -/
  lowSince : Option Nat := none
  deriving DecidableEq, Repr

/-! ## Channel engines -/

/-- A stream of the address thread (12 R381): what remains of it, and the instruction that started it. -/
structure ChStream where
  strong : Bool
  gather : Bool
  base : DWord
  stride : DWord
  left : Nat
  idx : Nat
  deriving DecidableEq, Repr

/-- A place of the fetch queue (12 R380): where its beat lies, and the beat once it has arrived. -/
structure ChFetch where
  va : Nat
  pa : Nat
  strong : Bool
  idx : Nat
  data : Option (List Byte) := none
  deriving DecidableEq, Repr

/-- A beat on its way to memory (12 R381); `landed`: a weak one has reached LPDDR-6 and not yet the home (10 R322). -/
structure ChStore where
  va : Nat
  pa : Nat
  strong : Bool
  idx : Nat
  bytes : List Byte
  landed : Bool := false
  deriving DecidableEq, Repr

/-- A task in a ring (12 R373-R385). -/
structure ChTask where
  work : Nat
  seqNo : Nat
  grid : Nat := 0
  /-- a COMPACT, forwarded by an SQE (08 R278) -/
  compact : Bool := false
  /-- its grid's lease was revoked while it was queued (13 R420) -/
  doomed : Bool := false
  started : Bool := false
  a : Tab DWord := []
  x : Tab (List Byte) := []
  aprog : List Word := []
  xprog : List Word := []
  apc : Nat := 0
  xpc : Nat := 0
  aDone : Bool := false
  xDone : Bool := false
  /-- passes of the arithmetic thread that have ended -/
  iter : Nat := 0
  fetch : List ChFetch := []
  result : List (List Byte) := []
  stores : List ChStore := []
  fport : Option ChStream := none
  sport : Option ChStream := none
  stalled : Nat := 0
  /-- registers with a parity error: A by number, X by 16 + number (15 R465) -/
  bad : List Nat := []
  deriving DecidableEq, Repr

/-- The ring of one VF on one engine (12 R373, R376, R377). -/
structure Ring where
  tasks : List ChTask := []
  seqNo : Nat := 0
  halted : Bool := false
  deriving DecidableEq, Repr

/-- The fault record of a task that has ended: whose ring's it is, its bytes, the leaf that it waits for and since when, and what the task's token will report (12 R377; 13 R416). Its address and space are those of the instant at which it is written (14 R435). -/
structure DueRecord where
  vf : Nat
  pkg : Nat
  bytes : List Byte
  wait : Option (Nat × Nat)
  work : Nat
  cause : Nat
  index : Nat
  /-- its weak stores that have reached LPDDR-6 and not yet their homes (10 R323) -/
  stores : List ChStore := []
  deriving DecidableEq, Repr

/-- What happens on another module to a grid that several modules may hold (16 R490-R499; log 97). -/
inductive Abroad where
  /-- module `home` offers a grid that it issued, and this module accepts it (R490) -/
  | offered (home : Nat) (g : Grid)
  /-- a grid that this module accepted starts on these modules -/
  | started (mods : List Nat)
  /-- its issuer releases it: it was short of modules, or it has ended -/
  | released
  /-- a team is placed on a module of the grid, and retires there -/
  | placed (modn index : Nat)
  | retired (index : Nat)
  /-- the notice of a group that trapped there comes to the issuing module (R492) -/
  | notice (n : Notice)
  /-- a rank there issues the k-th COLL of a tag, and what it names of R495 -/
  | coll (tag k rank : Nat) (params : List Nat)
  /-- that rank will read no source any more (R498) -/
  | read (tag k rank : Nat)
  deriving DecidableEq, Repr

/-- The Camp firmware in the module's store: the image, the vendor's public key, and the signature (15 R462). -/
structure Firmware where
  image : List Byte
  key : List Byte
  signature : List Byte
  deriving DecidableEq, Repr

/-- A message that an endpoint has received and not yet written (16 R501): the endpoint, 32 for management, its stream, its address and bytes, and when it came. -/
structure Arrival where
  endpoint : Nat
  stream : Option Nat
  va : Nat
  bytes : List Byte
  since : Nat
  deriving DecidableEq, Repr

/-- What comes to the module from outside besides the events of the opcode table. -/
inductive Outside where
  /-- the Camp firmware, or the hypervisor's, is put into the module's store (15 R462, R464) -/
  | firmware (f : Option Firmware)
  | hypervisor (image : List Byte)
  /-- PL2 loads a base image: rows, columns, and where its golden copy lies in memory (11 R340; 15 R464) -/
  | image (id ki ni golden : Nat)
  /-- the next stage of start cannot complete (15 R461) -/
  | stageFails
  /-- a die goes one step on with the replay of its journal, before Camp 1 completes (14 R460) -/
  | replay (die : Nat)
  /-- message k of those received is tried again (16 R501) -/
  | deliver (k : Nat)
  /-- PL2 reads the route table through management (16 R480) -/
  | routes
  deriving DecidableEq, Repr

/-- What happens next: an event, an issue opportunity of a place, the passing of reference cycles, or a line's leaving an L1 (log 4). -/
inductive Choice where
  | event (e : Event)
  | issue (p : Place)
  | elapse (cycles : Nat)
  /-- a line leaves a core's L1, by replacement or because a waiting invalidation is applied (R310, R311) -/
  | evict (core line : Nat)
  /-- an uncorrectable error strikes (15 R465) -/
  | strike (x : Strike)
  /-- another module reaches Camp 1, or leaves it (16 R487) -/
  | module (modn : Nat) (up : Bool)
  /-- something happens on another module to a grid -/
  | abroad (grid : Nat) (what : Abroad)
  /-- something else comes from outside -/
  | outside (x : Outside)
  deriving DecidableEq, Repr

/-! ## The module -/

/-- Stages of start (15 R461). -/
inductive Stage where
  | off | camp0 | camp1 | summit | halting | halted
  deriving DecidableEq, Repr

/-- A snapshot (15 R472): its trigger, the instant at which each of the 528 blocks latches, and the counters of the L2 slices that have latched (slice k is block 96 + k). -/
structure Snapshot where
  seq : Nat
  trigger : Nat
  instants : List Nat
  locl : Tab Nat
  remt : Tab Nat
  deriving DecidableEq, Repr

/-- An invalidation in progress (13 R409, R410): what it covers, and the accesses and works that use a removed translation. -/
structure Inval where
  id : Nat
  /-- the context that waits for it; none for a MIGRATE -/
  agent : Option Agent
  vf : Nat
  asid : Nat
  host : Bool
  all : Bool
  /-- first pages and numbers of pages -/
  ranges : List (Nat × Nat)
  scope : Scope
  core : Nat
  stores : List Nat := []
  pend : List Nat := []
  works : List Nat := []
  done : Bool := false
  deriving DecidableEq, Repr

/-- A collective instance (16 R495, R499): the k-th of its tag in a grid, with the works of its members. -/
structure Coll where
  id : Nat
  grid : Nat
  tag : Nat
  k : Nat
  works : List Nat := []
  opened : Nat := 0
  /-- it gathered all its members -/
  full : Bool := false
  /-- its destination lines are claimed (R498) -/
  claimed : Bool := false
  /-- where the free values of its order of Combines and of members on other modules begin (log 55) -/
  base : Nat := 0
  /-- it ended by the limit of R499 -/
  closed : Bool := false
  /-- members whose tokens have filled, with the source lines that the instance has read of them (R498) -/
  past : List Work := []
  /-- its members on other modules: rank, what they name of R495, and whether they will read no source any more -/
  away : List (Nat × List Nat × Bool) := []
  deriving DecidableEq, Repr

/-- What the module sends out (15 R461, R464, R475; 16 R482). -/
inductive Message where
  /-- the codes of the firmware check, the overrun of the power cap, and a stage that could not complete -/
  | health (codes : List Word) (overrun : Bool) (failed : Option Stage)
  | attestation (report signature : List Byte)
  /-- none: the read was not served -/
  | uetRead (endpoint : Nat) (bytes : Option (List Byte))
  /-- through a port; none: an uncorrectable error (16 R487) -/
  | remoteReply (port : Nat) (bytes : Option (List Byte))
  | routes (table : List Nat)
  | snapshot (s : Snapshot)
  | overcommit (aux : Word)
  | faulted (qid : Nat) (trap : Trap)
  /-- the notice of a trapped group, to the module that issued its grid (16 R492) -/
  | trapNotice (modn : Nat) (n : Notice)
  deriving DecidableEq, Repr

/-- The state of one module, and of the memory of its load-store domain by PA. -/
structure State where
  /-- who executes the current instruction -/
  cur : Agent := .group 0
  /-- what happens next, in order (log 4) -/
  agenda : List Choice := []
  /-- where instructions issue while the agenda is empty (log 4) -/
  turn : Place := .pipe 0 0
  /-- counter from which free values are taken (log 7) -/
  fresh : Nat := 0
  /-- steps taken: the key of the choices that one step makes (log 7) -/
  steps : Nat := 0
  /-- program-order stamp of accesses -/
  seq : Nat := 0
  nextId : Nat := 1
  /-- CYCLE in reference cycles of 0.5 ns (03 R91) -/
  time : Nat := 0
  stage : Stage := .off
  /-- the stage that could not complete (15 R461) -/
  stageFailed : Option Stage := none
  /-- the firmware in the module's store, and its measurements as loaded (15 R462, R464) -/
  firmware : Option Firmware := none
  hypervisor : Option (List Byte) := none
  firmwareSum : List Byte := []
  hypervisorSum : List Byte := []
  /-- the queue context that executes HALT (15 R474), and the stage in which it began -/
  haltBy : Nat := 0
  haltFrom : Stage := .camp1
  modn : BitVec 9 := 0
  memCode : BitVec 4 := 0
  /-- the route table (16_fabric R479, R480): an entry 512 x port + module for each module that a port reaches -/
  routes : List Nat := []
  /-- the ports and virtual lanes on which a hold stops sending (16_fabric R477) -/
  heldVls : List (Nat × Nat) := []
  mem : List Host.Cell := []
  /-- LPDDR-6 copies of lines that the L2 holds dirty (10 R307, R322) -/
  lpddr : Tab (List Byte) := []
  /-- dirty lines of the L2 with an uncorrectable error (15 R466) -/
  badLines : List Nat := []
  /-- lines of LPDDR-6 with one (15 R465; log 52) -/
  badLow : List Nat := []
  /-- other uncorrectable errors that nothing has met or mended yet (15 R465) -/
  struck : List Strike := []
  /-- modules that have not reached Camp 1 (16 R487) -/
  down : List Nat := []
  evictFirst : List Nat := []
  /-- the lines that the L2 slices hold (10 R306, R308) -/
  l2 : Tab L2Line := []
  /-- POL and PART of the last translation to a page of this module, by PA page (13 R396; log 66) -/
  attrs : Tab (Nat × Nat) := []
  /-- earlier versions of blocks, newest first (10 R328; 13 R403) -/
  history : List OldBlock := []
  /-- claimed lines with the work that claims them (10 R313) -/
  claims : List (Nat × Nat) := []
  /-- claims of works that have more lines at a slice than its table of 64 holds: each enters as an entry there is released (10 R313; log 26) -/
  claimQueue : List (Nat × Nat) := []
  /-- the walk caches (13 R401, R402) -/
  wcache : List WalkEnt := []
  /-- what this step's walks and range walks read, which enters the caches as the step ends: all lanes on a page share its result (13 R400) -/
  walked : List WalkEnt := []
  ranged : List (Nat × RangeEnt) := []
  pending : List Pending := []
  groups : Tab Group := []
  teams : Tab Team := []
  grids : Tab Grid := []
  works : List Work := []
  cores : Tab Core := []
  clusters : Tab Cluster := []
  queues : Tab QCtx := []
  saved : List SavedCtx := []
  vfs : Tab Vf := []
  rings : Tab Ring := []
  /-- fault records of rings that wait for a page that migrates (12 R377; 13 R416) -/
  dueRecords : List DueRecord := []
  /-- the ring that each engine runs (12 R376), by package -/
  cheTurn : Tab Nat := []
  /-- quanta that ring has had in this round (12 R376) -/
  cheQuanta : Tab Nat := []
  /-- when the quantum that an engine's ring has began (12 R376) -/
  cheSince : Tab Nat := []
  /-- the VF, and the queue context, that each queue processor serves (14 R436) -/
  qpVf : Tab Nat := []
  qpCtx : Tab Nat := []
  qpQuanta : Tab Nat := []
  /-- queue processors whose VF gives way once its CTXSW has ended (14 R452) -/
  qpAsked : List Nat := []
  tiles : Tab Tile := []
  images : Tab Image := []
  calCur : Tab CalSet := []
  calOld : List (Nat × CalSet) := []
  cgen : Word := 0
  dthr : Word := 0x3FC00000
  journal : Tab (List Cairn) := []
  journalSeq : Tab Nat := []
  colls : List Coll := []
  invals : List Inval := []
  /-- decode-table slots 1-7: map number and 1,024 entries (01 R40); absent = empty -/
  decSlots : Tab (Nat × List Word) := []
  l2pwm : Tab (BitVec 16) := []
  charb : Tab Word := []
  /-- registers 0x3C0-0x3FF, which hold Camp firmware state, by number less 0x3C0 (15 R469; log 61) -/
  camp : Tab Word := []
  chewt : Tab Word := []
  fitper : Word := 60
  leaseto : Word := 1000
  wdlim : Word := 500
  snapen : Word := 0
  pwrcap : Word := 600
  errlog : DWord := 0
  errcnt : Word := 0
  /-- T0-T3 of PWRST (15 R470, R471) -/
  throttle : Nat := 0
  /-- PW of PWRST (15 R471); free once time has passed (log 56) -/
  draw : BitVec 16 := 0
  /-- the instant of its last change -/
  throttledAt : Nat := 0
  /-- since when the draw has stayed below 90 % of the cap (15 R470) -/
  lowSince : Option Nat := none
  /-- the draw exceeds the cap in T2 (15 R470) -/
  overrun : Bool := false
  snapshots : List Snapshot := []
  snapSeq : Nat := 0
  /-- the last snapshot: its number and its trigger (15 R472) -/
  lastSnap : Option (Nat × Nat) := none
  /-- counters of the L2 slices (R472) -/
  locl : Tab Nat := []
  remt : Tab Nat := []
  retiredChannels : List Nat := []
  retraining : List Nat := []
  healthCodes : List Word := []
  /-- the management endpoint's own memory (15 R475; log 98) -/
  mgmtMem : Tab Byte := []
  /-- messages received and not yet written, oldest first (16 R501) -/
  inbox : List Arrival := []
  /-- replies that a hold on VL 1 of their port keeps (16 R477) -/
  replies : List Message := []
  out : List Message := []
  deriving DecidableEq, Repr

/-- The module before power is good, with every register at its reset value and nothing placed; POWER_GOOD starts Camp 0 (15 R461; log 3). -/
def State.reset : State := {}

end Sys2Proof.Machine
end

