-- ==== Sys2Proof/Machine/Tab.lean ====
section
/-! DEFINITION. Tables by key in canonical form (keys strictly rising; where a table has a default, no entry equal to it), and little-endian bytes (00_scope R8). -/

namespace Sys2Proof.Machine

variable {α : Type}

/-- The entry of a key. -/
def tabFind : Tab α → Nat → Option α
  | [], _ => none
  | (j, a) :: r, k => if j = k then some a else if k < j then none else tabFind r k

def tabGet (t : Tab α) (k : Nat) (d : α) : α := (tabFind t k).getD d

/-- Sets a key. -/
def tabPut : Tab α → Nat → α → Tab α
  | [], k, a => [(k, a)]
  | (j, b) :: r, k, a =>
    if j = k then (k, a) :: r else if k < j then (k, a) :: (j, b) :: r else (j, b) :: tabPut r k a

def tabErase : Tab α → Nat → Tab α
  | [], _ => []
  | (j, b) :: r, k => if j = k then r else if k < j then (j, b) :: r else (j, b) :: tabErase r k

/-- Sets a key of a table whose unlisted keys hold d: writing d removes the entry. -/
def tabSet [DecidableEq α] (t : Tab α) (k : Nat) (a d : α) : Tab α :=
  if a = d then tabErase t k else tabPut t k a

/-- Changes the entry of a key, if there is one. -/
def tabMod : Tab α → Nat → (α → α) → Tab α
  | [], _, _ => []
  | (j, b) :: r, k, f => if j = k then (j, f b) :: r else (j, b) :: tabMod r k f

/-- Keys strictly rising. -/
def tabRising : Tab α → Bool
  | [] => true
  | (k, _) :: r => (match r with | [] => true | (j, _) :: _ => decide (k < j)) && tabRising r

/-- The canonical form of a table with default d. -/
def tabCanon [DecidableEq α] (t : Tab α) (d : α) : Bool := tabRising t && t.all (fun p => decide (p.2 ≠ d))

/-! ## Little-endian bytes -/

/-- n bytes of a number, lowest first. -/
def leBytes : Nat → Nat → List Byte
  | 0, _ => []
  | n + 1, v => BitVec.ofNat 8 v :: leBytes n (v / 256)

/-- The number that bytes hold, lowest first. -/
def leNat : List Byte → Nat
  | [] => 0
  | b :: r => b.toNat + 256 * leNat r

/-- Bits [hi:lo] of a number. -/
def bits (v hi lo : Nat) : Nat := v / 2 ^ lo % 2 ^ (hi + 1 - lo)

/-- ceil(a / b). -/
def ceilDiv (a b : Nat) : Nat := (a + b - 1) / b

/-- Sign extension of a raw field to an integer. -/
def sextInt (w v : Nat) : Int := if v < 2 ^ (w - 1) then (v : Int) else (v : Int) - (2 ^ w : Nat)

end Sys2Proof.Machine
end

