-- ==== Sys2Proof/Machine/Mem.lean ====
section
/-! DEFINITION. Physical memory: the load-store domain by PA (13_translation R387), homes and copies (10_die_memory R306-R316), scratchpads and cluster memory, and the named accesses that every instruction and engine uses. -/

namespace Sys2Proof.Machine

/-! ## The canonical memory -/

/-- What an unlisted byte reads as (log 1). -/
def unlistedByte : Byte := 0

/-- Addresses strictly rising, and no entry equal to what an unlisted address reads as. -/
def Memory.wf (m : List Host.Cell) : Bool := tabCanon m unlistedByte

def memRead (m : List Host.Cell) (a : Nat) : Byte := tabGet m a unlistedByte

def memWrite (m : List Host.Cell) (a : Nat) (b : Byte) : List Host.Cell := tabSet m a b unlistedByte

/-- Writes consecutive bytes from a. -/
def memWriteList (m : List Host.Cell) (a : Nat) : List Byte → List Host.Cell
  | [] => m
  | b :: r => memWriteList (memWrite m a b) (a + 1) r

def memReadList (m : List Host.Cell) (a : Nat) (n : Nat) : List Byte :=
  (List.range n).map (fun i => memRead m (a + i))

/-! ## Free values -/

/-- A free Nat, advancing the counter (log 7). -/
def freeNat (s : State) : Nat × State := (Config.freeNat s.fresh, { s with fresh := s.fresh + 1 })
def freeBool (s : State) : Bool × State := (Config.freeBool s.fresh, { s with fresh := s.fresh + 1 })
def freeWord (s : State) : Word × State := (Config.freeWord s.fresh, { s with fresh := s.fresh + 1 })

/-- The choice among n that a step makes for a key: the same key has the same answer within a step (log 7). -/
def pick (s : State) (key n : Nat) : Nat := if n ≤ 1 then 0 else Config.choice s.steps key % n

/-! ## Where a PA lives -/

def lineSize : Nat := 128
def lineOf (pa : Nat) : Nat := pa / lineSize

/-- Module of a PA, PA[56:48]. -/
def modOf (pa : Nat) : Nat := pa / 2 ^ 48

def isLocal (s : State) (pa : Nat) : Bool := decide (modOf pa = s.modn.toNat)

/-- The home slice of a PA (02 R71). -/
def homeSlice (pa : Nat) : Nat :=
  let l := bits pa 47 7
  let f := (bits l 15 0) ^^^ (bits l 31 16) ^^^ (bits l 40 32)
  f * 96 / 65536

/-- The ports whose route table entry reaches a module (16_fabric R479). -/
def portsTo (s : State) (m : Nat) : List Nat := (s.routes.filter (fun r => r % 512 = m)).map (· / 512)

/-- The port that carries requests for a remote line (16_fabric R479). -/
def portOf (s : State) (pa : Nat) : Option Nat :=
  let ps := portsTo s (modOf pa)
  let l := bits pa 47 7
  ps[((bits l 15 0) ^^^ (bits l 31 16) ^^^ (bits l 40 32)) % ps.length]?

/-- Does a hop hold stop requests of a virtual lane for a remote line (16_fabric R477)? -/
def vlHeld (s : State) (vl pa : Nat) : Bool :=
  !isLocal s pa && (match portOf s pa with
    | some p => s.heldVls.contains (p, vl)
    | none => false)

/-- Does an uncorrectable error stand here (15_platform R465)? -/
def isStruck (s : State) (x : Strike) : Bool := s.struck.contains x

/-- An error is met for the last time, or mended. -/
def unstrike (s : State) (x : Strike) : State := { s with struck := s.struck.filter (· ≠ x) }

/-- The class code of an access that its home cannot serve (15 R465, R466, 16 R487). Here: beyond capacity, an error in the L2, bad data in LPDDR-6, a flit that failed again on a hub link. In another module: no route, a module below Camp 1, a flit that failed after its retries, an error that the home reports. -/
def badClass (s : State) (pa : Nat) : Option Nat :=
  let line := lineOf pa
  if isLocal s pa then
    if Config.capacity s.memCode ≤ pa % 2 ^ 48 then some 0x0A
    else if s.badLines.contains line || isStruck s (.l2 line) then some 0x03
    else if s.badLow.contains line then some 0x05
    else if isStruck s (.flit line) then some 0x06
    else none
  else if portsTo s (modOf pa) = [] || s.down.contains (modOf pa) || isStruck s (.flit line) || s.badLines.contains line || s.badLow.contains line then some 0x07
  else none

/-! ## Where a queue context goes on (14_tenancy R433) -/

/-- The PC of a queue context (R433). -/
def queuePc (q : QCtx) : DWord := if q.away then q.pc else q.base + BitVec.ofNat 64 q.head

/-- An address inside the ring of a queue context (R433, R448). -/
def inRing (q : QCtx) (pc : DWord) : Bool :=
  decide (q.base.toNat ≤ pc.toNat) && decide (pc.toNat < q.base.toNat + 2 ^ q.logsz)

/-- A queue context goes on at an address: under HEAD where it lies in the ring, however control comes there (R433); but a handler runs as code outside the ring does, also where it lies behind TAIL (log 81). -/
def QCtx.goesTo (q : QCtx) (pc : DWord) : QCtx :=
  if inRing q pc && !q.trapped then { q with away := false, head := pc.toNat - q.base.toNat } else { q with away := true, pc := pc }

/-- Its instruction of len bytes has completed, and the next one follows. -/
def QCtx.goesOn (q : QCtx) (len : Nat) : QCtx :=
  { (if q.away then q.goesTo (q.pc + BitVec.ofNat 64 len) else { q with head := (q.head + len) % 2 ^ q.logsz }) with
    state := .running, wait := none, wdog := 0, mlimit := false, mwait := none }

/-! ## The home's view -/

def homeRead (s : State) (pa : Nat) : Byte := memRead s.mem pa

/-- The LPDDR-6 copy of a byte: what weak accesses of channel engines and array ports read (R322). -/
def lpddrRead (s : State) (pa : Nat) : Byte :=
  match tabFind s.lpddr (lineOf pa) with
  | some bs => bs.getD (pa % lineSize) 0
  | none => memRead s.mem pa

def lineBytes (s : State) (line : Nat) : List Byte := memReadList s.mem (line * lineSize) lineSize

def getCore (s : State) (c : Nat) : Core := tabGet s.cores c {}
def setCore (s : State) (c : Nat) (k : Core) : State := { s with cores := tabPut s.cores c k }
def getCluster (s : State) (c : Nat) : Cluster := tabGet s.clusters c {}
def setCluster (s : State) (c : Nat) (k : Cluster) : State := { s with clusters := tabPut s.clusters c k }

/-- Marks the S copies of a line, but for core `keep`, as having an invalidation waiting (R311). -/
def markInval (s : State) (line : Nat) (keep : Option Nat) : State :=
  { s with cores := s.cores.map (fun p =>
      if some p.1 = keep then p else (p.1, { p.2 with s := tabMod p.2.s line (fun l => { l with inval := true }) })) }

/-- The S copies of a line that an engine has written and counts against a barrier now (07_core_sched_traps R244). -/
def countCopies (s : State) (line : Nat) : State :=
  { s with cores := s.cores.map (fun p => (p.1, { p.2 with s := tabMod p.2.s line (fun l => { l with counted := true }) })) }

/-- Drops the S copies of a line in every core. -/
def dropCopies (s : State) (line : Nat) : State :=
  { s with cores := s.cores.map (fun p => (p.1, { p.2 with s := tabErase p.2.s line })) }

/-- Keeps the bytes of a 64-byte block as the version that is replaced now (R328; 13 R403). -/
def keepBlock (s : State) (blk : Nat) (bytes : List Byte) : State :=
  { s with history := { blk := blk, seq := s.seq, bytes := bytes, writer := s.cur } :: s.history, seq := s.seq + 1 }

/-- Keeps the version of a 64-byte block that a write replaces. -/
def keepVersion (s : State) (pa : Nat) : State := keepBlock s (pa / 64) (memReadList s.mem (pa / 64 * 64) 64)

/-- The line becomes dirty in the L2: its LPDDR-6 copy stays as it was (R309, R322). -/
def makeDirty (s : State) (line : Nat) : State :=
  match tabFind s.lpddr line with
  | some _ => s
  | none => { s with lpddr := tabPut s.lpddr line (lineBytes s line) }

/-- A dirty line is written to LPDDR-6 (R309, CCTL.wb2). -/
def writeBack (s : State) (line : Nat) : State := { s with lpddr := tabErase s.lpddr line }

/-- Bytes of a list replaced from an offset. -/
def patchBytes (old : List Byte) (o : Nat) (bs : List Byte) : List Byte := old.take o ++ bs ++ old.drop (o + bs.length)

/-- A write to a line that the L2 does not hold goes through to LPDDR-6 (R308). -/
def writeThrough (s : State) (pa : Nat) (bs : List Byte) : State :=
  match tabFind s.lpddr (lineOf pa) with
  | none => s
  | some old =>
    let new := patchBytes old (pa % lineSize) bs
    { s with lpddr := if new = lineBytes s (lineOf pa) then tabErase s.lpddr (lineOf pa) else tabPut s.lpddr (lineOf pa) new }

/-- A request of this module's agents for a line is counted at its slice: LOCL for homes here, REMT for others (15_platform R472). -/
def countReq (s : State) (pa : Nat) : State :=
  let k := homeSlice pa
  if isLocal s pa then { s with locl := tabPut s.locl k ((tabGet s.locl k 0 + 1) % 2 ^ 64) }
  else { s with remt := tabPut s.remt k ((tabGet s.remt k 0 + 1) % 2 ^ 64) }

/-- Bytes change at the home, all within one line, for core `by'` if one is named: in the L2 or through it; the S copies elsewhere get an invalidation, but none of another module's line does (R311; 16_fabric R483). -/
def homeSet (s : State) (by' : Option Nat) (pa : Nat) (bs : List Byte) : State :=
  let line := lineOf pa
  let held := isLocal s pa && (tabFind s.l2 line).isSome
  let s := if held then makeDirty s line else s
  let s := { s with mem := memWriteList s.mem pa bs }
  let s := if held then s else writeThrough s pa bs
  let s := if bs.length = lineSize then { s with badLines := s.badLines.filter (· ≠ line), badLow := s.badLow.filter (· ≠ line), struck := s.struck.filter (· ≠ .l2 line) } else s
  if isLocal s pa then markInval s line by' else s

/-- The condition of QWAIT (14_tenancy R447). -/
def SemWait.holds (w : SemWait) (v : DWord) : Bool :=
  if w.cond = 0 then decide (w.value.toNat ≤ v.toNat) else if w.cond = 1 then decide (v = w.value) else decide (v ≠ w.value)

/-- The QWAITs that are registered at words of a line, with their contexts. -/
def waitersAt (s : State) (line : Nat) : List (Nat × SemWait) :=
  s.queues.filterMap (fun p => match p.2.state, p.2.wait with
    | .waiting, some (.semaphore w) => if lineOf w.pa = line ∧ (s.stage ≠ .halting ∨ p.1 = s.haltBy) then some (p.1, w) else none
    | _, _ => none)

/-- Writes to a line re-evaluate its waiters: those that hold complete, one at a time in an order that is free, and each subtracts as it completes (14_tenancy R447). -/
def wakeWaiters : Nat → State → Nat → State
  | 0, s, _ => s
  | n + 1, s, line =>
    let value (w : SemWait) : DWord := BitVec.ofNat 64 (leNat (memReadList s.mem w.pa 8))
    let due := (waitersAt s line).filter (fun p => p.2.holds (value p.2))
    match due[pick s (line * 16 + 6) due.length]? with
    | none => s
    | some p =>
      let t := if p.2.dec then homeSet (keepVersion s p.2.pa) none p.2.pa (leBytes 8 (value p.2 - p.2.value).toNat) else s
      wakeWaiters n { t with queues := tabMod t.queues p.1 (fun q => q.goesOn 4) } line

/-- Bytes change at the home, and waiters on the line learn of it. -/
def homePut (s : State) (by' : Option Nat) (pa : Nat) (bs : List Byte) : State :=
  let t := homeSet s by' pa bs
  wakeWaiters (waitersAt t (lineOf pa)).length t (lineOf pa)

/-- A write that reaches the home: it is counted (15_platform R472), and what it replaces stays as a version. -/
def homeWriteRaw (s : State) (by' : Option Nat) (pa : Nat) (bs : List Byte) : State :=
  let s := keepVersion (countReq s pa) pa
  let s := if pa / 64 = (pa + bs.length - 1) / 64 then s else keepVersion s (pa + bs.length - 1)
  homePut s by' pa bs

/-! ## Update-only partials (R315, R316) -/

/-- Combines a partial into the word at pa: no request, and no new version, since the RED performed earlier (R317, R328). -/
def combineAt (s : State) (pa : Nat) (r : RedOp) : State :=
  let old := leNat (memReadList s.mem pa r.width)
  let new := if r.width = 8 then (memOp r.op (BitVec.ofNat 64 old) r.val).toNat
    else (memOp r.op (BitVec.ofNat 32 old) (r.val.setWidth 32)).toNat
  homePut s none pa (leBytes r.width new)

/-- The partials of a line that cores hold: (core, word address, partial). -/
def partialsOf (s : State) (line : Nat) : List (Nat × Nat × RedOp) :=
  s.cores.flatMap (fun p => (p.2.u.filter (fun q => lineOf q.1 = line)).map (fun q => (p.1, q.1, q.2)))

/-- Combines partials one at a time; the order is free where more than one is left (R316). -/
def combineAll : Nat → State → List (Nat × Nat × RedOp) → State
  | 0, s, _ => s
  | n + 1, s, l =>
    match l with
    | [] => s
    | [p] => combineAt s p.2.1 p.2.2
    | p :: rest =>
      let f := freeNat s
      let i := f.1 % (rest.length + 1)
      let q := (p :: rest).getD i p
      combineAll n (combineAt f.2 q.2.1 q.2.2) ((p :: rest).eraseIdx i)

/-- Recall of every U copy of a line (R316). -/
def recallLine (s : State) (line : Nat) : State :=
  let ps := partialsOf s line
  if ps = [] then s
  else
    let s := { s with cores := s.cores.map (fun p => (p.1, { p.2 with u := p.2.u.filter (fun q => lineOf q.1 ≠ line) })) }
    combineAll ps.length s ps

/-! ## The L2 slices (R306, R308, R309) -/

/-- Two lines of one set: the same slice and the same PA[16:7]. -/
def sameSet (a b : Nat) : Bool := decide (a % 1024 = b % 1024) && decide (homeSlice (a * lineSize) = homeSlice (b * lineSize))

/-- A line leaves the L2 (R309): its L1 copies go, its partials are combined, and it is written back if it was dirty; an error in a clean one goes with it (15_platform R466). -/
def l2Leave (s : State) (line : Nat) : State :=
  let t := writeBack (recallLine (dropCopies s line) line) line
  { t with evictFirst := t.evictFirst.filter (· ≠ line), l2 := tabErase t.l2 line, struck := t.struck.filter (· ≠ .l2 line) }

/-- The ways that a partition may allocate in (R308). -/
def partWays (s : State) (part : Nat) : List Nat :=
  (List.range 16).filter (fun w => (tabGet s.l2pwm part 0xFFFF).getLsbD w)

/-- The order in which policies give up a line: evict-first, normal, retain (R308). -/
def l2Rank (s : State) (p : Nat × L2Line) : Nat :=
  if p.2.pol = 1 ∨ s.evictFirst.contains p.1 then 0 else if p.2.pol = 2 then 2 else 1

/-- The line that makes room in the ways of a partition: free among those that tie; one that an engine claims stays, and then none leaves (R308, R309). -/
def l2Victim (s : State) (line : Nat) (ways : List Nat) : Option (Nat × L2Line) :=
  let cands := s.l2.filter (fun p => sameSet p.1 line && ways.contains p.2.way)
  let best := cands.foldl (fun b p => min b (l2Rank s p)) 3
  let ties := cands.filter (fun p => decide (l2Rank s p = best) && !s.claims.any (fun c => decide (c.1 = p.1)))
  ties[pick s (line * 16 + 1) ties.length]?

/-- The home brings a line in, in the ways of its partition; a bypass line, or one of a partition without ways, is never allocated (R308). -/
def l2Touch (s : State) (line : Nat) : State :=
  if !isLocal s (line * lineSize) || (tabFind s.l2 line).isSome then s
  else
    let (pol, part) := tabGet s.attrs (line / 32) (0, 0)
    let ways := partWays s part
    if pol = 3 then s
    else match ways.find? (fun w => !s.l2.any (fun p => decide (p.2.way = w) && sameSet p.1 line)) with
      | some w => { s with l2 := tabPut s.l2 line { way := w, pol := pol } }
      | none => match l2Victim s line ways with
        | some v => let t := l2Leave s v.1
          { t with l2 := tabPut t.l2 line { way := v.2.way, pol := pol } }
        | none => s

/-- The home serves a request for a line: its U copies are recalled first (R316), and the L2 brings it in. -/
def serveLine (s : State) (line : Nat) : State := l2Touch (recallLine s line) line

/-- Accesses of an engine to a line under the L2 policy that it names (05 R181): 0 leaves the policy of the leaf. A line that the L2 holds already is hit there, whatever the policy (R308). -/
def withPolicy (s : State) (line pol : Nat) (f : State → State) : State :=
  if pol = 0 then f s
  else
    let leaf := tabGet s.attrs (line / 32) (0, 0)
    let t := f { s with attrs := tabSet s.attrs (line / 32) (pol, leaf.2) (0, 0) }
    { t with attrs := tabSet t.attrs (line / 32) leaf (0, 0), l2 := if pol = 3 then t.l2 else tabMod t.l2 line (fun l => { l with pol := pol }) }

/-- A store performs at its home: partials that combined before it are recalled first (R312, R317). -/
def homeWrite (s : State) (by' : Option Nat) (pa : Nat) (bs : List Byte) : State :=
  homeWriteRaw (serveLine s (lineOf pa)) by' pa bs

/-- Splits n bytes from pa into pieces that each lie in one line. -/
def lineSplit : Nat → Nat → List Byte → List (Nat × List Byte)
  | 0, _, _ => []
  | fuel + 1, pa, bs =>
    match bs with
    | [] => []
    | _ =>
      let n := lineSize - pa % lineSize
      (pa, bs.take n) :: lineSplit fuel (pa + n) (bs.drop n)

/-- Writes any run of bytes at their homes, line by line. -/
def homeWriteMany (s : State) (by' : Option Nat) (pa : Nat) (bs : List Byte) : State :=
  (lineSplit (bs.length + 1) pa bs).foldl (fun s p => homeWrite s by' p.1 p.2) s

/-- Reads n bytes at their homes after recalling the partials of their lines. -/
def homeReadMany (s : State) (pa n : Nat) : List Byte × State :=
  let lines := (List.range (n / lineSize + 2)).map (fun i => lineOf pa + i) |>.filter (fun l => l * lineSize < pa + n)
  let s := lines.foldl serveLine s
  (memReadList s.mem pa n, s)

/-! ## Scratchpad and cluster memory -/

def getTeam? (s : State) (tag : Nat) : Option Team := tabFind s.teams tag
def modTeam (s : State) (tag : Nat) (f : Team → Team) : State := { s with teams := tabMod s.teams tag f }

def spadRead (s : State) (tag off : Nat) : Byte :=
  match getTeam? s tag with
  | some t => tabGet t.spad off 0
  | none => 0

/-- Is the tag of a scratchpad word full (05 R159)? -/
def tagFull (s : State) (tag word : Nat) : Bool :=
  match getTeam? s tag with
  | some t => t.tags.contains word
  | none => false

/-- Inserts into a rising list without repeats. -/
def insertNat : List Nat → Nat → List Nat
  | [], k => [k]
  | j :: r, k => if j = k then j :: r else if k < j then k :: j :: r else j :: insertNat r k

def setTag (s : State) (tag word : Nat) (full : Bool) : State :=
  modTeam s tag (fun t => { t with tags := if full then insertNat t.tags word else t.tags.filter (· ≠ word) })

/-! ## One byte, wherever it lies -/

def locRead (s : State) : Loc → Byte
  | .glob pa => homeRead s pa
  | .spad tag off => spadRead s tag off
  | .clu c off => tabGet (getCluster s c).mem off 0

/-- Writes a byte of scratchpad or cluster memory at once, which mends an error there (log 95), or of global memory at its home. -/
def locWrite (s : State) (by' : Option Nat) (l : Loc) (b : Byte) : State :=
  match l with
  | .glob pa => homeWrite s by' pa [b]
  | .spad tag off => modTeam (unstrike s (.byte l)) tag (fun t => { t with spad := tabSet t.spad off b 0 })
  | .clu c off => setCluster (unstrike s (.byte l)) c { getCluster s c with mem := tabSet (getCluster s c).mem off b 0 }

def Loc.next (l : Loc) (n : Nat) : Loc :=
  match l with
  | .glob pa => .glob (pa + n)
  | .spad tag off => .spad tag (off + n)
  | .clu c off => .clu c (off + n)

/-- The 128-byte line of a location, as a key: claims and pieces are by line. -/
def Loc.line : Loc → Nat × Nat × Nat
  | .glob pa => (0, 0, pa / lineSize)
  | .spad tag off => (1, tag, off / lineSize)
  | .clu c off => (2, c, off / lineSize)

def Loc.isGlob : Loc → Bool
  | .glob _ => true
  | _ => false

/-- Groups consecutive bytes of one line into one home write, so that a line changes in one step (R313). -/
def locWriteRun : State → Option Nat → List (Loc × Byte) → List (Nat × Byte) → State
  | s, by', [], run =>
    match run.reverse with
    | [] => s
    | (pa, b) :: r => homeWrite s by' pa (b :: r.map (·.2))
  | s, by', (l, b) :: rest, run =>
    match l, run with
    | .glob pa, (q, c) :: r =>
      if pa = q + 1 ∧ lineOf pa = lineOf q then locWriteRun s by' rest ((pa, b) :: (q, c) :: r)
      else
        let w := ((q, c) :: r).reverse
        locWriteRun (homeWrite s by' (w.headD (q, c)).1 (w.map (·.2))) by' rest [(pa, b)]
    | .glob pa, [] => locWriteRun s by' rest [(pa, b)]
    | l, _ => locWriteRun (locWrite s by' l b) by' rest run

def locWrites (s : State) (by' : Option Nat) (ws : List (Loc × Byte)) : State := locWriteRun s by' ws []

/-! ## Claims (R313) -/

/-- The key of a line in the claim tables: global lines by number, scratchpad and cluster lines above them. -/
def Loc.key : Loc → Nat
  | .glob pa => lineOf pa
  | .spad tag off => 2 ^ 60 + tag * 2 ^ 20 + lineOf off
  | .clu c off => 2 ^ 61 + c * 2 ^ 20 + lineOf off

/-- Is a line claimed by work other than w? -/
def claimedByOther (s : State) (w : Option Nat) (key : Nat) : Bool :=
  s.claims.any (fun c => decide (c.1 = key) && decide (some c.2 ≠ w))

def claimed (s : State) (l : Loc) : Bool := claimedByOther s none l.key

/-- May work w write a line that its requests on a virtual lane reach: does it hold the first claim on it, or is there none, and does no hold stop it (16_fabric R477)? -/
def firstClaimOn (vl : Nat) (s : State) (w key : Nat) : Bool :=
  !(decide (key < 2 ^ 60) && vlHeld s vl (key * lineSize)) && !s.claimQueue.contains (key, w) &&
  match s.claims.find? (fun c => c.1 = key) with
  | some c => decide (c.2 = w)
  | none => true

/-- The same for load-store requests. -/
def firstClaim (s : State) (w key : Nat) : Bool := firstClaimOn 0 s w key

/-- Has the table of a line's slice an entry free: 64 claims each (R313)? Lines that no slice is home to have no such limit. -/
def claimFree (s : State) (key : Nat) : Bool :=
  decide (2 ^ 60 ≤ key) || decide ((s.claims.filter (fun c => decide (c.1 < 2 ^ 60) && decide (homeSlice (c.1 * lineSize) = homeSlice (key * lineSize)))).length < 64)

/-- A claim is recorded at its home, after the line's partials (R316), or waits for an entry. -/
def addClaim (s : State) (c : Nat × Nat) : State :=
  if claimFree s c.1 then
    let s := if c.1 < 2 ^ 60 then recallLine s c.1 else s
    { s with claims := s.claims ++ [c] }
  else { s with claimQueue := s.claimQueue ++ [c] }

def addClaims (s : State) (work : Nat) (lines : List Nat) : State := lines.foldl (fun s l => addClaim s (l, work)) s

/-- The claims that waited are recorded as far as there is room. -/
def retryClaims (s : State) : State := if s.claimQueue = [] then s else s.claimQueue.foldl addClaim { s with claimQueue := [] }

def dropClaim (s : State) (work line : Nat) : State :=
  retryClaims { s with claims := s.claims.filter (fun c => !(decide (c.1 = line) && decide (c.2 = work))) }

def dropClaims (s : State) (work : Nat) : State :=
  retryClaims { s with claims := s.claims.filter (fun c => decide (c.2 ≠ work)), claimQueue := s.claimQueue.filter (fun c => decide (c.2 ≠ work)) }

end Sys2Proof.Machine
end

