-- ==== Sys2Proof/Machine/Xlate.lean ====
section
/-! DEFINITION. Two-stage address translation (13_translation R387-R405, R521): range descriptors, the page walk, accessed and dirty bits, and what walkers, range buffers, walk caches and TLBs keep. -/

namespace Sys2Proof.Machine

/-- The kinds of access that Translate distinguishes (R398). -/
inductive Acc where
  | read | write | exec
  deriving DecidableEq, Repr

def Acc.code : Acc → Nat
  | .read => 0 | .write => 1 | .exec => 2

/-- Why a translation gives no address: a fault, with the PA of an INTEGRITY fault, or a leaf with M = 1, with its PA (R416). -/
inductive XStop where
  | fault (cause aux : Nat) (s2 : Bool) (pa : Nat)
  | migrating (lvl : Nat) (s2 : Bool) (leaf : Nat)
  deriving DecidableEq, Repr

/-- The level of a leaf (R393). -/
def Stage1.level (g : Stage1) : Nat := if g.size = 3 then 1 else if g.size = 2 then 2 else 3

/-- A combined translation (R396). -/
structure XOut where
  pa : Nat
  gpa : Nat
  pol : Nat
  part : Nat
  g : Stage1
  h : Stage1
  deriving DecidableEq, Repr

/-- Who walks: the core whose range buffer serves, if any; `now`: from the homes alone, as a discarded walk does that starts again (R405). -/
structure Walker where
  core : Option Nat := none
  now : Bool := false
  deriving DecidableEq, Repr

/-- The space of a stage (R387). -/
structure StageId where
  vf : Nat
  asid : Nat
  host : Bool
  deriving DecidableEq, Repr

def xfault (lvl code : Nat) (s2 : Bool) : XStop := .fault 0x08 (lvl * 256 + code) s2 0

/-! ## Table reads (R389, R403, R404) -/

/-- An entry without the accessed and dirty bits of a leaf. -/
def entryKey (e : Nat) : Nat := if bits e 1 0 = 3 then e / 256 * 256 + e % 64 else e

/-- Values with different keys, first ones first. -/
def distinctBy (key : Nat → Nat) : List Nat → List Nat → List Nat
  | [], acc => acc.reverse
  | v :: r, acc => distinctBy key r (if acc.any (fun a => decide (key a = key v)) then acc else v :: acc)

/-- What a walker may read of n bytes at a PA: what the home has, or what it had before stores that no fence of their group has followed (R403). -/
def tableVersions (s : State) (pa n : Nat) : List Nat :=
  distinctBy (if n = 8 then entryKey else id)
    (leNat (memReadList s.mem pa n) :: (s.history.filter (fun h => h.walk && decide (h.blk = pa / 64))).map (fun h => leNat ((h.bytes.drop (pa % 64)).take n))) []

def walkerRead (wk : Walker) (s : State) (pa n : Nat) : Nat :=
  let cur := leNat (memReadList s.mem pa n)
  if wk.now then cur
  else
    let vs := tableVersions s pa n
    vs.getD (pick s (pa * 16 + 2) vs.length) cur

/-- After a fence of an agent whose scope includes the walkers, none reads what stood before its stores (R403, R408). -/
def closeWalks (a : Agent) : List OldBlock → List Nat → List OldBlock
  | [], _ => []
  | h :: r, closed =>
    { h with walk := h.walk && decide (h.writer ≠ a) && !closed.contains h.blk } :: closeWalks a r (if h.writer = a then h.blk :: closed else closed)

def fenceWalks (s : State) (a : Agent) : State := { s with history := closeWalks a s.history [] }

/-- A table read: `tr` gives the PA of a table address; tables lie in this module (R389). The requests of walkers are not among those that Starfix counts (18_programs_fabric R513; log 94). -/
def tableRead (wk : Walker) (tr : State → Nat → Except XStop (Nat × State)) (lvl : Nat) (s2 : Bool) (s : State) (addr n : Nat) : Except XStop ((Nat × Nat) × State) := do
  let (pa, s) ← tr s addr
  if !isLocal s pa then throw (xfault lvl 5 s2)
  match badClass s pa with
  | some c => throw (.fault 0x0C c s2 pa)
  | none =>
    let s := serveLine s (lineOf pa)
    return ((walkerRead wk s pa n, pa), s)

/-! ## Ranges (R390-R392) -/

/-- What a descriptor gives for an input address: none when it does not cover it. -/
def descOut (d k x : Nat) (s2 : Bool) : Except XStop (Option Stage1) := do
  let base := bits d 56 16 * 65536
  let len := bits d 159 128 * 65536
  if bits d 0 0 = 1 ∧ base ≤ x ∧ x < base + len then
    if bits d 255 160 ≠ 0 ∨ bits d 127 121 ≠ 0 ∨ bits d 79 57 ≠ 0 ∨ bits d 15 12 ≠ 0 ∨ (!s2 ∧ bits d 11 10 ≠ 0) then throw (xfault 15 2 s2)
    if 2 ^ 57 < base + len then throw (xfault 15 3 s2)
    let tgt := bits d 120 80 * 65536 + (x - base)
    return some { out := tgt % (if s2 then 2 ^ 48 else 2 ^ 57), pol := bits d 6 5, part := bits d 9 7, plc := bits d 11 10, pmod := bits d 120 112,
                  r := bits d 1 1 = 1, w := bits d 2 2 = 1, x := bits d 3 3 = 1, u := s2 || bits d 4 4 = 1,
                  a := false, d := false, m := false, size := 1, range := some k, leaf := none, pte := 0 }
  else return none

/-- A core keeps a valid descriptor that served (R392), from the next step on (R400). -/
def keepRange (wk : Walker) (id : StageId) (s : State) (k d : Nat) : State :=
  match wk.core with
  | none => s
  | some c => { s with ranged := (c, { vf := id.vf, asid := id.asid, host := id.host, k := k, d := d }) :: s.ranged }

/-- The descriptors of a core's range buffer that cover an address. -/
def bufferedRanges (wk : Walker) (id : StageId) (s : State) (x : Nat) : List RangeEnt :=
  match wk.core, wk.now with
  | some c, false => (getCore s c).rbuf.filter (fun e => decide (e.vf = id.vf) && decide (e.asid = id.asid) && decide (e.host = id.host) &&
      decide (bits e.d 56 16 * 65536 ≤ x) && decide (x < bits e.d 56 16 * 65536 + bits e.d 159 128 * 65536))
  | _, _ => []

/-- Descriptors k, k+1, ... of a table, the lowest-numbered that covers the address deciding: none on a miss (R391). Descriptor k is the one in the table or, where the core buffers it, that one; one that cannot be read is passed over only towards a buffered one. -/
def rangeScan (wk : Walker) (id : StageId) (tr : State → Nat → Except XStop (Nat × State)) (kept : List RangeEnt) (table x : Nat) : Nat → Nat → State → Except XStop ((Option Stage1) × State)
  | 0, _, s => .ok (none, s)
  | n + 1, k, s =>
    let asBuffered (d : Nat) : Except XStop ((Option Stage1) × State) := (descOut d k x id.host).map (fun st => (st, s))
    let mine := kept.find? (fun e => e.k = k)
    match tableRead wk tr 15 id.host s (table + 32 * k) 32 with
    | .ok ((d, _), t) =>
      match mine with
      | some e => if e.d ≠ d ∧ pick s (x * 16 + 4) 2 ≠ 0 then asBuffered e.d
        else (match descOut d k x id.host with
          | .ok (some st) => .ok (some st, keepRange wk id t k d)
          | .ok none => rangeScan wk id tr kept table x n (k + 1) t
          | .error e => .error e)
      | none => (match descOut d k x id.host with
        | .ok (some st) => .ok (some st, keepRange wk id t k d)
        | .ok none => rangeScan wk id tr kept table x n (k + 1) t
        | .error e => .error e)
    | .error f =>
      if pick s (x * 16 + 4) 2 = 0 then .error f
      else match mine with
        | some e => asBuffered e.d
        | none => if kept.any (fun e => decide (k < e.k)) then rangeScan wk id tr kept table x n (k + 1) s else .error f

/-- The range lookup of a stage (R391). -/
def rangeLookup (wk : Walker) (id : StageId) (tr : State → Nat → Except XStop (Nat × State)) (rangeRoot x : Nat) (s : State) : Except XStop ((Option Stage1) × State) :=
  rangeScan wk id tr (bufferedRanges wk id s x) (bits rangeRoot 56 13 * 8192) x (min (bits rangeRoot 8 0) 256) 0 s

/-! ## The page walk (R393-R395) -/

/-- The checks of a leaf (R394, R395) and what it gives. -/
def leafOut (lvl e pa x : Nat) (s2 : Bool) : Except XStop Stage1 := do
  let s64 := bits e 9 9 = 1 ∧ lvl = 3
  let logSize := if lvl = 1 then 30 else if lvl = 2 then 21 else if s64 then 16 else 12
  if bits e 63 62 ≠ 0 ∨ (lvl ≠ 3 ∧ bits e 9 9 = 1) then throw (xfault lvl 2 s2)
  if !s2 ∧ bits e 61 57 ≠ 0 then throw (xfault lvl 2 s2)
  if s2 ∧ bits e 61 60 ≠ 3 ∧ bits e 56 48 ≠ 0 then throw (xfault lvl 2 s2)
  let addr := bits e 56 12 * 4096
  if addr % 2 ^ logSize ≠ 0 then throw (xfault lvl 4 s2)
  let out := addr + x % 2 ^ logSize
  return { out := out % (if s2 then 2 ^ 48 else 2 ^ 57), pol := bits e 11 10, part := bits e 59 57, plc := bits e 61 60, pmod := bits e 56 48,
           r := bits e 2 2 = 1, w := bits e 3 3 = 1, x := bits e 4 4 = 1, u := s2 || bits e 5 5 = 1,
           a := bits e 6 6 = 1, d := bits e 7 7 = 1, m := bits e 8 8 = 1,
           size := if lvl = 1 then 3 else if lvl = 2 then 2 else if s64 then 1 else 0,
           range := none, leaf := some pa, pte := e }

/-- Bits below the index of a level (R393). -/
def levelShift (lvl : Nat) : Nat := if lvl = 0 then 39 else if lvl = 1 then 30 else if lvl = 2 then 21 else 12

/-- The next table that a non-leaf entry names. -/
def nextTable (lvl e : Nat) : Option Nat :=
  if bits e 1 0 = 1 ∧ lvl ≠ 3 ∧ bits e 11 2 = 0 ∧ bits e 63 57 = 0 then some (bits e 56 12 * 4096) else none

/-- The table of the next level that a walk cache holds for an address (R402). -/
def cachedTable (wk : Walker) (id : StageId) (s : State) (x lvl : Nat) : Option Nat :=
  if wk.now then none
  else (s.wcache.find? (fun e => decide (e.vf = id.vf) && decide (e.asid = id.asid) && decide (e.host = id.host) &&
    decide (e.lvl = lvl + 1) && decide (e.inputTop = x / 2 ^ levelShift lvl))).map (·.table)

/-- A valid non-leaf entry enters the walk caches (R401), from the next step on (R400). -/
def keepTable (id : StageId) (s : State) (x lvl table : Nat) : State :=
  { s with walked := { vf := id.vf, asid := id.asid, host := id.host, lvl := lvl + 1, inputTop := x / 2 ^ levelShift lvl, table := table } :: s.walked }

/-- An entry takes the place of the older one for its table; each stage has 4,096 (R402). -/
def putWalk (s : State) (e : WalkEnt) : State :=
  let l := e :: s.wcache.filter (fun f => decide ({ f with table := e.table } ≠ e))
  { s with wcache := (l.filter (·.host)).take 4096 ++ (l.filter (fun f => !f.host)).take 4096 }

/-- A descriptor takes its place in a core's range buffer of 64 (R392). -/
def putRange (s : State) (e : Nat × RangeEnt) : State :=
  let core := getCore s e.1
  setCore s e.1 { core with rbuf := (e.2 :: core.rbuf.filter (fun f => decide ({ f with d := e.2.d } ≠ e.2))).take 64 }

/-- What the walks of a step read enters the caches, oldest first (R400-R402). -/
def settleWalks (s : State) : State :=
  if s.walked = [] ∧ s.ranged = [] then s
  else
    let t := s.ranged.reverse.foldl putRange (s.walked.reverse.foldl putWalk s)
    { t with walked := [], ranged := [] }

/-- The page walk from a table at a level: the entry that is read decides, or a walk-cache entry where it names another table. -/
def walkFrom (wk : Walker) (id : StageId) (tr : State → Nat → Except XStop (Nat × State)) (x : Nat) : Nat → Nat → Nat → Nat → State → Except XStop (Stage1 × State)
  | 0, lvl, _, _, _ => .error (xfault lvl 3 id.host)
  | fuel + 1, lvl, table, logN, s =>
    let s2 := id.host
    let idx := x / 2 ^ levelShift lvl % 2 ^ logN
    let entry := tableRead wk tr lvl s2 s (table + 8 * idx) 8
    let asRead : Except XStop (Stage1 × State) := do
      let ((e, pa), s) ← entry
      if bits e 0 0 = 0 then throw (xfault lvl 1 s2)
      if bits e 1 1 = 1 then
        if lvl = 0 then throw (xfault lvl 2 s2)
        if lvl = 3 ∧ bits e 9 9 = 1 ∧ idx % 16 ≠ 0 then
          let ((f, fpa), s) ← tableRead wk tr lvl s2 s (table + 8 * (idx - idx % 16)) 8
          if bits f 0 0 = 0 then throw (xfault lvl 1 s2)
          if bits f 9 9 = 0 then throw (xfault lvl 7 s2)
          if bits f 1 1 = 0 then throw (xfault lvl 2 s2)
          let st ← leafOut lvl f fpa x s2
          return (st, s)
        let st ← leafOut lvl e pa x s2
        return (st, s)
      else match nextTable lvl e with
        | none => throw (xfault lvl 2 s2)
        | some next => walkFrom wk id tr x fuel (lvl + 1) next 9 (keepTable id s x lvl next)
    match cachedTable wk id s x lvl with
    | none => asRead
    | some kept =>
      if (match entry with | .ok ((e, _), _) => decide (nextTable lvl e = some kept) | .error _ => false) || decide (pick s (x * 16 + 5 + lvl) 2 = 0) then asRead
      else walkFrom wk id tr x fuel (lvl + 1) kept 9 s

/-- One stage (R391): ranges first, then the page walk. -/
def stageLookup (wk : Walker) (id : StageId) (tr : State → Nat → Except XStop (Nat × State)) (root rangeRoot : DWord) (x : Nat) (s : State) : Except XStop (Stage1 × State) := do
  let (hit, s) ← rangeLookup wk id tr rangeRoot.toNat x s
  match hit with
  | some st => return (st, s)
  | none =>
    let logr := bits root.toNat 61 57
    if logr = 0 ∨ 18 < logr ∨ 2 ^ (39 + logr) ≤ x then throw (xfault 0 3 id.host)
    walkFrom wk id tr x 4 0 (bits root.toNat 56 12 * 4096) logr s

/-- Denied kinds of a stage (R398, R399). -/
def permit (st : Stage1) (k : Acc) (needU s2 : Bool) : Except XStop Unit :=
  let ok := match k with | .read => st.r | .write => st.w | .exec => st.x
  if ok && (!needU || st.u) then .ok ()
  else .error (.fault 0x09 (k.code + (if ok then 4 else 0)) s2 0)

/-- The member M(i) of a VF's module set (R397, R469). -/
def memberOf (v : Vf) (i : Nat) : Nat :=
  let w := (tabGet v.mset (i / 2) 0).toNat
  if i % 2 = 0 then bits w 8 0 else bits w 24 16

/-- XOR of successive LOGN-bit fields of a local address from bit lo up to bit 47 (R397). -/
def xorFields (addr logn : Nat) : Nat → Nat → Nat → Nat
  | 0, _, acc => acc
  | n + 1, lo, acc => if 48 ≤ lo then acc else xorFields addr logn n (lo + logn) (acc ^^^ (addr % 2 ^ 48 / 2 ^ lo % 2 ^ logn))

/-- Placement of a host output (R396): the module number of the PA. -/
def placeModule (s : State) (v : Vf) (h : Stage1) : Nat :=
  let logn := min (v.msetc.toNat % 8) 4
  if h.plc = 0 then s.modn.toNat
  else if h.plc = 3 then h.pmod
  else if logn = 0 then memberOf v 0
  else memberOf v (xorFields h.out logn 48 (if h.plc = 1 then 12 else 16) 0)

/-- Does a leaf keep its accesses waiting: M = 1, or a MIGRATE has written it and has yet to end (R415, R416)? -/
def held (s : State) (st : Stage1) : Bool :=
  st.m || s.works.any (fun w => !w.ended && decide (w.stage = 5) && (match w.kind with | .migrate _ _ => true | _ => false)
    && (match st.leaf with | some pa => decide ((tabGet w.data 0 []).head? = some pa) | none => false))

def getVf (s : State) (vf : Nat) : Vf := tabGet s.vfs vf {}
def setVf (s : State) (vf : Nat) (v : Vf) : State := { s with vfs := tabPut s.vfs vf v }

/-- The host stage's own tables are named by PA (R388). -/
def hostTables (s : State) (pa : Nat) : Except XStop (Nat × State) := .ok (pa, s)

/-- The host stage for a GPA, without permissions. -/
def hostLookup (wk : Walker) (s : State) (vf gpa : Nat) : Except XStop (Stage1 × State) :=
  let v := getVf s vf
  stageLookup wk { vf := vf, asid := 0, host := true } hostTables v.htrt v.hrdt gpa s

/-- The PA of a guest table (R389): its GPA through the host stage as a read. -/
def guestTables (wk : Walker) (vf : Nat) (s : State) (gpa : Nat) : Except XStop (Nat × State) := do
  let (h, s) ← hostLookup wk s vf gpa
  if held s h then throw (.migrating h.level true (h.leaf.getD 0))
  permit h .read false true
  let m := placeModule s (getVf s vf) h
  return (m * 2 ^ 48 + h.out, s)

/-- The guest stage of a space under the given roots. -/
def guestLookup (wk : Walker) (s : State) (vf asid : Nat) (gtrt grdt : DWord) (va : Nat) : Except XStop (Stage1 × State) :=
  stageLookup wk { vf := vf, asid := asid, host := false } (guestTables wk vf) gtrt grdt va s

/-! ## Both stages (R396, R398, R405) -/

/-- What decides whether a leaf still is as the walk read it: V, M, ADDR and the permissions (R394, R405). -/
def leafKey (e : Nat) : Nat × Nat × Nat × Nat := (bits e 0 0, bits e 8 8, bits e 56 12, bits e 5 2)

/-- Sets A, and D for a write, in a leaf by an atomic OR at its home (R405); none when the leaf no longer is what the walk read. The walker's own requests are not counted (log 94). -/
def setAD (s : State) (st : Stage1) (dirty : Bool) : Option State :=
  match st.leaf with
  | none => some s
  | some pa =>
    let cur := leNat (memReadList s.mem pa 8)
    if leafKey cur ≠ leafKey st.pte ∨ bits cur 0 0 = 0 ∨ bits cur 8 8 = 1 then none
    else
      let new := cur ||| (if dirty then 192 else 64)
      if new = cur then some s else some (homePut (keepVersion (serveLine s (lineOf pa)) pa) none pa (leBytes 8 new))

/-- The combination of two stages (R396). -/
def bothStages (s : State) (vf : Nat) (g h : Stage1) : XOut :=
  { pa := placeModule s (getVf s vf) h * 2 ^ 48 + h.out, gpa := g.out, pol := if g.pol ≠ 0 then g.pol else h.pol, part := h.part, g := g, h := h }

/-- Both stages for a VA without update: PTQ and the checks of MIGRATE too (R423). -/
def lookupBoth (wk : Walker) (s : State) (sp : Space) (va : Nat) (k : Acc) (checkM : Bool) : Except XStop (XOut × State) := do
  let (g, s) ← guestLookup wk s sp.vf sp.asid sp.gtrt sp.grdt va
  if checkM && held s g then throw (.migrating g.level false (g.leaf.getD 0))
  permit g k (decide (sp.pl = 0)) false
  let (h, s) ← hostLookup wk s sp.vf g.out
  if checkM && held s h then throw (.migrating h.level true (h.leaf.getD 0))
  permit h k false true
  return (bothStages s sp.vf g h, s)

/-- The PA of a VA where both stages are valid, whatever they permit. -/
def lookupRaw (s : State) (sp : Space) (va : Nat) : Except XStop Nat := do
  let (g, s) ← guestLookup {} s sp.vf sp.asid sp.gtrt sp.grdt va
  let (h, s) ← hostLookup {} s sp.vf g.out
  return placeModule s (getVf s sp.vf) h * 2 ^ 48 + h.out

/-- The OR of A and D in both leaves: none when a leaf no longer is what the walk read. -/
def setBoth (s : State) (g h : Stage1) (dirty : Bool) : Option State := (setAD s g dirty).bind (fun s => setAD s h dirty)

/-- A walk with its accessed and dirty updates; one whose leaf has changed is discarded and made again (R405). -/
def walkAD (core : Option Nat) (s : State) (sp : Space) (va : Nat) (k : Acc) : Except XStop (XOut × State) := do
  let dirty := decide (k = .write)
  let (o, t) ← lookupBoth { core := core } s sp va k true
  match setBoth t o.g o.h dirty with
  | some t => return (o, t)
  | none =>
    let (o, t) ← lookupBoth { core := core, now := true } s sp va k true
    return (o, (setBoth t o.g o.h dirty).getD t)

/-! ## TLBs (R401) -/

/-- Pages of 4 KiB of a size (R423). -/
def sizePages (size : Nat) : Nat := if size = 3 then 2 ^ 18 else if size = 2 then 512 else if size = 1 then 16 else 1

/-- A leaf as the TLB holds it after an access: A is set, and D after a write. -/
def Stage1.used (st : Stage1) (k : Acc) : Stage1 := if st.leaf.isNone then st else { st with a := true, d := st.d || decide (k = .write) }

def TlbEnt.serves (e : TlbEnt) (sp : Space) (va : Nat) : Bool :=
  decide (e.vf = sp.vf) && decide (e.asid = sp.asid) && decide (e.page ≤ va / 4096) && decide (va / 4096 < e.page + e.pages)

/-- Puts an entry into a core's TLB of 2,048 in the place of those that it covers. -/
def keepTlb (s : State) (core : Nat) (e : TlbEnt) : State :=
  let c := getCore s core
  let other (f : TlbEnt) : Bool := !(decide (f.vf = e.vf) && decide (f.asid = e.asid) && decide (f.page < e.page + e.pages) && decide (e.page < f.page + f.pages))
  setCore s core { c with tlb := (e :: c.tlb.filter other).take 2048 }

/-- The entry that a translation leaves: of the smaller of the two stages' sizes (R396). -/
def tlbFill (s : State) (core : Nat) (sp : Space) (va : Nat) (o : XOut) (k : Acc) : State :=
  let n := min (sizePages o.g.size) (sizePages o.h.size)
  let off := va % (n * 4096)
  keepTlb s core { vf := sp.vf, asid := sp.asid, page := va / 4096 / n * n, pages := n,
                   g := { o.g.used k with out := o.g.out - off }, h := { o.h.used k with out := o.h.out - off } }

/-- The attributes that the translation of an access gives its page (R396; log 66). -/
def keepAttrs (s : State) (o : XOut) : State :=
  if isLocal s o.pa then { s with attrs := tabSet s.attrs (o.pa / 4096) (o.pol, o.part) (0, 0) } else s

/-- What an entry gives for an address: its permissions decide; before the first write that an entry with D = 0 serves, D is set, or the access walks again (R405). -/
def tlbHit (s : State) (core : Nat) (e : TlbEnt) (sp : Space) (va : Nat) (k : Acc) : Except XStop (Option (XOut × State)) := do
  let off := va - e.page * 4096
  let o := bothStages s sp.vf { e.g with out := e.g.out + off } { e.h with out := e.h.out + off }
  permit e.g k (decide (sp.pl = 0)) false
  permit e.h k false true
  let clean (st : Stage1) : Bool := st.leaf.isSome && !st.d
  if k = .write ∧ (clean e.g ∨ clean e.h) then
    match setBoth s e.g e.h true with
    | some t => return some (o, keepTlb (keepAttrs t o) core { e with g := e.g.used k, h := e.h.used k })
    | none => return none
  else return some (o, keepAttrs s o)

/-- Do two translations come to the same, for memory and for the access? -/
def sameResult (a b : Except XStop (XOut × State)) : Bool :=
  match a, b with
  | .ok x, .ok y => decide (x.1.pa = y.1.pa) && decide (x.1.gpa = y.1.gpa) && decide (x.2.mem = y.2.mem) && decide (x.2.attrs = y.2.attrs)
  | .error x, .error y => decide (x = y)
  | _, _ => false

/-- Translate(va, kind) (02 R69, R398) in a space, by an agent of a core if one is named: the PA and what goes with it, or the stop. Whether an entry of the core's TLB serves, or a walk, is free where they differ (R401, R402): the same for all lanes of an instruction on the page (R400). -/
def translateX (s : State) (core : Option Nat) (sp : Space) (va : Nat) (k : Acc) : Except XStop (XOut × State) :=
  if 2 ^ 57 ≤ va then .error (xfault 0 3 false)
  else
    let walk : Except XStop (XOut × State) := do
      let (o, t) ← walkAD core s sp va k
      let t := keepAttrs t o
      return (o, match core with | some c => tlbFill t c sp va o k | none => t)
    match core.bind (fun c => ((getCore s c).tlb.find? (fun e => e.serves sp va)).map (fun e => (c, e))) with
    | none => walk
    | some (c, e) =>
      let hit : Except XStop (XOut × State) := match tlbHit s c e sp va k with
        | .ok (some r) => .ok r
        | .ok none => walk
        | .error x => .error x
      if sameResult walk hit || decide (pick s (va / 4096 * 16 + 12 + k.code) 2 = 1) then hit else walk

/-- The PA alone. -/
def translate (s : State) (core : Option Nat) (sp : Space) (va : Nat) (k : Acc) : Except XStop (Nat × State) :=
  (translateX s core sp va k).map (fun r => (r.1.pa, r.2))

/-- Pages of 4 KiB that n bytes from an address touch. -/
def pagesOf (addr n : Nat) : List Nat :=
  (List.range (n / 4096 + 2)).map (fun i => addr / 4096 + i) |>.filter (fun p => n ≠ 0 && decide (p * 4096 < addr + n))

/-- Translates a run of bytes page by page. -/
def translateRun (s : State) (core : Option Nat) (sp : Space) (va n : Nat) (k : Acc) : Except XStop ((List PageMap) × State) :=
  (pagesOf va n).foldl (fun acc p => do
    let (l, s) ← acc
    let (o, s) ← translateX s core sp (p * 4096) k
    return (l ++ [{ page := p, pa := o.pa / 4096, gpa := o.gpa / 4096 }], s)) (.ok ([], s))

/-- The PA of a byte whose page a run translated. -/
def pageLookup (l : List PageMap) (va : Nat) : Nat :=
  match l.find? (fun p => p.page = va / 4096) with
  | some p => p.pa * 4096 + va % 4096
  | none => va

/-- The first byte of an access by PA that its home cannot serve: class and PA. -/
def firstBadPa (s : State) (addrs : List Nat) : Option (Nat × Nat) := addrs.findSome? (fun pa => (badClass s pa).map (fun c => (c, pa)))

/-- Strong reads by the control complex or a queue context of n bytes at a VA (R521): translated, read at the homes. -/
def readVirt (s : State) (sp : Space) (va n : Nat) : Except XStop ((List Byte) × State) := do
  let (ps, s) ← translateRun s none sp va n .read
  let addrs := (List.range n).map (fun i => pageLookup ps (va + i))
  match firstBadPa s addrs with
  | some (c, pa) => throw (.fault 0x0C c false pa)
  | none =>
    let s := (addrs.map lineOf).eraseDups.foldl (fun s l => serveLine (countReq s (l * lineSize)) l) s
    return (addrs.map (homeRead s), s)

/-- Strong writes of bytes at a VA, each line in one step. -/
def writeVirt (s : State) (sp : Space) (va : Nat) (bs : List Byte) : Except XStop (Unit × State) := do
  let (ps, s) ← translateRun s none sp va bs.length .write
  let addrs := (List.range bs.length).map (fun i => pageLookup ps (va + i))
  match firstBadPa s addrs with
  | some (c, pa) => throw (.fault 0x0C c false pa)
  | none => return ((), locWrites s none ((addrs.map Loc.glob).zip bs))

end Sys2Proof.Machine
end

