-- ==== Sys2Proof/Machine/Ops.lean ====
section
/-! DEFINITION. The operations that every instruction shares: agents and their registers, the checks before an instruction (01_encoding R38, R39; 03_group R87), waiting, taking a trap (07 R246-R251, 14 R434, 05 R187, 12 R377) and moving on. -/

namespace Sys2Proof.Machine

/-! ## Groups, teams, grids -/

def tagOf (gid : Nat) : Nat := gid / 16
def gixOf (gid : Nat) : Nat := gid % 16

/-- The 32-bit group handle (R250). -/
def handleOf (gid : Nat) : Word := BitVec.ofNat 32 (gid * 4096)

def getGroup (s : State) (gid : Nat) : Group := tabGet s.groups gid {}
def setGroup (s : State) (gid : Nat) (g : Group) : State := { s with groups := tabPut s.groups gid g }
def modGroup (s : State) (gid : Nat) (f : Group → Group) : State := setGroup s gid (f (getGroup s gid))

def getTeam (s : State) (tag : Nat) : Team := (tabFind s.teams tag).getD { grid := 0, index := 0 }

def noSpace : Space := { vf := 0, asid := 0, gtrt := 0, grdt := 0, pl := 0 }
def noGrid : Grid := { vf := 0, qid := 0, space := noSpace, entry := 0, access := 0 }
def getGrid (s : State) (n : Nat) : Grid := tabGet s.grids n noGrid
def setGrid (s : State) (n : Nat) (g : Grid) : State := { s with grids := tabPut s.grids n g }

def teamOf (s : State) (gid : Nat) : Team := getTeam s (tagOf gid)
def gridOf (s : State) (gid : Nat) : Grid := getGrid s (teamOf s gid).grid
def coreOfGroup (s : State) (gid : Nat) : Nat := (teamOf s gid).core
def clusterOfCore (c : Nat) : Nat := c / Config.coresPerCluster

/-- The group ids of a team. -/
def teamGids (s : State) (tag : Nat) : List Nat :=
  (s.groups.map (·.1)).filter (fun g => tagOf g = tag)

/-- Lanes with ICNT > 0. -/
def icntMask (g : Group) : Mask :=
  g.icnt.foldl (fun m p => m ||| BitVec.ofNat 64 (2 ^ p.1)) 0

/-- The active lanes (R86); under ERET.resume of a lane-masked fault, the lanes it names (R253). -/
def activeMask (g : Group) : Mask :=
  match g.only with
  | some m => m &&& ~~~(icntMask g) &&& ~~~g.done
  | none => ~~~(icntMask g) &&& ~~~g.done &&& ~~~g.parked

def allLanes : Mask := BitVec.allOnes 64

/-- The lanes of a mask, ascending. -/
def lanesOf (m : Mask) : List Nat := (List.range 64).filter (fun l => m.getLsbD l)

def maskOf (ls : List Nat) : Mask := ls.foldl (fun m l => m ||| BitVec.ofNat 64 (2 ^ l)) 0

/-! ## Agents -/

/-- The kinds of context of R39 and R186. -/
inductive Ctx where
  | group | axp | queue | cheA | cheX
  deriving DecidableEq, Repr

def Agent.ctx : Agent → Ctx
  | .group _ => .group
  | .axp _ => .axp
  | .queue _ => .queue
  | .cheA _ _ => .cheA
  | .cheX _ _ => .cheX

/-- VF 32 stands for the firmware's own contexts at PL2 (R5, R435; log 60). -/
def hostVf : Nat := 32

def getQueue (s : State) (qid : Nat) : QCtx := tabGet s.queues qid {}
def setQueue (s : State) (qid : Nat) (q : QCtx) : State := { s with queues := tabPut s.queues qid q }
def modQueue (s : State) (qid : Nat) (f : QCtx → QCtx) : State := setQueue s qid (f (getQueue s qid))

def slotOf (s : State) (vf slot : Nat) : PSlot := tabGet (getVf s vf).slots slot {}
def setSlot (s : State) (vf slot : Nat) (p : PSlot) : State :=
  setVf s vf { getVf s vf with slots := tabPut (getVf s vf).slots slot p }

/-- The address space of a slot at a level (R388, R521). -/
def slotSpace (s : State) (vf slot pl : Nat) : Space :=
  let p := slotOf s vf slot
  { vf := vf, asid := p.gtrt.toNat % 4096, gtrt := p.gtrt, grdt := p.grdt, pl := pl }

/-- The space of a running grid: the one it was launched in, whose roots its process may have written since (14 R451; log 24). -/
def gridSpace (g : Grid) : Space := { g.space with pl := 0 }

def getAxp (s : State) (gid : Nat) : Axp := (getGroup s gid).axp.getD {}
def setAxp (s : State) (gid : Nat) (a : Axp) : State := modGroup s gid (fun g => { g with axp := some a })

/-- Ring of a VF on an engine: key pkg x 64 + vf. -/
def ringKey (pkg vf : Nat) : Nat := pkg * 64 + vf
def getRing (s : State) (pkg vf : Nat) : Ring := tabGet s.rings (ringKey pkg vf) {}
def setRing (s : State) (pkg vf : Nat) (r : Ring) : State := { s with rings := tabPut s.rings (ringKey pkg vf) r }
/-- CHEWT of a VF (12 R376): quanta in each round, and the quantum in reference cycles. -/
def cheWeight (s : State) (vf : Nat) : Nat := bits (tabGet s.chewt vf 0x0A01).toNat 3 0
def cheQuant (s : State) (vf : Nat) : Nat := 2000 * max 1 (bits (tabGet s.chewt vf 0x0A01).toNat 15 8)
def getTask (s : State) (pkg vf : Nat) : Option ChTask := (getRing s pkg vf).tasks.head?
def setTask (s : State) (pkg vf : Nat) (t : ChTask) : State :=
  setRing s pkg vf { getRing s pkg vf with tasks := t :: (getRing s pkg vf).tasks.tail }

/-- The privilege level of the executing context (R5). -/
def levelOf (s : State) : Nat :=
  match s.cur with
  | .queue q => (getQueue s q).level
  | _ => 0

def vfOf (s : State) : Nat :=
  match s.cur with
  | .group g => (gridOf s g).vf
  | .axp g => (gridOf s g).vf
  | .queue q => q / 64
  | .cheA _ v => v
  | .cheX _ v => v

/-- The space in which the executing context's accesses are translated (R521). -/
def spaceOf (s : State) : Space :=
  match s.cur with
  | .group g => gridSpace (gridOf s g)
  | .axp g => gridSpace (gridOf s g)
  | .queue q => slotSpace s (q / 64) (getQueue s q).slot (getQueue s q).level
  | .cheA _ v => { noSpace with vf := v }
  | .cheX _ v => { noSpace with vf := v }

/-- The core of the executing context, if it is on one. -/
def coreOf (s : State) : Option Nat :=
  match s.cur with
  | .group g => some (coreOfGroup s g)
  | .axp g => some (coreOfGroup s g)
  | _ => none

def regsOf (s : State) : RegFile :=
  match s.cur with
  | .group g => (getGroup s g).regs
  | .axp g => (getAxp s g).regs
  | .queue q => (getQueue s q).regs
  | _ => {}

/-- Has a wait on M passed the migration limit at this leaf (13_translation R416)? -/
def waitedOut (mlimit : Bool) (mwait : Option (Nat × Nat)) (leaf : Nat) : Bool := mlimit && mwait.any (fun p => decide (p.1 = leaf))

/-- A wait on M of a leaf: it goes on since it began there, and begins anew at another leaf (13_translation R416). -/
def waitSince (leaf now : Nat) (old : Option (Nat × Nat)) : Option (Nat × Nat) :=
  if old.any (fun p => decide (p.1 = leaf)) then old else some (leaf, now)

/-- Has the wait of the executing context on M of a leaf passed the migration limit? -/
def limitHit (s : State) (leaf : Nat) : Bool :=
  match s.cur with
  | .group g => waitedOut (getGroup s g).mlimit (getGroup s g).mwait leaf
  | .axp g => waitedOut (getAxp s g).mlimit (getAxp s g).mwait leaf
  | .queue q => waitedOut (getQueue s q).mlimit (getQueue s q).mwait leaf
  | _ => false

def setRegs (s : State) (r : RegFile) : State :=
  match s.cur with
  | .group g => modGroup s g (fun x => { x with regs := r })
  | .axp g => setAxp s g { getAxp s g with regs := r }
  | .queue q => modQueue s q (fun x => { x with regs := r })
  | _ => s

/-- The PC of the executing context (R84, R186, R433). -/
def pcOf (s : State) : DWord :=
  match s.cur with
  | .group g => (getGroup s g).pc
  | .axp g => (getAxp s g).pc
  | .queue q => queuePc (getQueue s q)
  | .cheA p v => BitVec.ofNat 64 ((getTask s p v).map (·.apc) |>.getD 0)
  | .cheX p v => BitVec.ofNat 64 ((getTask s p v).map (·.xpc) |>.getD 0)

/-! ## Registers -/

def bitAt (n : Nat) : BitVec 128 := BitVec.ofNat 128 (2 ^ n)

def RegFile.isEmpty (r : RegFile) (n : Nat) : Bool := r.empty.getLsbD n && decide (n ≠ 127)

def RegFile.setEmpty (r : RegFile) (n : Nat) (e : Bool) : RegFile :=
  { r with empty := if e then r.empty ||| bitAt n else r.empty &&& ~~~(bitAt n) }

/-- S31 reads 0 and discards writes (R27). -/
def RegFile.readS (r : RegFile) (n : Nat) : Word := if n = 31 then 0 else tabGet r.s n 0
def RegFile.writeS (r : RegFile) (n : Nat) (w : Word) : RegFile :=
  if n = 31 then r else { r with s := tabSet r.s n w 0 }

def RegFile.readV (r : RegFile) (n lane : Nat) : Word := tabGet r.v (n * 64 + lane) 0
def RegFile.writeV (r : RegFile) (n lane : Nat) (w : Word) : RegFile := { r with v := tabSet r.v (n * 64 + lane) w 0 }

/-- P7 reads true and discards writes (R32). -/
def RegFile.readP (r : RegFile) (n lane : Nat) : Bool := decide (n = 7) || (tabGet r.p n 0).getLsbD lane
def RegFile.writeP (r : RegFile) (n lane : Nat) (b : Bool) : RegFile :=
  if n = 7 then r
  else
    let m := tabGet r.p n 0
    let bit : Mask := BitVec.ofNat 64 (2 ^ lane)
    { r with p := tabSet r.p n (if b then m ||| bit else m &&& ~~~bit) 0 }

/-- The entry that a reader meets: the one its own earlier pop took, if it executes again (R253; log 25), else the oldest that this pass has not popped (R191). -/
def QReg.front (q : QReg) : Option QEntry :=
  match q.again with
  | some e => some e
  | none => (q.entries.drop q.consumed).head?

/-- The pop of an instruction that issues (R30): an entry it took before is not popped twice; in a region the entry stays, marked consumed (R191). -/
def QReg.pop (q : QReg) (regv : Bool) : QReg :=
  match q.again with
  | some _ => { q with again := none }
  | none => if regv then { q with consumed := q.consumed + 1 } else { q with entries := q.entries.tail }

/-- The pop of an instruction with a lane-masked fault outside a region, which may execute again in its parked lanes (R253; log 25). -/
def QReg.popKeep (q : QReg) : QReg := { q.pop false with again := q.front }

/-- No instruction is to execute again. -/
def QReg.settled (q : QReg) : QReg := { q with again := none }

def QEntry.lane (e : QEntry) (l : Nat) : Word :=
  match e with
  | .scalar w => w
  | .vector ws => ws.getD l 0

def queueReg (s : State) (n : Nat) : QReg :=
  match s.cur with
  | .group g => tabGet (getGroup s g).q n {}
  | _ => {}

/-- The value of the 32-bit register that a field value names, in a lane (R27, R111). -/
def readField (s : State) (f lane : Nat) : Word :=
  let r := regsOf s
  if 96 ≤ f then r.readS (f - 96)
  else if 88 ≤ f then ((queueReg s (f - 88)).front.map (·.lane lane)).getD 0
  else r.readV f lane

/-- A pair: the even register holds bits [31:0] (R28). -/
def readPair (s : State) (f lane : Nat) : DWord := readField s (f + 1) lane ++ readField s f lane

def readSReg (s : State) (f : BitVec 7) : Word := readField s f.toNat 0
def readSPair (s : State) (f : BitVec 7) : DWord := readPair s f.toNat 0

/-- A block of n S registers (R36, R37). -/
def readBlock (s : State) (f : BitVec 7) (n : Nat) : List Word :=
  (List.range n).map (fun i => readField s (f.toNat + i) 0)

/-- A write mends a parity error (15_platform R465). -/
def RegFile.mended (r : RegFile) (f lane : Nat) : RegFile := if r.bad = [] then r else { r with bad := r.bad.filter (· ≠ (f, if 96 ≤ f then 0 else lane)) }

def RegFile.writeField (r : RegFile) (f lane : Nat) (w : Word) : RegFile :=
  if 96 ≤ f then r.writeS (f - 96) w else if f < 88 then r.writeV f lane w else r

/-- Writes a register and leaves it full (R88). -/
def writeField (s : State) (f lane : Nat) (w : Word) : State :=
  setRegs s ((((regsOf s).writeField f lane w).setEmpty f false).mended f lane)

def writePair (s : State) (f lane : Nat) (w : DWord) : State :=
  writeField (writeField s f lane (w.extractLsb' 0 32)) (f + 1) lane (w.extractLsb' 32 32)

def writeSReg (s : State) (f : BitVec 7) (w : Word) : State := writeField s f.toNat 0 w
def writeSPair (s : State) (f : BitVec 7) (w : DWord) : State := writePair s f.toNat 0 w

/-- Marks registers empty (R88); S31 is never empty. -/
def markEmpty (s : State) (fs : List Nat) : State :=
  setRegs s (fs.foldl (fun r f => if f = 127 then r else r.setEmpty f true) (regsOf s))

def isEmptyField (s : State) (f : Nat) : Bool :=
  if 88 ≤ f ∧ f < 96 then (queueReg s (f - 88)).front.isNone else (regsOf s).isEmpty f

/-- Entry k of a stream (R189). -/
def AxpStream.entry (st : AxpStream) (k : Nat) : QEntry :=
  .vector ((List.range 64).map (fun l => st.start + BitVec.ofNat 32 k * st.step + BitVec.ofNat 32 l * st.stride))

/-- The streams of a group's slice push while their queues hold fewer than 16 entries (R189, R191). -/
def pumpStreams (g : Group) : Group :=
  match g.axp with
  | none => g
  | some a => a.streams.foldl (fun g p =>
      let q := tabGet g.q p.1 {}
      let n := min (16 - q.entries.length) (p.2.count - p.2.k)
      let q := { q with entries := q.entries ++ (List.range n).map (fun i => p.2.entry (p.2.k + i)) }
      let a := g.axp.getD {}
      let rest := if p.2.count ≤ p.2.k + n then tabErase a.streams p.1 else tabPut a.streams p.1 { p.2 with k := p.2.k + n }
      { g with q := tabPut g.q p.1 q, axp := some { a with streams := rest } }) g

/-- Changes each named Q register once by the given pop (R30). -/
def popQsBy (pop : Group → QReg → QReg) (s : State) (fields : List Nat) : State :=
  match s.cur with
  | .group gid =>
    (fields.filter (fun f => 88 ≤ f ∧ f < 96)).eraseDups.foldl (fun s f =>
      modGroup s gid (fun g => pumpStreams { g with q := tabPut g.q (f - 88) (pop g (tabGet g.q (f - 88) {})) })) s
  | _ => s

/-- Pops each named Q register once, when the instruction issues (R30, R191). -/
def popQs (s : State) (fields : List Nat) : State := popQsBy (fun g q => q.pop g.regv) s fields

/-- The pops of an instruction that met a lane-masked fault: it has issued, so each Q register is popped; outside a region ERET.resume finds the entry again (R30, R247, R253; log 25). -/
def popQsFault (s : State) (fields : List Nat) : State := popQsBy (fun g q => if g.regv then q.pop true else q.popKeep) s fields

/-- The lane number by which a context without lanes reads and writes. -/
def laneList (s : State) : List Nat :=
  match s.cur with
  | .group g => lanesOf (activeMask (getGroup s g))
  | _ => [0]

def activeOf (s : State) : Mask :=
  match s.cur with
  | .group g => activeMask (getGroup s g)
  | _ => 1

/-! ## Traps -/

def trapOf (cause : Nat) (aux : Nat := 0) : Stop := .trap { cause := cause, aux := BitVec.ofNat 32 aux }
def illegal (aux : Nat := 0) : Stop := trapOf 0x01 aux

/-- Delivered to PL2 (R251). -/
def Trap.toHost (t : Trap) : Bool :=
  decide (t.cause = 0x14) || decide (t.cause = 0x0C) || ((decide (t.cause = 0x08) || decide (t.cause = 0x09)) && t.s2)

def mkRec (s : State) (g : Group) (t : Trap) (pc : DWord) (deferred : Bool) : TrapRec :=
  { trap := t, lmask := t.lanes.getD (activeMask g), pc := pc, regpc := g.regpc, regcnt := g.regcnt, rgv := g.regv,
    deferred := deferred, hv := t.toHost, cyc := BitVec.ofNat 64 (s.time / 2) }

/-- The 64 bytes of the fault record (R250). -/
def TrapRec.bytes (r : TrapRec) (gid pl : Nat) : List Byte :=
  let b (x : Bool) (n : Nat) := if x then 2 ^ n else 0
  leBytes 4 (r.trap.cause % 256 + b r.deferred 8 + b r.rgv 9 + b r.hv 10 + b r.trap.s2 11 + pl * 2 ^ 12)
  ++ leBytes 4 (handleOf gid).toNat
  ++ leBytes 8 r.lmask.toNat
  ++ leBytes 8 r.pc.toNat
  ++ leBytes 8 r.trap.va.toNat
  ++ leBytes 8 r.regpc.toNat
  ++ leBytes 2 r.regcnt.toNat ++ leBytes 2 0
  ++ leBytes 4 r.trap.aux.toNat
  ++ leBytes 2 r.trap.tagF.toNat ++ leBytes 2 r.trap.tagO.toNat
  ++ leBytes 4 0
  ++ leBytes 8 r.cyc.toNat

/-- Appends an entry to the error log (15_platform R468); a flit's failure, once met, is over. -/
def logError (s : State) (cls pa vf : Nat) (uncorrected : Bool) : State :=
  let base := s.errlog.toNat / 4096 * 4096
  let size := 2 ^ (12 + s.errlog.toNat % 16)
  let bs := leBytes 8 (s.time / 2) ++ leBytes 8 pa ++ leBytes 1 cls ++ leBytes 1 (if uncorrected then 1 else 0) ++ leBytes 1 (if vf < 32 then vf else 0xFF) ++ leBytes 13 0
  let s := if cls = 0x06 ∨ cls = 0x07 then unstrike s (.flit (lineOf pa)) else s
  homeWriteMany { s with errcnt := s.errcnt + 1 } none (base + s.errcnt.toNat * 32 % size) bs

/-- An INTEGRITY fault is a detected error (R468). -/
def noteError (s : State) (cause : Nat) (aux : Word) (pa vf : Nat) : State :=
  if cause = 0x0C then logError s (aux.toNat % 256) pa vf true else s

/-- An access of the control complex or a queue context that met an INTEGRITY fault is logged (R468). -/
def noteXStop (s : State) (vf : Nat) : XStop → State
  | .fault 0x0C c _ pa => logError s c pa vf true
  | _ => s

/-- The migration limit, 10 ms, in reference cycles (13_translation R416). -/
def migrationLimit : Nat := 20000000

/-- The region ends (R98): REGV clears and consumed entries are freed (R191). -/
def endRegionG (g : Group) : Group :=
  pumpStreams { g with regv := false, q := g.q.map (fun p => (p.1, { p.2 with entries := p.2.entries.drop p.2.consumed, consumed := 0 })) }

/-- Every group of a grid ends as ERET.abort ends a group (R251, R428); its region ends (R98). -/
def endGroup (g : Group) : Group :=
  { endRegionG g with done := allLanes, parked := 0, only := none, deferred := none, trap := none, recDue := none, noticeDue := false, capDue := false, run := .done }

/-- A grid ends; one that still waits for modules or leases has pinned none, and places nothing. -/
def endGrid (s : State) (n : Nat) (cause : Nat) : State :=
  let s := { s with groups := s.groups.map (fun p => if (getTeam s (tagOf p.1)).grid = n then (p.1, endGroup p.2) else p) }
  let g := getGrid s n
  setGrid s n { g with ended := some (g.ended.getD cause), waiting := false, leases := if g.waiting then [] else g.leases }

/-- The queue context that HVCTX names, if it is a loaded PL2 context (R434, R435). -/
def hostContext (s : State) (vf : Nat) : Option Nat :=
  let h := (getVf s vf).hvctx
  let qid := hostVf * 64 + bits h.toNat 5 0
  if h.getLsbD 31 && (tabFind s.queues qid).isSome && decide ((getQueue s qid).slot = bits h.toNat 11 8) then some qid else none

/-- Hands a notice to the PL2 context of a VF, or holds it (R434). -/
def noticeHost (s : State) (vf : Nat) (n : Notice) : State :=
  match hostContext s vf with
  | some q => modQueue s q (fun c => { c with notices := c.notices ++ [n] })
  | none => setVf s vf { getVf s vf with held := (getVf s vf).held ++ [n] }

/-- TRINFO of a notice: cause and NOTICE; the return level is set when it is taken (R435). -/
def noticeInfo (cause : Nat) : Word := BitVec.ofNat 32 (cause % 256 + 256)

/-- Address of a group's fault record (R249). -/
def recordVa (s : State) (gid : Nat) : Nat :=
  let t := teamOf s gid
  (gridOf s gid).farea.toNat + 64 * (t.index * t.ngrp + gixOf gid)

/-- A core group takes a trap (R249): it becomes TRAPPED, the record goes to the fault area, and the notice is due (R251). While the record's page migrates the group waits with its record (13_translation R416). -/
def trapGroupRec (s : State) (gid : Nat) (r : TrapRec) : State :=
  let grid := gridOf s gid
  let va := recordVa s gid
  let g := getGroup s gid
  let again := decide (g.recDue = some r)
  let r := if again then r else { r with addr := BitVec.ofNat 64 va, rgv := g.regv, cyc := BitVec.ofNat 64 (s.time / 2) }
  match writeVirt s { grid.space with pl := 1 } va (r.bytes gid 0) with
  | .ok (_, s) =>
    modGroup s gid (fun g => { g with run := .trapped, trap := some r, deferred := none, recDue := none, noticeDue := true, pc := r.pc, wdog := 0, mlimit := false, mwait := none })
  | .error stop =>
    -- the record's own wait on M: it is another access than the one that trapped
    let since (leaf : Nat) : Option (Nat × Nat) := waitSince leaf s.time (if again then g.mwait else none)
    let late (leaf : Nat) : Bool := (again && waitedOut g.mlimit g.mwait leaf) || (since leaf).any (fun p => decide (p.2 + migrationLimit ≤ s.time))
    let held := match stop with | .migrating _ _ leaf => if late leaf then none else some leaf | _ => none
    match held with
    | some leaf => modGroup s gid (fun g => { g with run := .waiting (.migration leaf), recDue := some r, mwait := since leaf, mlimit := false, wdog := 0 })
    | none =>
    let s := noteXStop s grid.vf stop
    let (cause, aux) := match stop with | .fault c a _ _ => (c, a) | .migrating l _ _ => (0x08, l * 256 + 6)
    let s := endGrid s (teamOf s gid).grid cause
    noticeHost s grid.vf { info := noticeInfo cause, aux := BitVec.ofNat 32 aux, recAt := 0, gh := handleOf gid }

def trapGroup (s : State) (gid : Nat) (t : Trap) (pc : DWord) : State :=
  let g := getGroup s gid
  trapGroupRec s gid (mkRec s g t pc g.deferred.isSome)

/-- The deferred trap of a group is taken (R248). -/
def takeDeferred (s : State) (gid : Nat) : State :=
  match (getGroup s gid).deferred with
  | some (r, _) => trapGroupRec s gid { r with deferred := true }
  | none => s

/-- The handler entry of a queue context (R434). -/
def tvecOf (s : State) (qid : Nat) : DWord := (slotOf s (qid / 64) (getQueue s qid).slot).tvec

/-- A queue context enters its handler at `target` with the trap registers set (R434, R453). -/
def enterHandler (s : State) (qid : Nat) (ret target : DWord) (info aux : Word) (level : Nat) : State :=
  modQueue s qid (fun q => {
    q with
    away := true, pc := target, trpc := ret, trinfo := info ||| BitVec.ofNat 32 (q.level * 4096), traux := aux, trapped := true,
    level := level, state := .running, wait := none, mlimit := false, mwait := none })

/-- A queue context takes a trap (R434); without a handler, or in it, the queue becomes FAULTED. -/
def trapQueue (s : State) (qid : Nat) (t : Trap) (ret : DWord) : State :=
  let q := getQueue s qid
  if tvecOf s qid = 0 ∨ q.trapped then
    let s := modQueue s qid (fun q => { q with state := .faulted, wait := none })
    noticeHost { s with out := s.out ++ [.faulted qid t] } (qid / 64)
      { info := noticeInfo t.cause, aux := t.aux, recAt := 0, gh := 0 }
  else enterHandler s qid ret (tvecOf s qid) (BitVec.ofNat 32 (t.cause % 256)) t.aux q.level

/-- The causes whose VA is an address that was accessed or fetched; RET's ALIGN names its own PC in a slice. -/
def hasAddress (cause : Nat) : Bool := decide (0x05 ≤ cause) && decide (cause ≤ 0x0C)

/-- A fault in an access slice stops its context: VA is the data address, or the slice's PC where the fault has none (R187). -/
def trapAxp (s : State) (gid : Nat) (t : Trap) : State :=
  let a := getAxp s gid
  setAxp s gid { a with stopped := some { t with
    aux := BitVec.ofNat 32 (2 ^ 31 + a.num), va := if hasAddress t.cause then t.va else a.pc, lanes := none } }

/-! ## Engine work (R37, R184) -/

def getWork (s : State) (id : Nat) : Option Work := s.works.find? (fun w => w.id = id)
def setWork (s : State) (w : Work) : State := { s with works := s.works.map (fun v => if v.id = w.id then w else v) }
def dropWork (s : State) (id : Nat) : State := dropClaims { s with works := s.works.filter (fun w => w.id ≠ id) } id

/-- Ends work with a status; its token fills at the event of R184. -/
def endWork (s : State) (id cause index : Nat) : State :=
  match getWork s id with
  | some w => if w.ended then s else setWork s { w with ended := true, status := cause, index := index }
  | none => s

/-- Weak stores that have reached LPDDR-6 reach their homes, before the task's token can fill (10 R323): none while another work claims one's line (10 R313). -/
def landStores (s : State) (work : Nat) (l : List ChStore) : Option State :=
  if l.any (fun x => claimedByOther s (some work) (lineOf x.pa)) then none else some (l.foldl (fun s x => homeWriteMany s none x.pa x.bytes) s)

/-- The fault record of a ring is written once its task's stores have landed, and its task's token then reports; it waits while its page migrates, and a record that cannot be written is lost (12 R377; 13_translation R416). -/
def tryRecord (s : State) (r : DueRecord) : State :=
  let done (s : State) : State := endWork s r.work r.cause r.index
  match landStores s r.work r.stores with
  | none => { s with dueRecords := s.dueRecords ++ [r] }
  | some s =>
  let r := { r with stores := [] }
  match writeVirt s (slotSpace s r.vf 0 1) ((getVf s r.vf).chfslot.toNat + 64 * r.pkg) r.bytes with
  | .ok (_, s) => done s
  | .error (.migrating _ _ leaf) =>
    let w := waitSince leaf s.time r.wait
    if w.any (fun p => decide (p.2 + migrationLimit ≤ s.time)) then done s else { s with dueRecords := s.dueRecords ++ [{ r with wait := w }] }
  | .error stop => done (noteXStop s r.vf stop)

/-- The records that wait are tried again. -/
def tryRecords (s : State) : State := s.dueRecords.foldl tryRecord { s with dueRecords := [] }

/-- The fault record of a ring (12 R377): 64 bytes at CHFSLOT + 64 x package, written at PL1 through slot 0. -/
def writeRingRecord (s : State) (pkg vf cause th idx seqNo va work index : Nat) (stores : List ChStore) : State :=
  let bs := leBytes 4 (cause % 256 + pkg * 2 ^ 17 + th * 2 ^ 23 + idx % 256 * 2 ^ 24) ++ leBytes 4 0
    ++ leBytes 36 0 ++ leBytes 4 seqNo ++ leBytes 8 va ++ leBytes 8 (s.time / 2)
  tryRecord s { vf := vf, pkg := pkg, bytes := bs, wait := none, work := work, cause := cause, index := index, stores := stores }

/-- A ring halts, and CHHALT shows it (R377). -/
def haltRing (s : State) (pkg vf : Nat) : State :=
  let s := setRing s pkg vf { getRing s pkg vf with halted := true }
  setVf s vf { getVf s vf with chhalt := (getVf s vf).chhalt ||| BitVec.ofNat 48 (2 ^ pkg) }

/-- A task ends with a fault (12 R377): record, halt, and its token's status. -/
def failTask (s : State) (pkg vf cause index th idx va : Nat) : State :=
  let ring := getRing s pkg vf
  match ring.tasks with
  | [] => s
  | t :: rest =>
    let s := haltRing (setRing s pkg vf { ring with tasks := rest }) pkg vf
    writeRingRecord s pkg vf cause th idx t.seqNo va t.work index (t.stores.filter (·.landed))

/-- A task of two threads ends with a fault of an instruction (12 R386). -/
def faultTask (s : State) (pkg vf cause th idx va : Nat) : State := failTask s pkg vf cause (th * 0x800000 + idx) th idx va

/-- INDEX of a fault while the programs or the parameter area are read (12 R386). -/
def loadIndex : Nat := 0x400000

/-- A task that cannot be loaded ends. -/
def failLoad (s : State) (pkg vf cause va pa cls : Nat) : State :=
  let s := if cause = 0x0C then logError s cls pa vf true else s
  failTask s pkg vf cause loadIndex 0 0 va

/-- A revocation ends the first task of a ring. INDEX of a COMPACT is then free: no rule states it (08_cluster_sequence R279; logs 49, 92). -/
def revokeTask (s : State) (pkg vf : Nat) (t : ChTask) : State :=
  if t.compact then
    let f := freeNat (dropClaims s t.work)
    failTask f.2 pkg vf 0x0B (f.1 % 2 ^ 24) 0 0 0
  else if t.started then faultTask s pkg vf 0x0B 0 0 0
  else failLoad s pkg vf 0x0B 0 0 0

/-- The PC after an instruction of len bytes of a queue context (R433). -/
def queueNext (q : QCtx) (len : Nat) : DWord :=
  if q.away then q.pc + BitVec.ofNat 64 len else q.base + BitVec.ofNat 64 ((q.head + len) % 2 ^ q.logsz)

/-- Taking a trap, for whoever executes (R246-R251, R434, R187, R377). -/
def takeTrap (t : Trap) (s : State) : State :=
  let s := noteError s t.cause t.aux t.pa (vfOf s)
  match s.cur with
  | .group gid => trapGroup s gid t (getGroup s gid).pc
  | .axp gid => trapAxp s gid t
  | .queue qid => trapQueue s qid t (if t.cause = 0x15 then queueNext (getQueue s qid) 4 else queuePc (getQueue s qid))
  | .cheA pkg vf => faultTask s pkg vf t.cause 0 ((getTask s pkg vf).map (·.apc) |>.getD 0) t.va.toNat
  | .cheX pkg vf => faultTask s pkg vf t.cause 1 ((getTask s pkg vf).map (·.xpc) |>.getD 0) t.va.toNat

/-- A lane-masked fault (R247): `parked` are all lanes that met a cause, t.lanes those of the reported one. The other lanes have done their part. Outside a region the trap is taken at once; inside, it is deferred and the group goes on. -/
def laneFault (s : State) (gid : Nat) (t : Trap) (parked : Mask) (len : Nat) : State :=
  let g := getGroup s gid
  let g := { g with parked := (if g.only.isSome then 0 else g.parked) ||| parked, only := none }
  let go (r : TrapRec) (n : Nat) : State :=
    setGroup s gid { g with deferred := some (r, n), pc := g.pc + BitVec.ofNat 64 len, run := .eligible, wdog := 0, mlimit := false, mwait := none }
  match g.deferred with
  | some (r, n) => go r (n + 1)
  | none =>
    if g.regv then go (mkRec s g t g.pc true) 0
    else trapGroupRec (setGroup s gid g) gid (mkRec s g t g.pc false)

/-! ## Waiting and moving on -/

/-- The leaf at which a wait on M stands, and since when (13_translation R416): none for another wait. -/
def Wait.since (w : Wait) (now : Nat) (old : Option (Nat × Nat)) : Option (Nat × Nat) :=
  match w with
  | .migration leaf => waitSince leaf now old
  | _ => none

/-- Does the limit that a wait on M has passed still count for what an agent waits at now? -/
def Wait.keepsLimit (w : Wait) (mlimit : Bool) (old : Option (Nat × Nat)) : Bool :=
  match w with
  | .migration leaf => waitedOut mlimit old leaf
  | _ => false

/-- The executing context waits (R226); during run-on its deferred trap is taken instead (R248). -/
def waitOn (w : Wait) (s : State) : State :=
  match s.cur with
  | .group gid =>
    if (getGroup s gid).deferred.isSome then takeDeferred s gid
    else modGroup s gid (fun g => { g with run := .waiting w, mwait := w.since s.time g.mwait, mlimit := w.keepsLimit g.mlimit g.mwait })
  | .axp gid => modGroup s gid (fun g => { g with axp := g.axp.map (fun a => { a with mwait := w.since s.time a.mwait, mlimit := w.keepsLimit a.mlimit a.mwait }) })
  | .queue qid => modQueue s qid (fun q => { q with state := .waiting, wait := some w, mwait := w.since s.time q.mwait, mlimit := w.keepsLimit q.mlimit q.mwait })
  | _ => s

/-- What a group does when an instruction has completed: the PC is set, a count of run-on goes up (R248), a resumed lane-masked instruction ends its confinement (R253), the watchdog starts anew (R442). -/
def groupDone (g : Group) (pc : DWord) : Group :=
  { g with
    pc := pc, run := .eligible, wdog := 0,
    parked := if g.only.isSome then 0 else g.parked, only := none, mlimit := false, mwait := none,
    q := if g.only.isSome then g.q.map (fun p => (p.1, p.2.settled)) else g.q,
    deferred := g.deferred.map (fun p => (p.1, p.2 + 1)) }

/-- The instruction has completed and control goes to pc. -/
def goTo (s : State) (pc : DWord) : State :=
  match s.cur with
  | .group gid => modGroup s gid (fun g => groupDone g pc)
  | .axp gid => setAxp s gid { getAxp s gid with pc := pc, mlimit := false, mwait := none }
  | .queue qid => modQueue s qid (fun q => { q.goesTo pc with state := .running, wait := none, wdog := 0, mlimit := false, mwait := none })
  | _ => s

/-- A transfer of control (R102). -/
def jumpTo (s : State) (pc : DWord) : State := goTo s pc

/-- The instruction has completed and the next one of len bytes on follows. -/
def advance (len : Nat) (s : State) : State :=
  match s.cur with
  | .queue qid => modQueue s qid (fun q => q.goesOn len)
  | .cheA pkg vf => match getTask s pkg vf with
    | some t => setTask s pkg vf { t with apc := t.apc + 1, stalled := 0 }
    | none => s
  | .cheX pkg vf => match getTask s pkg vf with
    | some t => setTask s pkg vf { t with xpc := t.xpc + 1, stalled := 0 }
    | none => s
  | _ => goTo s (pcOf s + BitVec.ofNat 64 len)

/-- What a meaning comes to: the next state, a wait, or a trap taken. -/
def settle (s : State) (r : Except Stop State) : State :=
  match r with
  | .ok s' => s'
  | .error (.wait w) => waitOn w s
  | .error (.trap t) => takeTrap t s

/-- The outcome of a meaning: always a next state. -/
def done (s : State) (r : Except Stop State) : Host.Outcome State Fault Refusal := .next (settle s r)

/-! ## The checks before an instruction -/

/-- Which contexts execute an operation (R39, R186, R379); 1,024 stands for the 16-bit word. -/
def ctxAllows (c : Ctx) (opn : Nat) : Bool :=
  let arith := decide (opn < 0x80) && !(decide (0x30 ≤ opn) && decide (opn ≤ 0x39)) && !(decide (0x48 ≤ opn) && decide (opn ≤ 0x51)) && !(decide (0x70 ≤ opn) && decide (opn ≤ 0x77))
  let jumps := decide (0x110 ≤ opn) && decide (opn ≤ 0x114)
  let sys := decide (opn = 0x340) || decide (opn = 0x348) || decide (opn = 0x349)
  let xlate := decide (0x2E0 ≤ opn) && decide (opn ≤ 0x2FF)
  let loads := (decide (0x140 ≤ opn) && decide (opn ≤ 0x146)) || decide (opn = 0x150)
  match c with
  | .group => decide (opn = 1024) || decide (opn < 0x2C8) || xlate || sys || decide (opn = 0x350)
  | .queue => arith || jumps || decide (opn = 0x122) || (decide (0x128 ≤ opn) && decide (opn ≤ 0x12A)) || loads
      || (decide (0x148 ≤ opn) && decide (opn ≤ 0x14C)) || decide (opn = 0x151) || decide (opn = 0x15E) || decide (opn = 0x160) || decide (opn = 0x161)
      || xlate || (decide (0x300 ≤ opn) && decide (opn ≤ 0x33F)) || sys
  | .axp => arith || jumps || decide (opn = 0x120) || decide (opn = 0x122) || decide (opn = 0x128) || loads || decide (opn = 0x1C9) || decide (opn = 0x1CA)
  | .cheA => [0x00, 0x01, 0x02, 0x08, 0x09, 0x0A, 0x0B, 0x0C, 0x0D, 0x0E, 0x11, 0x13, 0x1D, 0x20, 0x21, 0x22, 0x23, 0x24, 0x25, 0x26, 0x28, 0x29,
      0x2C8, 0x2C9, 0x2CA, 0x2CB, 0x2D8].contains opn
  | .cheX => [0x2D0, 0x2D1, 0x2D2, 0x2D8].contains opn

/-- The lowest level of an operation (R38 step 3), by opcode and mod7: the entries of chapters 07, 13, 14 and 15. -/
def lowestLevel (opn : Nat) (b : BitVec 7) : Nat :=
  if opn = 0x2E0 then (if b.extractLsb' 0 2 = 1 then (if b.getLsbD 5 then 2 else 1) else 0)
  else if opn = 0x2E1 then (if b.getLsbD 1 then 2 else 1)
  else if opn = 0x2E2 then 1
  else if opn = 0x2E3 then (if b.getLsbD 5 then 2 else 1)
  else if 0x300 ≤ opn ∧ opn ≤ 0x30A then 1
  else if 0x310 ≤ opn ∧ opn ≤ 0x312 then 2
  else if opn = 0x318 ∨ opn = 0x31A then 2
  else if opn = 0x319 then 1
  else if opn = 0x340 then 1
  else if opn = 0x349 then 2
  else 0

/-- Operations that end a region (R98). -/
def endsRegion (opn : Nat) : Bool :=
  [0x123, 0x160, 0x161, 0x162, 0x154, 0x155, 0x1D1, 0x1D4, 0x1D5, 0x124, 0x120, 0x12A].contains opn

/-- Group-collective operations (R86): STEP, CVTB and every matrix operation (R107, R143, R205). -/
def isCollective (opn : Nat) : Bool :=
  [0x124, 0x0C1].contains opn || (decide (0x200 ≤ opn) && decide (opn ≤ 0x213))

/-- What the entries of the access instructions state for step 5 (R186, R188): a core group runs no ASTRM and no QPUSH, and AXBIND only in a kernel with .access. -/
def groupEntryOk (s : State) (gid opn : Nat) : Bool :=
  decide (opn ≠ 0x1C9) && decide (opn ≠ 0x1CA) && (decide (opn ≠ 0x1C8) || (getGroup s gid).axp.isSome)

/-- Step 5 of R38: the fields and combinations, against the context's register file. -/
def fieldsOk (s : State) (opn : Nat) (us : List Use) : Bool :=
  match s.cur with
  | .group gid => us.all Use.ok && (us.flatMap Use.vfields).all (fun f => decide (f < (getGroup s gid).budget)) && groupEntryOk s gid opn
  | .axp _ => us.all Use.ok && us.all Use.onlyS
  | .queue _ => us.all Use.ok && us.all Use.onlyS
  | .cheA _ _ => if opn < 0x80 then us.all (fun u => match u with | .field _ f _ _ => isA f | .cond _ => true) else us.all Use.ok
  | .cheX _ _ => us.all Use.ok

/-- EMPTY_READ (R87, R113): the lowest empty source whose ERM bit is 1; a slice always waits instead (R186). -/
def emptyCheck (s : State) (srcs : List Nat) : Except Stop Unit :=
  let traps := match s.cur with
    | .axp _ => []
    | _ => (srcs.filter (isEmptyField s)).filter (fun f => (regsOf s).erm.getLsbD f)
  match traps with
  | f :: rest => .error (trapOf 0x04 (rest.foldl min f))
  | [] => .ok ()

/-- R87, R113: an empty source traps if its ERM bit says so, else the instruction waits; then R31 for destinations that are only written. -/
def readCheck (s : State) (srcs : List Nat) (dsts : List Nat) : Except Stop Unit := do
  emptyCheck s srcs
  let empties := srcs.filter (isEmptyField s)
  if empties ≠ [] then .error (.wait (.regs empties))
  else
    let busy := dsts.filter (fun f => (regsOf s).isEmpty f)
    if busy ≠ [] then .error (.wait (.regs busy)) else .ok ()

/-- Decode checks of R38 from step 2 on, and the run-on stop of R248. -/
def guardOp (s : State) (opn : Nat) (b : BitVec 7) (us : List Use) : Except Stop Unit :=
  if !ctxAllows s.cur.ctx opn then .error illegal
  else if levelOf s < lowestLevel opn b then .error (trapOf 0x03)
  else if !fieldsOk s opn us then .error illegal
  else .ok ()

/-- Does run-on stop before this operation (R248)? -/
def runOnStops (s : State) (opn : Nat) : Bool :=
  match s.cur with
  | .group gid => (getGroup s gid).deferred.isSome && (endsRegion opn || isCollective opn)
  | _ => false

/-- ILLEGAL_CONVERGENCE when any of the 64 lanes is inactive (R86). -/
def converged (s : State) : Except Stop Unit :=
  match s.cur with
  | .group gid => if activeMask (getGroup s gid) = allLanes then .ok () else .error (trapOf 0x02)
  | _ => .ok ()

/-- Predicates that lane loads of the executing context have yet to write (08_cluster_sequence R275). -/
def duePreds (s : State) : List Nat :=
  s.pending.filterMap (fun p => match p.kind with
    | .lookup q => if p.agent = s.cur then some q else none
    | _ => none)

/-- A predicate that a field of the instruction names. -/
def Use.predNamed : Use → Option Nat
  | .field .pred f _ _ => some f.toNat
  | _ => none

/-- An instruction that reads such a predicate, by a field or by the opcode of SEL, waits until it is written (R275); so does one that writes it, as R31 has it for registers (log 82). -/
def predsDue (s : State) (opn : Nat) (us : List Use) : Bool :=
  match duePreds s with
  | [] => false
  | ps => (us.filterMap Use.predNamed).any ps.contains || (decide (0x70 ≤ opn) && decide (opn ≤ 0x77) && ps.contains (opn - 0x70))

/-- The words with a parity error that the executing context may read, by field value and lane. -/
def badWords (s : State) : List (Nat × Nat) :=
  let task (p v : Nat) : List Nat := ((getTask s p v).map (·.bad)).getD []
  match s.cur with
  | .cheA p v => ((task p v).filter (· < 16)).map (fun n => (n, 0))
  | .cheX p v => ((task p v).filter (16 ≤ ·)).map (fun n => (n - 16, 0))
  | _ => (regsOf s).bad

/-- The reading instruction faults on a parity error in a register file (15_platform R465): in a lane in which it acts, for a V register. -/
def parityCheck (s : State) (srcs : List Nat) : Except Stop Unit :=
  let bad := badWords s
  if bad = [] then .ok ()
  else if bad.any (fun p => srcs.contains p.1 && (decide (96 ≤ p.1) || (laneList s).contains p.2)) then .error (trapOf 0x0C 0x01)
  else .ok ()

/-- All checks of an instruction whose sources and destinations are its fields. A trap comes before a wait: EMPTY_READ is raised although a predicate that the instruction reads is still to be written, where the spec gives no order (R87, R275; log 62). -/
def ready (s : State) (opn : Nat) (b : BitVec 7) (us : List Use) : Except Stop Unit := do
  guardOp s opn b us
  if isCollective opn then converged s
  emptyCheck s (us.flatMap Use.sources)
  if predsDue s opn us then throw (.wait .accesses)
  readCheck s (us.flatMap Use.sources) (us.flatMap Use.targets)
  parityCheck s (us.flatMap Use.sources)

/-- Runs the body of an instruction after its checks; run-on stops before an operation that would end the region or is group-collective. -/
def run (s : State) (opn : Nat) (b : BitVec 7) (us : List Use) (body : Except Stop State) : Host.Outcome State Fault Refusal :=
  if runOnStops s opn then
    match s.cur with
    | .group gid => .next (takeDeferred s gid)
    | _ => .next s
  else done s (do ready s opn b us; body)

def endRegion (s : State) : State :=
  match s.cur with
  | .group gid => if (getGroup s gid).regv then modGroup s gid endRegionG else s
  | _ => s

end Sys2Proof.Machine
end

