-- ==== Sys2Proof/Machine/Fetch.lean ====
section
/-! DEFINITION. Fetching an instruction (01_encoding R16, R17; 10_die_memory R328; 14_tenancy R433), the decode table of the executing context (R40-R45), and what happens before an instruction at an instruction boundary (03_group R93, R94; 05 R187; 07 R248). -/

namespace Sys2Proof.Machine

/-! ## Versions of a code block (R328) -/

/-- The 64 bytes of a block as they are at the home. -/
def blockNow (s : State) (blk : Nat) : List Byte := memReadList s.mem (blk * 64) 64

/-- The versions that a fetch may return: those in place at or after instant `since`, newest first. -/
def blockVersions (s : State) (blk since : Nat) : List (List Byte) :=
  blockNow s blk :: (s.history.filter (fun h => decide (h.blk = blk) && decide (since ≤ h.seq))).map (·.bytes)

/-- One version of a block: free where more than one differs (R328). -/
def fetchBlock (s : State) (blk since : Nat) : List Byte × State :=
  match (blockVersions s blk since).eraseDups with
  | [b] => (b, s)
  | vs => (vs.getD (pick s (blk * 16 + 6) vs.length) (blockNow s blk), s)

/-- The instant from which the executing context may still hold code (R328): a core's last discard. A queue context reads its ring at the homes (R433); outside its ring its cache holds what no IFENCE.die has dropped (R335). -/
def fetchSince (s : State) : Nat :=
  match coreOf s, s.cur with
  | some c, _ => (getCore s c).fetchFrom
  | none, .queue q => if (getQueue s q).away then 0 else s.seq
  | none, _ => s.seq

/-- A translation that stops: a trap, or a wait on M, which past the migration limit is TRANSLATION code 6 (13_translation R416). -/
def XStop.toTrap (x : XStop) (va : Nat) (limit : Nat → Bool) : Stop :=
  match x with
  | .fault c a s2 pa => .trap { cause := c, aux := BitVec.ofNat 32 a, va := BitVec.ofNat 64 va, s2 := s2, pa := pa }
  | .migrating l s2 leaf => if limit leaf then .trap { cause := 0x08, aux := BitVec.ofNat 32 (l * 256 + 6), va := BitVec.ofNat 64 va, s2 := s2 } else .wait (.migration leaf)

/-- The group of a core group's or an access slice's context. -/
def groupOfAgent : Agent → Option Nat
  | .group g => some g
  | .axp g => some g
  | _ => none

/-- A TRANSLATION fault in a demand range of a core group's grid sets bit 16 of the auxiliary word (13_translation R399, R421). -/
def demandBit (s : State) (va : Nat) (st : Stop) : Stop :=
  match st, groupOfAgent s.cur with
  | .trap t, some g =>
    if t.cause = 0x08 ∧ (gridOf s g).demands.any (fun d => decide (d.1 ≤ va) && decide (va < d.1 + d.2.1))
    then .trap { t with aux := t.aux ||| 0x10000 } else st
  | _, _ => st

/-- A core requests the line of code that it fetches, unless it has since its cache was last discarded; other fetches request it each time (15_platform R472; log 94). -/
def requestCode (s : State) (pa : Nat) : State :=
  match coreOf s with
  | none => countReq s pa
  | some c => if (getCore s c).code.contains (lineOf pa) then s else setCore (countReq s pa) c { getCore s c with code := lineOf pa :: (getCore s c).code }

/-- The 64-byte block of code at an address of the executing context, and the offset in it; partials of its line are combined first (10 R317). A fault of the fetch is taken for the whole group, and its record's VA is the address fetched: R246 and R250 name memory instructions alone (log 88). -/
def codeAt (s : State) (pc : Nat) : Except Stop ((List Byte × Nat) × State) := do
  let (pa, s) ← (match translate s (coreOf s) (spaceOf s) pc .exec with
    | .ok r => .ok r
    | .error x => .error (demandBit s pc (XStop.toTrap x pc (limitHit s))))
  match badClass s pa with
  | some c => throw (.trap { cause := 0x0C, aux := BitVec.ofNat 32 c, va := BitVec.ofNat 64 pc, pa := pa })
  | none => pure ()
  let (b, s) := fetchBlock (recallLine (requestCode s pa) (lineOf pa)) (pa / 64) (fetchSince s)
  return ((b, pa % 64), s)

/-- The halfword at an address. -/
def fetchHalfword (s : State) (pc : Nat) : Except Stop (BitVec 16 × State) := do
  let ((b, o), s) ← codeAt s pc
  return (BitVec.ofNat 16 (leNat ((b.drop o).take 2)), s)

/-- The instruction at the PC of the executing context. R17: a 32-bit word at offset 0x3E of its block is not fetched. -/
def fetchAt (s : State) (pc : Nat) : Except Stop (Code × State) := do
  let ((b, o), s) ← codeAt s pc
  let h := BitVec.ofNat 16 (leNat ((b.drop o).take 2))
  if h.getLsbD 0 then
    if o = 62 then throw illegal
    return (.word (BitVec.ofNat 32 (leNat ((b.drop o).take 4))), s)
  else return (.half h, s)

/-- The program words of a channel-engine thread (12 R378); a thread that runs past its program's end meets no instruction (log 48). -/
def fetchChe (s : State) : Except Stop (Code × State) :=
  match s.cur with
  | .cheA p v => match getTask s p v with
    | some t => (match t.aprog[t.apc]? with | some w => .ok (.word w, s) | none => .error illegal)
    | none => .error illegal
  | .cheX p v => match getTask s p v with
    | some t => (match t.xprog[t.xpc]? with | some w => .ok (.word w, s) | none => .error illegal)
    | none => .error illegal
  | _ => .error illegal

/-- A word of a channel-engine program whose bit 0 is 0 is a 16-bit word (R39). -/
def fetch (s : State) : Except Stop (Code × State) :=
  match s.cur with
  | .cheA _ _ => fetchChe s
  | .cheX _ _ => fetchChe s
  | _ => fetchAt s (pcOf s).toNat

/-! ## Decode tables (R40-R45) -/

/-- The decode map of the executing context (R44, R186). -/
def mapOf (s : State) : Nat :=
  match s.cur with
  | .group g => (gridOf s g).decmap
  | .axp g => (gridOf s g).decmap
  | .queue q => if (getQueue s q).level = 1 then (slotOf s (q / 64) (getQueue s q).slot).map else 1
  | _ => 1

/-- The operation that an opcode stands for under a map: none where it is unmapped. -/
def mapOp (s : State) (map op : Nat) : Option Nat :=
  if map = 1 then (if opMapped op then some op else none)
  else match s.decSlots.find? (fun p => p.2.1 = map) with
    | some p =>
      let e := p.2.2.getD op 0
      if e.getLsbD 31 then some (e.extractLsb' 0 10).toNat else none
    | none => none

/-! ## At the instruction boundary -/

/-- Does the resident-time compare, or the wall-deadline compare, of a group hold (R93, R94)? -/
def gtimeDue (g : Group) : Bool := decide (g.gtcmp.toNat ≤ g.gtime.toNat) && decide (g.gtcmp ≠ BitVec.allOnes 64)
def wallDue (s : State) (g : Group) : Bool := decide (g.wdl.toNat ≤ s.time / 2) && decide (g.wdl ≠ BitVec.allOnes 64)

/-- TIMER (R93, R94): both compares that hold fire together and are disarmed. -/
def fireTimers (s : State) (gid : Nat) : State :=
  let g := getGroup s gid
  let a := gtimeDue g
  let b := wallDue s g
  let aux := (if a then 1 else 0) + (if b then 2 else 0)
  let s := setGroup s gid { g with
    gtcmp := if a then BitVec.allOnes 64 else g.gtcmp, wdl := if b then BitVec.allOnes 64 else g.wdl, feDone := 0 }
  trapGroup s gid { cause := 0x13, aux := BitVec.ofNat 32 aux } g.pc

def timerDue (s : State) (gid : Nat) : Bool := gtimeDue (getGroup s gid) || wallDue s (getGroup s gid)

/-- A group that is WAITING inside an LDFE takes TIMER after it completes (R94). -/
def midLdfe (g : Group) : Bool := decide (g.run = .waiting (.tag true))

/-- WATCHDOG of the team time cap (R231). -/
def takeCap (s : State) (gid : Nat) : State :=
  let g := getGroup s gid
  trapGroup (setGroup s gid { g with capDue := false, feDone := 0 }) gid { cause := 0x14, aux := 1 } g.pc

/-- What a group does before its next instruction: a trap whose record waits (R251), the time cap of its team (R231), a fault of its slice (R187), TIMER (R93, R94), the end of run-on (R248). None when the instruction follows. -/
def atBoundary (s : State) (gid : Nat) : Option State :=
  let g := getGroup s gid
  if midLdfe g then none
  else match g.recDue with
  | some r => some (trapGroupRec s gid r)
  | none => match g.axp.bind (·.stopped) with
    | some t => some (trapGroup s gid t g.pc)
    | none =>
      if g.capDue then some (takeCap s gid)
      else if timerDue s gid then some (fireTimers s gid)
      else match g.deferred with
        | some (_, n) => if 256 ≤ n then some (takeDeferred s gid) else none
        | none => none

end Sys2Proof.Machine
end

