-- ==== Sys2Proof/Machine/Issue.lean ====
section
/-! DEFINITION. Which agent executes at an issue opportunity: pipelines in normal and deterministic mode (07_core_sched_traps R226-R231), queue processors (14_tenancy R436-R438), access processors and channel-engine threads. `runC` executes the next instruction of the agent that `cur` names. -/

namespace Sys2Proof.Machine

abbrev Out := Host.Outcome State Fault Refusal

/-! ## Pipelines -/

/-- A team whose groups issue (R255: also while a switch is prepared). -/
def Residence.issues : Residence → Bool
  | .running => true
  | .draining => true
  | .flushing => true
  | .saving _ forced => !forced
  | _ => false

def residentOn (s : State) (core : Nat) (gid : Nat) : Bool :=
  let t := teamOf s gid
  decide (t.core = core) && t.res.issues

/-- A team whose groups hold resident slots: all but those that were saved or evicted (05 R154, R258, R259). -/
def Residence.seats : Residence → Bool
  | .held => false
  | .spilled => false
  | .evicted => false
  | _ => true

/-- The groups that hold the resident slots of a core (05 R154). -/
def seatedGroups (s : State) (core : Nat) : List Nat :=
  (s.groups.map (·.1)).filter (fun g => decide ((teamOf s g).core = core) && (teamOf s g).res.seats)

/-- The groups of a core's resident teams. -/
def coreGroups (s : State) (core : Nat) : List Nat := (s.groups.map (·.1)).filter (residentOn s core)

def isWaiting (g : Group) : Bool := match g.run with | .waiting _ => true | _ => false

/-- A group that may be tried: ELIGIBLE, or WAITING and perhaps able to go on. -/
def mayIssue (g : Group) : Bool := decide (g.run = .eligible) || isWaiting g

/-- Inserts by a key, smaller keys first, equal keys in order. -/
def insertBy (key : Nat → Nat) (x : Nat) : List Nat → List Nat
  | [] => [x]
  | y :: r => if key x < key y then x :: y :: r else y :: insertBy key x r

def sortBy (key : Nat → Nat) (l : List Nat) : List Nat := l.foldl (fun acc x => insertBy key x acc) []

/-- Does the core run teams of a .det grid (R229)? -/
def coreIsDet (s : State) (core : Nat) : Bool := (coreGroups s core).any (fun g => (gridOf s g).det)

/-- Ages after an opportunity of a pipeline (R227). -/
def agePipe (s : State) (core p : Nat) (issued : Option Nat) : State :=
  { s with groups := s.groups.map (fun q =>
      if residentOn s core q.1 && decide (q.2.pipe = p) then (q.1, { q.2 with age := if issued = some q.1 then 0 else q.2.age + 1 }) else q) }

def groupRun (s : State) (gid : Nat) : Run := (getGroup s gid).run

/-- Is a group still WAITING after an attempt? Then it was not ELIGIBLE. -/
def stillWaiting (before after : State) (gid : Nat) : Bool :=
  isWaiting (getGroup before gid) && isWaiting (getGroup after gid)

/-- Issues from the first candidate that can go on. -/
def tryGroups (runC : State → Out) (s : State) (core p : Nat) : List Nat → Out
  | [] => .next (agePipe s core p none)
  | g :: rest =>
    match runC { s with cur := .group g } with
    | .next s' =>
      if stillWaiting s s' g && decide ((getGroup s' g).feDone = (getGroup s g).feDone) then tryGroups runC s core p rest
      else .next (agePipe s' core p (some g))
    | o => o

/-- Greatest age first, ties to the lower resident slot (R227). -/
def pipeOrder (s : State) (core p : Nat) : List Nat :=
  let gs := (coreGroups s core).filter (fun g => decide ((getGroup s g).pipe = p) && mayIssue (getGroup s g))
  let key (g : Nat) : Nat := (2 ^ 64 - (getGroup s g).age) * 64 + (getGroup s g).slot
  sortBy key gs

/-! ## Deterministic mode (R229, R230) -/

/-- Waits through which a holder keeps the core: R229 names the tag waits of R173 as a switch point and no other WAITING cause, so a TBAR, GBAR or STEP that first drains tokens and stores (R107, R242) keeps the core until it blocks (log 87). -/
def Wait.keepsHolder : Wait → Bool
  | .tag _ => false
  | _ => true

/-- The key of R230: linear team index, then GRPIX. -/
def detKey (s : State) (gid : Nat) : Nat := (teamOf s gid).index * 16 + gixOf gid

/-- Can a group proceed (R230)? -/
def canProceed (runC : State → Out) (s : State) (gid : Nat) : Bool :=
  match groupRun s gid with
  | .eligible => true
  | .waiting w =>
    w.keepsHolder ||
      (match runC { s with cur := .group gid } with
       | .next s' => !isWaiting (getGroup s' gid) || decide ((getGroup s' gid).feDone ≠ (getGroup s gid).feDone)
       | _ => false)
  | _ => false

def setHolder (s : State) (core : Nat) (h : Option Nat) : State :=
  setCore s core { getCore s core with holder := h, yielded := false }

/-- Chooses the holder of a core that has none, or whose holder yields. -/
def chooseHolder (runC : State → Out) (s : State) (core : Nat) (yielding : Option Nat) : State :=
  let cands := sortBy (detKey s) ((coreGroups s core).filter (fun g => decide (some g ≠ yielding)))
  match cands.find? (canProceed runC s) with
  | some g => setHolder s core (some g)
  | none => setHolder s core yielding

/-- Has the holder reached a switch point (R229)? A TBAR, GBAR or STEP that completes at once is none, though the last line of R231's example shows one (log 76). -/
def atSwitch (s : State) (core gid : Nat) : Bool :=
  if !residentOn s core gid then true
  else match groupRun s gid with
    | .eligible => false
    | .waiting w => !w.keepsHolder
    | .blocked (.barwait _ _ _ byEngine) => !byEngine
    | _ => true

/-- Renews the holder of a .det core after anything has happened. -/
def renewHolder (runC : State → Out) (s : State) (core : Nat) : State :=
  if !coreIsDet s core then s
  else match (getCore s core).holder with
    | none => chooseHolder runC s core none
    | some h =>
      if (getCore s core).yielded then chooseHolder runC s core (some h)
      else if atSwitch s core h then chooseHolder runC s core none else s

def renewHolders (runC : State → Out) (s : State) : State :=
  ((s.groups.map (fun p => coreOfGroup s p.1)).eraseDups).foldl (renewHolder runC) s

def renewOut (runC : State → Out) : Out → Out
  | .next s => .next (renewHolders runC s)
  | o => o

/-- One opportunity of a pipeline. -/
def issuePipe (runC : State → Out) (core p : Nat) (s : State) : Out :=
  if coreIsDet s core then
    let s := renewHolder runC s core
    match (getCore s core).holder with
    | some h =>
      if decide ((getGroup s h).pipe = p) && mayIssue (getGroup s h) then renewOut runC (runC { s with cur := .group h })
      else .next s
    | none => .next s
  else tryGroups runC s core p (pipeOrder s core p)

/-! ## Queue processors (R433, R436-R438) -/

/-- Reads a queue's descriptor again (R432): BASE, CFG and TAIL of a PL1 context; a bad descriptor counts as EN = 0. An error that the read meets is logged, once while the descriptor stays so (15_platform R468). -/
def readDescriptor (s : State) (qid : Nat) : State :=
  let vf := qid / 64
  if vf = hostVf then s
  else
    let v := getVf s vf
    if v.qtab = 0 then s
    else match readVirt s (slotSpace s vf 0 1) (v.qtab.toNat + 64 * (qid % 64)) 64 with
      | .ok (bs, s) =>
        let cfg := leNat ((bs.drop 8).take 4)
        let ok := decide (12 ≤ cfg % 32) && decide (cfg % 32 ≤ 24) && decide (bits cfg 7 5 = 0) && decide (bits cfg 11 11 = 0) && decide (bits cfg 31 17 = 0)
          && (bs.drop 24).all (· = 0) && decide (leNat (bs.take 8) % 4096 = 0)
        modQueue s qid (fun q =>
          let new : QCtx := { q with
            base := BitVec.ofNat 64 (leNat (bs.take 8)), logsz := if ok then cfg % 32 else q.logsz, prio := bits cfg 10 8, slot := bits cfg 15 12,
            en := ok && decide (bits cfg 16 16 = 1), tail := leNat ((bs.drop 12).take 4) }
          if q.away then new.goesTo q.pc else new)
      | .error (.migrating _ _ _) => s
      | .error x => modQueue (if (getQueue s qid).en then noteXStop s vf x else s) qid (fun q => { q with en := false })

def QState.code : QState → Nat
  | .idle => 0 | .running => 1 | .waiting => 2 | .stopped => 3 | .faulted => 4

/-- Writes HEAD and STATE of a PL1 queue's descriptor (R432). -/
def writeDescriptor (s : State) (qid : Nat) : State :=
  let vf := qid / 64
  let v := getVf s vf
  if vf = hostVf ∨ v.qtab = 0 ∨ (tabFind s.queues qid).isNone then s
  else
    let q := getQueue s qid
    let sp := slotSpace s vf 0 1
    let at' := v.qtab.toNat + 64 * (qid % 64) + 16
    let new := leBytes 4 q.head ++ leBytes 4 q.state.code
    match readVirt s sp at' 8 with
    | .ok (old, s') => if old = new then s else (match writeVirt s' sp at' new with | .ok (_, s'') => s'' | .error x => noteXStop s vf x)
    | .error x => noteXStop s vf x

/-- R429: the slot is loaded and owns the queue, and EN is 1; a slot that CTXSW is switching, or CTXSV is saving, has its contexts stopped (R451). -/
def queueOwned (s : State) (qid : Nat) : Bool :=
  let q := getQueue s qid
  let vf := qid / 64
  if vf = hostVf then q.en
  else (match tabFind (getVf s vf).slots q.slot with
    | some p => p.qmask.getLsbD (qid % 64) && q.en && s.queues.all (fun c => decide (c.1 / 64 ≠ vf) || decide (c.1 = qid) || (decide (c.2.swap ≠ some q.slot) && decide (c.2.saving ≠ some q.slot)))
    | none => false)

/-- Bytes of its ring that a queue may issue (R433). -/
def ringRoom (q : QCtx) : Nat := (q.tail + 2 ^ q.logsz - q.head % 2 ^ q.logsz) % 2 ^ q.logsz

/-- Length of the instruction at HEAD: 2 or 4 by its first halfword, when it can be fetched. -/
def ringNeeds (s : State) : Nat :=
  match fetchAt s (pcOf s).toNat with
  | .ok (.word _, _) => 4
  | .ok (.half _, _) => 2
  | .error _ => 2

/-- An instruction lies before TAIL or outside the ring, or a notice can be taken (R433, R434). -/
def queueHasWork (s : State) (qid : Nat) : Bool :=
  let q := getQueue s qid
  q.away || (!q.notices.isEmpty && !q.trapped) || (decide (2 ≤ ringRoom q) && decide (ringNeeds { s with cur := .queue qid } ≤ ringRoom q))

/-- A queue that neither waits nor stands is IDLE or RUNNING (R432, R433). -/
def settleQueue (s : State) (qid : Nat) : State :=
  modQueue s qid (fun q => if q.state = .idle ∨ q.state = .running then { q with state := if queueHasWork s qid then .running else .idle } else q)

/-- Its descriptor shows what the settling changed (R432). -/
def settleShown (s : State) (qid : Nat) : State :=
  let t := settleQueue s qid
  if (getQueue t qid).state = (getQueue s qid).state then t else writeDescriptor t qid

/-- Could the queue issue, its wait apart? -/
def queueRunnable (s : State) (qid : Nat) : Bool :=
  let q := getQueue s qid
  queueOwned s qid && decide (q.state ≠ .stopped) && decide (q.state ≠ .faulted) && queueHasWork s qid

/-- A queue context that is not in its handler takes its oldest notice at an instruction boundary (R434). -/
def takeNotice (s : State) (qid : Nat) : Option State :=
  let q := getQueue s qid
  match q.notices with
  | [] => none
  | n :: rest =>
    if q.trapped then none
    else if tvecOf s qid = 0 then
      let s := setQueue s qid { q with notices := rest, state := .faulted, wait := none }
      some (noticeHost { s with out := s.out ++ [.faulted qid { cause := n.info.toNat % 256, aux := n.aux }] } (qid / 64) n)
    else
      let s := setQueue s qid { q with notices := rest }
      let s := enterHandler s qid (queuePc q) (tvecOf s qid) n.info n.aux q.level
      some (modQueue s qid (fun q => { q with trrec := n.recAt, trgh := n.gh }))

/-- The order of R437 and R438 within a VF: slot 0 first, then by pass and slot number; within a slot by PRIO, ties in round robin. -/
def queueKey (s : State) (vf qid : Nat) : Nat :=
  let q := getQueue s qid
  let p := slotOf s vf q.slot
  let slotKey := if q.slot = 0 then 0 else (p.pass + 1) * 16 + q.slot
  let rr := (qid % 64 + 63 - p.lastQ) % 64
  (slotKey * 8 + (7 - q.prio)) * 64 + rr

/-- A slot that becomes runnable takes the lowest pass among the runnable slots (R437). -/
def renewPasses (s : State) (vf : Nat) (run : List Nat) : State :=
  let v := getVf s vf
  let old := run.filter (fun n => v.runSlots.contains n)
  let passes := old.map (fun n => (slotOf s vf n).pass)
  let low := passes.foldl min (passes.headD 0)
  let s := (run.filter (fun n => !v.runSlots.contains n)).foldl (fun s n =>
    if passes = [] then s else setSlot s vf n { slotOf s vf n with pass := low }) s
  setVf s vf { getVf s vf with runSlots := run }

/-- After a queue instruction: the round robin moves on (R438), HEAD and STATE are written; nothing is done to a queue or slot that the instruction has emptied (R451). -/
def chargeQueue (s : State) (vf slot qid : Nat) : State :=
  if (tabFind s.queues qid).isNone then s
  else
    let s := if vf = hostVf ∨ (tabFind (getVf s vf).slots slot).isNone then s else setSlot s vf slot { slotOf s vf slot with lastQ := qid % 64 }
    writeDescriptor (settleQueue s qid) qid

def queueWaits (s : State) (qid : Nat) : Bool := decide ((getQueue s qid).state = .waiting)

def tryQueues (runC : State → Out) (s : State) (n vf : Nat) : List Nat → Out
  | [] => .next s
  | q :: rest =>
    match takeNotice s q with
    | some s' => .next (writeDescriptor s' q)
    | none =>
      let slot := (getQueue s q).slot
      match runC { s with cur := .queue q, qpCtx := tabPut s.qpCtx n q } with
      | .next s' =>
        if queueWaits s q && decide ((getQueue s' q).wait = (getQueue s q).wait) then tryQueues runC s n vf rest
        else .next (chargeQueue s' vf slot q)
      | o => o

/-- Queues of a VF. -/
def queuesOf (s : State) (vf : Nat) : List Nat := (s.queues.map (·.1)).filter (fun q => q / 64 = vf)

/-- Can a queue go on now: it does not wait, it has a notice to take, or what it waits for has come (R437)? -/
def queueReady (runC : State → Out) (s : State) (qid : Nat) : Bool :=
  let q := getQueue s qid
  !queueWaits s qid || (!q.notices.isEmpty && !q.trapped) ||
    (match runC { s with cur := .queue qid } with
     | .next t => !(queueWaits t qid && decide ((getQueue t qid).wait = q.wait))
     | _ => false)

/-- Is a CTXSW under way in a VF? Pre-emption waits for it (R452). -/
def swapping (s : State) (vf : Nat) : Bool := (queuesOf s vf).any (fun q => decide ((getQueue s q).swap ≠ none))

/-- One opportunity of a queue processor: descriptors are read again, and the first queue in order that can go on issues. A VF that is to give way issues no more once its CTXSW has ended (R452). -/
def issueQp (runC : State → Out) (n : Nat) (s : State) : Out :=
  let vf := tabGet s.qpVf n 0
  if s.qpAsked.contains n && !swapping s vf then .next s
  else
    let s := (queuesOf s vf).foldl readDescriptor s
    let s := (queuesOf s vf).foldl settleShown s
    let qs := (queuesOf s vf).filter (fun q => queueRunnable s q && (decide (s.stage ≠ .halting) || decide (q = s.haltBy)))
    let qs := qs.filter (queueReady runC s)
    let s := if vf = hostVf then s else renewPasses s vf (qs.map (fun q => (getQueue s q).slot)).eraseDups
    tryQueues runC s n vf (sortBy (queueKey s vf) qs)

/-! ## Access processors and channel engines -/

/-- A running slice of a group that runs issues (R186); its faults stop it (R187). -/
def issueAxp (runC : State → Out) (gid : Nat) (s : State) : Out :=
  match (getGroup s gid).axp with
  | some a =>
    if a.running && a.stopped.isNone && (teamOf s gid).res.issues && decide ((getGroup s gid).run ≠ .done) then runC { s with cur := .axp gid }
    else .next s
  | none => .next s

/-- The ring that an engine runs, when its first task has started and is not parked, and its weight lets it run (R376). -/
def cheRing (s : State) (pkg : Nat) : Option (Nat × ChTask) :=
  let vf := tabGet s.cheTurn pkg 0
  let r := getRing s pkg vf
  match r.tasks with
  | t :: _ => if t.started && !r.halted && decide (cheWeight s vf ≠ 0) then some (vf, t) else none
  | [] => none

def issueCheA (runC : State → Out) (pkg : Nat) (s : State) : Out :=
  match cheRing s pkg with
  | some (vf, t) => if t.aDone || t.compact then .next s else runC { s with cur := .cheA pkg vf }
  | none => .next s

def issueCheX (runC : State → Out) (pkg : Nat) (s : State) : Out :=
  match cheRing s pkg with
  | some (vf, t) => if t.xDone || t.compact then .next s else runC { s with cur := .cheX pkg vf }
  | none => .next s

/-- One issue opportunity of a place, after which the holders of .det cores are chosen anew (07_core_sched_traps R230); nothing issues before Camp 1 (15_platform R461), and HALT stops the groups and the other queue contexts (15_platform R474). -/
def issueAt (runC : State → Out) (p : Place) (s : State) : Out :=
  if s.stage = .halted ∨ s.stage = .off ∨ s.stage = .camp0 then .next s
  else match p with
  | .pipe core n => if s.stage = .halting then .next s else issuePipe runC core n s
  | .axp gid => if s.stage = .halting then .next s else renewOut runC (issueAxp runC gid s)
  | .qp n => renewOut runC (issueQp runC n s)
  | .cheA pkg => renewOut runC (issueCheA runC pkg s)
  | .cheX pkg => renewOut runC (issueCheX runC pkg s)

/-! ## Time -/

/-- Does the watchdog count a group (R442, R191)? -/
def wdogCounts (g : Group) : Bool :=
  match g.run with
  | .eligible => true
  | .waiting (.regs fs) =>
    fs.any (fun f => decide (88 ≤ f) && decide (f < 96) &&
      (decide ((tabGet g.q (f - 88) {}).consumed = 16) || (match g.axp with | some a => !a.bound || !a.running | none => true)))
  | _ => false

/-- What n cycles do to a group of a team that runs on a core (R92, R442). While a forced save drains, the groups are stopped and GTIME stands still: R92 does not say whether the team still runs on its core then (log 77). -/
def elapseGroup (s : State) (n gid : Nat) (g : Group) : Group :=
  let full := decide (s.throttle = 0) && decide ((getVf s (gridOf s gid).vf).throttled = 0)
  if (teamOf s gid).res.issues then
    { g with gtime := g.gtime + BitVec.ofNat 64 n, wdog := if wdogCounts g && full then g.wdog + n else g.wdog }
  else g

/-- A group whose wait a compare ends at once (R94). -/
def timerEnds (s : State) (gid : Nat) : Bool :=
  (teamOf s gid).res.issues && timerDue s gid && !midLdfe (getGroup s gid) && (getGroup s gid).recDue.isNone &&
  (match groupRun s gid with
   | .waiting _ => true
   | .blocked (.barwait _ _ _ _) => true
   | _ => false)

def fireWaiting (s : State) : State :=
  (s.groups.map (·.1)).foldl (fun s g => if timerEnds s g then fireTimers s g else s) s

def elapseTeam (s : State) (n : Nat) (t : Team) : Team :=
  let t := if t.res.issues then { t with resident := t.resident + n, capCount := if s.throttle = 0 ∧ (getVf s (getGrid s t.grid).vf).throttled = 0 then t.capCount + (n : Nat) else t.capCount } else t
  match t.res with
  | .saving c f => { t with res := .saving (c + n) f }
  | _ => t

/-- A thread of a task counts the cycles it waits (12 R385). -/
def elapseRing (n : Nat) (r : Ring) : Ring :=
  match r.tasks with
  | t :: rest => if t.started then { r with tasks := { t with stalled := t.stalled + n } :: rest } else r
  | [] => r

/-- The slices whose latch instant lies before `upTo` and that have not latched take their counters (15_platform R472). -/
def latchSlices (s : State) (upTo : Nat) (x : Snapshot) : Snapshot :=
  (List.range 96).foldl (fun x k =>
    if x.instants.getD (96 + k) 0 < upTo ∧ (tabFind x.locl k).isNone
    then { x with locl := tabPut x.locl k (tabGet s.locl k 0), remt := tabPut x.remt k (tabGet s.remt k 0) } else x) x

/-- The queue context whose instructions occupy a processor: the last that issued there, while it runs (R437). -/
def occupant (s : State) (n : Nat) : Option Nat :=
  match tabFind s.qpCtx n with
  | some q => if q / 64 = tabGet s.qpVf n 0 ∧ (getQueue s q).state = .running ∧ queueRunnable s q then some q else none
  | none => none

/-- The pass of a slot grows by 2^20 / WEIGHT for each reference cycle that it occupies a processor (R437). -/
def growPasses (s : State) (n : Nat) : State :=
  (List.range 8).foldl (fun s k => match occupant s k with
    | some q =>
      let p := slotOf s (q / 64) (getQueue s q).slot
      if q / 64 = hostVf then s else setSlot s (q / 64) (getQueue s q).slot { p with pass := p.pass + n * 2 ^ 20 / max p.weight 1 }
    | none => s) s

/-- Does the watchdog count a queue context: one that runs, is owned by a loaded slot, and whose VF a processor serves, without throttling (R442)? -/
def wdogCountsQueue (s : State) (qid : Nat) (q : QCtx) : Bool :=
  decide (q.state = .running) && queueRunnable s qid && decide (s.throttle = 0) && decide ((getVf s (qid / 64)).throttled = 0)
  && (List.range 8).any (fun n => decide (tabGet s.qpVf n 0 = qid / 64))

/-! ## Power (15_platform R470) -/

/-- A draw that is kept at or below a cap, but in T2 (R470). -/
def boundedDraw (cap step draw : Nat) : Nat := if step = 2 ∨ cap = 0 then draw else min cap draw

/-- Since when a draw has stayed below 90 % of its cap. -/
def lowDraw (cap draw now : Nat) (old : Option Nat) : Option Nat := if draw * 10 < cap * 9 ∨ cap = 0 then some (old.getD now) else none

/-- The step of throttling after a draw: one deeper, at most T2, when the cap is reached. -/
def deeper (cap step draw : Nat) : Nat := if cap ≠ 0 ∧ cap ≤ draw ∧ step < 2 then step + 1 else step

/-- The module's draw is measured: it is bounded by PWRCAP but in T2, where one above the cap is an overrun; at the cap throttling goes one step deeper. -/
def observeDraw (s : State) (raw : Nat) : State :=
  let cap := s.pwrcap.toNat
  let d := boundedDraw cap s.throttle raw
  let step := deeper cap s.throttle d
  { s with draw := BitVec.ofNat 16 d, throttle := step, throttledAt := if step = s.throttle then s.throttledAt else s.time,
           lowSince := lowDraw cap d s.time s.lowSince, overrun := decide (s.throttle = 2) && decide (cap < d) }

/-- The draw attributed to a VF is measured; a VFPCAP of 0 is no cap. -/
def observeVf (s : State) (vf raw : Nat) : State :=
  let c := getVf s vf
  let cap := c.vfpcap.toNat
  let d := boundedDraw cap c.throttled raw
  let step := deeper cap c.throttled d
  setVf s vf { c with throttled := step, throttledAt := if step = c.throttled then c.throttledAt else s.time, lowSince := lowDraw cap d s.time c.lowSince }

/-- Measurements that nothing in the spec determines (15_platform R471; log 56). -/
def observeDraws (s : State) : State :=
  let raw (s : State) : Nat × State := ((Config.freeWord s.fresh).toNat % 65536, { s with fresh := s.fresh + 1 })
  let m := raw s
  ((s.vfs.filter (fun v => v.2.vfpcap ≠ 0)).map (·.1)).foldl (fun s v => let f := raw s; observeVf f.2 v f.1) (observeDraw m.2 m.1)

/-- n reference cycles pass (03_group R91-R94; log 5), after which the draws are measured (15_platform R470). -/
def elapse (n : Nat) (s : State) : State :=
  let s := growPasses s n
  let s := { s with
    time := s.time + n,
    groups := s.groups.map (fun p => (p.1, elapseGroup s n p.1 p.2)),
    teams := s.teams.map (fun p => (p.1, elapseTeam s n p.2)),
    queues := s.queues.map (fun p => (p.1, if wdogCountsQueue s p.1 p.2 then { p.2 with wdog := p.2.wdog + n } else p.2)),
    rings := s.rings.map (fun p => (p.1, if (cheRing s (p.1 / 64)).any (fun r => decide (r.1 = p.1 % 64)) then elapseRing n p.2 else p.2)),
    snapshots := s.snapshots.map (latchSlices s (s.time + n)) }
  tryRecords (fireWaiting (if n = 0 then s else observeDraws s))

end Sys2Proof.Machine
end

