-- ==== Sys2Proof/Machine/Place.lean ====
section
/-! DEFINITION. Placing one instruction where the next step fetches it (log 3): a context that may execute it, identity range descriptors for its address space, and the instruction's bytes. -/

namespace Sys2Proof.Machine

/-- Where the placed code, the range descriptor, and a queue's table lie. -/
def placeCode : Nat := 0x10000
def placeRanges : Nat := 0x2000

/-- A range descriptor (13_translation R390) that maps the addresses below 2^47 to themselves with R, W, X and U. -/
def identityRange : Nat := 31 + 2 ^ 128 * 2 ^ 31

/-- GRDT and HRDT for the table above with one descriptor (R388). -/
def identityRoot : DWord := BitVec.ofNat 64 (placeRanges + 1)

/-- The VF whose space the placed context uses: its host stage is the identity, and slot 0 has the identity guest stage. -/
def placeVf (v : Vf) : Vf :=
  { v with isOpen := true, hrdt := identityRoot, slots := tabPut v.slots 0 { tabGet v.slots 0 {} with grdt := identityRoot, map := 1, qmask := BitVec.allOnes 64 } }

def placeSpace (vf : Nat) : Space := { vf := vf, asid := 0, gtrt := 0, grdt := identityRoot, pl := 0 }

/-- The grid, team and group (tag 1, GRPIX 0) on pipeline 0 of core 0. -/
def placeGroup (s : State) : State :=
  { s with
    grids := tabPut s.grids 1 { noGrid with space := placeSpace 0 },
    teams := tabPut s.teams 1 { grid := 1, index := 0 },
    groups := tabPut s.groups 16 { pc := BitVec.ofNat 64 placeCode, age := 2 ^ 63, axp := some { pc := BitVec.ofNat 64 placeCode, running := true } },
    turn := .pipe 0 0 }

/-- A queue context whose ring is the placed code: of VF 0 at PL1, or of the firmware at PL2. -/
def placeQueue (s : State) (vf level : Nat) : State :=
  { s with
    queues := tabPut s.queues (vf * 64) { base := BitVec.ofNat 64 placeCode, tail := 4, en := true, level := level },
    qpVf := tabPut s.qpVf 0 vf, turn := .qp 0 }

/-- A task of VF 0 on engine 0 whose two programs are the placed word. -/
def placeChe (s : State) (w : Word) (x : Bool) : State :=
  let s := { s with cheTurn := tabPut s.cheTurn 0 0, turn := if x then .cheX 0 else .cheA 0 }
  setRing s 0 0 { tasks := [{ work := 0, seqNo := 0, started := true, aprog := [w], xprog := [w] }] }

/-- Which context executes an operation: a core group where it may and needs no privilege. -/
def placeContext (s : State) (nbits w : Nat) : State :=
  let op := w / 2 % 1024
  if nbits = 16 then placeGroup s
  else if lowestLevel op (BitVec.ofNat 7 (w / 2 ^ 25)) = 2 then placeQueue s hostVf 2
  else if lowestLevel op (BitVec.ofNat 7 (w / 2 ^ 25)) = 1 then placeQueue s 0 1
  else if op = 0x1C9 ∨ op = 0x1CA then { placeGroup s with turn := .axp 16 }
  else if ctxAllows .group op then placeGroup s
  else if ctxAllows .cheA op then placeChe s (BitVec.ofNat 32 w) false
  else placeChe s (BitVec.ofNat 32 w) true

/-- The address space and the bytes of the placed instruction. -/
def placeMemory (s : State) (w : Nat) : State :=
  { s with
    agenda := [], stage := .summit,
    vfs := tabPut (tabPut s.vfs 0 (placeVf (getVf s 0))) hostVf (placeVf (getVf s hostVf)),
    mem := memWriteList (memWriteList s.mem placeRanges (leBytes 32 identityRange)) placeCode (leBytes 4 w),
    history := [], wcache := [], walked := [], ranged := [],
    cores := tabPut s.cores 0 { getCore s 0 with tlb := [], rbuf := [], holder := none } }

end Sys2Proof.Machine
end

