-- ==== Sys2Proof/Machine/Keccak.lean ====
section
/-! DEFINITION. SHAKE256 of FIPS 202, which 14_tenancy R456 and 15_platform R463 name (log 43): the sponge at rate 136 bytes over Keccak-f[1600]. The tables of the permutation are computed from their definitions there: the round constants from a feedback register, the rotations from a walk over the lanes. -/

namespace Sys2Proof.Machine

/-- The feedback register after t clocks: one byte, taps 0, 4, 5 and 6. -/
def feedback : Nat → Nat
  | 0 => 1
  | t + 1 =>
    let r := 2 * feedback t
    if r < 256 then r else r ^^^ 0x171

/-- What iota adds in round i: bit 2^j - 1 is the register's low bit at clock j + 7i. -/
def iotaWord (i : Nat) : DWord :=
  (List.range 7).foldl (fun w j => if feedback (j + 7 * i) % 2 = 1 then w ||| BitVec.ofNat 64 (2 ^ (2 ^ j - 1)) else w) 0

/-- The lanes that the walk from (1, 0) visits, each with its rotation; `n` steps are left after step t. -/
def rhoWalk : Nat → Nat → Nat → Nat → List (Nat × Nat)
  | 0, _, _, _ => []
  | n + 1, t, x, y => (5 * y + x, (t + 1) * (t + 2) / 2 % 64) :: rhoWalk n (t + 1) y ((2 * x + 3 * y) % 5)

def rotations : List (Nat × Nat) := rhoWalk 24 0 1 0

/-- A sponge state: lane (x, y) is entry 5y + x. -/
abbrev Sponge := List DWord

def Sponge.lane (a : Sponge) (x y : Nat) : DWord := a.getD (5 * (y % 5) + x % 5) 0

def Sponge.of (f : Nat → Nat → DWord) : Sponge := (List.range 5).flatMap (fun y => (List.range 5).map (fun x => f x y))

/-- The parity of each column. -/
def Sponge.parity (a : Sponge) : List DWord := (List.range 5).map (fun x => (List.range 5).foldl (fun p y => p ^^^ a.lane x y) 0)

def thetaStep (a : Sponge) : Sponge :=
  let p := a.parity
  .of (fun x y => a.lane x y ^^^ p.getD ((x + 4) % 5) 0 ^^^ (p.getD ((x + 1) % 5) 0).rotateLeft 1)

/-- Each lane is rotated and goes from (x, y) to (y, 2x + 3y); so (x, y) receives lane (x + 3y, x). -/
def rhoPiStep (a : Sponge) : Sponge :=
  .of (fun x y =>
    let k := 5 * x + (x + 3 * y) % 5
    (a.getD k 0).rotateLeft (((rotations.find? (fun p => p.1 = k)).map (·.2)).getD 0))

def chiStep (a : Sponge) : Sponge := .of (fun x y => a.lane x y ^^^ (a.lane (x + 2) y &&& ~~~(a.lane (x + 1) y)))

def permute (a : Sponge) : Sponge :=
  (List.range 24).foldl (fun a i =>
    match chiStep (rhoPiStep (thetaStep a)) with
    | [] => []
    | l :: r => (l ^^^ iotaWord i) :: r) a

/-- Absorbs the blocks of a padded message. -/
def absorb : Nat → Sponge → List Byte → Sponge
  | 0, a, _ => a
  | n + 1, a, m =>
    let word (i : Nat) : DWord := if i < 17 then BitVec.ofNat 64 (leNat ((m.drop (8 * i)).take 8)) else 0
    absorb n (permute (a.zipIdx.map (fun p => p.1 ^^^ word p.2))) (m.drop 136)

/-- The suffix 1111 and the pad 10*1, up to a whole number of blocks. -/
def padded (m : List Byte) : List Byte :=
  let free := 136 - m.length % 136
  m ++ (if free = 1 then [0x9F] else 0x1F :: List.replicate (free - 2) 0 ++ [0x80])

/-- The first n bytes of SHAKE256, for n up to 136. -/
def shake256 (m : List Byte) (n : Nat) : List Byte :=
  let p := padded m
  ((absorb (p.length / 136) (List.replicate 25 0) p).flatMap (fun l => leBytes 8 l.toNat)).take n

end Sys2Proof.Machine
end

