-- ==== Sys2Proof/Machine/Approx.lean ====
section
/-! DEFINITION. The six approximations of 04_lane_ops R134 and R135: any FP32 value within the stated bound of the exact result may be answered. The candidate is a free value; a fixed-point reference decides whether it lies within the bound. -/

namespace Sys2Proof.Machine

/-- Fraction bits of the reference values; their error is far below the bounds of R134. -/
def refBits : Nat := 160

/-- A reference value num / den with a sign. -/
structure RefVal where
  neg : Bool
  num : Nat
  den : Nat
  deriving DecidableEq, Repr

/-- sum of t^k / k! for k below n, in fixed point; t is non-negative. -/
def expSeries (t : Nat) : Nat → Nat → Nat → Nat → Nat
  | 0, _, _, acc => acc
  | n + 1, k, term, acc => expSeries t n (k + 1) (term * t / 2 ^ refBits / (k + 1)) (acc + term)

/-- ln 2 and pi in fixed point, to 160 fraction bits. -/
def lnTwo : Nat := 1013035739299659071135698605846798551586536899366
def piFix : Nat := 4591442807048218921384805199743311128454155024418

/-- 2^(num/den) as a rational near the exact value. -/
def refExp2 (neg : Bool) (num den : Nat) : RefVal :=
  let fl : Int := if neg then -(((num + den - 1) / den : Nat) : Int) else ((num / den : Nat) : Int)
  let fr : Int := (XR.signedNum neg num - fl * den) * 2 ^ refBits / den
  let t := fr.toNat * lnTwo / 2 ^ refBits
  let v := expSeries t 40 0 (2 ^ refBits) 0
  let r := scalePow v (2 ^ refBits) fl
  { neg := false, num := r.1, den := r.2 }

/-- Bits of log2 of x in [1, 2), by repeated squaring. -/
def logBits : Nat → Nat → Nat → Nat
  | 0, _, acc => acc
  | n + 1, x, acc =>
    let y := x * x / 2 ^ refBits
    if 2 ^ (refBits + 1) ≤ y then logBits n (y / 2) (2 * acc + 1) else logBits n y (2 * acc)

/-- log2 of a positive num / den, to 80 fraction bits. -/
def refLog2 (num den : Nat) : RefVal :=
  let e := floorLog2 num den
  let p := scalePow num den (-e)
  let v : Int := e * 2 ^ 80 + (logBits 80 (p.1 * 2 ^ refBits / p.2) 0 : Nat)
  { neg := decide (v < 0), num := v.natAbs, den := 2 ^ 80 }

/-- The alternating series of sin (k = 1) or cos (k = 0) at fixed-point t. -/
def trigSeries (t2 : Nat) : Nat → Nat → Int → Int → Int
  | 0, _, _, acc => acc
  | n + 1, k, term, acc =>
    trigSeries t2 n (k + 2) (-(term * t2) / 2 ^ refBits / ((k + 1) * (k + 2) : Nat)) (acc + term)

/-- sin or cos of a finite value of magnitude at most 2^14; near 0 the cosine is 1 - x^2 / 2, whose distance from 1 the series would lose. -/
def refTrig (isCos : Bool) (neg : Bool) (num den : Nat) : RefVal :=
  if isCos && decide (num * 2 ^ 40 ≤ den) then { neg := false, num := 2 * den * den - num * num, den := 2 * den * den }
  else
  let x := num * 2 ^ refBits / den % (2 * piFix)
  let y : Int := if piFix < x then (x : Int) - 2 * piFix else x
  let t := y.natAbs
  let v := if isCos then trigSeries (t * t / 2 ^ refBits) 40 0 (2 ^ refBits) 0
    else trigSeries (t * t / 2 ^ refBits) 40 1 (if (decide (y < 0) != neg) then -(t : Int) else t) 0
  { neg := decide (v < 0), num := v.natAbs, den := 2 ^ refBits }

/-- |c - r| ≤ bn / bd, for a finite c. -/
def RefVal.within (r : RefVal) (c : XR) (bn bd : Nat) : Bool :=
  match c with
  | .fin n a d =>
    let diff := (XR.signedNum n (a * r.den) - XR.signedNum r.neg (r.num * d)).natAbs
    decide (diff * bd ≤ bn * (d * r.den))
  | _ => false

/-- One FP32 unit in the last place of r (R134). -/
def RefVal.ulp (r : RefVal) : Nat × Nat :=
  if r.num = 0 then (1, 2 ^ 149)
  else scalePow 1 1 (max (floorLog2 r.num r.den - 23) (-149))

/-- Which of the six (R134), in opcode order. -/
inductive ApproxOp where
  | rcp | rsq | ex2 | lg2 | sin | cos
  deriving DecidableEq, Repr

def ApproxOp.index : ApproxOp → Nat
  | .rcp => 0 | .rsq => 1 | .ex2 => 2 | .lg2 => 3 | .sin => 4 | .cos => 5

/-- The candidate, if it lies within the bound, else the correctly rounded reference. -/
def approxPick (op : ApproxOp) (a : Nat) (r : RefVal) (bn bd : Nat) : Nat :=
  let c := (Config.approx op.index (BitVec.ofNat 32 a)).toNat
  if r.within (fp32.decode c) bn bd then c
  else (roundFP (if r.num = 0 then .fin r.neg 0 1 else .fin r.neg r.num r.den) fp32 .rne false).1

/-- FTZ on an approximation's result (R134); it raises no flag. -/
def flushTo (c : FpCtl) (code : Nat) : Nat := fp32.daz c.ftz code

/-- A code with the one NaN code that results have (R61). -/
def canonCode (code : Nat) : Nat := if fp32.isNaN code then fp32.canonNaN else code

/-- Is num / den a power of two? -/
def isPow2Rat (num den : Nat) : Bool := decide (2 ^ Nat.log2 num = num) && decide (2 ^ Nat.log2 den = den)

/-- R134 and R135 for one operand code; the flags are NV or none. -/
def fpApprox (op : ApproxOp) (c : FpCtl) (a0 : Nat) : Nat × Flags :=
  let a := fp32.daz c.daz a0
  let sn := snanFlag fp32 [a]
  let ulps (k : Nat) (r : RefVal) := let u := r.ulp; flushTo c (approxPick op a r (k * u.1) u.2)
  match op, fp32.decode a with
  | _, .nan => (fp32.canonNaN, sn)
  | .rcp, .inf n => (fp32.signed n 0, 0)
  | .rcp, .fin n num den =>
    if num = 0 then (fp32.signed n fp32.infCode, 0)
    else
      let x := roundFP (.fin n den num) fp32 .rne false
      if isPow2Rat num den && !fp32.isSub x.1 && decide (fp32.mag x.1 ≠ fp32.infCode) then (x.1, 0)
      else if fp32.mag x.1 = fp32.infCode then (flushTo c (canonCode (Config.approx op.index (BitVec.ofNat 32 a)).toNat), 0)
      else (ulps 1 { neg := n, num := den, den := num }, 0)
  | .rsq, .inf n => if n then (fp32.canonNaN, flagNV) else (0, 0)
  | .rsq, .fin n num den =>
    if num = 0 then (fp32.signed n fp32.infCode, 0)
    else if n then (fp32.canonNaN, flagNV)
    else
      let x := XR.sqrt (.fin false den num)
      match x.1 with
      | .fin _ rn rd =>
        if isPow2Rat rn rd then ((roundFP x.1 fp32 .rne false).1, 0)
        else (ulps 1 { neg := false, num := rn, den := rd }, 0)
      | _ => (fp32.canonNaN, 0)
  | .ex2, .inf n => (if n then 0 else fp32.infCode, 0)
  | .ex2, .fin n num den =>
    if !n && decide (128 * den ≤ num) then (fp32.infCode, 0)
    else if n && decide (300 * den ≤ num) then (ulps 2 { neg := false, num := 1, den := 2 ^ 300 }, 0)
    else if decide (num % den = 0) && decide (num ≤ (if n then 126 else 127) * den) then
      let r := scalePow 1 1 (XR.signedNum n (num / den))
      ((roundFP (.fin false r.1 r.2) fp32 .rne false).1, 0)
    else (ulps 2 (refExp2 n num den), 0)
  | .lg2, .inf n => if n then (fp32.canonNaN, flagNV) else (fp32.infCode, 0)
  | .lg2, .fin n num den =>
    if num = 0 then (fp32.signed true fp32.infCode, 0)
    else if n then (fp32.canonNaN, flagNV)
    else
      let r := refLog2 num den
      if isPow2Rat num den then ((roundFP (XR.ofInt (floorLog2 num den) 1 false) fp32 .rne false).1, 0)
      else if decide (den ≤ 2 * num) && decide (num ≤ 2 * den) then (flushTo c (approxPick op a r 1 (2 ^ 22)), 0)
      else (ulps 2 r, 0)
  | .sin, .inf _ => (fp32.canonNaN, flagNV)
  | .cos, .inf _ => (fp32.canonNaN, flagNV)
  | .sin, .fin n num den =>
    if num = 0 then (a, 0)
    else if 2 ^ 14 * den < num then (fp32.canonNaN, flagNV)
    else (flushTo c (approxPick op a (refTrig false n num den) 1 (2 ^ 21)), 0)
  | .cos, .fin n num den =>
    if num = 0 then (0x3F800000, 0)
    else if 2 ^ 14 * den < num then (fp32.canonNaN, flagNV)
    else (flushTo c (approxPick op a (refTrig true n num den) 1 (2 ^ 21)), 0)

end Sys2Proof.Machine
end

