-- ==== Sys2Proof/Machine/Flags.lean ====
section
/-! DEFINITION. The floating-point status registers: FCSR per lane (02_numbers R72-R74, 04_lane_ops R114) and MFR per group (R78). -/

namespace Sys2Proof.Machine

/-- The writable bits of FCSR and MFR: reserved bits read 0 (R72, R78). -/
def fcsrMask : Word := 0x3DF
def mfrMask : Word := 0x1F

def fcsrOf (s : State) (lane : Nat) : Word :=
  match s.cur with
  | .group g => tabGet (getGroup s g).fcsr lane 0
  | _ => 0

def laneCtl (s : State) (lane : Nat) : FpCtl := .ofFcsr (fcsrOf s lane)

def setFcsr (s : State) (lane : Nat) (w : Word) : State :=
  match s.cur with
  | .group gid => modGroup s gid (fun g => { g with fcsr := tabSet g.fcsr lane (w &&& fcsrMask) 0 })
  | _ => s

/-- ORs sticky flags into a lane's FCSR (R73). -/
def orFcsr (s : State) (lane : Nat) (f : Flags) : State :=
  if f = 0 then s else setFcsr s lane (fcsrOf s lane ||| f.setWidth 32)

/-- Lanes whose FCSR a uniform operation's flags reach: the active ones, or lane 0 (R114). -/
def flagLanes (s : State) : List Nat := match laneList s with | [] => [0] | l => l

/-- The lane whose controls a uniform operation takes (R114). -/
def ctlLane (s : State) : Nat := (laneList s).headD 0

def orFcsrAll (s : State) (lanes : List Nat) (f : Flags) : State := lanes.foldl (fun s l => orFcsr s l f) s

/-- ORs sticky flags into a group's MFR (R78). -/
def orMfr (s : State) (gid : Nat) (f : Flags) : State :=
  modGroup s gid (fun g => { g with mfr := g.mfr ||| f.setWidth 32 })

end Sys2Proof.Machine
end

