-- ==== Sys2Proof/Machine/Operands.lean ====
section
/-! DEFINITION. The operand forms of lane operations (04_lane_ops R111-R115; 01_encoding R34): per active lane, once for the group when uniform, on S registers in a queue processor or an access slice, and on the 64-bit registers of a channel engine's address thread (12_die_channel R379). -/

namespace Sys2Proof.Machine

/-- The lanes in which an operation computes: one when its destination is an S register, since then it is uniform (R34, R35). -/
def opLanes (s : State) (d : BitVec 7) : List Nat := if isS d then [0] else laneList s

/-- Writes a register in several lanes from values computed beforehand (R115). -/
def putLanes (s : State) (d : Nat) (lanes : List Nat) (f : Nat → Word) : State :=
  lanes.foldl (fun t l => writeField t d l (f l)) s

def putPairs (s : State) (d : Nat) (lanes : List Nat) (f : Nat → DWord) : State :=
  lanes.foldl (fun t l => writePair t d l (f l)) s

/-- Writes a predicate in several lanes; P7 discards (R32). -/
def putPreds (s : State) (p : Nat) (lanes : List Nat) (f : Nat → Bool) : State :=
  lanes.foldl (fun t l => setRegs t ((regsOf t).writeP p l (f l))) s

def readPred (s : State) (p lane : Nat) : Bool := (regsOf s).readP p lane

/-- The instruction is done: its Q sources are popped (R30) and the next one of len bytes on follows. -/
def finish (us : List Use) (len : Nat) (s : State) : State := advance len (popQs s (us.flatMap Use.sources))

/-- Runs a body that gives the state before the pops and the advance. -/
def runOp (s : State) (opn : Nat) (b : BitVec 7) (us : List Use) (len : Nat) (body : State) : Host.Outcome State Fault Refusal :=
  run s opn b us (.ok (finish us len body))

/-! ## The address thread of a channel engine (R378, R379) -/

def readA (s : State) (f : BitVec 7) : DWord :=
  match s.cur with
  | .cheA p v => match getTask s p v with | some t => tabGet t.a f.toNat 0 | none => 0
  | _ => 0

def writeA (s : State) (f : BitVec 7) (w : DWord) : State :=
  match s.cur with
  | .cheA p v => match getTask s p v with | some t => setTask s p v { t with a := tabPut t.a f.toNat w, bad := t.bad.filter (· ≠ f.toNat) } | none => s
  | _ => s

def onCheA (s : State) : Bool := match s.cur with | .cheA _ _ => true | _ => false

/-! ## Integer forms -/

/-- d := f(lane). -/
def lane0 (s : State) (opn : Nat) (b : BitVec 7) (us : List Use) (len : Nat) (d : BitVec 7) (f : Nat → Word) : Host.Outcome State Fault Refusal :=
  runOp s opn b us len (putLanes s d.toNat (opLanes s d) f)

/-- d := f a. -/
def lane1 (s : State) (opn : Nat) (us : List Use) (len : Nat) (d a : BitVec 7) (f : Word → Word) : Host.Outcome State Fault Refusal :=
  lane0 s opn 0 us len d (fun l => f (readField s a.toNat l))

/-- d := f a b. -/
def lane2 (s : State) (opn : Nat) (us : List Use) (len : Nat) (d a b : BitVec 7) (f : Word → Word → Word) : Host.Outcome State Fault Refusal :=
  lane0 s opn b us len d (fun l => f (readField s a.toNat l) (readField s b.toNat l))

/-- d := f a b d (R112). -/
def lane3 (s : State) (opn : Nat) (us : List Use) (d a b : BitVec 7) (f : Word → Word → Word → Word) : Host.Outcome State Fault Refusal :=
  lane0 s opn b us 4 d (fun l => f (readField s a.toNat l) (readField s b.toNat l) (readField s d.toNat l))

/-- An operation that the address thread runs on its 64-bit registers and the other contexts on 32 bits. -/
def lane2w (s : State) (opn : Nat) (us : List Use) (d a b : BitVec 7) (f : (w : Nat) → BitVec w → BitVec w → BitVec w) : Host.Outcome State Fault Refusal :=
  if onCheA s then runOp s opn b us 4 (writeA s d (f 64 (readA s a) (readA s b)))
  else lane2 s opn us 4 d a b (f 32)

/-- d := f a, on 32 or 64 bits; b is the field's raw value, an immediate in f. -/
def lane1w (s : State) (opn : Nat) (b : BitVec 7) (us : List Use) (d a : BitVec 7) (f : (w : Nat) → BitVec w → BitVec w) : Host.Outcome State Fault Refusal :=
  if onCheA s then runOp s opn b us 4 (writeA s d (f 64 (readA s a)))
  else lane0 s opn b us 4 d (fun l => f 32 (readField s a.toNat l))

/-- d:d+1 := f(lane). -/
def pair0 (s : State) (opn : Nat) (b : BitVec 7) (us : List Use) (d : BitVec 7) (f : Nat → DWord) : Host.Outcome State Fault Refusal :=
  runOp s opn b us 4 (putPairs s d.toNat (opLanes s d) f)

/-- P(d) := f(lane) in each active lane (R124). -/
def pred0 (s : State) (opn : Nat) (b : BitVec 7) (us : List Use) (p : BitVec 7) (f : Nat → Bool) : Host.Outcome State Fault Refusal :=
  runOp s opn b us 4 (putPreds s p.toNat (laneList s) f)

def predCmp (s : State) (opn : Nat) (us : List Use) (p a b : BitVec 7) (c : Cond) : Host.Outcome State Fault Refusal :=
  pred0 s opn b us p (fun l => c.holds (readField s a.toNat l) (readField s b.toNat l))

def predCmp64 (s : State) (opn : Nat) (us : List Use) (p a b : BitVec 7) (c : Cond) : Host.Outcome State Fault Refusal :=
  pred0 s opn b us p (fun l => c.holds (readPair s a.toNat l) (readPair s b.toNat l))

/-! ## Floating-point forms: each lane under its own FCSR, or under R114 when uniform -/

/-- The lane whose controls a computation uses: a uniform one takes those of R114. -/
def fpCtl (s : State) (d : BitVec 7) (lane : Nat) : FpCtl := laneCtl s (if isS d then ctlLane s else lane)

/-- ORs the flags of a computation: of each lane into its own FCSR, or of the one uniform computation under R114. -/
def fpFlags (s : State) (uniform : Bool) (lanes : List Nat) (f : Nat → Flags) : State :=
  if uniform then orFcsrAll s (flagLanes s) (f 0) else lanes.foldl (fun t l => orFcsr t l (f l)) s

/-- d and flags from each lane's controls. -/
def fp0 (s : State) (opn : Nat) (b : BitVec 7) (us : List Use) (len : Nat) (d : BitVec 7) (f : Nat → FpCtl → Nat × Flags) : Host.Outcome State Fault Refusal :=
  let lanes := opLanes s d
  let r (l : Nat) := f l (fpCtl s d l)
  runOp s opn b us len (fpFlags (putLanes s d.toNat lanes (fun l => BitVec.ofNat 32 (r l).1)) (isS d) lanes (fun l => (r l).2))

def fp1 (s : State) (opn : Nat) (b : BitVec 7) (us : List Use) (d a : BitVec 7) (f : FpCtl → Nat → Nat × Flags) : Host.Outcome State Fault Refusal :=
  fp0 s opn b us 4 d (fun l c => f c (readField s a.toNat l).toNat)

def fp2 (s : State) (opn : Nat) (us : List Use) (len : Nat) (d a b : BitVec 7) (f : FpCtl → Nat → Nat → Nat × Flags) : Host.Outcome State Fault Refusal :=
  fp0 s opn b us len d (fun l c => f c (readField s a.toNat l).toNat (readField s b.toNat l).toNat)

def fp3 (s : State) (opn : Nat) (us : List Use) (d a b : BitVec 7) (f : FpCtl → Nat → Nat → Nat → Nat × Flags) : Host.Outcome State Fault Refusal :=
  fp0 s opn b us 4 d (fun l c => f c (readField s a.toNat l).toNat (readField s b.toNat l).toNat (readField s d.toNat l).toNat)

/-- The FP64 forms, on pairs (R136). -/
def dp0 (s : State) (opn : Nat) (b : BitVec 7) (us : List Use) (d : BitVec 7) (f : Nat → FpCtl → Nat × Flags) : Host.Outcome State Fault Refusal :=
  let lanes := opLanes s d
  let r (l : Nat) := f l (fpCtl s d l)
  runOp s opn b us 4 (fpFlags (putPairs s d.toNat lanes (fun l => BitVec.ofNat 64 (r l).1)) (isS d) lanes (fun l => (r l).2))

def dp1 (s : State) (opn : Nat) (b : BitVec 7) (us : List Use) (d a : BitVec 7) (f : FpCtl → Nat → Nat × Flags) : Host.Outcome State Fault Refusal :=
  dp0 s opn b us d (fun l c => f c (readPair s a.toNat l).toNat)

def dp2 (s : State) (opn : Nat) (us : List Use) (d a b : BitVec 7) (f : FpCtl → Nat → Nat → Nat × Flags) : Host.Outcome State Fault Refusal :=
  dp0 s opn b us d (fun l c => f c (readPair s a.toNat l).toNat (readPair s b.toNat l).toNat)

def dp3 (s : State) (opn : Nat) (us : List Use) (d a b : BitVec 7) (f : FpCtl → Nat → Nat → Nat → Nat × Flags) : Host.Outcome State Fault Refusal :=
  dp0 s opn b us d (fun l c => f c (readPair s a.toNat l).toNat (readPair s b.toNat l).toNat (readPair s d.toNat l).toNat)

/-- FCMP and DCMP: a predicate and flags in each active lane (R133). -/
def fpCmp0 (s : State) (opn : Nat) (b : BitVec 7) (us : List Use) (p : BitVec 7) (f : Nat → FpCtl → Bool × Flags) : Host.Outcome State Fault Refusal :=
  let lanes := laneList s
  let r (l : Nat) := f l (laneCtl s l)
  runOp s opn b us 4 (fpFlags (putPreds s p.toNat lanes (fun l => (r l).1)) false lanes (fun l => (r l).2))

def fcmp (s : State) (opn : Nat) (us : List Use) (p a b : BitVec 7) (c : FCond) : Host.Outcome State Fault Refusal :=
  fpCmp0 s opn b us p (fun l ctl => fpCmp fp32 ctl c (readField s a.toNat l).toNat (readField s b.toNat l).toNat)

def dcmp (s : State) (opn : Nat) (us : List Use) (p a b : BitVec 7) (c : FCond) : Host.Outcome State Fault Refusal :=
  fpCmp0 s opn b us p (fun l ctl => fpCmp fp64 ctl c (readPair s a.toNat l).toNat (readPair s b.toNat l).toNat)

/-- The static rounding field of FSQRT, FRINT and DSQRT (R131). -/
def staticRm (r : BitVec 3) (c : FpCtl) : FpCtl := if r = 0 then c else { c with rm := .ofBits (r.extractLsb' 0 2) }

/-- An operation on both halves of packed operands (R137). -/
def packed (f : Nat → Nat → Nat → Nat × Flags) (a b d : Nat) : Nat × Flags :=
  let lo := f (a % 65536) (b % 65536) (d % 65536)
  let hi := f (a / 65536) (b / 65536) (d / 65536)
  (hi.1 * 65536 + lo.1, hi.2 ||| lo.2)

end Sys2Proof.Machine
end

