-- ==== Sys2Proof/Machine/Special.lean ====
section
/-! DEFINITION. The special registers of SRD and SWR: those of a group (03_group R90), of a queue context (14_tenancy R435) and of the platform (15_platform R469). -/

namespace Sys2Proof.Machine

/-- The operand kind of a special register: V, S, or an even S pair (R90). -/
inductive SrKind where
  | lane | word | pair
  deriving DecidableEq, Repr

/-- Access as R10 names it. -/
inductive SrAcc where
  | ro | rw | wo
  deriving DecidableEq, Repr

structure SrInfo where
  kind : SrKind
  acc : SrAcc
  pl : Nat
  deriving DecidableEq, Repr

/-- The registers below 0x100 (R90). -/
def srInfoGroup (n : Nat) : Option SrInfo :=
  if n = 0x001 ∨ n = 0x013 then some { kind := .lane, acc := .ro, pl := 0 }
  else if n = 0x010 ∨ n = 0x012 then some { kind := .lane, acc := .rw, pl := 0 }
  else if n = 0x011 ∨ (0x014 ≤ n ∧ n ≤ 0x017) then some { kind := .word, acc := .rw, pl := 0 }
  else if n ≤ 0x00D ∨ n = 0x02A then some { kind := .word, acc := .ro, pl := 0 }
  else if n = 0x018 ∨ n = 0x020 ∨ n = 0x028 then some { kind := .pair, acc := .ro, pl := 0 }
  else if n = 0x022 ∨ n = 0x024 ∨ n = 0x026 then some { kind := .pair, acc := .rw, pl := 0 }
  else none

/-- The registers from 0x100 to 0x1FF (R435). -/
def srInfoQueue (n : Nat) : Option SrInfo :=
  match n with
  | 0x100 => some { kind := .pair, acc := .rw, pl := 1 }
  | 0x102 => some { kind := .pair, acc := .rw, pl := 1 }
  | 0x104 => some { kind := .pair, acc := .rw, pl := 1 }
  | 0x106 => some { kind := .pair, acc := .rw, pl := 1 }
  | 0x108 => some { kind := .word, acc := .rw, pl := 1 }
  | 0x109 => some { kind := .word, acc := .ro, pl := 1 }
  | 0x10A => some { kind := .pair, acc := .ro, pl := 1 }
  | 0x10C => some { kind := .word, acc := .ro, pl := 1 }
  | 0x10D => some { kind := .word, acc := .ro, pl := 1 }
  | 0x10E => some { kind := .pair, acc := .ro, pl := 1 }
  | 0x110 => some { kind := .pair, acc := .rw, pl := 1 }
  | 0x112 => some { kind := .pair, acc := .ro, pl := 1 }
  | 0x114 => some { kind := .word, acc := .wo, pl := 1 }
  | 0x115 => some { kind := .word, acc := .ro, pl := 1 }
  | 0x116 => some { kind := .word, acc := .ro, pl := 1 }
  | 0x118 => some { kind := .pair, acc := .rw, pl := 2 }
  | 0x11A => some { kind := .word, acc := .wo, pl := 2 }
  | 0x11C => some { kind := .word, acc := .rw, pl := 2 }
  | _ => none

/-- The platform registers (R469); those of Camp firmware are 32-bit registers that hold what was last written (log 61). -/
def srInfoPlatform (n : Nat) : Option SrInfo :=
  if n = 0x202 ∨ n = 0x204 ∨ n = 0x248 then some { kind := .pair, acc := .rw, pl := 2 }
  else if n = 0x245 ∨ n = 0x24A then some { kind := .word, acc := .ro, pl := 2 }
  else if n = 0x200 ∨ (0x206 ≤ n ∧ n ≤ 0x206) ∨ (0x208 ≤ n ∧ n ≤ 0x212) ∨ n = 0x214 ∨ (0x218 ≤ n ∧ n ≤ 0x244) ∨ (0x300 ≤ n ∧ n ≤ 0x3BF) then
    some { kind := .word, acc := .rw, pl := 2 }
  else if 0x3C0 ≤ n ∧ n ≤ 0x3FF then some { kind := .word, acc := .rw, pl := 3 }
  else none

def srInfo (n : Nat) : Option SrInfo :=
  if n < 0x100 then srInfoGroup n else if n < 0x200 then srInfoQueue n else srInfoPlatform n

/-- The numbers that a context reaches at all (R109, R186). -/
def srReach (s : State) (n : Nat) : Bool :=
  match s.cur with
  | .group _ => true
  | .axp _ => decide (n = 0x000) || decide (n = 0x020)
  | .queue _ => decide (n = 0x000) || decide (n = 0x00D) || decide (n = 0x020) || decide (0x100 ≤ n)
  | _ => false

/-- Does a register field suit a kind (R90, R109)? -/
def SrKind.fits (k : SrKind) (d : BitVec 7) : Bool :=
  match k with
  | .lane => isV d
  | .word => isS d
  | .pair => isS d && decide (d.toNat % 2 = 0)

/-- The checks of R109 before EMPTY_READ, in their order. -/
def srCheck (s : State) (n : Nat) (d : BitVec 7) (writes : Bool) : Except Stop SrInfo :=
  match srInfo n with
  | none => .error illegal
  | some i =>
    if !srReach s n || !i.kind.fits d || (writes && decide (i.acc = .ro)) then .error illegal
    else if levelOf s < i.pl then .error (trapOf 0x03)
    else .ok i

/-- Registers that an operand of a kind names; S31 is never empty. -/
def SrKind.fields (k : SrKind) (d : BitVec 7) : List Nat :=
  (match k with
   | .pair => [d.toNat, d.toNat + 1]
   | _ => [d.toNat]).filter (· ≠ 127)

/-! ## Group registers -/

def groupOfCur (s : State) : Nat := match s.cur with | .group g => g | .axp g => g | _ => 0

/-- MODID (R11): Taloilu Gwynif, stepping A1. -/
def modid (s : State) : Word := BitVec.ofNat 32 (0x01010000 + s.memCode.toNat * 4096 + 0x200 + s.modn.toNat)

/-- A lane register in a lane (R90). -/
def srLane (s : State) (n lane : Nat) : Word :=
  let g := getGroup s (groupOfCur s)
  if n = 0x001 then BitVec.ofNat 32 lane
  else if n = 0x010 then tabGet g.fcsr lane 0
  else if n = 0x012 then BitVec.ofNat 32 (128 + ((List.range 7).foldl (fun a k => a + (if g.regs.readP k lane then 2 ^ k else 0)) 0))
  else BitVec.ofNat 32 (tabGet g.icnt lane 0 + (if g.done.getLsbD lane then 65536 else 0))

/-- Modules of a grid; a grid placed on no other has this one (16_fabric R490). -/
def gridMods (g : Grid) : Nat := max 1 g.mods.length

/-- Teams of a grid that have been placed, on whichever module. -/
def placedAll (g : Grid) : Nat := g.placed + g.abroad.length

/-- MODIX: the position of this module among the grid's, ascending (R491). -/
def modix (s : State) (g : Grid) : Nat := (g.mods.filter (fun m => decide (m < s.modn.toNat))).length

/-- A 32-bit register of a group (R90). -/
def srGroupWord (s : State) (n : Nat) : Word :=
  let gid := groupOfCur s
  let g := getGroup s gid
  let t := teamOf s gid
  let grid := gridOf s gid
  let erm (k : Nat) : Word := g.regs.erm.extractLsb' (32 * k) 32
  match n with
  | 0x000 => modid s
  | 0x002 => BitVec.ofNat 32 (gixOf gid)
  | 0x003 => BitVec.ofNat 32 t.ngrp
  | 0x004 => BitVec.ofNat 32 g.role
  | 0x005 => BitVec.ofNat 32 t.x
  | 0x006 => BitVec.ofNat 32 t.y
  | 0x007 => BitVec.ofNat 32 t.z
  | 0x008 => BitVec.ofNat 32 grid.gx
  | 0x009 => BitVec.ofNat 32 grid.gy
  | 0x00A => BitVec.ofNat 32 grid.gz
  | 0x00B => BitVec.ofNat 32 (gridMods grid)
  | 0x00C => BitVec.ofNat 32 (modix s grid)
  | 0x00D => BitVec.ofNat 32 (levelOf s)
  | 0x011 => g.mfr
  | 0x014 => erm 0
  | 0x015 => erm 1
  | 0x016 => erm 2
  | 0x017 => erm 3 &&& 0x7FFFFFFF
  | 0x02A => BitVec.ofNat 32 (g.regcnt.toNat + (if g.regv then 65536 else 0))
  | _ => 0

def cycleNow (s : State) : DWord := BitVec.ofNat 64 (s.time / 2)

/-- A 64-bit register of a group (R90). -/
def srGroupPair (s : State) (n : Nat) : DWord :=
  let g := getGroup s (groupOfCur s)
  match n with
  | 0x018 => activeMask g
  | 0x020 => cycleNow s
  | 0x022 => g.gtime
  | 0x024 => g.gtcmp
  | 0x026 => g.wdl
  | _ => g.regpc

/-- GTCMP and WDL re-arm their compares (R93, R94). -/
def setGtcmp (s : State) (gid : Nat) (v : DWord) : State := modGroup s gid (fun g => { g with gtcmp := v })
def setWdl (s : State) (gid : Nat) (v : DWord) : State := modGroup s gid (fun g => { g with wdl := v })

/-- GTIME is written; that of logical group 0 is the team's count against its time cap, which may be reached anew (R231). -/
def setGtime (s : State) (gid : Nat) (v : DWord) : State :=
  let old := (getGroup s gid).gtime
  let s := modGroup s gid (fun g => { g with gtime := v })
  if gixOf gid = 0 then
    modTeam s (tagOf gid) (fun t =>
      let n := t.capCount + v.toNat - old.toNat
      { t with capCount := n, capFired := t.capFired && decide (((getGrid s t.grid).tcap : Int) ≤ n) })
  else s

/-- Has the group a matrix operation or an ACCST under way (R78)? -/
def matrixBusy (s : State) (gid : Nat) : Bool :=
  s.cores.any (fun c => c.2.matrix.any (fun m => decide (m.gid = gid))) ||
  s.works.any (fun w => decide (w.kind = .accst) && decide (w.agent = .group gid) && !w.ended)

/-- Writes one of ERM0-ERM3 (R89); bit 31 of ERM3 stays 0. -/
def setErm (r : RegFile) (k : Nat) (w : Word) : RegFile :=
  let m : BitVec 128 := BitVec.ofNat 128 (0xFFFFFFFF * 2 ^ (32 * k))
  { r with erm := ((r.erm &&& ~~~m) ||| BitVec.ofNat 128 (w.toNat * 2 ^ (32 * k))) &&& ~~~(bitAt 127) }

/-- PRED: P0 to P6 of a lane (R90). -/
def setPred (s : State) (lane : Nat) (w : Word) : State :=
  (List.range 7).foldl (fun s k => setRegs s ((regsOf s).writeP k lane (w.getLsbD k))) s

def setSrGroup (s : State) (n : Nat) (w : Word) : State :=
  let gid := groupOfCur s
  match n with
  | 0x011 => modGroup s gid (fun g => { g with mfr := w &&& mfrMask })
  | 0x014 => setRegs s (setErm (regsOf s) 0 w)
  | 0x015 => setRegs s (setErm (regsOf s) 1 w)
  | 0x016 => setRegs s (setErm (regsOf s) 2 w)
  | 0x017 => setRegs s (setErm (regsOf s) 3 w)
  | _ => s

def setSrGroupPair (s : State) (n : Nat) (w : DWord) : State :=
  let gid := groupOfCur s
  match n with
  | 0x022 => setGtime s gid w
  | 0x024 => setGtcmp s gid w
  | 0x026 => setWdl s gid w
  | _ => s

/-! ## Notices (R434) -/

/-- The PL2 context that HVCTX now names takes the notices held for the VF, in order (R434). -/
def deliverHeld (s : State) (vf : Nat) : State :=
  match hostContext s vf with
  | some q =>
    let ns := (getVf s vf).held
    setVf (modQueue s q (fun c => { c with notices := c.notices ++ ns })) vf { getVf s vf with held := [] }
  | none => s

def hvctxMask : Word := 0x80000F3F

/-- HVCTX is written and held notices are delivered (R434, R435). -/
def writeHvctx (s : State) (vf : Nat) (w : Word) : State :=
  deliverHeld (setVf s vf { getVf s vf with hvctx := w &&& hvctxMask }) vf

/-- A group's trap reaches a queue context as a notice (R434). -/
def noticeQueue (s : State) (qid : Nat) (n : Notice) : State :=
  modQueue s qid (fun c => { c with notices := c.notices ++ [n] })

/-- The saved entry of a queue context whose process is not loaded holds a notice: NOTICE is set in its image (R430, R434). -/
def holdNotice (s : State) (c : SavedCtx) (n : Notice) : State :=
  let pa := c.pas.getD 2 0 + 0xC
  let s := { s with saved := s.saved.map (fun x => if x = c then { c with notices := c.notices ++ [n] } else x) }
  homeWrite s none pa [homeRead s pa ||| 2]

/-- A notice for the queue context that issued a grid's LAUNCH: to the context where its process is loaded, else to its saved entry (R434). -/
def noticeIssuer (s : State) (g : Grid) (n : Notice) : State :=
  if (match tabFind s.queues g.qid with | some c => decide (c.inst = g.inst) | none => false) then noticeQueue s g.qid n
  else match s.saved.find? (fun c => decide (c.vf = g.vf) && decide (c.inst = g.inst)) with
    | some c => holdNotice s c n
    | none => s

/-- The notice of a trapped group (R434, R435). -/
def noticeOf (gid : Nat) (r : TrapRec) : Notice :=
  { info := noticeInfo r.trap.cause, aux := r.trap.aux, recAt := r.addr, gh := handleOf gid }

/-- The group that a handle names, if it is TRAPPED: tag in [31:16], GRPIX in [15:12], the rest 0 (R253). -/
def groupOfHandle (s : State) (gh : Word) : Option Nat :=
  let gid := gh.toNat / 4096
  if gh.toNat % 4096 = 0 ∧ (tabFind s.groups gid).isSome ∧ (getGroup s gid).run = .trapped then some gid else none

/-- PASSGH: a trap that went to PL2 is passed on to the PL1 context that issued the grid's LAUNCH (R434). -/
def passGh (s : State) (vf : Nat) (gh : Word) : State :=
  match groupOfHandle s gh with
  | some gid =>
    match (getGroup s gid).trap with
    | some r =>
      if (gridOf s gid).vf = vf ∧ r.hv then noticeIssuer s (gridOf s gid) (noticeOf gid r) else s
    | none => s
  | none => s

/-- CHRCTL with RESTART clears the halt of a ring (R435). -/
def restartRing (s : State) (vf pkg : Nat) : State :=
  if pkg < Config.packages then
    let s := setRing s pkg vf { getRing s pkg vf with halted := false }
    setVf s vf { getVf s vf with chhalt := (getVf s vf).chhalt &&& ~~~(BitVec.ofNat 48 (2 ^ pkg)) }
  else s

/-! ## Queue-context registers -/

def queueOfCur (s : State) : Nat := match s.cur with | .queue q => q | _ => 0

/-- The VF of a VF-scope register: the context's own, or for the firmware's contexts the one VFSEL names (R435, R469; log 60). -/
def regVf (s : State) : Nat :=
  let qid := queueOfCur s
  if qid / 64 = hostVf then (getQueue s qid).vfsel.toNat % 32 else qid / 64

/-- The VF that VFSEL names, on which the registers marked VF of R469 act. -/
def selVf (s : State) : Nat := (getQueue s (queueOfCur s)).vfsel.toNat % 32

def procSlot (s : State) : PSlot := slotOf s (queueOfCur s / 64) (getQueue s (queueOfCur s)).slot
def setProcSlot (s : State) (p : PSlot) : State := setSlot s (queueOfCur s / 64) (getQueue s (queueOfCur s)).slot p

def srQueueWord (s : State) (n : Nat) : Word :=
  let qid := queueOfCur s
  let q := getQueue s qid
  let v := getVf s (regVf s)
  match n with
  | 0x108 => q.trinfo
  | 0x109 => q.traux
  | 0x10C => q.trgh
  | 0x10D => BitVec.ofNat 32 (qid % 64 + q.slot * 256 + qid / 64 % 32 * 65536)
  | 0x115 => BitVec.ofNat 32 (v.mincl + v.mintile * 65536 + (if v.scaled then 2 ^ 31 else 0))
  | 0x116 => BitVec.ofNat 32 v.minbw
  | 0x11C => v.hvctx
  | _ => 0

def srQueuePair (s : State) (n : Nat) : DWord :=
  let q := getQueue s (queueOfCur s)
  let v := getVf s (regVf s)
  match n with
  | 0x100 => (procSlot s).gtrt
  | 0x102 => (procSlot s).grdt
  | 0x104 => (procSlot s).tvec
  | 0x106 => q.trpc
  | 0x10A => q.trrec
  | 0x10E => v.qtab
  | 0x110 => v.chfslot
  | 0x112 => v.chhalt.setWidth 64
  | 0x118 => v.hvvec
  | _ => 0

def setSrQueue (s : State) (n : Nat) (w : Word) : State :=
  match n with
  | 0x108 => modQueue s (queueOfCur s) (fun q => { q with trinfo := w &&& 0x33FF })
  | 0x114 => if w.getLsbD 8 then restartRing s (regVf s) (w.toNat % 64) else s
  | 0x11A => passGh s (regVf s) w
  | 0x11C => writeHvctx s (regVf s) w
  | _ => s

/-- GTRT, GRDT, HTRT and HRDT keep their reserved bits 0 (R388). -/
def rootMask : DWord := 0x3FFFFFFFFFFFFFFF
def rangeMask : DWord := 0x01FFFFFFFFFFE1FF

/-- HTRT and HRDT as written: reserved bits read 0, LOGR and RCNT are clamped (R388; 15_platform R469). -/
def hostRoot (w : DWord) : DWord := BitVec.ofNat 64 (min 18 (bits w.toNat 61 57) * 2 ^ 57 + bits w.toNat 56 12 * 4096)
def hostRange (w : DWord) : DWord := BitVec.ofNat 64 (bits w.toNat 56 13 * 8192 + min 256 (bits w.toNat 8 0))

/-- A queue context of the same VF and slot as the executing one. -/
def sameSlot (s : State) (qid : Nat) : Bool :=
  decide (qid / 64 = queueOfCur s / 64) && decide ((getQueue s qid).slot = (getQueue s (queueOfCur s)).slot)

/-- A space whose roots are the slot's follows a write of them that keeps its ASID (R435; log 24). -/
def followRoots (old new : PSlot) (x : Space) : Space :=
  if x.gtrt = old.gtrt ∧ x.grdt = old.grdt ∧ new.gtrt.toNat % 4096 = x.asid then { x with gtrt := new.gtrt, grdt := new.grdt } else x

/-- GTRT or GRDT of the executing context's slot is written: the process's walks that start after it use the new roots, those of its grids and of work in progress too (R435; log 24). -/
def setRoots (s : State) (new : PSlot) : State :=
  let old := procSlot s
  let follow (qid : Nat) (x : Space) : Space := if sameSlot s qid then followRoots old new x else x
  let issuer (w : Work) : Nat := match w.agent with | .queue q => q | _ => (getGrid s w.grid).qid
  let t := { s with
    grids := s.grids.map (fun p => (p.1, { p.2 with space := follow p.2.qid p.2.space })),
    works := s.works.map (fun w => { w with space := follow (issuer w) w.space }) }
  setProcSlot t new

def setSrQueuePair (s : State) (n : Nat) (w : DWord) : State :=
  let v := getVf s (regVf s)
  match n with
  | 0x100 => setRoots s { procSlot s with gtrt := w &&& rootMask }
  | 0x102 => setRoots s { procSlot s with grdt := w &&& rangeMask }
  | 0x104 => setProcSlot s { procSlot s with tvec := w }
  | 0x106 => modQueue s (queueOfCur s) (fun q => { q with trpc := w })
  | 0x110 => setVf s (regVf s) { v with chfslot := w &&& 0xFFFFFFFFFFFFF000 }
  | 0x118 => setVf s (regVf s) { v with hvvec := w }
  | _ => s

/-! ## Platform registers (R469) -/

/-- A field of w clamped to its limits. -/
def clampField (w : Word) (hi lo mn mx : Nat) : Nat := (max mn (min mx (bits w.toNat hi lo))) * 2 ^ lo

def srPlatWord (s : State) (n : Nat) : Word :=
  let v := getVf s (selVf s)
  if n = 0x200 then (getQueue s (queueOfCur s)).vfsel
  else if n = 0x206 then v.msetc
  else if 0x208 ≤ n ∧ n ≤ 0x20F then tabGet v.mset (n - 0x208) 0
  else if n = 0x210 then BitVec.ofNat 32 v.weight
  else if n = 0x211 then v.vfpcap
  else if n = 0x212 then s.snapen
  else if n = 0x214 then BitVec.ofNat 32 v.agtlen
  else if 0x218 ≤ n ∧ n ≤ 0x21F then (tabGet s.l2pwm (n - 0x218) 0xFFFF).setWidth 32
  else if 0x220 ≤ n ∧ n ≤ 0x23F then tabGet s.chewt (n - 0x220) 0x0A01
  else if n = 0x240 then s.dthr
  else if n = 0x241 then s.fitper
  else if n = 0x242 then s.leaseto
  else if n = 0x243 then s.wdlim
  else if n = 0x244 then s.pwrcap
  else if n = 0x245 then BitVec.ofNat 32 (s.throttle % 4 * 2 ^ 30) ||| s.draw.setWidth 32
  else if n = 0x24A then s.errcnt
  else if 0x300 ≤ n ∧ n ≤ 0x3BF then tabGet s.charb (n - 0x300) 0x0301
  else if 0x3C0 ≤ n ∧ n ≤ 0x3FF then tabGet s.camp (n - 0x3C0) 0
  else 0

def srPlatPair (s : State) (n : Nat) : DWord :=
  let v := getVf s (selVf s)
  if n = 0x202 then v.htrt else if n = 0x204 then v.hrdt else s.errlog

def setSrPlat (s : State) (n : Nat) (w : Word) : State :=
  let vf := selVf s
  let v := getVf s vf
  if n = 0x200 then modQueue s (queueOfCur s) (fun q => { q with vfsel := w &&& 0x1F })
  else if n = 0x206 then setVf s vf { v with msetc := BitVec.ofNat 32 (clampField w 2 0 0 4) }
  else if 0x208 ≤ n ∧ n ≤ 0x20F then setVf s vf { v with mset := tabPut v.mset (n - 0x208) (w &&& 0x01FF01FF) }
  else if n = 0x210 then setVf s vf { v with weight := clampField w 3 0 1 15 }
  else if n = 0x211 then setVf s vf { v with vfpcap := w }
  else if n = 0x212 then { s with snapen := w }
  else if n = 0x214 then setVf s vf { v with agtlen := clampField w 16 0 0 65536 }
  else if 0x218 ≤ n ∧ n ≤ 0x21F then { s with l2pwm := tabPut s.l2pwm (n - 0x218) (w.extractLsb' 0 16) }
  else if 0x220 ≤ n ∧ n ≤ 0x23F then { s with chewt := tabPut s.chewt (n - 0x220) (BitVec.ofNat 32 (clampField w 15 8 1 255 + clampField w 3 0 0 15)) }
  else if n = 0x240 then { s with dthr := w }
  else if n = 0x241 then { s with fitper := BitVec.ofNat 32 (clampField w 31 0 1 600) }
  else if n = 0x242 then { s with leaseto := BitVec.ofNat 32 (clampField w 31 0 1 1000000) }
  else if n = 0x243 then { s with wdlim := BitVec.ofNat 32 (clampField w 31 0 1 10000) }
  else if n = 0x244 then { s with pwrcap := BitVec.ofNat 32 (clampField w 31 0 600 2400) }
  else if 0x300 ≤ n ∧ n ≤ 0x3BF then { s with charb := tabPut s.charb (n - 0x300) (BitVec.ofNat 32 (clampField w 15 8 1 255 + clampField w 7 0 0 255)) }
  else if 0x3C0 ≤ n ∧ n ≤ 0x3FF then { s with camp := tabSet s.camp (n - 0x3C0) w 0 }
  else s

/-- HTRT: LOGR at most 18, ASID reserved; HRDT: RCNT at most 256 (R388, R469). -/
def setSrPlatPair (s : State) (n : Nat) (w : DWord) : State :=
  let vf := selVf s
  let v := getVf s vf
  if n = 0x202 then
    setVf s vf { v with htrt := hostRoot w }
  else if n = 0x204 then
    setVf s vf { v with hrdt := hostRange w }
  else { s with errlog := w &&& 0xFFFFFFFFFFFFF00F }

/-! ## SRD and SWR -/

def srWord (s : State) (n : Nat) : Word :=
  if n < 0x100 then srGroupWord s n else if n < 0x200 then srQueueWord s n else srPlatWord s n

def srPair (s : State) (n : Nat) : DWord :=
  if n < 0x100 then srGroupPair s n else if n < 0x200 then srQueuePair s n else srPlatPair s n

def setSrWord (s : State) (n : Nat) (w : Word) : State :=
  if n < 0x100 then setSrGroup s n w else if n < 0x200 then setSrQueue s n w else setSrPlat s n w

def setSrPair (s : State) (n : Nat) (w : DWord) : State :=
  if n < 0x100 then setSrGroupPair s n w else if n < 0x200 then setSrQueuePair s n w else setSrPlatPair s n w

/-- A lane register is written: FCSR or PRED (R90). -/
def setSrLane (s : State) (n lane : Nat) (w : Word) : State :=
  if n = 0x010 then setFcsr s lane w else setPred s lane w

/-- MFR waits for the matrix operations issued earlier (R78), and PRED for the predicates that lane loads have yet to write (08 R275; log 82). -/
def srWait (s : State) (n : Nat) : Except Stop Unit :=
  if n = 0x011 ∧ matrixBusy s (groupOfCur s) then .error (.wait .work)
  else if n = 0x012 ∧ duePreds s ≠ [] then .error (.wait .accesses)
  else .ok ()

def srdBody (s : State) (d : BitVec 7) (n : Nat) : Except Stop State := do
  let i ← srCheck s n d false
  readCheck s [] (i.kind.fields d)
  srWait s n
  return match i.kind with
    | .lane => putLanes s d.toNat (laneList s) (srLane s n)
    | .word => writeSReg s d (if i.acc = .wo then 0 else srWord s n)
    | .pair => writeSPair s d (srPair s n)

def swrBody (s : State) (d : BitVec 7) (n : Nat) : Except Stop State := do
  let i ← srCheck s n d true
  readCheck s (i.kind.fields d) []
  srWait s n
  return match i.kind with
    | .lane => (laneList s).foldl (fun t l => setSrLane t n l (readField s d.toNat l)) s
    | .word => setSrWord s n (readSReg s d)
    | .pair => setSrPair s n (readSPair s d)

end Sys2Proof.Machine
end

