-- ==== Sys2Proof/Machine/Access.lean ====
section
/-! DEFINITION. Memory accesses of lanes: windows and faults (05_core_memory R160-R162, R171; 10_die_memory R336), store queues and the way home (R163-R166, R310-R320; 16_fabric R483-R487), pending loads and atomics (R88, R168, R331), and what acquires apply (R311, R483). -/

namespace Sys2Proof.Machine

/-! ## Windows (R160) -/

inductive Win where
  | glob | priv | spad | clu | bad
  deriving DecidableEq, Repr

def winOf (ea : Nat) : Win :=
  if ea < 2 ^ 57 then .glob
  else match ea / 2 ^ 56 with
    | 0xFE => .priv
    | 0xFD => .spad
    | 0xFC => .clu
    | _ => .bad

/-- The bits that a window's layout marks zero are 0, and the cluster number is below 12. -/
def layoutOk (w : Win) (ea : Nat) : Bool :=
  match w with
  | .spad => decide (bits ea 39 19 = 0)
  | .clu => decide (bits ea 55 44 = 0) && decide (bits ea 39 22 = 0) && decide (bits ea 43 40 < Config.clusters)
  | _ => true

/-- The space code of SPTEST (R160, R176). -/
def spaceCode (ea : Nat) : Nat :=
  let w := winOf ea
  if !layoutOk w ea then 4
  else match w with
    | .glob => 0 | .priv => 1 | .spad => 2 | .clu => 3 | .bad => 4

def allWindows (_ : Win) : Bool := true

/-- What a generic address names (R162): a VA, or a place in a scratchpad or a cluster's memory. -/
inductive Target where
  | va (a : Nat)
  | spad (tag off : Nat)
  | clu (c off : Nat)
  deriving DecidableEq, Repr

def spaceInvalid (aux ea : Nat) : Stop := .trap { cause := 0x06, aux := BitVec.ofNat 32 aux, va := BitVec.ofNat 64 ea }
def spaceForeign (found own ea : Nat) : Stop :=
  .trap { cause := 0x07, va := BitVec.ofNat 64 ea, tagF := BitVec.ofNat 16 found, tagO := BitVec.ofNat 16 own }

def ownTag (s : State) : Nat := match groupOfAgent s.cur with | some g => tagOf g | none => 0
def ownSpad (s : State) : Nat := match groupOfAgent s.cur with | some g => (teamOf s g).spadSize | none => 0
def ownCluster (s : State) : Option Nat := (coreOf s).map clusterOfCore

def isGroupCtx (s : State) : Bool := match s.cur with | .group _ => true | _ => false

/-- The thread index of R161. -/
def threadIndex (s : State) (lane : Nat) : Nat :=
  match s.cur with
  | .group g => ((teamOf s g).index * (teamOf s g).ngrp + gixOf g) * 64 + lane
  | _ => 0

/-- The checks of R162 for n bytes at a generic address, and what it names. -/
def resolve (s : State) (lane ea n : Nat) (perm : Win → Bool) : Except Stop Target :=
  let w := winOf ea
  if w = .bad then .error (spaceInvalid 0 ea)
  else if !layoutOk w ea then .error (spaceInvalid 1 ea)
  else if !perm w || (decide (w = .priv) && !isGroupCtx s) then .error (spaceInvalid 3 ea)
  else match w with
    | .priv =>
      let g := gridOf s (groupOfCur s)
      let o := ea % 2 ^ 56
      if g.ps < o + n then .error (spaceInvalid 2 ea)
      else .ok (.va ((g.pb.toNat + threadIndex s lane * g.ps + o) % 2 ^ 64))
    | .spad =>
      let tag := bits ea 55 40
      if tag ≠ ownTag s ∨ tag = 0 then .error (spaceForeign tag (ownTag s) ea)
      else if ownSpad s < bits ea 18 0 + n then .error (spaceInvalid 2 ea)
      else .ok (.spad tag (bits ea 18 0))
    | .clu =>
      let c := bits ea 43 40
      match ownCluster s with
      | some o => if c = o then .ok (.clu c (bits ea 21 0)) else .error (spaceForeign c o ea)
      | none => .error (spaceForeign c 0 ea)
    | _ => .ok (.va ea)

/-! ## Places -/

/-- Is the granule of a cluster-memory byte assigned to the VF, or the access above PL1 (08_cluster_sequence R262)? -/
def granuleOk (s : State) (vf pl c off : Nat) : Bool :=
  decide (2 ≤ pl) || decide (tabGet (getCluster s c).owner (off / 65536) 0 = vf + 1)

def integrity (cls pa ea : Nat) : Stop := .trap { cause := 0x0C, aux := BitVec.ofNat 32 cls, va := BitVec.ofNat 64 ea, pa := pa }

/-- The class of an error that an access to a byte meets (15_platform R465), and the PA that the error log has for it: 0 where the byte has none (log 95). -/
def locBad (s : State) : Loc → Option (Nat × Nat)
  | .glob pa => (badClass s pa).map (fun c => (c, pa))
  | l => if isStruck s (.byte l) then some (0x02, 0) else none

/-- The first byte that cannot be served, of those that `skip` does not pass. -/
def firstBad (s : State) (locs : List Loc) (skip : Nat → Nat → Bool) : Option (Nat × Nat) :=
  locs.findSome? (fun l => (locBad s l).bind (fun e => if skip e.1 e.2 then none else some e))

/-- Is a byte's line held with an error in a core's L1 (15_platform R465)? -/
def copyBad (s : State) (core : Option Nat) (locs : List Loc) : Option (Nat × Nat) :=
  match core with
  | none => none
  | some c => locs.findSome? (fun l => match l with
    | .glob pa => (match tabFind (getCore s c).s (lineOf pa) with
      | some e => if e.bad then some (0x02, pa) else none
      | none => none)
    | _ => none)

/-- One element of an access: its lane, its generic address, its bytes and the pages it went through. -/
structure Elem where
  lane : Nat
  ea : Nat
  locs : List Loc
  pages : List PageUse
  deriving DecidableEq, Repr

/-- The bytes that a target names, translated in a space for an agent of a core. -/
def locate (s : State) (core : Option Nat) (sp : Space) (ea : Nat) (t : Target) (n : Nat) (k : Acc) : Except Stop ((List Loc × List PageUse) × State) :=
  match t with
  | .spad tag off => .ok (((List.range n).map (fun i => .spad tag (off + i)), []), s)
  | .clu c off =>
    if granuleOk s sp.vf sp.pl c off && granuleOk s sp.vf sp.pl c (off + n - 1) then .ok (((List.range n).map (fun i => .clu c (off + i)), []), s)
    else .error (.trap { cause := 0x09, aux := BitVec.ofNat 32 k.code, va := BitVec.ofNat 64 ea })
  | .va a =>
    match translateRun s core sp a n k with
    | .ok (ps, s) => .ok (((List.range n).map (fun i => .glob (pageLookup ps (a + i))), ps.map (fun p => { vf := sp.vf, asid := sp.asid, page := p.page, gpa := p.gpa })), s)
    | .error x => .error (demandBit s a (x.toTrap ea (limitHit s)))

/-- What an access asks of one element: its width in bytes, the kind, the alignment, the windows, whether a .det grid forbids it outside its own scratchpad (R317), which errors it passes, and whether the L1 may serve it. -/
structure Want where
  n : Nat
  k : Acc
  align : Nat
  perm : Win → Bool := allWindows
  det : Bool := false
  skip : Nat → Nat → Bool := fun _ _ => false
  /-- a weak load, which the L1 may serve -/
  weak : Bool := false

def gridIsDet (s : State) : Bool := match groupOfAgent s.cur with | some g => (gridOf s g).det | none => false

/-- One element: R162, ALIGN, DET_VIOLATION, translation and INTEGRITY, in the order of R171 and R336. -/
def element (s : State) (w : Want) (lane privLane ea : Nat) : Except Stop (Elem × State) := do
  let t ← resolve s privLane ea w.n w.perm
  if ea % w.align ≠ 0 then throw (.trap { cause := 0x05, va := BitVec.ofNat 64 ea })
  if w.det && gridIsDet s && (match t with | .spad _ _ => false | _ => true) then throw (.trap { cause := 0x0D })
  let ((locs, pages), s) ← locate s (coreOf s) (spaceOf s) ea t w.n w.k
  match (firstBad s locs w.skip).or (if w.weak then copyBad s (coreOf s) locs else none) with
  | some (c, pa) => throw (integrity c pa ea)
  | none => return ({ lane := lane, ea := ea, locs := locs, pages := pages }, s)

/-! ## All lanes -/

/-- The position of a cause in the order of R171 and R336. -/
def causeRank (c : Nat) : Nat :=
  match c with
  | 0x06 => 0 | 0x07 => 1 | 0x05 => 2 | 0x0D => 3 | 0x08 => 4 | 0x09 => 5 | _ => 6

/-- The faults that lanes met, ascending. -/
abbrev Met := List (Nat × Trap)

/-- The trap that an instruction reports: the earliest cause, its lowest lane's values, the lanes that met it. -/
def reportOf (m : Met) : Option Trap :=
  let rank (t : Trap) : Nat := causeRank t.cause
  let best := m.foldl (fun (b : Nat) (p : Nat × Trap) => min b (rank p.2)) 7
  match m.find? (fun (p : Nat × Trap) => decide (rank p.2 = best)) with
  | none => none
  | some (_, t) => some { t with lanes := some (maskOf ((m.filter (fun (p : Nat × Trap) => decide (rank p.2 = best))).map (fun p => p.1))) }

/-- Runs f in each lane, ascending; a wait of any lane is the instruction's wait. -/
def eachLane {α : Type} (f : State → Nat → Except Stop (α × State)) : List Nat → State → Except Stop ((List α × Met) × State)
  | [], s => .ok (([], []), s)
  | l :: r, s =>
    match f s l with
    | .ok (e, s) => do
      let ((es, m), s) ← eachLane f r s
      return ((e :: es, m), s)
    | .error (.wait w) => .error (.wait w)
    | .error (.trap t) => do
      let ((es, m), s) ← eachLane f r s
      return ((es, (l, t) :: m), s)

/-- The elements of an access in the given lanes. DET_VIOLATION is whole-group (R336); a context without lanes takes its fault at once. -/
def elementsIn (s : State) (w : Want) (uniform : Bool) (lanes : List Nat) (ea : Nat → Nat) : Except Stop ((List Elem × Met) × State) := do
  let f := freeNat s
  let s := if uniform && decide (winOf (ea 0) = .priv) then f.2 else s
  let ((es, m), s) ← eachLane (fun s l => element s w l (if uniform then f.1 % 64 else l) (ea l)) lanes s
  match reportOf m with
  | some t => if t.cause = 0x0D then throw (.trap { cause := 0x0D }) else if isGroupCtx s then return ((es, m), s) else throw (.trap { t with lanes := none })
  | none => return ((es, m), s)

/-- The lanes in which an access acts: `uniform` once for the group. -/
def accessLanes (s : State) (uniform : Bool) : List Nat := if uniform then [0] else laneList s

/-- The elements of an access in its lanes. -/
def elements (s : State) (w : Want) (uniform : Bool) (ea : Nat → Nat) : Except Stop ((List Elem × Met) × State) :=
  elementsIn s w uniform (accessLanes s uniform) ea

/-- Every error that lanes met is logged, one that several met once (15_platform R468). -/
def noteErrors (s : State) (m : Met) : State :=
  (m.map (fun p => (p.2.cause, p.2.aux, p.2.pa))).eraseDups.foldl (fun s e => noteError s e.1 e.2.1 e.2.2 (vfOf s)) s

/-- The instruction ends: it goes on, or its lane-masked fault is taken or deferred (R247). It has issued, so its queue registers are popped (R30; log 25). -/
def completeLanes (us : List Use) (len : Nat) (uniform : Bool) (m : Met) (s : State) : State :=
  match reportOf m, s.cur with
  | some t, .group gid =>
    let act := activeMask (getGroup s gid)
    let t := if uniform then { t with lanes := some act } else t
    let parked := if uniform then act else maskOf (m.map (·.1))
    let s := noteErrors s m
    laneFault (popQsFault s (us.flatMap Use.sources)) gid t parked len
  | _, _ => finish us len s

/-! ## Store queues and the way home -/

def sqOf (s : State) (gid : Nat) : List StoreEnt := (getGroup s gid).sq

def StoreEnt.locs (e : StoreEnt) : List Loc := e.parts.flatMap (fun p => p.writes.map (·.1))

def isRemote (s : State) : Loc → Bool
  | .glob pa => !isLocal s pa
  | _ => false

def stamp (s : State) : Nat × State := (s.seq, { s with seq := s.seq + 1 })

/-- The agent's accesses that have not returned, of those stamped before q. -/
def pendingOf (s : State) (a : Agent) (q : Nat) : List Pending := s.pending.filter (fun p => decide (p.agent = a) && decide (p.seq < q))

def outOf (s : State) (gid : Nat) : List StoreEnt := (getCore s (coreOfGroup s gid)).out.filter (fun e => e.gid = gid)

/-- Have all stores of a group performed where engines read (R166)? -/
def storesDone (s : State) (gid : Nat) : Bool := (sqOf s gid).isEmpty && (outOf s gid).isEmpty

/-- Have the stores performed at a scope: core the store queue, die the local homes, fabric all homes (R179, R485, R486)? -/
def storesAt (s : State) (gid : Nat) (sc : Scope) : Bool :=
  (sqOf s gid).isEmpty &&
  (match sc with
   | .core => true
   | .fab => (outOf s gid).isEmpty
   | _ => (outOf s gid).all (fun e => e.locs.any (isRemote s)))

/-- An access waits while an acquire of its agent has not returned (R170). -/
def acquiring (s : State) : Bool := s.pending.any (fun p => decide (p.agent = s.cur) && p.acq.isSome)

def queueHas (s : State) (f : StoreEnt → Bool) : Bool := match s.cur with | .group g => (sqOf s g).any f | _ => false

def StoreEnt.isStfe (e : StoreEnt) : Bool := decide (e.kind = .stfe)
def StoreEnt.isRed (e : StoreEnt) : Bool := match e.kind with | .red _ _ => true | _ => false
def StoreEnt.isFence (e : StoreEnt) : Bool := match e.kind with | .fence _ => true | _ => false

/-- Does a hold stop requests for a location? -/
def locHeld (s : State) : Loc → Bool
  | .glob pa => vlHeld s 0 pa
  | _ => false

/-- The core number of an access by a queue context, which has no L1 (R5, R154). -/
def noCore : Nat := 2 ^ 20

/-- Drops the S copies of a core that an acquire at a scope applies to (R311, R483). -/
def applyAcquire (s : State) (core : Nat) (sc : Scope) : State :=
  let keep (p : Nat × L1Line) : Bool :=
    match sc with
    | .core => true
    | .fab => !p.2.inval && isLocal s (p.1 * lineSize)
    | _ => !p.2.inval
  { s with cores := tabMod s.cores core (fun c => { c with s := c.s.filter keep }) }

def acquireCur (s : State) (sc : Scope) : State := match coreOf s with | some c => applyAcquire s c sc | none => s

/-- A byte of the group's own store queue, newest entry first, highest lane first (R164, R169). -/
def forwardByte (sq : List StoreEnt) (l : Loc) : Option Byte :=
  sq.reverse.findSome? (fun e => if e.kind = .plain ∨ e.kind = .stfe then
    (e.parts.flatMap (·.writes)).reverse.findSome? (fun w => if w.1 = l then some w.2 else none) else none)

def AccKind.isAtomic : AccKind → Bool
  | .atom _ => true
  | .cas => true
  | _ => false

/-- The bytes that a part, or an access, has not read yet. -/
def Src.loc? : Src → Option Loc
  | .at l => some l
  | .byte _ => none

def AccPart.waits (p : AccPart) : List Loc := p.src.filterMap Src.loc?
def Pending.locs (p : Pending) : List Loc := p.parts.flatMap AccPart.waits

/-- Does a load come behind an earlier atomic of another agent of its core on the path to memory off the L1? It returns what the atomic leaves, so what follows the load follows the atomic (R165, R318). -/
def behindAtomic (s : State) (p : Pending) : Bool :=
  !p.kind.isAtomic && s.pending.any (fun r => decide (r.core = p.core) && decide (r.agent ≠ p.agent) && r.kind.isAtomic && decide (r.seq < p.seq)
    && p.locs.any (fun l => !l.isGlob && r.locs.contains l))

/-- Has the executing context an atomic that has not performed, or a load behind another's? Its loads come after that, as total store order asks of them (R165). -/
def atomicOpen (s : State) : Bool := s.pending.any (fun p => decide (p.agent = s.cur) && (p.kind.isAtomic || behindAtomic s p))

/-- Does a RED to a line wait in a core's path? The L1 then serves no load of the line (R312, R315). -/
def redOut (s : State) (core line : Nat) : Bool := (getCore s core).out.any (fun e => e.isRed && e.locs.any (fun l => decide (l.key = line)))

/-- Has the executing context an older access to the line of a byte that has not performed (R312)? -/
def olderOpen (s : State) (l : Loc) : Bool :=
  s.pending.any (fun p => decide (p.agent = s.cur) && p.parts.any (fun x => x.src.any (fun b => match b with
    | .at m => decide (m.key = l.key)
    | .byte _ => false)))

/-- The S copy of a core's L1 line, when it may serve a weak load (R310). -/
def copyByte (s : State) (core : Nat) (pa : Nat) : Option Byte :=
  if olderOpen s (.glob pa) || atomicOpen s || redOut s core (lineOf pa) then none else (tabFind (getCore s core).s (lineOf pa)).map (fun l => l.bytes.getD (pa % lineSize) 0)

/-- Where a byte of a load comes from when it issues (R164, R168). -/
def loadSrc (s : State) (core : Nat) (strong : Bool) (l : Loc) : Src :=
  match (match s.cur with | .group g => forwardByte (sqOf s g) l | _ => none) with
  | some b => .byte b
  | none =>
    match l with
    | .spad tag off => if atomicOpen s then .at l else .byte (spadRead s tag off)
    | .glob pa => if strong then .at l else (match copyByte s core pa with | some b => .byte b | none => .at l)
    | .clu _ _ => .at l

def Src.known : Src → Bool
  | .byte _ => true
  | .at _ => false

def srcBytes (l : List Src) : List Byte := l.map (fun x => match x with | .byte b => b | .at _ => 0)

/-! ## Writing results -/

/-- The words that loaded bytes give: extended to 32 bits when narrower (R168). -/
def loadWords (signed : Bool) (bs : List Byte) : List Word :=
  let v := leNat bs
  match bs.length with
  | 1 => [if signed then (BitVec.ofNat 8 v).signExtend 32 else BitVec.ofNat 32 v]
  | 2 => [if signed then (BitVec.ofNat 16 v).signExtend 32 else BitVec.ofNat 32 v]
  | n => (List.range (n / 4)).map (fun i => BitVec.ofNat 32 (v / 2 ^ (32 * i)))

def writeWords (s : State) (d lane : Nat) (ws : List Word) : State :=
  (ws.foldl (fun (p : State × Nat) w => (writeField p.1 (d + p.2) lane w, p.2 + 1)) (s, 0)).1

/-- Writes the result of a part of an access. -/
def writePart (s : State) (kind : AccKind) (d : Nat) (p : AccPart) : State :=
  let s := writeWords s (d + p.off) (p.lane.getD 0) (loadWords (match kind with | .load sg => sg | _ => false) (srcBytes p.src))
  match kind with
  | .lookup q => setRegs s ((regsOf s).writeP q (p.lane.getD 0) (decide (p.operand ≠ 0)))
  | _ => s

/-- The registers of a destination of n bytes. -/
def dstFields (d n : Nat) : List Nat := (List.range (max 1 (n / 4))).map (fun i => d + i)

/-! ## Issuing loads and stores -/

/-- The bytes of one part: 8 for a weak access of 16, which others may see in halves (R169). -/
def halves (strong : Bool) (n : Nat) : List (Nat × Nat) := if n = 16 ∧ !strong then [(0, 8), (8, 8)] else [(0, n)]

/-- After a TFENCE.walk, a walk for a later access starts once the earlier accesses have performed (13_translation R408). -/
def walkHeld (s : State) : Bool :=
  match s.cur with
  | .group gid =>
    let n := (getGroup s gid).walkSeq
    decide (n ≠ 0) && (!(pendingOf s s.cur n).isEmpty || (sqOf s gid).any (fun e => decide (e.seq < n)) || (outOf s gid).any (fun e => decide (e.seq < n)))
  | _ => false

/-- May a store of the agent issue (R170, R179)? -/
def storeGate (s : State) : Except Stop Unit := if acquiring s || walkHeld s then .error (.wait .accesses) else .ok ()

/-- May a load of the agent issue? Loads also wait for an STFE in the queue (R174). -/
def accessGate (s : State) : Except Stop Unit :=
  if acquiring s || walkHeld s || queueHas s StoreEnt.isStfe then .error (.wait .accesses) else .ok ()

/-- Adds an access that returns later; its destination is empty until then (R88). -/
def addPending (s : State) (kind : AccKind) (core dst n : Nat) (parts : List AccPart) (strong : Bool) (acq rel : Option Scope) (pages : List PageUse) : State :=
  let (q, s) := stamp s
  let p : Pending := { id := s.nextId, seq := q, agent := s.cur, core := core, kind := kind, dst := dst, width := n, parts := parts, strong := strong, acq := acq, rel := rel, pages := pages }
  markEmpty { s with pending := s.pending ++ [p], nextId := s.nextId + 1 } (dstFields dst n)

/-- Scratchpad lines that engine work still writes hold an access (R166). -/
def spadClaimed (s : State) (es : List Elem) : Bool :=
  es.any (fun e => e.locs.any (fun l => match l with | .spad _ _ => claimed s l | _ => false))

/-- Elements of a load: those that the L1, the store queue or the scratchpad serve are done at once, others pend (R168). A context off the cores reads at the homes, in program order (log 13), and its loads return later all the same (R88). -/
def issueLoad (s : State) (dst n : Nat) (signed strong : Bool) (acq : Option Scope) (uniform : Bool) (es : List Elem) : Except Stop State :=
  match coreOf s with
  | none =>
    .ok (addPending s (.load signed) noCore dst n (es.flatMap (fun e => (halves strong n).map (fun h =>
      ({ lane := none, src := ((e.locs.drop h.1).take h.2).map .at, off := h.1 / 4, va := e.ea } : AccPart)))) true acq none (es.flatMap (·.pages)))
  | some core =>
    if spadClaimed s es then .error (.wait .claim)
    else if es.any (fun e => queueHas s (fun q => q.isRed && e.locs.any (fun l => q.locs.contains l))) then .error (.wait .accesses)
    else
      let parts := es.flatMap (fun e => (halves strong n).map (fun h =>
        let src := ((e.locs.drop h.1).take h.2).map (loadSrc s core strong)
        ({ lane := if uniform then none else some e.lane, src := src, off := h.1 / 4, va := e.ea, done := src.all Src.known } : AccPart)))
      if parts.all (·.done) then
        let s := parts.foldl (fun s p => writePart s (.load signed) dst p) s
        .ok (match acq with | some sc => applyAcquire s core sc | none => s)
      else .ok (addPending s (.load signed) core dst n parts strong acq none (es.flatMap (·.pages)))

/-- Puts an entry into the group's store queue of 32 (R163). -/
def enqueue (s : State) (gid : Nat) (e : StoreEnt) : Except Stop State :=
  if 32 ≤ (sqOf s gid).length then .error (.wait .storeQueue)
  else
    let (q, s) := stamp s
    .ok (modGroup s gid (fun g => { g with sq := g.sq ++ [{ e with seq := q, gid := gid }] }))

/-- One part per element and half, with the bytes it stores. -/
def storeParts (mask : Mask) (uniform strong : Bool) (es : List Elem) (val : Nat → List Byte) : List StPart :=
  es.flatMap (fun e => (halves strong e.locs.length).map (fun h =>
    { lanes := if uniform then mask else BitVec.ofNat 64 (2 ^ e.lane), va := e.ea,
      writes := ((e.locs.zip (val e.lane)).drop h.1).take h.2 }))

/-- A store of a context off the cores performs at the homes as it issues: after the context's accesses to the line, and all of them when it is strong (log 13). One that its home cannot serve writes nothing, and is logged (16_fabric R487). -/
def storeHome (s : State) (strong : Bool) (es : List Elem) (val : Nat → List Byte) : Except Stop State :=
  let ls := es.flatMap (·.locs)
  let open' := s.pending.filter (fun p => p.agent = s.cur)
  if ls.any (claimed s) then .error (.wait .claim)
  else if ls.any (locHeld s) || open'.any (fun p => strong || p.locs.any (fun m => ls.any (fun l => decide (m.key = l.key)))) then .error (.wait .accesses)
  else match firstBad s (ls.filter (isRemote s)) (fun _ _ => false) with
    | some (c, pa) => .ok (logError s c pa (vfOf s) true)
    | none => .ok (es.foldl (fun s e => locWrites s none (e.locs.zip (val e.lane))) s)

/-- Stores enter the store queue; a context off the cores stores at the homes at once (log 13). -/
def issueStore (s : State) (kind : StoreKind) (strong : Bool) (rel : Option Scope) (uniform : Bool) (es : List Elem) (val : Nat → List Byte) : Except Stop State :=
  match s.cur with
  | .group gid =>
    if es.isEmpty then .ok s
    else enqueue s gid { seq := 0, gid := gid, kind := kind, parts := storeParts (activeOf s) uniform strong es val, strong := strong, rel := rel, pages := es.flatMap (·.pages) }
  | _ => storeHome s strong es val

/-! ## Performing at core scope (R163) -/

/-- The line of a byte in the core's L1 takes a store of the core (write-through, R310). -/
def updateCopy (s : State) (core : Nat) (w : Loc × Byte) : State :=
  match w.1 with
  | .glob pa => setCore s core { getCore s core with s := tabMod (getCore s core).s (lineOf pa) (fun l => { l with bytes := l.bytes.set (pa % lineSize) w.2 }) }
  | _ => s

/-- Does a load or atomic that has not performed read one of these bytes on this core? -/
def awaited (s : State) (core : Nat) (ls : List Loc) : Bool :=
  s.pending.any (fun p => decide (p.core = core) && p.parts.any (fun x => x.src.any (fun b => match b with
    | .at l => ls.contains l
    | .byte _ => false)))

/-- Do two lists name bytes of one line of another module's memory? Accesses of one group to it perform in issue order (16_fabric R484). -/
def sameRemoteLine (s : State) (a b : List Loc) : Bool := a.any (fun l => isRemote s l && b.any (fun m => decide (m.key = l.key)))

/-- May the head of a group's store queue leave (R165, R170, R174, R179; 16_fabric R484)? -/
def mayLeave (s : State) (core gid : Nat) (e : StoreEnt) : Bool :=
  let mine := pendingOf s (.group gid) e.seq
  let bound (sc : Scope) : List Pending := mine.filter (fun p => decide (sc = .fab) || p.locs.all (fun l => !isRemote s l))
  (match e.kind with
   | .fence sc => (bound sc).isEmpty
   | .stfe => (match e.parts with
     | p :: _ => !awaited s core (p.writes.map (·.1)) && p.writes.all (fun w => match w.1 with | .spad tag off => !tagFull s tag (off / 4) && !claimed s w.1 | _ => true)
     | [] => true)
   | _ => !awaited s core e.locs && e.locs.all (fun l => match l with | .spad _ _ => !claimed s l | _ => true))
  && (match e.rel with | none => true | some sc => (bound sc).isEmpty)
  && mine.all (fun p => !p.kind.isAtomic && !behindAtomic s p && !sameRemoteLine s e.locs p.locs)

/-- Consecutive bytes split where a line ends. -/
def splitLines : List (Loc × Byte) → List (Loc × Byte) → List (List (Loc × Byte))
  | [], acc => if acc = [] then [] else [acc.reverse]
  | w :: r, acc =>
    match acc with
    | [] => splitLines r [w]
    | v :: _ => if v.1.key = w.1.key then splitLines r (w :: acc) else acc.reverse :: splitLines r [w]

/-- The identity of an operation (R315). -/
def redIdentity (op width : Nat) : Nat :=
  if op = 9 then 0x80000000
  else if op = 1 ∨ op = 6 then 2 ^ (8 * width) - 1
  else if op = 4 then 2 ^ (8 * width - 1) - 1
  else if op = 5 then 2 ^ (8 * width - 1)
  else 0

def opBytes (op : Nat) (old new : List Byte) : List Byte :=
  if old.length = 8 then leBytes 8 (memOp op (BitVec.ofNat 64 (leNat old)) (BitVec.ofNat 64 (leNat new))).toNat
  else leBytes 4 (memOp op (BitVec.ofNat 32 (leNat old)) (BitVec.ofNat 32 (leNat new))).toNat

/-- Keeps the version of a block that a RED replaces as it performs: with the partials that combined before it (R317, R328). -/
def keepCombined (s : State) (pa : Nat) : State := keepBlock s (pa / 64) (memReadList (recallLine s (lineOf pa)).mem (pa / 64 * 64) 64)

/-- A RED combines into the core's partial of its word; another operation or width on the line sends it home first (R315). It has performed then (R317), so S copies in other cores have an invalidation waiting, as after a store (R311). -/
def redLocal (s : State) (core pa op width : Nat) (val : List Byte) : State :=
  let line := lineOf pa
  let s := keepCombined s pa
  let same (q : Nat × RedOp) : Bool := lineOf q.1 ≠ line || (decide (q.2.op = op) && decide (q.2.width = width))
  let s := markInval (if (getCore s core).u.all same then s else recallLine s line) line (some core)
  let c := getCore s core
  let old := match tabFind c.u pa with | some r => r.val.toNat | none => redIdentity op width
  let new := opBytes op (leBytes width old) val
  let s := setCore s core { c with s := tabErase c.s line, u := tabPut c.u pa { op := op, width := width, val := BitVec.ofNat 64 (leNat new) } }
  -- a waiter on the line learns of it: the home recalls the partial (14_tenancy R447)
  if waitersAt s line = [] then s else recallLine s line

def dropLine (s : State) (core line : Nat) : State :=
  { s with cores := tabMod s.cores core (fun c => { c with s := tabErase c.s line }) }

/-! ## The core's path to the homes (R310, R318, R320, R484) -/

/-- The home of a byte: a slice of a module, or a cluster's memory. -/
def homeKey : Loc → Nat × Nat
  | .glob pa => (modOf pa, homeSlice pa)
  | .clu c _ => (2 ^ 20, c)
  | .spad tag _ => (2 ^ 21, tag)

def overlaps (a b : StoreEnt) : Bool := a.locs.any (fun l => b.locs.contains l)

/-- A RED to this module's global memory, which combines in L1 and does not go to the home (R315). -/
def StoreEnt.redHere (s : State) (e : StoreEnt) : Bool :=
  e.isRed && (match e.locs with | .glob pa :: _ => isLocal s pa | _ => false)

/-- Does an earlier entry of the core's path hold this one back? -/
def holdsBack (s : State) (f e : StoreEnt) : Bool :=
  let remE := e.locs.any (isRemote s)
  let remF := f.locs.any (isRemote s)
  let byLine := remE || e.redHere s || f.redHere s
  let sameHome := match f.locs, e.locs with
    | a :: _, b :: _ => decide (homeKey a = homeKey b) && (!byLine || decide (a.key = b.key))
    | _, _ => false
  (sameHome && (decide (f.seq ≠ e.seq) || overlaps f e))
  || (decide (f.gid = e.gid) && decide (f.seq ≠ e.seq) &&
      (f.isFence
       || (match e.kind with | .fence sc => decide (sc = .fab) || !remF | _ => false)
       || (match e.rel with | some .core => false | some sc => decide (sc = .fab) || !remF | none => false)
       || (e.strong && f.strong && !remE && !remF)))

/-- May entry i of a core's path perform at its home? -/
def mayPerform (s : State) (core i : Nat) (e : StoreEnt) : Bool :=
  let k := getCore s core
  (k.out.take i).all (fun f => !holdsBack s f e)
  && e.locs.all (fun l => !claimed s l && !locHeld s l)
  && (!e.locs.any (fun l => match l with | .clu _ _ => true | _ => false)
      || s.pending.all (fun p => !(decide (p.core = core) && decide (p.seq < e.left) && p.parts.any (fun x => x.src.any (fun b => match b with
           | .at (.clu _ _) => true
           | _ => false)))))
  && (!e.strong || e.locs.any (isRemote s) || (pendingOf s (.group e.gid) e.seq).all (fun p => !p.strong))

/-- What one part does when its entry leaves the store queue. A RED to this module's global memory drops the S copy and combines in L1 (R315); behind a fence, an earlier store of the core to its line or an engine's claim it waits in the path, and loads of the line wait for it. -/
def leavePart (s : State) (core : Nat) (e : StoreEnt) (p : StPart) : State :=
  match e.kind, p.writes with
  | .feset full, (.spad tag off, _) :: _ => setTag s tag (off / 4) full
  | .red op width, (l, b) :: r =>
    let val := b :: r.map (·.2)
    let toOut (s : State) : State :=
      let (q, s) := stamp s
      setCore s core { getCore s core with out := (getCore s core).out ++ [{ e with parts := [p], left := q }] }
    match l with
    | .spad tag off =>
      let old := (List.range width).map (fun i => spadRead s tag (off + i))
      locWrites s none (p.writes.map (·.1) |>.zip (opBytes op old val))
    | .glob pa =>
      let one := { e with parts := [p], left := s.seq }
      if isLocal s pa && mayPerform s core (getCore s core).out.length one then redLocal s core pa op width val
      else toOut (dropLine s core (lineOf pa))
    | .clu _ _ => toOut s
  | _, _ =>
    (splitLines p.writes []).foldl (fun s ws =>
      match ws with
      | (.spad _ _, _) :: _ => locWrites s none ws
      | _ =>
        let (q, s) := stamp s
        let s := ws.foldl (fun s w => updateCopy s core w) s
        setCore s core { getCore s core with out := (getCore s core).out ++ [{ e with parts := [{ p with writes := ws }], left := q }] }) s

/-- A bad line that an entry covers whole goes home in one part, which makes it good there (15_platform R466). -/
def wholeLines (s : State) (e : StoreEnt) : StoreEnt :=
  let bytes (line : Nat) : List Loc := (List.range lineSize).map (fun i => .glob (line * lineSize + i))
  let lines := (s.badLines ++ s.badLow ++ s.struck.filterMap (fun x => match x with | .l2 n => some n | _ => none)).eraseDups.filter (fun n => (bytes n).all e.locs.contains)
  if e.kind ≠ .plain ∨ lines = [] then e
  else
    let inside (l : Loc) : Bool := lines.contains l.key
    let whole (n : Nat) : StPart := { lanes := (e.parts.map (·.lanes)).foldl (· ||| ·) 0, va := (e.parts.headD { lanes := 0, va := 0, writes := [] }).va,
                                      writes := (bytes n).map (fun l => (l, (forwardByte [e] l).getD 0)) }
    { e with parts := (e.parts.map (fun p => { p with writes := p.writes.filter (fun w => !inside w.1) })).filter (fun p => !p.writes.isEmpty) ++ lines.map whole }

/-- STORE_PERFORM at core scope: the oldest entry leaves, an STFE lane by lane (R173, R174); of any other instruction all lanes perform in this one step, the lowest first, where R169 leaves their order open (log 67). -/
def performCore (s : State) (gid : Nat) : State :=
  let core := coreOfGroup s gid
  match sqOf s gid with
  | [] => s
  | e :: rest =>
    if !mayLeave s core gid e then s
    else match e.kind with
      | .stfe =>
        match e.parts with
        | p :: ps =>
          let s := locWrites s none p.writes
          let s := match p.writes with | (.spad tag off, _) :: _ => setTag s tag (off / 4) true | _ => s
          modGroup s gid (fun g => { g with sq := if ps = [] then rest else { e with parts := ps } :: rest })
        | [] => modGroup s gid (fun g => { g with sq := rest })
      | .fence sc =>
        let s := modGroup s gid (fun g => { g with sq := rest })
        if sc = .core then s
        else
          let (q, s) := stamp s
          setCore s core { getCore s core with out := (getCore s core).out ++ [{ e with left := q }] }
      | _ =>
        let s := (wholeLines s e).parts.foldl (fun s p => leavePart s core e p) s
        modGroup s gid (fun g => { g with sq := rest })

/-! ## Performing at the home (R310, R318, R320, R484) -/

/-- Combines a RED at its home or cluster memory in one step (R317, R333). -/
def redAtHome (s : State) (op : Nat) (ws : List (Loc × Byte)) : State :=
  let s := match ws with | (.glob pa, _) :: _ => serveLine s (lineOf pa) | _ => s
  locWrites s none (ws.map (·.1) |>.zip (opBytes op (ws.map (fun w => locRead s w.1)) (ws.map (·.2))))

/-- A remote access fails when its home cannot serve it (R487): the group learns of it later. -/
def remoteFails (s : State) (e : StoreEnt) : Bool :=
  e.locs.any (fun l => match l with | .glob pa => !isLocal s pa && (badClass s pa).isSome | _ => false)

/-- STORE_PERFORM at the home: entry i of the core's path. -/
def performHome (s : State) (core i : Nat) : State :=
  let k := getCore s core
  match k.out[i]? with
  | none => s
  | some e =>
    if !mayPerform s core i e then s
    else
      let cur := s.cur
      let s := { setCore s core { k with out := k.out.eraseIdx i } with cur := .group e.gid }
      let t := if remoteFails s e then
        let p := e.parts.headD { lanes := 0, va := 0, writes := [] }
        let pa := match e.locs with | .glob pa :: _ => pa | _ => 0
        logError (modGroup s e.gid (fun g => { g with failed := g.failed ++ [(p.lanes, p.va)] })) 0x07 pa (gridOf s e.gid).vf true
      else match e.kind, e.locs with
        | .red op width, .glob pa :: _ =>
          let ws := e.parts.flatMap (·.writes)
          if isLocal s pa then redLocal s core pa op width (ws.map (·.2)) else redAtHome s op ws
        | .red op _, _ => redAtHome s op (e.parts.flatMap (·.writes))
        | .fence _, _ => s
        | _, _ => locWrites s (some core) (e.parts.flatMap (·.writes))
      { t with cur := cur }

/-! ## Performing and returning loads and atomics (R88, R168, R331) -/

def gidOfAgent : Agent → Nat
  | .group g => g
  | .axp g => g
  | _ => 0

def AccKind.isLoad : AccKind → Bool
  | .load _ => true
  | _ => false

/-- Would an atomic perform on bytes that an earlier-issued load of another agent of the core has yet to read? Loads after that one may have performed, so total store order forbids it (R165); a load that follows an atomic of its own agent has not been passed. -/
def overtakes (s : State) (p : Pending) (ls : List Loc) : Bool :=
  s.pending.any (fun q => decide (q.core = p.core) && decide (p.core ≠ noCore) && decide (q.agent ≠ p.agent) && q.kind.isLoad
    && q.locs.any (fun l => l.isGlob && ls.contains l)
    && !s.pending.any (fun r => decide (r.agent = q.agent) && decide (r.seq < q.seq) && r.kind.isAtomic))

/-- May part x of an access perform at its point of coherence? -/
def mayReturn (s : State) (p : Pending) (x : AccPart) : Bool :=
  let out := (getCore s p.core).out
  let ls := x.waits
  let older (q : Pending) : Bool := decide (q.agent = p.agent) && decide (q.seq < p.seq)
  -- lines: claims, the core's own earlier stores where L1 does not serve, older accesses of the agent (R312, R484)
  ls.all (fun l => !claimed s l && !locHeld s l
    && !(s.pending.any (fun q => older q && q.locs.any (fun m => decide (m.key = l.key))))
    && out.all (fun e => !(decide (e.left < p.seq) && e.locs.any (fun m => decide (m.key = l.key)) &&
        (p.strong || e.isRed || (match l with | .clu _ _ => true | _ => false))))
    -- the group's earlier stores to another module's line perform before its access (R484)
    && (!isRemote s l || (out ++ (match p.agent with | .group g => sqOf s g | _ => [])).all (fun e =>
        !(decide (p.agent = .group e.gid) && decide (e.seq < p.seq) && e.locs.any (fun m => decide (m.key = l.key)))))
    -- the path to cluster memory keeps its order (R318)
    && (match l with
        | .clu _ _ => out.all (fun e => !(decide (e.left < p.seq) && e.locs.any (fun m => match m with | .clu _ _ => true | _ => false)))
            && s.pending.all (fun q => !(decide (q.core = p.core) && decide (q.seq < p.seq) && q.locs.any (fun m => match m with | .clu _ _ => true | _ => false)))
        | _ => true))
  -- strong accesses among themselves (R320, R334)
  && (!p.strong || p.locs.any (isRemote s) || s.pending.all (fun q => !(older q && q.strong && q.locs.any (fun m => !isRemote s m))))
  && (!p.kind.isAtomic ||
      (out.all (fun e => !(decide (e.gid = gidOfAgent p.agent) && decide (e.left < p.seq) && (e.isFence || (e.strong && !e.locs.any (isRemote s) && !p.locs.any (isRemote s)))))
        && !overtakes s p ls))
  -- a load follows its agent's earlier atomics, and every access a load that follows another agent's (R165)
  && s.pending.all (fun q => !(older q && ((q.kind.isAtomic && !p.kind.isAtomic) || behindAtomic s q)))
  && (match p.rel with
      | none => true
      | some sc => (pendingOf s p.agent p.seq).all (fun q => decide (sc ≠ .fab) && q.locs.any (isRemote s)) &&
          out.all (fun e => !(decide (e.gid = gidOfAgent p.agent) && decide (e.left < p.seq) && (decide (sc = .fab) || !e.locs.any (isRemote s)))))

/-- The bytes of a line as a core sees them: the home's, with the core's own stores on their way (R310, R312). -/
def lineSeen (s : State) (core line : Nat) : List Byte :=
  let ws := (getCore s core).out.flatMap (fun e => if e.kind = .plain then e.parts.flatMap (·.writes) else [])
  ws.foldl (fun bs w => match w.1 with
    | .glob pa => if lineOf pa = line then bs.set (pa % lineSize) w.2 else bs
    | _ => bs) (lineBytes s line)

/-- A weak load that misses fills its line in S (R310, R483), but not while a RED of the core to the line is on its way (R315). -/
def fillLine (s : State) (core line : Nat) : State :=
  let s := serveLine (countReq s (line * lineSize)) line
  if redOut s core line then s else setCore s core { getCore s core with s := tabPut (getCore s core).s line { bytes := lineSeen s core line } }

/-- A weak load that performs as it issues: after the accesses that it would come after (R164, R165, R312, R318), from the group's store queue, the core's L1 or the bytes' places. -/
def loadNow (s : State) (locs : List Loc) : Except Stop (List Byte × State) :=
  let core := (coreOf s).getD 0
  let out := (getCore s core).out
  let clu (l : Loc) : Bool := match l with | .clu _ _ => true | _ => false
  let miss (l : Loc) : Bool := match l with | .glob pa => (copyByte s core pa).isNone | _ => true
  let red (e : StoreEnt) : Bool := e.isRed && e.locs.any (fun m => locs.any (fun l => decide (m.key = l.key)))
  if locs.any (fun l => miss l && claimed s l) then .error (.wait .claim)
  else if atomicOpen s || locs.any (fun l => olderOpen s l || (miss l && locHeld s l)) || queueHas s (fun e => e.isRed && e.locs.any locs.contains) || out.any red
      || (locs.any clu && (out.any (fun e => e.locs.any clu) || s.pending.any (fun p => decide (p.core = core) && p.locs.any clu))) then .error (.wait .accesses)
  else
    let s := ((locs.filter (fun l => l.isGlob && miss l)).map Loc.key).eraseDups.foldl (fun s n => fillLine s core n) s
    let own := match s.cur with | .group g => sqOf s g | _ => []
    .ok (locs.map (fun l => (forwardByte own l).getD (match l with | .glob pa => (copyByte s core pa).getD 0 | l => locRead s l)), s)

/-- One load part takes its bytes: weak ones from the L1, which requests a line that it does not hold, once (R310; 18_programs_fabric R512); strong ones at the home. -/
def sampleLoad (s : State) (p : Pending) (x : AccPart) : AccPart × State :=
  let lines := (x.waits.filterMap (fun l => match l with | .glob pa => some (lineOf pa) | _ => none)).eraseDups
  let holds (s : State) (n : Nat) : Bool := (tabFind (getCore s p.core).s n).isSome && !redOut s p.core n
  let s := lines.foldl (fun s n => if p.strong then serveLine (dropLine (countReq s (n * lineSize)) p.core n) n else if holds s n then s else fillLine s p.core n) s
  let byteOf (l : Loc) : Byte := match l with
    | .glob pa => if p.strong then homeRead s pa
      else (if holds s (lineOf pa) then (tabGet (getCore s p.core).s (lineOf pa) { bytes := [] }).bytes else lineSeen s p.core (lineOf pa)).getD (pa % lineSize) 0
    | l => locRead s l
  ({ x with src := x.src.map (fun b => match b with | .at l => .byte (byteOf l) | b => b), done := true }, s)

/-- One atomic part performs as one indivisible step (R331, R332). -/
def sampleAtomic (s : State) (p : Pending) (x : AccPart) : AccPart × State :=
  let ls := x.waits
  let s := match ls with | .glob pa :: _ => serveLine (dropLine s p.core (lineOf pa)) (lineOf pa) | _ => s
  let old := ls.map (locRead s)
  let new := match p.kind with
    | .atom op => opBytes op old (leBytes ls.length x.operand.toNat)
    | _ => if leNat old = x.operand.toNat then leBytes 8 x.swap.toNat else old
  ({ x with src := old.map .byte, done := true }, locWrites s none (ls.zip new))

def samplePart (s : State) (p : Pending) (x : AccPart) : AccPart × State :=
  if x.done then (x, s)
  else match p.kind with
    | .load _ => sampleLoad s p x
    | .value => ({ x with done := true }, s)
    | .lookup _ => ({ x with done := true }, s)
    | _ => sampleAtomic s p x

def setPending (s : State) (p : Pending) : State := { s with pending := s.pending.map (fun q => if q.id = p.id then p else q) }

/-- Performs the parts of an access at these positions, in order, while they may. -/
def samples (s : State) (p : Pending) : List Nat → Pending × State
  | [] => (p, s)
  | i :: r =>
    match p.parts[i]? with
    | none => samples s p r
    | some x =>
      if x.done then samples s p r
      else if !mayReturn s p x then (p, s)
      else
        let (y, s) := samplePart s p x
        let p := { p with parts := p.parts.set i y }
        samples (setPending s p) p r

/-- Parts at the same bytes as part k: an atomic performs them consecutively, ascending (R331). -/
def sameParts (p : Pending) (k : Nat) : List Nat :=
  match p.parts[k]? with
  | none => []
  | some x => if p.kind.isAtomic then (List.range p.parts.length).filter (fun i => match p.parts[i]? with | some y => decide (y.waits = x.waits) | none => false) else [k]

/-- The access returns: its result is written, its destination is full (R88), an acquire applies (R311). -/
def returnAccess (s : State) (p : Pending) : State :=
  let s := { s with cur := p.agent, pending := s.pending.filter (fun q => q.id ≠ p.id) }
  if (match p.agent with | .queue q => (tabFind s.queues q).isNone | _ => false) then s else
  let s := p.parts.foldl (fun s x => writePart s p.kind p.dst x) s
  let s := setRegs s ((dstFields p.dst p.width).foldl (fun r f => r.setEmpty f false) (regsOf s))
  match p.acq with
  | some sc => applyAcquire s p.core sc
  | none => s

/-- Performs the parts from the first one on, those at the same bytes together, until one may not (R331). -/
def samplesAll : Nat → State → Pending → Nat → Pending × State
  | 0, s, p, _ => (p, s)
  | n + 1, s, p, i =>
    let (p, s) := samples s p (sameParts p i)
    if (match p.parts[i]? with | some x => x.done | none => true) then samplesAll n s p (i + 1) else (p, s)

/-- LOAD_DATA_RETURN: part k performs, or all that remain and the result is written. -/
def loadReturn (s : State) (id : Nat) (part : Option Nat) : State :=
  match s.pending.find? (fun p => p.id = id) with
  | none => s
  | some p =>
    match part with
    | some k => (samples s p (sameParts p k)).2
    | none =>
      let (p, s) := samplesAll p.parts.length s p 0
      if p.parts.all (·.done) then returnAccess s p else s

end Sys2Proof.Machine
end

