-- ==== Sys2Proof/Machine/Memory.lean ====
section
/-! DEFINITION. Loads, stores, tagged words, space queries, prefetch, cache control and fences (05_core_memory R167-R179), atomics, reductions and IFENCE (10_die_memory R329-R336). -/

namespace Sys2Proof.Machine

/-! ## Shared forms -/

/-- The generic address of a lane: the base pair plus an offset (R168). -/
def eaOf (s : State) (b : BitVec 7) (off : Int) (lane : Nat) : Nat := (readPair s b.toNat lane + BitVec.ofInt 64 off).toNat

def offOf (o : BitVec 7) (n : Nat) : Int := o.toInt * n

/-- The n bytes that a lane stores from a register, a pair or a quad (R168). -/
def valueBytes (s : State) (d : BitVec 7) (n lane : Nat) : List Byte :=
  if n < 4 then leBytes n (readField s d.toNat lane).toNat
  else (List.range (n / 4)).flatMap (fun i => leBytes 4 (readField s (d.toNat + i) lane).toNat)

/-- The scope at which a strong access acts: by its places, at most the one it names (R170). -/
def narrowScope (es : List Elem) (sc : Scope) : Scope :=
  let ls := es.flatMap (·.locs)
  if ls.any Loc.isGlob then sc
  else if ls.any (fun l => match l with | .clu _ _ => true | _ => false) then (if sc = .core then .core else .clu)
  else .core

/-- A failed remote store is reported here instead (R487): a lane-masked INTEGRITY of its lanes. The instruction has issued, so its queue registers are popped (R30; log 25). -/
def failedReport (s : State) (us : List Use) (sc : Scope) (len : Nat) : Option State :=
  match s.cur with
  | .group gid =>
    match (getGroup s gid).failed with
    | (m, va) :: rest =>
      if sc = .fab then
        some (laneFault (popQsFault (modGroup s gid (fun g => { g with failed := rest })) (us.flatMap Use.sources)) gid
          { cause := 0x0C, aux := 0x07, va := BitVec.ofNat 64 va, lanes := some m } m len)
      else none
    | [] => none
  | _ => none

/-- A load (R168): `acq` is the scope of an acquire. -/
def loadOp (s : State) (opn : Nat) (raw : BitVec 7) (us : List Use) (d b : BitVec 7) (n : Nat) (off : Int) (signed strong : Bool) (acq : Option Scope) : Host.Outcome State Fault Refusal :=
  run s opn raw us (do
    accessGate s
    let ((es, m), t) ← elements s { n := n, k := .read, align := n, weak := !strong } (isS d) (eaOf s b off)
    let acq := acq.map (narrowScope es)
    match acq.bind (fun sc => failedReport t us sc 4) with
    | some t => return t
    | none =>
      let t ← issueLoad t d.toNat n signed strong acq (isS d) es
      return completeLanes us 4 (isS d) m t)

/-- Errors that do not fault a store: of another module, which is reported later (R487); of the bytes of a scratchpad or of cluster memory that it writes (log 95); and of a bad line that it covers whole and makes good (15_platform R466). -/
def storeSkip (covered : List Loc) (c pa : Nat) : Bool :=
  decide (c = 0x07) || decide (c = 0x02) ||
  ((decide (c = 0x03) || decide (c = 0x05)) && (List.range lineSize).all (fun i => covered.contains (.glob (lineOf pa * lineSize + i))))

/-- A store (R168). -/
def storeOp (s : State) (opn : Nat) (raw : BitVec 7) (us : List Use) (d b : BitVec 7) (n : Nat) (off : Int) (strong : Bool) (rel : Option Scope) : Host.Outcome State Fault Refusal :=
  run s opn raw us (do
    storeGate s
    let covered := if s.badLines = [] ∧ s.badLow = [] ∧ s.struck = [] then [] else match elements s { n := n, k := .write, align := n, skip := fun c _ => [0x02, 0x03, 0x05, 0x07].contains c } (isS d) (eaOf s b off) with
      | .ok ((es, _), _) => es.flatMap (·.locs)
      | .error _ => []
    let ((es, m), t) ← elements s { n := n, k := .write, align := n, skip := storeSkip covered } (isS d) (eaOf s b off)
    let rel := rel.map (narrowScope es)
    match rel.bind (fun sc => failedReport t us sc 4) with
    | some t => return t
    | none =>
      let t ← issueStore t .plain strong rel (isS d) es (valueBytes s d n)
      return completeLanes us 4 (isS d) m t)

def scopeOf (b : BitVec 2) : Scope :=
  match b.toNat with
  | 0 => .core | 1 => .clu | 2 => .die | _ => .fab

/-- Bytes of SIZE (R46). -/
def sizeBytes (z : BitVec 3) : Nat :=
  match z.toNat with
  | 0 => 1 | 1 => 1 | 2 => 2 | 3 => 2 | 4 => 4 | 5 => 8 | _ => 16

/-! ## Tagged words (R173-R175) -/

def spadOnly (w : Win) : Bool := decide (w = .spad) || decide (w = .bad)

def wordOf (e : Elem) : Option (Nat × Nat) :=
  match e.locs with
  | .spad tag off :: _ => some (tag, off)
  | _ => none

/-- The steps of LDFE or STFE, lane by lane: the state, and whether every lane is done (R173). -/
def feSteps (gid : Nat) (store : Bool) (d : BitVec 7) (val : Nat → List Byte) : List Elem → State → State × Bool
  | [], s => (s, true)
  | e :: r, s =>
    if (getGroup s gid).feDone.getLsbD e.lane then feSteps gid store d val r s
    else match wordOf e with
      | none => feSteps gid store d val r s
      | some (tag, off) =>
        if tagFull s tag (off / 4) = store ∨ claimed s (.spad tag off) then (s, false)
        else
          let s := if store then locWrites s none (e.locs.zip (val e.lane))
            else writeField s d.toNat e.lane (BitVec.ofNat 32 (leNat (e.locs.map (locRead s))))
          let s := setTag s tag (off / 4) store
          let s := modGroup s gid (fun g => { g with feDone := g.feDone ||| BitVec.ofNat 64 (2 ^ e.lane) })
          feSteps gid store d val r s

/-- LDFE, and STFE of a .det grid, wait at the instruction until every lane has done its step (R173; 07 R229). A lane that has done it is left alone from then on, though its base registers may hold what it loaded. -/
def feBody (s : State) (store : Bool) (us : List Use) (d b o : BitVec 7) : Except Stop State := do
  accessGate s
  match s.cur with
  | .group gid =>
    let s := endRegion s
    let left := (accessLanes s (isS d)).filter (fun l => !(getGroup s gid).feDone.getLsbD l)
    let ((es, m), t) ← elementsIn s { n := 4, k := if store then .write else .read, align := 4, perm := spadOnly } (isS d) left (eaOf s b (offOf o 4))
    if store && !(sqOf s gid).isEmpty then throw (.wait .accesses)
    if (sqOf s gid).any (fun q => es.any (fun e => e.locs.any (fun l => q.locs.contains l))) then throw (.wait .accesses)
    if store && !(pendingOf s (.group gid) s.seq).isEmpty then throw (.wait .accesses)
    let (t, all) := feSteps gid store d (valueBytes s d 4) es t
    if all then return completeLanes us 4 (isS d) m (modGroup t gid (fun g => { g with feDone := 0 }))
    else return modGroup t gid (fun g => { g with run := .waiting (.tag !store) })
  | _ => throw illegal

/-- A tag as the group sees it: its newest queued FESET of the word, else the tag (R164, R175). -/
def tagSeen (s : State) (tag off : Nat) : Bool :=
  let own := match s.cur with | .group gid => sqOf s gid | _ => []
  (own.reverse.findSome? (fun e => match e.kind with
    | .feset f => if e.locs.contains (.spad tag off) then some f else none
    | _ => none)).getD (tagFull s tag (off / 4))

/-! ## Space casts (R177) -/

/-- SPCAST.rel: the offset of an address in the named space. -/
def castRel (s : State) (sp : Nat) (lane ea : Nat) : Except Stop Nat := do
  let _ ← resolve s lane ea 1 allWindows
  match winOf ea, sp with
  | .priv, 0 => return ea % 2 ^ 56
  | .spad, 1 => return bits ea 18 0
  | .clu, 2 => return bits ea 21 0
  | _, _ => throw (spaceInvalid 3 ea)

/-- SPCAST.gen: the generic address of an offset in the executing context's own space. -/
def castGen (s : State) (sp : Nat) (a : Nat) : Except Stop Nat := do
  let limit := if sp = 0 then (gridOf s (groupOfCur s)).ps else if sp = 1 then ownSpad s else 2 ^ 22
  if limit ≤ a then throw (spaceInvalid 2 a)
  if sp = 0 ∧ !isGroupCtx s then throw (spaceInvalid 3 a)
  if sp = 0 then return 0xFE * 2 ^ 56 + a
  if sp = 1 then return 0xFD * 2 ^ 56 + ownTag s * 2 ^ 40 + a
  return 0xFC * 2 ^ 56 + (ownCluster s).getD 0 * 2 ^ 40 + a

/-! ## Cache control (R178) -/

def globOrPriv (w : Win) : Bool := decide (w ≠ .spad) && decide (w ≠ .clu)

def linesOf (es : List Elem) : List Nat :=
  (es.flatMap (·.locs)).filterMap (fun l => match l with | .glob pa => some (lineOf pa) | _ => none) |>.eraseDups

/-- Drops a line from a core's L1; partials of the line go home first when the core holds one (R316). -/
def dropL1 (s : State) (core line : Nat) : State :=
  dropLine (if (getCore s core).u.any (fun q => lineOf q.1 = line) then recallLine s line else s) core line

/-- CCTL line operations: after every earlier store has performed (R178). -/
def cctlOp (s : State) (opn : Nat) (raw : BitVec 7) (us : List Use) (a : BitVec 7) (f : State → Nat → State) : Host.Outcome State Fault Refusal :=
  run s opn raw us (do
    accessGate s
    if !storesDone s (groupOfCur s) then throw (.wait .accesses)
    let ((es, m), t) ← elements s { n := 1, k := .read, align := 1, perm := globOrPriv } (isS a) (eaOf s a 0)
    return completeLanes us 4 (isS a) m ((linesOf es).foldl f t))

def coreOfCur (s : State) : Nat := (coreOf s).getD 0

/-- PREF brings lines into the L1 or the home slice where it can, and never faults (R178). -/
def prefLane (s : State) (a : BitVec 7) (l1 : Bool) (lane : Nat) : State :=
  match element s { n := 1, k := .read, align := 1, perm := globOrPriv } lane lane (eaOf s a 0 lane) with
  | .ok (e, t) => (linesOf [e]).foldl (fun t n => if claimedByOther t none n then t else if l1 then fillLine t (coreOfCur s) n else serveLine (countReq t (n * lineSize)) n) t
  | .error _ => s

/-! ## Fences (R179, R485) -/

/-- Loads that a fence at a scope waits for: remote ones at .fab only (R486). -/
def loadsOpen (s : State) (sc : Scope) : Bool :=
  s.pending.any (fun p => decide (p.agent = s.cur) && (decide (sc = .fab) || p.locs.any (fun l => !isRemote s l) || p.locs.isEmpty))

def fenceBody (s : State) (kind : Nat) (sc : Scope) (us : List Use) : Except Stop State := do
  match s.cur with
  | .group gid =>
    if kind ≠ 3 ∧ loadsOpen s sc then throw (.wait .accesses)
    if kind = 1 ∧ !storesAt s gid sc then throw (.wait .accesses)
    match failedReport s us sc 4 with
    | some t => return t
    | none =>
      let t ← (if kind = 2 then pure s else if storesDone s gid ∧ !loadsOpen s .fab then pure s else enqueue s gid { seq := 0, gid := gid, kind := .fence sc })
      return finish us 4 (if kind = 3 then t else acquireCur t sc)
  | _ => if loadsOpen s .fab then throw (.wait .accesses) else return finish us 4 s

/-! ## Atomics (R330-R334) -/

/-- The scope of an atomic: the widest of its places (R334). -/
def atomScope (s : State) (es : List Elem) : Scope :=
  let ls := es.flatMap (·.locs)
  if ls.any (isRemote s) then .fab
  else if ls.any Loc.isGlob then .die
  else if ls.any (fun l => match l with | .clu _ _ => true | _ => false) then .clu
  else .core

def wideOf (w : BitVec 1) : Nat := if w = 0 then 4 else 8

/-- The value of a register or a pair in a lane. -/
def valueOf (s : State) (f : BitVec 7) (n lane : Nat) : DWord := if n = 8 then readPair s f.toNat lane else (readField s f.toNat lane).setWidth 64

/-- ATOM and CAS: acq and rel say which orders they carry. -/
def atomicOp (s : State) (opn : Nat) (raw : BitVec 7) (us : List Use) (d a : BitVec 7) (n : Nat) (kind : AccKind) (acq rel : Bool) (swap : Nat → DWord) : Host.Outcome State Fault Refusal :=
  run s opn raw us (do
    accessGate s
    if queueHas s (fun _ => true) then throw (.wait .accesses)
    let ((es, m), t) ← elements (endRegion s) { n := n, k := .write, align := n, det := true } (isS d) (eaOf s a 0)
    let sc := atomScope s es
    match (if acq || rel then failedReport t us sc 4 else none) with
    | some t => return t
    | none =>
      let parts := es.map (fun e => ({ lane := if isS d then none else some e.lane, src := e.locs.map .at, operand := valueOf s d n e.lane, swap := swap e.lane } : AccPart))
      let t := if parts = [] then t else addPending t kind ((coreOf s).getD noCore) d.toNat n parts true (if acq then some sc else none) (if rel then some sc else none) (es.flatMap (·.pages))
      return completeLanes us 4 (isS d) m t)

/-! ## IFENCE (R335) -/

/-- IFENCE.local: the core discards its instruction cache. -/
def discardCode (s : State) : State :=
  match coreOf s with
  | some c => setCore { s with seq := s.seq + 1 } c { getCore s c with fetchFrom := s.seq + 1, code := [] }
  | none => s

/-- Every cache drops the blocks of the range, rounded out to lines (R335): their earlier versions are gone. -/
def dropCode (s : State) (va len : Nat) : State :=
  let pages := (pagesOf va len).filterMap (fun p => match lookupRaw s (spaceOf s) (p * 4096) with
    | .ok pa => some (p, pa / 4096)
    | .error _ => none)
  let inRange (blk : Nat) : Bool := pages.any (fun p =>
    decide (p.2 = blk / 64) &&
    decide (va / 128 * 128 < (p.1 * 64 + blk % 64) * 64 + 64) && decide ((p.1 * 64 + blk % 64) * 64 < (va + len + 127) / 128 * 128))
  let clean (c : Core) : Core := { c with code := c.code.filter (fun l => !inRange (2 * l) && !inRange (2 * l + 1)) }
  { s with history := s.history.filter (fun h => !inRange h.1), cores := s.cores.map (fun p => (p.1, clean p.2)) }

/-- R168 LD_B8: Weak zero-extended byte load. -/
def execLdB8 (d : BitVec 7) (b : BitVec 7) (o : BitVec 7) (s : State) : Host.Outcome State Fault Refusal :=
  loadOp s 0x140 o (Uses.ldB8 d b) d b 1 (offOf o 1) false false none

/-- R168 LD_B8_S: Weak sign-extended byte load. -/
def execLdB8S (d : BitVec 7) (b : BitVec 7) (o : BitVec 7) (s : State) : Host.Outcome State Fault Refusal :=
  loadOp s 0x141 o (Uses.ldB8 d b) d b 1 (offOf o 1) true false none

/-- R168 LD_B16: Weak zero-extended halfword load. -/
def execLdB16 (d : BitVec 7) (b : BitVec 7) (o : BitVec 7) (s : State) : Host.Outcome State Fault Refusal :=
  loadOp s 0x142 o (Uses.ldB8 d b) d b 2 (offOf o 2) false false none

/-- R168 LD_B16_S: Weak sign-extended halfword load. -/
def execLdB16S (d : BitVec 7) (b : BitVec 7) (o : BitVec 7) (s : State) : Host.Outcome State Fault Refusal :=
  loadOp s 0x143 o (Uses.ldB8 d b) d b 2 (offOf o 2) true false none

/-- R168 LD_B32: Weak word load. -/
def execLdB32 (d : BitVec 7) (b : BitVec 7) (o : BitVec 7) (s : State) : Host.Outcome State Fault Refusal :=
  loadOp s 0x144 o (Uses.ldB8 d b) d b 4 (offOf o 4) false false none

/-- R168 LD_B64: Weak doubleword load into a pair. -/
def execLdB64 (d : BitVec 7) (b : BitVec 7) (o : BitVec 7) (s : State) : Host.Outcome State Fault Refusal :=
  loadOp s 0x145 o (Uses.ldB64 d b) d b 8 (offOf o 8) false false none

/-- R168 LD_B128: Weak 128-bit load into a quad. -/
def execLdB128 (d : BitVec 7) (b : BitVec 7) (o : BitVec 7) (s : State) : Host.Outcome State Fault Refusal :=
  loadOp s 0x146 o (Uses.ldB128 d b) d b 16 (offOf o 16) false false none

/-- R168 ST_B8: Weak byte store into the store queue. -/
def execStB8 (d : BitVec 7) (b : BitVec 7) (o : BitVec 7) (s : State) : Host.Outcome State Fault Refusal :=
  storeOp s 0x148 o (Uses.stB8 d b) d b 1 (offOf o 1) false none

/-- R168 ST_B16: Weak halfword store. -/
def execStB16 (d : BitVec 7) (b : BitVec 7) (o : BitVec 7) (s : State) : Host.Outcome State Fault Refusal :=
  storeOp s 0x149 o (Uses.stB8 d b) d b 2 (offOf o 2) false none

/-- R168 ST_B32: Weak word store. -/
def execStB32 (d : BitVec 7) (b : BitVec 7) (o : BitVec 7) (s : State) : Host.Outcome State Fault Refusal :=
  storeOp s 0x14A o (Uses.stB8 d b) d b 4 (offOf o 4) false none

/-- R168 ST_B64: Weak doubleword store. -/
def execStB64 (d : BitVec 7) (b : BitVec 7) (o : BitVec 7) (s : State) : Host.Outcome State Fault Refusal :=
  storeOp s 0x14B o (Uses.stB64 d b) d b 8 (offOf o 8) false none

/-- R168 ST_B128: Weak 128-bit store. -/
def execStB128 (d : BitVec 7) (b : BitVec 7) (o : BitVec 7) (s : State) : Host.Outcome State Fault Refusal :=
  storeOp s 0x14C o (Uses.stB128 d b) d b 16 (offOf o 16) false none

/-- R170 LD_STRONG: Strong load with ordering and scope. -/
def execLdStrong (d : BitVec 7) (a : BitVec 7) (z : BitVec 3) (s : BitVec 2) (o : BitVec 2) (st : State) : Host.Outcome State Fault Refusal :=
  let sc := scopeOf s
  loadOp st 0x150 0 (Uses.ldStrong d a z o) d a (sizeBytes z) 0 (decide (z = 1) || decide (z = 3)) true (if o = 2 then some sc else none)

/-- R170 ST_STRONG: Strong store with ordering and scope. -/
def execStStrong (d : BitVec 7) (a : BitVec 7) (z : BitVec 3) (s : BitVec 2) (o : BitVec 2) (st : State) : Host.Outcome State Fault Refusal :=
  let sc := scopeOf s
  storeOp st 0x151 0 (Uses.stStrong d a z o) d a (sizeBytes z) 0 true (if o = 3 then some sc else none)

/-- R173 LDFE: Wait for a full scratchpad word, read it and mark it empty. -/
def execLdfe (d : BitVec 7) (b : BitVec 7) (o : BitVec 7) (s : State) : Host.Outcome State Fault Refusal :=
  run s 0x154 o (Uses.ldB8 d b) (feBody s false (Uses.ldB8 d b) d b o)

/-- R173 STFE: Wait for an empty scratchpad word, write it and mark it full. -/
def execStfe (d : BitVec 7) (b : BitVec 7) (o : BitVec 7) (s : State) : Host.Outcome State Fault Refusal :=
  run s 0x155 o (Uses.stB8 d b) (do
    if gridIsDet s then feBody s true (Uses.stB8 d b) d b o
    else
      storeGate s
      let ((es, m), t) ← elements (endRegion s) { n := 4, k := .write, align := 4, perm := spadOnly } (isS d) (eaOf s b (offOf o 4))
      let t ← issueStore t .stfe false (some .core) (isS d) es (valueBytes s d 4)
      return completeLanes (Uses.stB8 d b) 4 (isS d) m t)

/-- R175 FESET: Set a scratchpad word's tag full or empty. -/
def execFeset (a : BitVec 7) (f : BitVec 1) (s : State) : Host.Outcome State Fault Refusal :=
  run s 0x156 (f.setWidth 7) (Uses.feset a) (do
    storeGate s
    let ((es, m), t) ← elements s { n := 4, k := .write, align := 4, perm := spadOnly } (isS a) (eaOf s a 0)
    let t ← issueStore t (.feset (f = 1)) false none (isS a) es (fun _ => [0, 0, 0, 0])
    return completeLanes (Uses.feset a) 4 (isS a) m t)

/-- R175 FETEST: Test a scratchpad tag into a predicate, in each active lane, also when they share an S address. -/
def execFetest (p : BitVec 7) (a : BitVec 7) (s : State) : Host.Outcome State Fault Refusal :=
  run s 0x157 0 (Uses.fetest p a) (do
    accessGate s
    let ((es, m), t) ← elements s { n := 4, k := .read, align := 4, perm := spadOnly } false (eaOf s a 0)
    let t := es.foldl (fun t e => match wordOf e with
      | some (tag, off) => putPreds t p.toNat [e.lane] (fun _ => tagSeen s tag off)
      | none => t) t
    return completeLanes (Uses.fetest p a) 4 false m t)

/-- R176 SPTEST: Write the window code of a generic address. -/
def execSptest (d : BitVec 7) (a : BitVec 7) (s : State) : Host.Outcome State Fault Refusal :=
  lane0 s 0x158 0 (Uses.sptest d a) 4 d (fun l => BitVec.ofNat 32 (spaceCode (readPair s a.toNat l).toNat))

/-- R177 SPCAST: Convert between generic address and space-relative offset. -/
def execSpcast (d : BitVec 7) (a : BitVec 7) (s : BitVec 2) (g : BitVec 1) (st : State) : Host.Outcome State Fault Refusal :=
  run st 0x159 0 (Uses.spcast d a s) (do
    let lanes := if isS d then [0] else laneList st
    let ((es, m), t) ← eachLane (fun u l => do
      let ea := (readPair u a.toNat l).toNat
      let v ← (if g = 1 then castRel u s.toNat l ea else castGen u s.toNat ea)
      return (({ lane := l, ea := v, locs := [], pages := [] } : Elem), u)) lanes st
    return completeLanes (Uses.spcast d a s) 4 (isS d) m (es.foldl (fun t e => writePair t d.toNat e.lane (BitVec.ofNat 64 e.ea)) t))

/-- R178 PREF: Prefetch a line into L1 or its home L2. -/
def execPref (a : BitVec 7) (l : BitVec 2) (s : State) : Host.Outcome State Fault Refusal :=
  run s 0x15C 0 (Uses.pref a l) (do
    if walkHeld s then throw (.wait .accesses)
    return finish (Uses.pref a l) 4 ((accessLanes s (isS a)).foldl (fun t n => prefLane t a (l = 0) n) s))

/-- R178 CCTL_INV1: Drop a line from this core's L1, sending U partials home. -/
def execCctlInv1 (a : BitVec 7) (s : State) : Host.Outcome State Fault Refusal :=
  cctlOp s 0x15D 0 (Uses.feset a) a (fun t n => dropL1 t (coreOfCur s) n)

/-- R178 CCTL_WB2: Write a dirty L2 line back to LPDDR-6. -/
def execCctlWb2 (a : BitVec 7) (s : State) : Host.Outcome State Fault Refusal :=
  cctlOp s 0x15D 1 (Uses.feset a) a writeBack

/-- R178 CCTL_EVF: Mark a line evict-first in L2. -/
def execCctlEvf (a : BitVec 7) (s : State) : Host.Outcome State Fault Refusal :=
  cctlOp s 0x15D 2 (Uses.feset a) a (fun t n => { t with evictFirst := insertNat t.evictFirst n })

/-- R178 CCTL_INV1ALL: Drop every line of this core's L1. -/
def execCctlInv1all (s : State) : Host.Outcome State Fault Refusal :=
  run s 0x15D 3 [] (do
    accessGate s
    if !storesDone s (groupOfCur s) then throw (.wait .accesses)
    let k := getCore s (coreOfCur s)
    return finish [] 4 ((k.s.map (·.1) ++ k.u.map (fun q => lineOf q.1)).eraseDups.foldl (fun t n => dropL1 t (coreOfCur s) n) s))

/-- R179 FENCE: Order the group's accesses as acquire, release or sc at a scope. -/
def execFence (s : BitVec 2) (k : BitVec 2) (st : State) : Host.Outcome State Fault Refusal :=
  run st 0x15E 0 (Uses.fence k) (fenceBody st k.toNat (scopeOf s) (Uses.fence k))

/-- R331 ATOM: Indivisible read-modify-write at the point of coherence returning the old value. -/
def execAtom (d : BitVec 7) (a : BitVec 7) (o : BitVec 2) (w : BitVec 1) (c : BitVec 4) (s : State) : Host.Outcome State Fault Refusal :=
  atomicOp s 0x160 0 (Uses.atom d a w c) d a (wideOf w) (.atom c.toNat) (o = 1 || o = 3) (o = 2 || o = 3) (fun _ => 0)

/-- R332 CAS: 64-bit compare-and-swap with .ar ordering. -/
def execCas (d : BitVec 7) (a : BitVec 7) (b : BitVec 7) (s : State) : Host.Outcome State Fault Refusal :=
  atomicOp s 0x161 b (Uses.cas d a b) d a 8 .cas true true (readPair s b.toNat)

/-- R333 RED: Reduction combine without returning a value. -/
def execRed (d : BitVec 7) (a : BitVec 7) (o : BitVec 2) (w : BitVec 1) (c : BitVec 4) (s : State) : Host.Outcome State Fault Refusal :=
  run s 0x162 0 (Uses.red d a o w c) (do
    storeGate s
    let ((es, m), t) ← elements (endRegion s) { n := wideOf w, k := .write, align := wideOf w, det := true, skip := fun x _ => decide (x = 0x07) } (isS d) (eaOf s a 0)
    let rel := if o = 2 then some (atomScope s es) else none
    match rel.bind (fun sc => failedReport t (Uses.red d a o w c) sc 4) with
    | some t => return t
    | none =>
      let t ← issueStore t (.red c.toNat (wideOf w)) false rel (isS d) es (valueBytes s d (wideOf w))
      return completeLanes (Uses.red d a o w c) 4 (isS d) m t)

/-- Is a release fence of the group on its way, which orders the stores of code before IFENCE.die (R327)? -/
def codeFencing (s : State) : Bool :=
  match s.cur with
  | .group g => (sqOf s g).any StoreEnt.isFence || (outOf s g).any StoreEnt.isFence
  | _ => false

/-- R335 IFENCE_LOCAL: Discard this core's instruction cache and fetch buffers. -/
def execIfenceLocal (s : State) : Host.Outcome State Fault Refusal :=
  run s 0x163 0 [] (.ok (finish [] 4 (discardCode s)))

/-- R335 IFENCE_DIE: Invalidate a code range in every instruction cache of the module. -/
def execIfenceDie (d : BitVec 7) (a : BitVec 7) (s : State) : Host.Outcome State Fault Refusal :=
  run s 0x163 1 (Uses.ifenceDie d a) (do
    if codeFencing s then throw (.wait .accesses)
    let va := (readSPair s a).toNat
    let len := (readSReg s d).toNat
    let act := activeOf s
    let fault (aux : Nat) : State := laneFault s (groupOfCur s) { cause := 0x06, aux := BitVec.ofNat 32 aux, va := BitVec.ofNat 64 va, lanes := some act } act 4
    if len = 0 then return finish (Uses.ifenceDie d a) 4 (discardCode s)
    else if winOf va ≠ .glob then return fault (if winOf va = .bad then 0 else if !layoutOk (winOf va) va then 1 else 3)
    else if 2 ^ 57 < va + len then return fault 2
    else return finish (Uses.ifenceDie d a) 4 (discardCode (dropCode s va len)))

end Sys2Proof.Machine
end

