-- ==== Sys2Proof/Machine/Barrier.lean ====
section
/-! DEFINITION. Barrier objects and barriers (07_core_sched_traps R232-R245), and the step barrier (03_group R107, R108). -/

namespace Sys2Proof.Machine

/-! ## Barrier objects (R232-R236) -/

structure Bar where
  phase : BitVec 16
  expect : BitVec 16
  parr : BitVec 16
  pbytes : Int
  v : Bool
  br : Bool
  rsv : Bool
  deriving DecidableEq, Repr

def barOfNat (n : Nat) : Bar :=
  { phase := BitVec.ofNat 16 n, expect := BitVec.ofNat 16 (n / 2 ^ 16), parr := BitVec.ofNat 16 (n / 2 ^ 32),
    pbytes := sextInt 32 (bits n 95 64), v := bits n 96 96 = 1, br := bits n 97 97 = 1,
    rsv := decide (bits n 63 48 ≠ 0) || decide (bits n 127 98 ≠ 0) }

/-- The 128 bits of an object whose reserved bits are 0. -/
def Bar.toNat (b : Bar) : Nat :=
  b.phase.toNat + b.expect.toNat * 2 ^ 16 + b.parr.toNat * 2 ^ 32 + (BitVec.ofInt 32 b.pbytes).toNat * 2 ^ 64
    + (if b.v then 2 ^ 96 else 0) + (if b.br then 2 ^ 97 else 0)

def objLocs (l : Loc) : List Loc := (List.range 16).map l.next

def readBar (s : State) (l : Loc) : Bar := barOfNat (leNat ((objLocs l).map (locRead s)))

/-- Writes the fields of an object; reserved bits keep what they hold. -/
def writeBar (s : State) (l : Loc) (b : Bar) : State :=
  let old := leNat ((objLocs l).map (locRead s))
  let rsv := bits old 63 48 * 2 ^ 48 + bits old 127 98 * 2 ^ 98
  locWrites s none ((objLocs l).zip (leBytes 16 (b.toNat + rsv)))

/-- The status word of BARWAIT for a token, at a phase (R236, R241). -/
def waitStatus (phase : BitVec 16) (token : Nat) : Word :=
  let d := (phase - BitVec.ofNat 16 token).toNat
  BitVec.ofNat 32 (phase.toNat * 65536 + (if d ≤ 1 then 0 else if d ≤ 32768 then 1 else 2))

/-- Scope of an object (R244). -/
def objScope : Loc → Scope
  | .spad _ _ => .core
  | _ => .clu

/-- What the return of BARWAIT orders: FENCE.acq at the object's scope, and every line counted against a barrier is seen (R244). -/
def barAcquire (s : State) (obj : Loc) : State :=
  let s := acquireCur s (objScope obj)
  match coreOf s with
  | some c => setCore s c { getCore s c with s := (getCore s c).s.filter (fun p => !p.2.counted) }
  | none => s

/-- A group's BARWAIT returns: status, acquire, next instruction (R241, R244). -/
def returnWait (s : State) (gid : Nat) (obj : Loc) (dst : Nat) (st : Word) : State :=
  let cur := s.cur
  let s := writeField { s with cur := .group gid } dst 0 st
  let s := advance 4 (barAcquire s obj)
  { s with cur := cur }

/-- Looks again at every BARWAIT blocked on an object (R234, R235, R238). -/
def recheckWaits (s : State) (obj : Loc) : State :=
  let b := readBar s obj
  (s.groups.map (·.1)).foldl (fun s gid =>
    let g := getGroup s gid
    match g.run with
    | .blocked (.barwait o token dst _) =>
      if o ≠ obj ∨ !(teamOf s gid).res.issues then s
      else if b.br then trapGroup s gid { cause := 0x12, aux := 3 } g.pc
      else if b.phase = BitVec.ofNat 16 token then s
      else returnWait s gid obj dst (waitStatus b.phase token)
    | _ => s) s

/-- Completes the phase if nothing is pending (R234). -/
def completePhase (s : State) (obj : Loc) (b : Bar) : State :=
  if b.v ∧ !b.br ∧ b.parr = 0 ∧ b.pbytes = 0 then
    recheckWaits (writeBar s obj { b with phase := b.phase + 1, parr := b.expect }) obj
  else writeBar s obj b

/-- Adds to the pending bytes (R235): the state, and whether the sum stayed in range. -/
def addBytes (s : State) (obj : Loc) (n : Int) : State × Bool :=
  let b := readBar s obj
  let sum := b.pbytes + n
  if sum < -(2 ^ 31) ∨ 2 ^ 31 - 1 < sum then (recheckWaits (writeBar s obj { b with br := true }) obj, false)
  else (completePhase s obj { b with pbytes := sum }, true)

/-! ## Barrier instructions -/

def spadOrClu (w : Win) : Bool := decide (w ≠ .glob) && decide (w ≠ .priv)

/-- The object that a barrier instruction names; its faults are whole-group and name no address (R245, R246). PERMISSION of a granule that is not the VF's comes after ALIGN and before the checks of the instruction's own operands and of the object, with auxiliary word 1: R245 and R262 leave its place open (log 83). -/
def barObject (s : State) (a : BitVec 7) : Except Stop Loc :=
  let ea := (readSPair s a).toNat
  let bare (x : Stop) : Stop := match x with | .trap t => .trap { t with va := 0 } | w => w
  match resolve s 0 ea 16 spadOrClu with
  | .error x => .error (bare x)
  | .ok t =>
    if ea % 16 ≠ 0 then .error (trapOf 0x05)
    else match t with
      | .spad tag off => .ok (.spad tag off)
      | .clu c off => if granuleOk s (vfOf s) 0 c off then .ok (.clu c off) else .error (trapOf 0x09 1)
      | .va _ => .error (trapOf 0x06 3)

/-- The access to an object follows the group's own stores to it and the path to cluster memory, and waits for claims (R233, R313, R318). -/
def barGate (s : State) (obj : Loc) : Except Stop Unit :=
  let mine := objLocs obj
  if acquiring s then .error (.wait .accesses)
  else if queueHas s (fun e => e.locs.any mine.contains) then .error (.wait .accesses)
  else if !obj.isGlob && (match obj with | .clu _ _ => true | _ => false) && (getCore s (coreOfCur s)).out.any (fun e => e.locs.any (fun l => match l with | .clu _ _ => true | _ => false)) then .error (.wait .accesses)
  else if claimed s obj then .error (.wait .claim)
  else if mine.any (fun l => isStruck s (.byte l)) then .error (trapOf 0x0C 0x02)
  else .ok ()

/-- BAR_RANGE of an object that is not initialised, has a reserved bit set, or is broken (R235). -/
def barCheck (b : Bar) : Except Stop Unit :=
  if !b.v || b.rsv then .error (trapOf 0x12 2) else if b.br then .error (trapOf 0x12 3) else .ok ()

/-- Have the group's earlier accesses performed at a scope, as FENCE.rel there asks (R179, R244)? -/
def releaseDone (s : State) (gid : Nat) (sc : Scope) : Bool := storesAt s gid sc && !loadsOpen s sc

/-! ## TBAR, GBAR, STEP -/

/-- Are all tokens of a group full? -/
def tokensFull (s : State) (gid : Nat) : Bool := s.works.all (fun w => decide (w.agent ≠ .group gid))

def isAt (g : Group) (b : Block) : Bool := decide (g.run = .blocked b) || decide (g.run = .done)

/-- Releases a group blocked at a barrier: what it orders, and the next instruction. -/
def releaseGroup (s : State) (gid : Nat) (b : Block) (sc : Scope) : State :=
  if groupRun s gid = .blocked b then
    let s := applyAcquire s (coreOfGroup s gid) sc
    modGroup s gid (fun g => groupDone g (g.pc + 4))
  else s

def isSaving (t : Team) : Bool := match t.res with | .saving _ _ => true | _ => false

/-- TBAR completes when every group of the team has arrived, exited or retired (R242); a team that is to be saved stops there (R257). -/
def tryTbar (s : State) (tag : Nat) : State :=
  let gs := teamGids s tag
  if gs.all (fun g => isAt (getGroup s g) .tbar) ∧ !isSaving (getTeam s tag) then gs.foldl (fun s g => releaseGroup s g .tbar .core) s
  else s

/-- The groups of a grid on this module. -/
def gridGids (s : State) (n : Nat) : List Nat := (s.groups.map (·.1)).filter (fun g => (teamOf s g).grid = n)

def gridTeams (g : Grid) : Nat := g.gx * g.gy * g.gz

def gbarScope (g : Grid) : Scope := if 1 < gridMods g then .fab else .die

/-- Every team of the grid has been placed, and every group of it on this module has arrived at GBAR, exited or retired. -/
def gbarArrived (s : State) (n : Nat) : Bool :=
  (gridGids s n).all (fun g => isAt (getGroup s g) .gbar) && decide (gridTeams (getGrid s n) ≤ placedAll (getGrid s n))

def releaseGbar (s : State) (n : Nat) : State := (gridGids s n).foldl (fun s g => releaseGroup s g .gbar (gbarScope (getGrid s n))) s

/-- GBAR completes when every group of the grid has arrived, exited or retired (R243); on a grid with other modules the scheduler completes it. -/
def tryGbar (s : State) (n : Nat) : State :=
  if gbarArrived s n ∧ gridMods (getGrid s n) ≤ 1 then releaseGbar s n else s

/-- Every group of the grid on this module has arrived at the step barrier or retired, and no team is still to be placed (R107). -/
def stepArrived (s : State) (n : Nat) : Bool :=
  (gridGids s n).all (fun g => decide (groupRun s g = .blocked .step)) && decide (gridTeams (getGrid s n) ≤ placedAll (getGrid s n))

/-- The release orders as FENCE.acq.fab (R108). -/
def releaseStep (s : State) (n : Nat) : State := (gridGids s n).foldl (fun s g => releaseGroup s g .step .fab) s

/-- On a grid that can have only this module the step barrier completes with the last arrival; otherwise the scheduler completes it (R108). -/
def tryStep (s : State) (n : Nat) : State :=
  if stepArrived s n ∧ (getGrid s n).maxMods ≤ 1 then releaseStep s n else s

/-- After a group of the team has arrived, exited or retired. -/
def tryBarriers (s : State) (tag : Nat) : State :=
  let n := (getTeam s tag).grid
  tryStep (tryGbar (tryTbar s tag) n) n

/-- Arrives: the group blocks, and the barrier completes if it was the last. -/
def arriveAt (s : State) (gid : Nat) (b : Block) : State :=
  tryBarriers (modGroup s gid (fun g => { g with run := .blocked b, wdog := 0 })) (tagOf gid)

/-- R238 BARINIT: Initialise a barrier object. -/
def execBarinit (d : BitVec 7) (a : BitVec 7) (s : State) : Host.Outcome State Fault Refusal :=
  run s 0x1D0 0 (Uses.barinit d a) (do
    let obj ← barObject s a
    let n := (readSReg s d).toNat
    if n = 0 ∨ 65535 < n then throw (illegal 1)
    barGate s obj
    let t := writeBar (locWrites s none ((objLocs obj).map (fun l => (l, 0)))) obj
      { phase := 0, expect := BitVec.ofNat 16 n, parr := BitVec.ofNat 16 n, pbytes := 0, v := true, br := false, rsv := false }
    return finish (Uses.barinit d a) 4 (recheckWaits t obj))

/-- R239 BARARR: Arrive at a barrier and return the phase token. -/
def execBararr (d : BitVec 7) (a : BitVec 7) (s : State) : Host.Outcome State Fault Refusal :=
  run s 0x1D1 0 (Uses.bararr d a) (do
    let obj ← barObject s a
    barGate s obj
    if !releaseDone s (groupOfCur s) (objScope obj) then throw (.wait .accesses)
    let r := readBar s obj
    barCheck r
    if r.parr = 0 then throw (trapOf 0x12 1)
    let t := writeSReg (endRegion s) d (r.phase.setWidth 32)
    return finish (Uses.bararr d a) 4 (completePhase t obj { r with parr := r.parr - 1 }))

/-- R240 BARTX: Add announced bytes to a barrier's pending bytes. -/
def execBartx (d : BitVec 7) (a : BitVec 7) (s : State) : Host.Outcome State Fault Refusal :=
  run s 0x1D2 0 (Uses.barinit d a) (do
    let obj ← barObject s a
    barGate s obj
    barCheck (readBar s obj)
    let (t, ok) := addBytes s obj (readSReg s d).toInt
    return if ok then finish (Uses.barinit d a) 4 t else takeTrap { cause := 0x12 } t)

/-- R241 BARWAIT: waits for the phase of a token, or returns the status at once. -/
def execBarwait (d : BitVec 7) (a : BitVec 7) (t : BitVec 7) (s : State) : Host.Outcome State Fault Refusal :=
  run s 0x1D3 t (Uses.barwait d a t) (do
    let obj ← barObject s a
    barGate s obj
    let r := readBar s obj
    barCheck r
    -- the return acts as FENCE.acq: earlier loads have performed (R179, R244)
    if loadsOpen s (objScope obj) then throw (.wait .accesses)
    let token := (readSReg s t).toNat % 65536
    if r.phase = BitVec.ofNat 16 token then
      let byEngine := decide (r.parr = 0) || (match obj with | .clu _ _ => true | _ => false)
      -- during run-on the deferred trap is taken instead (R248)
      return if (getGroup s (groupOfCur s)).deferred.isSome then takeDeferred s (groupOfCur s)
        else modGroup s (groupOfCur s) (fun g => { g with run := .blocked (.barwait obj token d.toNat byEngine) })
    else return finish (Uses.barwait d a t) 4 (barAcquire (writeSReg s d (waitStatus r.phase token)) obj))

/-- R242 TBAR: Team barrier: drain tokens and stores, arrive and block. -/
def execTbar (s : State) : Host.Outcome State Fault Refusal :=
  run s 0x1D4 0 [] (do
    let gid := groupOfCur s
    if !tokensFull s gid || !releaseDone s gid .core then throw (.wait .drain)
    return arriveAt (endRegion s) gid .tbar)

/-- R243 GBAR: Grid barrier of a gang grid. -/
def execGbar (s : State) : Host.Outcome State Fault Refusal :=
  run s 0x1D5 0 [] (do
    let gid := groupOfCur s
    if !(gridOf s gid).gang then throw illegal
    let sc := gbarScope (gridOf s gid)
    if !tokensFull s gid || !(sqOf s gid).isEmpty || !releaseDone s gid sc then throw (.wait .drain)
    match failedReport (endRegion s) [] sc 4 with
    | some t => return t
    | none => return arriveAt (endRegion s) gid .gbar)

/-- R107 STEP: Wait for tokens then arrive at the grid step barrier and block. -/
def execStep (s : State) : Host.Outcome State Fault Refusal :=
  run s 0x124 0 [] (do
    let gid := groupOfCur s
    if !tokensFull s gid || !releaseDone s gid .fab then throw (.wait .drain)
    match failedReport (endRegion s) [] .fab 4 with
    | some t => return t
    | none => return arriveAt (endRegion s) gid .step)

end Sys2Proof.Machine
end

