-- ==== Sys2Proof/Machine/Engine.lean ====
section
/-! DEFINITION. Engine work: issue, claims, source reads, line writes, barriers and tokens (01_encoding R36, R37; 05_core_memory R166, R181-R184; 10_die_memory R313, R314). -/

namespace Sys2Proof.Machine

/-! ## Issue -/

/-- Engine work waits at issue until the group's stores have performed where engines read (R166). -/
def engineGate (s : State) : Except Stop Unit :=
  if acquiring s || walkHeld s then .error (.wait .accesses)
  else match s.cur with
    | .group g => if storesDone s g then .ok () else .error (.wait .accesses)
    | _ => .ok ()

/-- The grid of the executing group, or 0. -/
def gridNo (s : State) : Nat := match groupOfAgent s.cur with | some g => (teamOf s g).grid | none => 0

/-- The process instance of the executing queue context. -/
def instOf (s : State) : Nat := match s.cur with | .queue q => (getQueue s q).inst | _ => 0

/-- Work for the executing context: its block is copied (R37). -/
def newWork (s : State) (kind : WorkKind) (tok : BitVec 7) (mods : Nat) (blk : List Word) : Work :=
  { id := s.nextId, kind := kind, agent := s.cur, core := coreOfCur s, vf := vfOf s, grid := gridNo s, space := spaceOf s,
    inst := instOf s, token := tok.toNat, mods := mods, blk := blk, seq := s.seq, issuedAt := s.time }

/-- Work is in progress and its token is empty (R37). -/
def issueWork (s : State) (w : Work) : State :=
  markEmpty { s with works := s.works ++ [w], nextId := s.nextId + 1, seq := s.seq + 1 } [w.token]

/-- Work that ends at once with a status. -/
def Work.failed (w : Work) (cause index : Nat) : Work := { w with status := cause, index := index, ended := true }

def Work.word (w : Work) (i : Nat) : Nat := (w.blk.getD i 0).toNat
def Work.pair (w : Work) (i : Nat) : Nat := w.word i + w.word (i + 1) * 2 ^ 32

/-- A lower INDEX replaces a status already met. -/
def Work.note (w : Work) (cause index : Nat) : Work :=
  if w.status = 0 ∨ index < w.index then { w with status := cause, index := index } else w

/-! ## Claims -/

/-- Has each slice room in its table of 64 for a work's claims on these lines? A work that has more lines at a slice than its table holds waits until no other work has a claim there; 64 of its claims are then recorded, and each other one as an entry is released (log 26). -/
def claimRoom (s : State) (work : Nat) (keys : List Nat) : Bool :=
  let slices (ks : List Nat) : List Nat := (ks.filter (fun k => decide (k < 2 ^ 60))).map (fun k => homeSlice (k * lineSize))
  let held := slices (s.claims.map (·.1))
  let others := slices ((s.claims.filter (fun c => decide (c.2 ≠ work))).map (·.1))
  let new := slices keys
  (List.range 96).all (fun k => decide (others.count k = 0) || decide (new.count k = 0) || decide (held.count k + new.count k ≤ 64))

/-- Registers claims on lines, or waits while a slice's table has no room; partials are recalled (R313, R316). -/
def claimLines (s : State) (work : Nat) (keys : List Nat) : Except Stop State :=
  if claimRoom s work keys then .ok (addClaims s work keys)
  else .error (.wait .claim)

/-- Claims those of some lines that the work does not claim yet: a page that did not translate at issue. -/
def claimRest (s : State) (w : Work) (ls : List Loc) : Except Stop State :=
  match ((ls.map Loc.key).eraseDups).filter (fun k => !s.claims.contains (k, w.id) && !s.claimQueue.contains (k, w.id)) with
  | [] => .ok s
  | keys => claimLines s w.id keys

/-! ## Where the bytes lie -/

def Loc.clusterOf : Loc → Option Nat
  | .clu c _ => some c
  | _ => none

/-- One page of a work's space: the translation it already uses, or a new one. -/
def workPage (s : State) (w : Work) (k : Acc) (page : Nat) : Except Stop (PageMap × Work × State) :=
  if w.gone.any (fun p => decide (p.1 = k.code) && decide (p.2.page = page)) then .error (.trap { cause := 0x08, aux := 0x301 })
  else match w.pages.find? (fun p => decide (p.1 = k.code) && decide (p.2.page = page)) with
  | some p => .ok (p.2, w, s)
  | none =>
    match translateX s (match groupOfAgent w.agent with | some _ => some w.core | none => none) w.space (page * 4096) k with
    | .ok (o, s) =>
      let m : PageMap := { page := page, pa := o.pa / 4096, gpa := o.gpa / 4096 }
      .ok (m, { w with pages := w.pages ++ [(k.code, m)], mwait := none }, s)
    | .error x => .error (x.toTrap (page * 4096) (waitedOut w.mlimit w.mwait))

/-- A work that waits on M keeps the instant at which the wait began (13_translation R416). -/
def Work.waitsAt (w : Work) (now : Nat) (x : Wait) : Work :=
  match x with
  | .migration leaf => { w with mwait := waitSince leaf now w.mwait, mlimit := waitedOut w.mlimit w.mwait leaf }
  | _ => w

def workWaits (s : State) (w : Work) (x : Wait) : State := setWork s (w.waitsAt s.time x)

def workPages (k : Acc) : List Nat → State → Work → Except Stop (List PageMap × Work × State)
  | [], s, w => .ok ([], w, s)
  | p :: r, s, w => do
    let (m, w, s) ← workPage s w k p
    let (l, w, s) ← workPages k r s w
    return (m :: l, w, s)

/-- The places of n bytes at a generic address, for a work. -/
def workLocs (s : State) (w : Work) (ea n : Nat) (k : Acc) (perm : Win → Bool) : Except Stop (List Loc × Work × State) :=
  match resolve { s with cur := w.agent } 0 ea n perm with
  | .error x => .error x
  | .ok (.spad tag off) => .ok ((List.range n).map (fun i => .spad tag (off + i)), w, s)
  | .ok (.clu c off) =>
    if n = 0 ∨ (granuleOk s w.space.vf w.space.pl c off && granuleOk s w.space.vf w.space.pl c (off + n - 1))
    then .ok ((List.range n).map (fun i => .clu c (off + i)), w, s)
    else .error (trapOf 0x09 k.code)
  | .ok (.va a) => do
    let (ps, w, s) ← workPages k (pagesOf a n) s w
    return ((List.range n).map (fun i => .glob (pageLookup ps (a + i))), w, s)

/-- The places of n bytes, also through translations that have been taken away (13_translation R410). -/
def workLocsAny (s : State) (w : Work) (ea n : Nat) (k : Acc) (perm : Win → Bool) : Except Stop (List Loc × Work × State) :=
  match workLocs s { w with pages := w.pages ++ w.gone, gone := [] } ea n k perm with
  | .ok (ls, v, t) => .ok (ls, { v with pages := v.pages.filter (fun p => !w.gone.contains p), gone := w.gone }, t)
  | .error x => .error x

/-- Has the translation of a byte at a VA been taken away? -/
def Work.lost (w : Work) (k : Acc) (va : Nat) : Bool := w.gone.any (fun p => decide (p.1 = k.code) && decide (p.2.page = va % 2 ^ 64 / 4096))

def notPriv (w : Win) : Bool := decide (w ≠ .priv)

/-- Lines of runs of bytes that translate now, by the key of their first byte: an engine requests its lines together (05_core_memory R522), so it uses those translations (log 68). -/
def tryKeys (s : State) (w : Work) (k : Acc) (starts : List (Nat × Nat)) : List Nat × Work × State :=
  starts.foldl (fun p x => match workLocs p.2.2 p.2.1 x.1 x.2 k notPriv with
    | .ok (l :: _, w, s) => (l.key :: p.1, w, s)
    | _ => p) ([], w, s)

/-! ## Reading and writing lines -/

/-- The start of the line of a place. -/
def Loc.lineStart : Loc → Loc
  | .glob pa => .glob (pa / lineSize * lineSize)
  | .spad tag off => .spad tag (off / lineSize * lineSize)
  | .clu c off => .clu c (off / lineSize * lineSize)

def Loc.inLine : Loc → Nat
  | .glob pa => pa % lineSize
  | .spad _ off => off % lineSize
  | .clu _ off => off % lineSize

/-- The L2 policy that a work names for the lines it writes (05 R181, 13_translation R414), or for the source lines that LDSLOT reads (06_core_matrix R213). -/
def Work.policy (w : Work) (source : Bool) : Nat :=
  match w.kind, source with
  | .cpy, false => bits (w.word 5) 1 0
  | .gather, false => bits (w.word 5) 1 0
  | .scatter, false => bits (w.word 5) 1 0
  | .accst, false => bits (w.word 7) 1 0
  | .compact, false => bits (w.word 7) 1 0
  | .migrate _ _, false => bits (w.word 6) 1 0
  | .ldslot _, true => bits (w.word 5) 1 0
  | _, _ => 0

/-- The work keeps the bytes of a line, if it has not read it before (R314); `fetch` brings a global line to the home's view. -/
def keepLineBy (fetch : State → Nat → State) (s : State) (w : Work) (l : Loc) : Work × State :=
  match tabFind w.srcLines l.key with
  | some _ => (w, s)
  | none =>
    let s := if l.isGlob then fetch s l.key else s
    ({ w with srcLines := tabPut w.srcLines l.key ((List.range lineSize).map (fun i => locRead s (l.lineStart.next i))) }, s)

/-- The work keeps a source line: one request, under the policy that it names. -/
def keepLine (s : State) (w : Work) (l : Loc) : Work × State :=
  keepLineBy (fun s n => withPolicy s n (w.policy true) (fun s => serveLine (countReq s (n * lineSize)) n)) s w l

def keepLines (s : State) (w : Work) (ls : List Loc) : Work × State :=
  ls.foldl (fun p l => keepLine p.2 p.1 l) (w, s)

/-- A byte of a source line that the work has read. -/
def keptByte (w : Work) (l : Loc) : Byte := (tabGet w.srcLines l.key []).getD l.inLine 0

/-- Is a source line, not read yet, claimed by other work (R313), or behind a hold (16_fabric R477)? -/
def sourceBusy (s : State) (w : Work) (ls : List Loc) : Bool :=
  ls.any (fun l => (tabFind w.srcLines l.key).isNone && (claimedByOther s (some w.id) l.key || locHeld s l))

def putWork (s : State) (w : Work) : State := setWork s w

/-- An engine writes bytes of one line, for the context that issued the work. -/
def engineWrite (s : State) (w : Work) (ws : List (Loc × Byte)) : State :=
  let write (s : State) : State := { locWrites { s with cur := w.agent } none ws with cur := s.cur }
  match ws with
  | (.glob pa, _) :: _ => withPolicy s (lineOf pa) (w.policy false) write
  | _ => write s

/-- An engine writes bytes of several lines in one step. -/
def engineWrites (s : State) (w : Work) (ws : List (Loc × Byte)) : State := (splitLines ws []).foldl (fun s p => engineWrite s w p) s

/-- Writes one destination line as one update, releases it, and subtracts the bytes from the barrier (R182, R244, R313). The line's earlier bytes count as read (R182, synonyms), by no request of their own. -/
def writeLine (s : State) (w : Work) (ws : List (Loc × Byte)) : State × Work :=
  match ws with
  | [] => (s, w)
  | (l, _) :: _ =>
    let (w, s) := keepLineBy recallLine s w l
    let s := dropClaim (engineWrite s w ws) w.id l.key
    (match w.bar with
     | some obj => (addBytes (if l.isGlob then countCopies s l.key else s) obj (-(ws.length : Int))).1
     | none => s, w)

/-- The error that stops a transfer, with its PA: of a source byte, or of a destination line that the work's bytes `all` cover in part (15_platform R466, 16_fabric R487). -/
def transferBadIn (s : State) (src dst all : List Loc) : Option (Nat × Nat) :=
  let mine (pa : Nat) : List Loc := all.filter (fun l => match l with | .glob q => decide (lineOf q = lineOf pa) | _ => false)
  match firstBad s src (fun _ _ => false) with
  | some e => some e
  | none => firstBad s dst (fun c pa => decide (c = 0x02) || ((decide (c = 0x03) || decide (c = 0x05)) && decide ((mine pa).eraseDups.length = lineSize)))

/-- The same where a transfer writes each line at once. -/
def transferBad (s : State) (src dst : List Loc) : Option (Nat × Nat) := transferBadIn s src dst dst

/-! ## Segments: results that an engine writes -/

/-- A run of bytes that an engine writes at a generic address; `index` is the INDEX of a failure in it, but where `classed` an INTEGRITY has its class there (15_platform R465). -/
structure Seg where
  index : Nat
  ea : Nat
  bytes : List Byte
  classed : Bool := false
  deriving DecidableEq, Repr

/-- A work meets a fault on its way, at an INDEX; an INTEGRITY is logged (15_platform R468). -/
def noteTrap (s : State) (w : Work) (t : Trap) (index : Nat) : State × Work := (noteError s t.cause t.aux t.pa w.vf, w.note t.cause index)

/-- A work meets an error of a home, which is logged when it first gives the status (15_platform R468). -/
def noteClass (s : State) (w : Work) (c pa index : Nat) : State × Work :=
  let v := w.note 0x0C index
  (if v = w then s else logError s c pa w.vf true, v)

/-- A segment with its places, each with whether its translation has been taken away. -/
abbrev Placed := Seg × List (Loc × Bool)

/-- Places the segments that translate; a segment that does not gives the work's status, or waits for a page that migrates (13_translation R416). -/
def placeSegs (segs : List Seg) (s : State) (w : Work) : List Placed × Work × State :=
  segs.foldl (fun p g =>
    match workLocsAny p.2.2 p.2.1 g.ea g.bytes.length .write notPriv with
    | .ok (ls, w, s) => (p.1 ++ [(g, ls.mapIdx (fun i l => (l, l.isGlob && w.lost .write (g.ea + i))))], w, s)
    | .error (.trap t) =>
      let index := if g.classed && decide (t.cause = 0x0C) then t.aux.toNat else g.index
      let v := p.2.1.note t.cause index
      (p.1, v, if v = p.2.1 then p.2.2 else noteError p.2.2 t.cause t.aux t.pa w.vf)
    | .error (.wait x) => (p.1, p.2.1.waitsAt p.2.2.time x, p.2.2)) ([], w, s)

/-- Every byte that the segments write, with its segment's index. An error of its home, or a translation taken away before its line was written, gives the work's status (R184; 13_translation R410; 15_platform R466). -/
def planSegs (segs : List Seg) (s : State) (w : Work) : List (Loc × Byte × Nat) × Work × State :=
  let (ps, w, s) := placeSegs segs s w
  let all := ps.flatMap (fun p => p.2.map (·.1))
  ps.foldl (fun acc p =>
    let (w, s) := acc.2
    let left := p.2.filter (fun l => !w.pieces.contains l.1.key)
    let bs := (p.2.zip p.1.bytes).filter (fun x => !x.1.2 || w.pieces.contains x.1.1.key) |>.map (fun x => (x.1.1, x.2, p.1.index))
    let w := if left.any (·.2) then w.note 0x08 p.1.index else w
    match transferBadIn s [] (left.map (·.1)) all with
    | none => (acc.1 ++ bs, w, s)
    | some (c, pa) =>
      let (s, w) := noteClass s w c pa (if p.1.classed then c else p.1.index)
      (acc.1 ++ bs.filter (fun b => w.pieces.contains b.1.key), w, s)) ([], w, s)

/-- Does a segment wait for a page that migrates (13 R416)? -/
def segsWait (segs : List Seg) (s : State) (w : Work) : Bool :=
  segs.any (fun g => match workLocsAny s w g.ea g.bytes.length .write notPriv with
    | .error (.wait _) => true
    | _ => false)

def planKeys (bs : List (Loc × Byte × Nat)) : List Nat := (bs.map (fun b => b.1.key)).eraseDups

/-- Has every line with bytes below INDEX been written, or every line (R184)? -/
def planDone (bs : List (Loc × Byte × Nat)) (w : Work) : Bool :=
  (planKeys (bs.filter (fun b => decide (w.status = 0) || decide (b.2.2 < w.index)))).all w.pieces.contains

/-- The bytes of one destination line; where several segments write one byte the choice is free (log 27). -/
def lineBytesOf (s : State) (bs : List (Loc × Byte × Nat)) (key : Nat) : List (Loc × Byte) × State :=
  let mine := bs.filter (fun b => b.1.key = key)
  let dst := (mine.map (·.1)).eraseDups
  if dst.length = mine.length then (mine.map (fun b => (b.1, b.2.1)), s)
  else
    let f := freeNat s
    (dst.map (fun l =>
      let c := mine.filter (fun b => b.1 = l)
      (l, (c.map (fun b => b.2.1)).getD (f.1 % c.length) 0)), f.2)

/-- Writes destination line k of a work's segments, and ends the work when nothing is left to write. -/
def writeSegs (segs : List Seg) (s : State) (w : Work) (k : Nat) : State :=
  if w.ended then s
  else
    let (bs, w, s) := planSegs segs s w
    match (planKeys bs)[k]? with
    | none => setWork s { w with ended := planDone bs w && !segsWait segs s w }
    | some key =>
      if w.pieces.contains key || !firstClaim s w.id key then setWork s w
      else
        let (ws, s) := lineBytesOf s bs key
        let (s, w) := writeLine s w ws
        let w := { w with pieces := key :: w.pieces }
        setWork s { w with ended := planDone bs w && !segsWait segs s w }

/-- The lines that segments write, for the claims of R313. -/
def segKeys (s : State) (w : Work) (starts : List (Nat × Nat)) : List Nat × Work × State :=
  starts.foldl (fun p x => match workLocs p.2.2 p.2.1 x.1 x.2 .write notPriv with
    | .ok (ls, w, s) => ((p.1 ++ ls.map Loc.key).eraseDups, w, s)
    | .error _ => p) ([], w, s)

/-! ## Control words and barrier locators (R181) -/

def copyCtlOk (c : Nat) (sh : Bool) : Bool :=
  decide (bits c 31 8 = 0) && decide (bits c 3 2 = 0) && (if sh then decide (bits c 7 4 ≤ 12) else decide (bits c 7 4 = 0))

/-- The object of a barrier locator: none with EN = 0; or the cause of a bad one. -/
def barLocator (s : State) (loc : Nat) : Except Nat (Option Loc) :=
  let off := bits loc 21 0
  if bits loc 31 31 = 0 then (if loc = 0 then .ok none else .error 0x01)
  else if bits loc 29 22 ≠ 0 ∨ off % 16 ≠ 0 then .error 0x01
  else if bits loc 30 30 = 0 then (if ownSpad s < off + 16 then .error 0x01 else .ok (some (.spad (ownTag s) off)))
  else
    let c := (ownCluster s).getD 0
    if granuleOk s (vfOf s) (levelOf s) c off then .ok (some (.clu c off)) else .error 0x09

/-! ## Tokens (R184) -/

/-- A token of a process that is not loaded fills in its saved entry: the register's word and its full bit (14_tenancy R431). -/
def fillSaved (s : State) (c : SavedCtx) (field : Nat) (v : Word) : State :=
  let n := field - 96
  if field < 96 ∨ n = 31 then s
  else
    let pa (o : Nat) : Nat := c.pas.getD (o / 64) 0 + o % 64
    let s := homeWrite s none (pa (4 * n)) (leBytes 4 v.toNat)
    homeWrite s none (pa (0x7C + n / 8)) [homeRead s (pa (0x7C + n / 8)) ||| BitVec.ofNat 8 (2 ^ (n % 8))]

/-- Does reading the token order at fabric scope: of a collective (16_fabric R498), and of a prefix operation on a table in another module's memory (08_cluster_sequence R287)? -/
def Work.farReach (s : State) (w : Work) : Bool :=
  match w.kind with
  | .coll => true
  | .pxfind => w.pages.any (fun p => !isLocal s (p.2.pa * 4096))
  | .pxins => w.pages.any (fun p => !isLocal s (p.2.pa * 4096))
  | .pxrel => w.pages.any (fun p => !isLocal s (p.2.pa * 4096))
  | _ => false

/-- A token fills: the status goes to its register, the issuer's core applies the invalidations of the work's writes (08_cluster_sequence R266, 16_fabric R498), the work is gone. -/
def fillToken (s : State) (w : Work) : State :=
  let there := match w.agent with
    | .group g => (tabFind s.groups g).isSome
    | .queue q => (match tabFind s.queues q with | some c => decide (c.inst = w.inst) | none => false)
    | _ => false
  let s := dropWork s w.id
  let s := if w.kind = .coll then { s with colls := s.colls.map (fun c => if c.works.contains w.id then { c with past := c.past ++ [w] } else c) } else s
  let v := BitVec.ofNat 32 (w.index % 2 ^ 24 * 256 + w.status)
  if there then
    let cur := s.cur
    let s := writeField { s with cur := w.agent } w.token 0 v
    { acquireCur s (if w.farReach s then .fab else .die) with cur := cur }
  else match w.agent with
    | .queue q => (match s.saved.find? (fun c => decide (c.vf = q / 64) && decide (c.inst = w.inst)) with
      | some c => fillSaved s c w.token v
      | none => s)
    | _ => s

/-- Writes of other works do not hold back the end of this one. -/
def endNow (s : State) (w : Work) : State := putWork s { w with ended := true }

end Sys2Proof.Machine
end

