-- ==== Sys2Proof/Machine/Copy.lean ====
section
/-! DEFINITION. The copy engine (05_core_memory R180-R185) and the access processor (R186-R191). -/

namespace Sys2Proof.Machine

/-! ## CPY -/

/-- Destination lines of a range. -/
def lineCount (a n : Nat) : Nat := if n = 0 then 0 else (a + n - 1) / lineSize - a / lineSize + 1

/-- Piece k of a CPY: the offset of its first byte and its length (R182). -/
def cpyPiece (w : Work) (k : Nat) : Nat × Nat :=
  let d := w.pair 2
  let start := max d ((d / lineSize + k) * lineSize)
  let stop := min (d + w.word 4) ((d / lineSize + k + 1) * lineSize)
  (start - d, stop - start)

/-- The parameter status of a CPY block, lowest word first (R181, R182). -/
def cpyParam (s : State) (w : Work) : Option (Nat × Nat) :=
  let src := w.pair 0
  let dst := w.pair 2
  let n := w.word 4
  if winOf src = .priv then some (0x06, 0)
  else if winOf dst = .priv then some (0x06, 2)
  else if n ≠ 0 ∧ src < dst + n ∧ dst < src + n then some (0x01, 2)
  else if !copyCtlOk (w.word 5) false then some (0x01, 5)
  else match barLocator s (w.word 6) with
    | .error c => some (c, 6)
    | .ok _ => if w.word 7 ≠ 0 then some (0x01, 7) else none

/-- Has every piece below the failing line, or every piece, been written (R184)? -/
def cpyDone (w : Work) : Bool :=
  (List.range (lineCount (w.pair 2) (w.word 4))).all (fun k => w.pieces.contains k || (decide (w.status ≠ 0) && decide (w.index ≤ (cpyPiece w k).1 / lineSize)))

def settleCpy (s : State) (w : Work) : State := putWork s { w with ended := cpyDone w }

/-- One line of a CPY. -/
def cpyLine (s : State) (w : Work) (k : Nat) : State :=
  let (o, n) := cpyPiece w k
  if w.ended ∨ w.pieces.contains k ∨ lineCount (w.pair 2) (w.word 4) ≤ k then s
  else match (do
      let (src, w, s) ← workLocs s w (w.pair 0 + o) n .read notPriv
      let (dst, w, s) ← workLocs s w (w.pair 2 + o) n .write notPriv
      return (src, dst, w, s) : Except Stop (List Loc × List Loc × Work × State)) with
    | .error (.wait x) => workWaits s w x
    | .error (.trap t) =>
      let (s, w) := noteTrap s w t (o / lineSize)
      settleCpy s w
    | .ok (src, dst, w, t) =>
      match transferBad t src dst with
      | some (c, pa) => settleCpy (logError s c pa w.vf true) (w.note 0x0C (o / lineSize))
      | none =>
        match claimRest t w dst with
        | .error _ => s
        | .ok t =>
          if sourceBusy t w src || !(dst.all (fun l => firstClaim t w.id l.key)) then putWork t w
          else
            let (w, t) := keepLines t w src
            let (t, w) := writeLine t w (dst.zip (src.map (keptByte w)))
            settleCpy t { w with pieces := k :: w.pieces }

/-! ## GATHER and SCATTER -/

def gsParam (s : State) (w : Work) : Option (Nat × Nat) :=
  if winOf (w.pair 2) = .priv then some (0x06, 2)
  else if w.word 4 = 0 ∨ 4096 < w.word 4 then some (0x01, 4)
  else if !copyCtlOk (w.word 5) true then some (0x01, 5)
  else match barLocator s (w.word 6) with
    | .error c => some (c, 6)
    | .ok _ => none

/-- The gathered or scattered element's address, and the packed one's, of a lane (R182). -/
def gsG (w : Work) (lane : Nat) : Nat := (w.pair 0 + (tabGet w.vals lane 0).toNat * 2 ^ bits (w.word 5) 7 4) % 2 ^ 64
def gsP (w : Work) (lane : Nat) : Nat := (w.pair 2 + lane * w.word 7) % 2 ^ 64

def isScatter (w : Work) : Bool := decide (w.kind = .scatter)

/-- The bytes of a lane: destinations and sources; the pages were translated at issue (R183). -/
def gsLane (s : State) (w : Work) (lane : Nat) : Except Stop ((List Loc × List Loc) × Work × State) := do
  let (g, w, s) ← workLocs s w (gsG w lane) (w.word 4) (if isScatter w then .write else .read) notPriv
  let (p, w, s) ← workLocs s w (gsP w lane) (w.word 4) (if isScatter w then .read else .write) notPriv
  return ((if isScatter w then (g, p) else (p, g)), w, s)

/-- Every byte of the work: destination, source, lane, ascending lanes, and whether a translation it used has been taken away (13_translation R410). -/
def gsAll (s : State) (w : Work) : List ((Loc × Loc × Nat) × Bool) :=
  let any : Work := { w with pages := w.pages ++ w.gone, gone := [] }
  let (kg, kp) : Acc × Acc := if isScatter w then (.write, .read) else (.read, .write)
  (lanesOf w.lanes).flatMap (fun l => match gsLane s any l with
    | .ok ((d, g), _, _) => (d.zip g).mapIdx (fun i p => ((p.1, p.2, l), w.lost kg (gsG w l + i) || w.lost kp (gsP w l + i)))
    | .error _ => [])

/-- The bytes that the work writes, or has written. -/
def gsBytes (s : State) (w : Work) : List (Loc × Loc × Nat) :=
  ((gsAll s w).filter (fun b => !b.2 || w.pieces.contains b.1.1.key)).map (·.1)

/-- A lane whose line is not written when its translation goes gives the status (R184; 13_translation R410). -/
def gsStatus (s : State) (w : Work) : Work :=
  ((gsAll s w).filter (fun b => b.2 && !w.pieces.contains b.1.1.key)).foldl (fun w b => w.note 0x08 b.1.2.2) w

def gsKeys (bs : List (Loc × Loc × Nat)) : List Nat := (bs.map (fun b => b.1.key)).eraseDups

/-- Has every line with bytes of the lanes below INDEX been written, or every line (R184)? -/
def gsDone (s : State) (w : Work) : Bool :=
  (gsKeys ((gsBytes s w).filter (fun b => decide (w.status = 0) || decide (b.2.2 < w.index)))).all w.pieces.contains

def settleGs (s : State) (w : Work) : State :=
  let w := gsStatus s w
  putWork s { w with ended := gsDone s w }

/-- One destination line of a GATHER or SCATTER; a byte that several lanes write takes the highest (R182). -/
def gsLine (s : State) (w : Work) (k : Nat) : State :=
  let bs := gsBytes s w
  let keys := gsKeys bs
  match keys[k]? with
  | none => if w.ended then s else settleGs s w
  | some key =>
    if w.ended ∨ w.pieces.contains key then s
    else
      let w := gsStatus s w
      let mine := bs.filter (fun b => b.1.key = key)
      let dst := (mine.map (·.1)).eraseDups
      let pick (l : Loc) : Loc × Nat := ((mine.reverse.find? (fun b => b.1 = l)).map (·.2)).getD (l, 0)
      let src := dst.map (fun l => (pick l).1)
      let low := (mine.map (fun b => b.2.2)).foldl min 63
      match transferBad s src dst with
      | some (c, pa) => settleGs (logError s c pa w.vf true) (w.note 0x0C low)
      | none =>
        if sourceBusy s w src || !firstClaim s w.id key then putWork s w
        else
          let (w, s) := keepLines s w src
          let (s, w) := writeLine s w (dst.zip (src.map (keptByte w)))
          settleGs s { w with pieces := key :: w.pieces }

/-- GATHER and SCATTER at issue: parameters, the G side per lane, the P side for the token, claims (R183). -/
def gsBody (s : State) (kind : WorkKind) (us : List Use) (d a r : BitVec 7) : Except Stop State := do
  engineGate s
  let w := newWork s kind d 0 (readBlock s a 8)
  match gsParam s w with
  | some (c, i) => return finish us 4 (issueWork s (w.failed c i))
  | none =>
    let w := { w with vals := (laneList s).map (fun l => (l, readField s r.toNat l)) }
    let ((es, m), t) ← elements s { n := w.word 4, k := if isScatter w then .write else .read, align := 1, perm := notPriv } false (gsG w)
    let w := { w with lanes := maskOf (es.map (·.lane)), bar := match barLocator s (w.word 6) with | .ok b => b | .error _ => none }
    -- translations of both sides; a fault of the P side is the token's
    let (w, t) ← (lanesOf w.lanes).foldlM (fun (p : Work × State) l => match gsLane p.2 p.1 l with
      | .ok (_, w, t) => .ok (w, t)
      | .error (.wait x) => .error (.wait x)
      | .error (.trap x) => .ok ({ p.1 with lanes := p.1.lanes &&& ~~~(BitVec.ofNat 64 (2 ^ l)), status := if p.1.status = 0 then x.cause else p.1.status, index := if p.1.status = 0 then l else p.1.index }, noteError p.2 x.cause x.aux x.pa w.vf)) (w, t)
    let t ← claimLines t w.id (gsKeys (gsBytes t w))
    let t := issueWork t w
    return completeLanes us 4 false m (settleGs t w)

/-! ## The access processor -/

/-- Pushes an entry into a queue register of the slice's group (R190). -/
def pushQ (s : State) (gid q : Nat) (e : QEntry) : State :=
  modGroup s gid (fun g =>
    let r := tabGet g.q q {}
    { g with q := tabPut g.q q { r with entries := r.entries ++ [e] } })

/-- Is a queue full, or does a stream still push into it (R189)? -/
def queueBusy (s : State) (gid q : Nat) : Bool :=
  decide (16 ≤ (tabGet (getGroup s gid).q q {}).entries.length) || (tabFind (getAxp s gid).streams q).isSome

/-- The 256 bytes of a vector entry: a weak load through the core's L1 (R190). -/
def loadVector (s : State) (ea : Nat) : Except Stop (List Word × State) := do
  accessGate s
  let ((es, _), s) ← elements s { n := 256, k := .read, align := 64, weak := true } true (fun _ => ea)
  let (bs, s) ← loadNow s (es.flatMap (·.locs))
  return ((List.range 64).map (fun i => BitVec.ofNat 32 (leNat ((bs.drop (4 * i)).take 4))), s)

/-- R182 CPY: Start a copy-engine byte copy with a token. -/
def execCpy (d : BitVec 7) (a : BitVec 7) (s : State) : Host.Outcome State Fault Refusal :=
  run s 0x1C0 0 (Uses.cpy d a) (do
    engineGate s
    let w := newWork s .cpy d 0 (readBlock s a 8)
    match cpyParam s w with
    | some (c, i) => return finish (Uses.cpy d a) 4 (issueWork s (w.failed c i))
    | none =>
      let w := { w with bar := match barLocator s (w.word 6) with | .ok b => b | .error _ => none }
      let pieces := (List.range (lineCount (w.pair 2) (w.word 4))).map (cpyPiece w)
      let (keys, w, t) := tryKeys s w .write (pieces.map (fun p => (w.pair 2 + p.1, p.2)))
      let (_, w, t) := tryKeys t w .read (pieces.map (fun p => (w.pair 0 + p.1, p.2)))
      let t ← claimLines t w.id keys.reverse
      return finish (Uses.cpy d a) 4 (settleCpy (issueWork t w) w))

/-- R182 GATHER: Start a per-lane gather into a packed destination. -/
def execGather (d : BitVec 7) (a : BitVec 7) (r : BitVec 7) (s : State) : Host.Outcome State Fault Refusal :=
  run s 0x1C1 r (Uses.gather d a r) (gsBody s .gather (Uses.gather d a r) d a r)

/-- R182 SCATTER: Start a per-lane scatter from a packed source. -/
def execScatter (d : BitVec 7) (a : BitVec 7) (r : BitVec 7) (s : State) : Host.Outcome State Fault Refusal :=
  run s 0x1C2 r (Uses.gather d a r) (gsBody s .scatter (Uses.gather d a r) d a r)

/-- R185 TOKTEST: Test whether a token register is full, without waiting. -/
def execToktest (p : BitVec 7) (a : BitVec 7) (s : State) : Host.Outcome State Fault Refusal :=
  run s 0x1C3 0 (Uses.toktest p a) (.ok (finish (Uses.toktest p a) 4 (putPreds s p.toNat (laneList s) (fun _ => !isEmptyField s a.toNat))))

/-- R188 AXBIND: Start the group's access-processor context at the .access entry. -/
def execAxbind (a : BitVec 7) (s : State) : Host.Outcome State Fault Refusal :=
  run s 0x1C8 0 (Uses.axbind a) (do
    let gid := groupOfCur s
    if !(sqOf s gid).isEmpty then throw (.wait .accesses)
    let old := getAxp s gid
    let rf := (List.range 4).foldl (fun (r : RegFile) i => r.writeS i (readField s (a.toNat + i) 0)) {}
    let t := modGroup s gid (fun g => { g with
      q := if old.running then [] else g.q,
      axp := some { num := old.num, regs := rf, pc := (gridOf s gid).access, running := true, bound := true, streams := if old.running then [] else old.streams } })
    return finish (Uses.axbind a) 4 { t with pending := t.pending.filter (fun p => decide (p.agent ≠ .axp gid)) })

/-- R189 ASTRM: Start an affine stream of vector entries into a Q register. -/
def execAstrm (a : BitVec 7) (q : BitVec 3) (s : State) : Host.Outcome State Fault Refusal :=
  run s 0x1C9 (q.setWidth 7) (Uses.axbind a) (do
    match s.cur with
    | .axp gid =>
      if (tabFind (getAxp s gid).streams q.toNat).isSome then throw (.wait .queueFull)
      let st : AxpStream := { start := readField s a.toNat 0, stride := readField s (a.toNat + 1) 0, step := readField s (a.toNat + 2) 0, count := (readField s (a.toNat + 3) 0).toNat, k := 0 }
      let t := if st.count = 0 then s else setAxp s gid { getAxp s gid with streams := tabPut (getAxp s gid).streams q.toNat st }
      return advance 4 (modGroup t gid pumpStreams)
    | _ => throw illegal)

/-- R190 QPUSH_S: Push a broadcast scalar entry into a queue. -/
def execQpushS (a : BitVec 7) (q : BitVec 3) (s : State) : Host.Outcome State Fault Refusal :=
  run s 0x1CA (q.setWidth 7) (Uses.qpushS a) (do
    match s.cur with
    | .axp gid =>
      if queueBusy s gid q.toNat then throw (.wait .queueFull)
      return advance 4 (pushQ s gid q.toNat (.scalar (readSReg s a)))
    | _ => throw illegal)

/-- R190 QPUSH_M: Load 256 bytes and push them as a vector entry. -/
def execQpushM (a : BitVec 7) (q : BitVec 3) (s : State) : Host.Outcome State Fault Refusal :=
  run s 0x1CA (q.setWidth 7 + 8) (Uses.ret a) (do
    match s.cur with
    | .axp gid =>
      if queueBusy s gid q.toNat then throw (.wait .queueFull)
      let (ws, t) ← loadVector s (readSPair s a).toNat
      return advance 4 (pushQ t gid q.toNat (.vector ws))
    | _ => throw illegal)

end Sys2Proof.Machine
end

