-- ==== Sys2Proof/Machine/Control.lean ====
section
/-! DEFINITION. Branches, structured control, exit, regions, special registers and TRAP (03_group R95-R110). -/

namespace Sys2Proof.Machine

/-! ## Structured control (R95, R96) -/

/-- ICNT of every lane that has not exited, changed by f, which learns whether the lane is active. -/
def mapIcnt (g : Group) (f : Nat → Bool → Nat → Nat) : Group :=
  let act := activeMask g
  { g with icnt := (List.range 64).foldl (fun t l =>
      if g.done.getLsbD l then t else tabSet t l (f l (act.getLsbD l) (tabGet g.icnt l 0)) 0) g.icnt }

def anyActive (g : Group) : Bool := decide (activeMask g ≠ 0)

def icntOver (g : Group) : Bool := g.icnt.any (fun p => decide (65535 < p.2))

/-- A signed offset in halfwords from the instruction. -/
def relPc (s : State) (off : Int) : DWord := pcOf s + BitVec.ofInt 64 (2 * off)

/-- The group takes new ICNT values; then PC goes to the target or on. -/
def structured (s : State) (g : Group) (taken : Bool) (i : BitVec 14) : State :=
  let gid := groupOfCur s
  let s := setGroup s gid g
  if taken then goTo s (relPc s i.toInt) else advance 4 s

def curGroup (s : State) : Group := getGroup s (groupOfCur s)

/-- R102 JMP: Whole-group PC-relative jump. -/
def execJmp (o : BitVec 20) (s : State) : Host.Outcome State Fault Refusal :=
  run s 0x110 0 [] (.ok (jumpTo s (relPc s o.toInt)))

/-- R102 CALL: Jump and write the return address to S28:S29. -/
def execCall (o : BitVec 20) (s : State) : Host.Outcome State Fault Refusal :=
  run s 0x111 0 Uses.call (.ok (jumpTo (writeSPair s 124 (pcOf s + 4)) (relPc s o.toInt)))

/-- R102 JMPU_Z: Uniform branch if an S register is zero. -/
def execJmpuZ (d : BitVec 7) (i : BitVec 14) (s : State) : Host.Outcome State Fault Refusal :=
  run s 0x112 0 (Uses.jmpuZ d) (.ok (if readSReg s d = 0 then jumpTo s (relPc s i.toInt) else advance 4 s))

/-- R102 JMPU_NZ: Uniform branch if an S register is non-zero. -/
def execJmpuNz (d : BitVec 7) (i : BitVec 14) (s : State) : Host.Outcome State Fault Refusal :=
  run s 0x113 0 (Uses.jmpuZ d) (.ok (if readSReg s d ≠ 0 then jumpTo s (relPc s i.toInt) else advance 4 s))

/-- ALIGN of a transfer to an odd address (01 R18); in a slice it names the transfer itself (05 R187). -/
def oddTarget (s : State) : Stop :=
  .trap { cause := 0x05, va := match s.cur with | .axp _ => pcOf s | _ => 0 }

/-- R102 RET: Return to the address in an S pair. -/
def execRet (a : BitVec 7) (s : State) : Host.Outcome State Fault Refusal :=
  run s 0x114 0 (Uses.ret a) (if (readSPair s a).getLsbD 0 then .error (oddTarget s) else .ok (jumpTo s (readSPair s a)))

/-- R95 IFP: Open a structured if on a predicate, adjusting ICNT and skipping if no lane active. -/
def execIfp (p : BitVec 7) (i : BitVec 14) (s : State) : Host.Outcome State Fault Refusal :=
  run s 0x118 0 (Uses.ifp p) (
    let g := curGroup s
    let g' := mapIcnt g (fun l act n => if act then (if g.regs.readP p.toNat l then 0 else 1) else n + 1)
    if icntOver g' then .error (trapOf 0x02 1) else .ok (structured s g' (!anyActive g') i))

/-- R95 ELSE: Switch lanes to the false path. -/
def execElseOp (i : BitVec 14) (s : State) : Host.Outcome State Fault Refusal :=
  run s 0x119 0 [] (
    let g' := mapIcnt (curGroup s) (fun _ act n => if act then 1 else if n = 1 then 0 else n)
    .ok (structured s g' (!anyActive g') i))

/-- R95 FI: Close a structured if, decrementing ICNT. -/
def execFi (s : State) : Host.Outcome State Fault Refusal :=
  run s 0x11A 0 [] (.ok (structured s (mapIcnt (curGroup s) (fun _ act n => if act then n else n - 1)) false 0))

/-- R95 LOOP: Open a structured loop. -/
def execLoop (i : BitVec 14) (s : State) : Host.Outcome State Fault Refusal :=
  run s 0x11B 0 [] (
    let g := curGroup s
    let g' := mapIcnt g (fun _ act n => if act then n else n + 2)
    if !anyActive g then .ok (structured s g true i)
    else if icntOver g' then .error (trapOf 0x02 1)
    else .ok (structured s g' false i))

/-- R95 ENDL: Close a loop, branching back while any lane is active. -/
def execEndl (i : BitVec 14) (s : State) : Host.Outcome State Fault Refusal :=
  run s 0x11C 0 [] (
    let g' := mapIcnt (curGroup s) (fun _ act n => if act then n else if n = 1 then 0 else n)
    if anyActive g' then .ok (structured s g' true i)
    else .ok (structured s (mapIcnt g' (fun _ _ m => if 2 ≤ m then m - 2 else m)) false i))

/-- R95 BRKP: Break lanes with the predicate out of the loop. -/
def execBrkp (p : BitVec 7) (n : BitVec 6) (s : State) : Host.Outcome State Fault Refusal :=
  run s 0x11D 0 (Uses.ifp p) (
    let g := curGroup s
    .ok (structured s (mapIcnt g (fun l act m => if act && g.regs.readP p.toNat l then n.toNat + 2 else m)) false 0))

/-- R95 CONTP: Continue lanes with the predicate to the next iteration. -/
def execContp (p : BitVec 7) (n : BitVec 6) (s : State) : Host.Outcome State Fault Refusal :=
  run s 0x11E 0 (Uses.ifp p) (
    let g := curGroup s
    .ok (structured s (mapIcnt g (fun l act m => if act && g.regs.readP p.toNat l then n.toNat + 1 else m)) false 0))

/-- R104 EXIT: sets DONE in the active lanes; a group whose lanes are all done stops issuing. With no active lane it changes nothing but the PC, so it does not end a region (R98, R104; log 64). In an access slice it stops the context (R188). -/
def execExit (s : State) : Host.Outcome State Fault Refusal :=
  run s 0x120 0 [] (.ok (
    match s.cur with
    | .group gid =>
      let t := advance 4 (if anyActive (getGroup s gid) then modGroup (endRegion s) gid (fun g => { g with done := g.done ||| activeMask g }) else s)
      if (getGroup t gid).done = allLanes then tryBarriers (modGroup t gid (fun g => { g with run := .done })) (tagOf gid) else t
    | .axp gid => advance 4 (setAxp s gid { getAxp s gid with running := false })
    | _ => s))

/-- R105 YIELD: Advance and give up issue for a cycle; a switch point in .det grids. -/
def execYield (s : State) : Host.Outcome State Fault Refusal :=
  run s 0x121 0 [] (.ok (
    let t := advance 4 s
    setCore t (coreOfCur t) { getCore t (coreOfCur t) with yielded := coreIsDet t (coreOfCur t) }))

/-- R105 NOP: 32-bit no operation. -/
def execNop (s : State) : Host.Outcome State Fault Refusal :=
  run s 0x122 0 [] (.ok (advance 4 s))

/-- R98 REGION: Open an idempotent region: set REGPC, increment REGCNT, set REGV. -/
def execRegion (s : State) : Host.Outcome State Fault Refusal :=
  run s 0x123 0 [] (.ok (advance 4 (modGroup (endRegion s) (groupOfCur s) (fun g => { g with regpc := g.pc, regcnt := g.regcnt + 1, regv := true }))))

/-- R109 SRD: Read a special register into D. -/
def execSrd (d : BitVec 7) (i : BitVec 14) (s : State) : Host.Outcome State Fault Refusal :=
  run s 0x128 0 (Uses.srd d) (do return advance 4 (← srdBody s d i.toNat))

/-- R109 SWR: Write a special register from D; covers registers without behaviour of their own. -/
def execSwr (d : BitVec 7) (i : BitVec 14) (s : State) : Host.Outcome State Fault Refusal :=
  run s 0x129 0 (Uses.srd d) (do return advance 4 (← swrBody s d i.toNat))

/-- R110 TRAP: Raise USER_TRAP with the immediate as auxiliary word. -/
def execTrap (i : BitVec 14) (s : State) : Host.Outcome State Fault Refusal :=
  run s 0x12A 0 [] (.ok (takeTrap { cause := 0x15, aux := i.setWidth 32 } (endRegion s)))

end Sys2Proof.Machine
end

