-- ==== Sys2Proof/Machine/Eret.lean ====
section
/-! DEFINITION. Return from exceptions (07_core_sched_traps R252, R253; 14_tenancy R434). -/

namespace Sys2Proof.Machine

/-- A trapped group's notice reaches its handling context (R251, R434): the PL2 context of the VF, or the PL1 context that issued the LAUNCH; for a process that is not loaded it is held in its saved entry. -/
def deliverNotice (s : State) (gid : Nat) : State :=
  let g := getGroup s gid
  match g.noticeDue, g.trap with
  | true, some r =>
    let grid := gridOf s gid
    let s := modGroup s gid (fun g => { g with noticeDue := false })
    let n := noticeOf gid r
    if r.hv then noticeHost s grid.vf n
    else match grid.home with
      | some m => { s with out := s.out ++ [.trapNotice m n] }
      | none => noticeIssuer s grid n
  | _, _ => s

/-- The trapped group that ERET's handle names, of the executing context's VF, or of any for PL2 (R253). -/
def eretTarget (s : State) (gh : Word) : Option (Nat × TrapRec) :=
  match groupOfHandle s gh with
  | none => none
  | some gid =>
    if levelOf s < 2 ∧ (gridOf s gid).vf ≠ vfOf s then none
    else (getGroup s gid).trap.map (fun r => (gid, r))

/-- The group goes on: ELIGIBLE at a PC, no trap; a slice that stopped resumes (R187, R253). Of the queue entries that a faulting instruction popped none is kept, but for .resume. -/
def resumeGroup (g : Group) (pc : DWord) : Group :=
  { g with
    pc := pc, run := .eligible, trap := none, deferred := none, only := none, parked := 0, wdog := 0,
    q := g.q.map (fun p => (p.1, p.2.settled)),
    axp := g.axp.map (fun a => { a with stopped := none }) }

/-- What the handler stored, page tables among it, is seen by the group that goes on: its core applies what waits in its L1, and no walker reads what stood before (R253). -/
def handlerSeen (s : State) (gid : Nat) : State := fenceWalks (applyAcquire s (coreOfGroup s gid) .die) s.cur

/-- ERET of a group: status 1 when the handle names none; else what the form does, after the notice has gone out. -/
def eretForm (s : State) (us : List Use) (d a : BitVec 7) (form : State → Nat → TrapRec → Except Stop (Nat × State)) : Except Stop State :=
  match eretTarget s (readSReg s a) with
  | none => .ok (finish us 4 (writeSReg s d 1))
  | some (gid, r) => do
    let (st, t) ← form (handlerSeen (deliverNotice s gid) gid) gid r
    return finish us 4 (writeSReg (if st = 0 then t else s) d (BitVec.ofNat 32 st))

/-- Came the record's lane mask from a lane-masked cause (R246)? -/
def TrapRec.laneMasked (r : TrapRec) : Bool := r.trap.lanes.isSome

/-- ERET.resume: the instruction executes again in the lanes of `only`, with the queue entries it took before (R30, R253; log 25); a group that a whole-group trap stopped before it did keeps that confinement (log 65). -/
def resumeAgain (g : Group) (pc : DWord) (only : Option Mask) : Group :=
  let h := endRegionG (resumeGroup g pc)
  { h with only := only, q := if only.isSome then (endRegionG g).q else h.q }

/-- R253 ERET_RESUME: Resume a trapped group at or after the trapping instruction. -/
def execEretResume (d : BitVec 7) (a : BitVec 7) (s : State) : Host.Outcome State Fault Refusal :=
  run s 0x340 0 (Uses.eretResume d a) (eretForm s (Uses.eretResume d a) d a (fun t gid r =>
    if r.deferred then .ok (3, t)
    else
      let pc := if r.trap.cause = 0x15 then r.pc + 4 else r.pc
      .ok (0, modGroup t gid (fun g => resumeAgain g pc (if r.laneMasked then some g.parked else g.only)))))

/-- R253 ERET_SKIP: Resume a trapped group past the trapped instruction. -/
def execEretSkip (d : BitVec 7) (a : BitVec 7) (s : State) : Host.Outcome State Fault Refusal :=
  run s 0x340 1 (Uses.eretResume d a) (eretForm s (Uses.eretResume d a) d a (fun t gid r =>
    if r.deferred then .ok (3, t)
    else match fetchHalfword { t with cur := .group gid } r.pc.toNat with
      | .error (.wait w) => .error (.wait w)
      | .error (.trap _) => .ok (4, t)
      | .ok (h, u) =>
        .ok (0, modGroup { u with cur := t.cur } gid (fun g => endRegionG (resumeGroup g (r.pc + (if h.getLsbD 0 then 4 else 2)))))))

/-- R253 ERET_REGION: Replay a trapped group's region from after REGION. -/
def execEretRegion (d : BitVec 7) (a : BitVec 7) (s : State) : Host.Outcome State Fault Refusal :=
  run s 0x340 2 (Uses.eretResume d a) (eretForm s (Uses.eretResume d a) d a (fun t gid _ =>
    if !(getGroup t gid).regv then .ok (2, t)
    else .ok (0, modGroup t gid (fun g =>
      { resumeGroup g (g.regpc + 4) with q := g.q.map (fun p => (p.1, { p.2 with consumed := 0, again := none })), regv := true }))))

/-- R253 ERET_ABORT: End a trapped group, which retires. -/
def execEretAbort (d : BitVec 7) (a : BitVec 7) (s : State) : Host.Outcome State Fault Refusal :=
  run s 0x340 3 (Uses.eretResume d a) (eretForm s (Uses.eretResume d a) d a (fun t gid _ => .ok (0, tryBarriers (modGroup t gid endGroup) (tagOf gid))))

/-- R253 ERET_SELF: returns a queue context from its own handler to TRPC, at the level in TRINFO, which is never above its own (log 40); an odd TRPC raises ALIGN here (01 R18). -/
def execEretSelf (s : State) : Host.Outcome State Fault Refusal :=
  run s 0x340 4 [] (
    let qid := queueOfCur s
    let q := getQueue s qid
    if q.trpc.getLsbD 0 then .error (oddTarget s)
    else .ok (jumpTo (modQueue s qid (fun q => { q with trapped := false, level := min (bits q.trinfo.toNat 13 12) q.level })) q.trpc))

end Sys2Proof.Machine
end

