-- ==== Sys2Proof/Machine/Xinst.lean ====
section
/-! DEFINITION. Translation fences and invalidations (13_translation R406-R411, R424), MIGRATE (R414-R417), leases (R418-R422) and queries (R422, R423). -/

namespace Sys2Proof.Machine

/-! ## What an invalidation covers (R409) -/

/-- Is a core within a scope of another (none: a context off the cores)? -/
def scopeCore (sc : Scope) (core : Option Nat) (c : Nat) : Bool :=
  match sc, core with
  | .core, some k => decide (k = c)
  | .clu, some k => decide (clusterOfCore k = clusterOfCore c)
  | .core, none => false
  | .clu, none => false
  | _, _ => true

/-- The lowest-numbered loaded slot of a VF whose GTRT carries an ASID (R414). -/
def slotOfAsid (s : State) (vf asid : Nat) : Option Nat :=
  ((getVf s vf).slots.find? (fun p => decide (p.2.gtrt.toNat % 4096 = asid))).map (·.1)

def inRanges (rs : List (Nat × Nat)) (page : Nat) : Bool := rs.any (fun r => decide (r.1 ≤ page) && decide (page < r.1 + r.2))

/-- Do runs of pages meet n pages from a first? -/
def runsMeet (rs : List (Nat × Nat)) (first n : Nat) : Bool := rs.any (fun r => decide (max first r.1 < min (first + n) (r.1 + r.2)))

/-- Does an invalidation name the translation of a page? -/
def Inval.covers (v : Inval) (p : PageUse) : Bool :=
  decide (v.vf = p.vf) &&
  (if v.host then v.all || inRanges v.ranges p.gpa else decide (v.asid = p.asid) && (v.all || inRanges v.ranges p.page))

/-- A TLB entry goes whole if it maps part of the range, or at `.h` if its host stage does (R409). -/
def Inval.coversTlb (v : Inval) (e : TlbEnt) : Bool :=
  decide (v.vf = e.vf) &&
  (if v.host then v.all || runsMeet v.ranges (e.g.out / 4096) e.pages else decide (v.asid = e.asid) && (v.all || runsMeet v.ranges e.page e.pages))

/-- Does an invalidation name entries of a stage: the guest stage of its space, or the host stage of its VF? -/
def Inval.ofStage (v : Inval) (vf asid : Nat) (host : Bool) : Bool :=
  decide (v.vf = vf) && decide (v.host = host) && (host || decide (v.asid = asid))

def Inval.coversRange (v : Inval) (e : RangeEnt) : Bool :=
  v.ofStage e.vf e.asid e.host && (v.all || runsMeet v.ranges (bits e.d 56 16 * 16) (bits e.d 159 128 * 16))

def Inval.coversWalk (v : Inval) (e : WalkEnt) : Bool :=
  let n := 2 ^ (levelShift (e.lvl - 1) - 12)
  v.ofStage e.vf e.asid e.host && (v.all || runsMeet v.ranges (e.inputTop * n) n)

/-- The scopes that cover the walkers (R409). -/
def Scope.hasWalkers : Scope → Bool
  | .die => true
  | .fab => true
  | _ => false

/-- Does an invalidation reach the agents of a core, or those off the cores? -/
def Inval.reaches (v : Inval) (core : Option Nat) : Bool :=
  match core with
  | some c => scopeCore v.scope (if v.core = 0 then none else some (v.core - 1)) c
  | none => (match v.scope with | .core => false | .clu => false | _ => true)

/-! ## Leases (R418-R421) -/

/-- Does a lease cover a page of its grid's space? -/
def Lease.hasPage (l : Lease) (page : Nat) : Bool := decide (l.va / 4096 ≤ page) && decide (page * 4096 < l.va + l.len)

def Lease.touches (l : Lease) (rs : List (Nat × Nat)) : Bool :=
  rs.any (fun r => decide (0 < r.2) && decide (l.va / 4096 < r.1 + r.2) && decide (r.1 * 4096 < l.va + l.len))

/-- Does an invalidation cover what a lease of a grid has recorded? A launch that waits has recorded nothing; a lease is held until its grid retires (R419). -/
def Inval.onLease (v : Inval) (g : Grid) (l : Lease) : Bool :=
  decide (g.vf = v.vf) && !g.waiting &&
  (if v.host then v.all || l.gpas.any (fun r => runsMeet v.ranges r.1 r.2) else decide (g.space.asid = v.asid) && (v.all || l.touches v.ranges))

/-- Is a lease in the way of an invalidation (R420)? -/
def Inval.leased (v : Inval) (g : Grid) (l : Lease) : Bool := v.onLease g l && !l.revoked

/-- Has a revocation that an invalidation waited for drained: no task of the grid that it doomed is left in a ring (R420)? -/
def tasksDrained (s : State) (n : Nat) : Bool :=
  s.rings.all (fun r => r.2.tasks.all (fun t => !(decide (t.grid = n) && t.doomed)))

/-- Ends every running task of a grid with a status, dooms the queued ones, and takes from the grid's works the translations of a lease (R420). -/
def revokeLease (s : State) (n : Nat) (l : Lease) : State :=
  let g := getGrid s n
  let s := setGrid s n { g with leases := g.leases.map (fun m => if m.n = l.n then { m with revoked := true, pending := none } else m) }
  let s := { s with works := s.works.map (fun w =>
    if w.grid = n ∧ !w.ended then { w with
      gone := w.gone ++ w.pages.filter (fun p => l.hasPage p.2.page), pages := w.pages.filter (fun p => !l.hasPage p.2.page) } else w) }
  (List.range Config.packages).foldl (fun s pkg =>
    let r := getRing s pkg g.vf
    let s := setRing s pkg g.vf { r with tasks := r.tasks.map (fun t => if t.grid = n then { t with doomed := true } else t) }
    match r.tasks with
    | t :: _ => if t.started ∧ t.grid = n then revokeTask s pkg g.vf t else s
    | [] => s) s

/-- Every lease that an invalidation touches waits at most the lease timeout from now (R420). -/
def pendLeases (s : State) (v : Inval) : State :=
  { s with grids := s.grids.map (fun p => (p.1, { p.2 with leases := p.2.leases.map (fun l =>
      if v.leased p.2 l ∧ l.pending.isNone then { l with pending := some (s.time + s.leaseto.toNat * 2000) } else l) })) }

/-! ## Invalidations (R408-R410) -/

def entryHit (v : Inval) (e : StoreEnt) : Bool := e.pages.any v.covers

/-- The core of an agent. -/
def agentCore (s : State) : Agent → Option Nat
  | .group g => some (coreOfGroup s g)
  | .axp g => some (coreOfGroup s g)
  | _ => none

/-- The use that a work makes of a page: in its own space, or a MIGRATE in the space that its block names, at the host stage by GPA alone (R414). -/
def Work.use (w : Work) (p : PageMap) : PageUse :=
  let asid := match w.kind with
    | .migrate _ host => if host then 2 ^ 12 else bits (w.word 2) 11 0
    | _ => w.space.asid
  { vf := match w.kind with | .migrate _ _ => w.vf | _ => w.space.vf, asid := asid, page := p.page, gpa := p.gpa }

/-- Starts an invalidation for an agent (R409, R410): it acts as TFENCE.pt, translations go, and what uses one is noted; works lose theirs and stop at the next line that needs it, but for the MIGRATE that invalidates. -/
def startInval (s : State) (a : Agent) (self : Option Nat) (v : Inval) : State :=
  let inSq := s.groups.flatMap (fun p => if v.reaches (some (coreOfGroup s p.1)) then (p.2.sq.filter (entryHit v)).map (·.seq) else [])
  let inOut := s.cores.flatMap (fun p => if v.reaches (some p.1) then (p.2.out.filter (entryHit v)).map (·.seq) else [])
  let inPend := (s.pending.filter (fun p => v.reaches (agentCore s p.agent) && p.pages.any v.covers)).map (·.id)
  let hit (w : Work) (p : Nat × PageMap) : Bool := decide (some w.id ≠ self) && v.reaches (agentCore s w.agent) && v.covers (w.use p.2)
  let inWorks := (s.works.filter (fun w => w.pages.any (hit w))).map (·.id)
  let v := { v with stores := inSq ++ inOut, pend := inPend, works := inWorks }
  let take (w : Work) : Work :=
    if w.ended then w else { w with gone := w.gone ++ w.pages.filter (hit w), pages := w.pages.filter (fun p => !hit w p) }
  let clean (c : Core) : Core := { c with tlb := c.tlb.filter (fun e => !v.coversTlb e), rbuf := c.rbuf.filter (fun e => !v.coversRange e) }
  let s := { s with
    works := s.works.map take
    cores := s.cores.map (fun p => if v.reaches (some p.1) then (p.1, clean p.2) else p)
    wcache := if v.scope.hasWalkers then s.wcache.filter (fun e => !v.coversWalk e) else s.wcache,
    -- a QWAIT that the walk of a removed translation registered walks again (14_tenancy R447)
    queues := if v.reaches none then s.queues.map (fun p => match p.2.wait with
        | some (.semaphore w) => if v.covers w.use then (p.1, { p.2 with wait := some .accesses }) else p
        | _ => p) else s.queues
    walked := if v.scope.hasWalkers then s.walked.filter (fun e => !v.coversWalk e) else s.walked,
    ranged := s.ranged.filter (fun e => !v.coversRange e.2) }
  let s := pendLeases (if v.scope.hasWalkers then fenceWalks s a else s) v
  { s with invals := s.invals ++ [v] }

/-- Has all that used a removed translation drained (R410), and is no lease in the way (R420)? -/
def invalReady (s : State) (v : Inval) : Bool :=
  s.groups.all (fun p => p.2.sq.all (fun e => !v.stores.contains e.seq)) &&
  s.cores.all (fun p => p.2.out.all (fun e => !v.stores.contains e.seq)) &&
  s.pending.all (fun p => !v.pend.contains p.id) &&
  s.works.all (fun w => !v.works.contains w.id) &&
  s.grids.all (fun p => p.2.leases.all (fun l => !v.leased p.2 l && (!(v.onLease p.2 l && l.revoked) || tasksDrained s p.1)))

def findInval (s : State) (id : Nat) : Option Inval := s.invals.find? (fun v => v.id = id)
def dropInval (s : State) (id : Nat) : State := { s with invals := s.invals.filter (fun v => v.id ≠ id) }

/-- An invalidation of the executing context: it starts, waits, and ends with the instruction. -/
def invalBody (s : State) (us : List Use) (v : State → Inval) : Except Stop State :=
  match s.invals.find? (fun v => decide (v.agent = some s.cur)) with
  | some v => if v.done then .ok (finish us 4 (dropInval s v.id)) else .error (.wait (.invalidation v.id))
  | none =>
    let id := s.nextId
    .ok (waitOn (.invalidation id) (startInval { s with nextId := id + 1 } s.cur none { v s with id := id, agent := some s.cur }))

def noInval : Inval := { id := 0, agent := none, vf := 0, asid := 0, host := false, all := false, ranges := [], scope := .die, core := 0 }

/-- Word a+3 of R407: the ASID and the VF, which PL1 takes as its own; ILLEGAL_INSTRUCTION for a reserved bit. -/
def spaceWord (s : State) (w : Nat) (host : Bool) : Except Stop (Nat × Nat) :=
  if bits w 31 21 ≠ 0 ∨ bits w 15 12 ≠ 0 ∨ (host ∧ bits w 11 0 ≠ 0) then .error (illegal 1)
  else .ok (bits w 11 0, if levelOf s ≤ 1 then vfOf s else bits w 20 16)

def coreKey (s : State) : Nat := match coreOf s with | some c => c + 1 | none => 0

/-- The input range of a valid descriptor (R390), in pages. -/
def descPages (d : Nat) : List (Nat × Nat) := if bits d 0 0 = 1 then [(bits d 56 16 * 16, bits d 159 128 * 16)] else []

/-- The input ranges of descriptor k of a table: as the home has it, and as a walker may still read it (R403). -/
def descRange (s : State) (tr : State → Nat → Except XStop (Nat × State)) (root : DWord) (k : Nat) : List (Nat × Nat) :=
  match tr s (bits root.toNat 56 13 * 8192 + 32 * k) with
  | .ok (pa, s) => (tableVersions s pa 32).flatMap descPages
  | .error _ => []

/-- What RNGINV names (R424): the input ranges of the descriptors in the tables, in the range buffers, and as TLB entries keep them. -/
def descRanges (s : State) (vf asid : Nat) (host : Bool) (first count : Nat) : List (Nat × Nat) :=
  let ks := (List.range count).map (fun i => first + i)
  let tables := ks.flatMap (fun k =>
    if host then descRange s hostTables (getVf s vf).hrdt k
    else match slotOfAsid s vf asid with
      | some n => descRange s (guestTables {} vf) (slotOf s vf n).grdt k
      | none => [])
  let buffered := s.cores.flatMap (fun c => (c.2.rbuf.filter (fun e => decide (e.vf = vf) && decide (e.host = host) && (host || decide (e.asid = asid)) && ks.contains e.k)).flatMap (fun e => descPages e.d))
  let combined := s.cores.flatMap (fun c => c.2.tlb.filterMap (fun e =>
    match (if host then e.h.range else e.g.range) with
    | some k => if e.vf = vf ∧ (host ∨ e.asid = asid) ∧ ks.contains k then some ((if host then e.g.out / 4096 else e.page), e.pages) else none
    | none => none))
  tables ++ buffered ++ combined

/-! ## MIGRATE (R414-R417) -/

/-- What step 0 found: leaf PA, old base, new base, size in bytes, old leaf, level code. -/
def migData (w : Work) : List Nat := tabGet w.data 0 []
def migAt (w : Work) (i : Nat) : Nat := (migData w).getD i 0

def migHost (w : Work) : Bool := match w.kind with | .migrate _ h => h | _ => false
def migForce (w : Work) : Bool := match w.kind with | .migrate f _ => f | _ => false

/-- What a host leaf gives for a local address of its page, whatever it permits. -/
def leafStage (e out : Nat) : Stage1 :=
  { out := out % 2 ^ 48, pol := 0, part := 0, plc := bits e 61 60, pmod := bits e 56 48, r := true, w := true, x := true, u := true,
    a := true, d := true, m := false, size := 0, range := none, leaf := none, pte := e }

/-- The PA of a byte of the old or the new page, whose base the leaf gives: a GPA at the guest stage, read or written through the host stage, whose leaf then has A or D set (R405), or a placed local address at the host stage. -/
def migAccess (s : State) (w : Work) (old : Bool) (off : Nat) : Except XStop (Nat × State) :=
  let base := migAt w (if old then 1 else 2) + off
  let pa (h : Stage1) : Nat := placeModule s (getVf s w.vf) h * 2 ^ 48 + h.out
  let walk (wk : Walker) : Except XStop (Stage1 × State) := do
    let (h, t) ← hostLookup wk s w.vf base
    if held s h then throw (.migrating h.level true (h.leaf.getD 0))
    permit h (if old then .read else .write) false true
    return (h, t)
  if migHost w then .ok (pa (leafStage (migAt w (if old then 4 else 5)) base), s)
  else do
    let (h, t) ← walk {}
    match setAD t h (!old) with
    | some t => return (pa h, t)
    | none =>
      let (h, t) ← walk { now := true }
      return (pa h, (setAD t h (!old)).getD t)

def migPa (s : State) (w : Work) (old : Bool) (off : Nat) : Except XStop Nat := (migAccess s w old off).map (·.1)

/-- The line of a byte of a page, if it translates. -/
def migKey (s : State) (w : Work) (old : Bool) (k : Nat) : List Nat :=
  match migPa s w old (k * lineSize) with
  | .ok pa => [lineOf pa]
  | .error _ => []

def migLines (w : Work) : Nat := migAt w 3 / lineSize

/-- Bytes of a page of a size code. -/
def pageBytes (size : Nat) : Nat := if size = 3 then 2 ^ 30 else if size = 2 then 2 ^ 21 else if size = 1 then 65536 else 4096

/-- The level of the walk that a size code stands for, for the checks of a leaf. -/
def sizeLevel (size : Nat) : Nat := if size = 3 then 1 else if size = 2 then 2 else 3

/-- The pages of the migrated page in the space or the host space. -/
def migRanges (w : Work) : List (Nat × Nat) := [(w.pair 0 / migAt w 3 * migAt w 3 / 4096, migAt w 3 / 4096)]

/-- The module set of a VF has several members. -/
def manyModules (s : State) (vf : Nat) : Bool := decide ((getVf s vf).msetc.toNat % 8 ≠ 0)

/-- The invalidation of steps 2 and 6. -/
def migInval (s : State) (w : Work) : Inval :=
  { noInval with
    vf := w.vf, asid := if migHost w then 0 else bits (w.word 2) 11 0, host := migHost w, ranges := migRanges w,
    scope := if manyModules s w.vf then .fab else .die }

/-- Does the page lie in a lease of the VF? -/
def migLeases (s : State) (w : Work) : List (Nat × Lease) :=
  let v := migInval s w
  s.grids.flatMap (fun p => (p.2.leases.filter (v.leased p.2)).map (fun l => (p.1, l)))

/-- The 4 KiB pages of the old and the new page: their first bytes. -/
def migParts (w : Work) : List Nat := (List.range (migAt w 3 / 4096)).map (· * 4096)

/-- Do the old and the new page share memory? -/
def migOverlap (s : State) (w : Work) : Bool :=
  let pas (old : Bool) : List Nat := (migParts w).filterMap (fun o => match migPa s w old o with | .ok pa => some (pa / 4096) | .error _ => none)
  (pas false).any (pas true).contains

/-- The translations that a MIGRATE uses (R410): of the page that it moves, and of the new page at the host stage. -/
def migPages (w : Work) : List (Nat × PageMap) :=
  let first := w.pair 0 / migAt w 3 * migAt w 3
  (migParts w).flatMap (fun o =>
    let old : PageMap := { page := (first + o) / 4096, pa := 0, gpa := (if migHost w then first + o else migAt w 1 + o) / 4096 }
    let new : PageMap := { page := 2 ^ 60, pa := 0, gpa := (migAt w 2 + o) / 4096 }
    if migHost w then [(0, old)] else [(0, old), (1, new)])

/-- The lowest of the indices whose condition holds. -/
def firstOf (l : List (Nat × Bool)) : Option Nat := (l.find? (·.2)).map (·.1)

/-- The word of a block that ends MIGRATE with CAUSE 0x01 (R414, R417). -/
def migBlockBad (w : Work) : Option Nat :=
  let host := migHost w
  firstOf [(2, decide (bits (w.word 2) 31 21 ≠ 0 ∨ bits (w.word 2) 15 12 ≠ 0 ∨ (host = true ∧ bits (w.word 2) 11 0 ≠ 0))),
    (3, decide (w.word 3 ≠ 0)), (6, !copyCtlOk (w.word 6) false), (7, decide (w.word 7 ≠ 0))]

/-- The walk of step 0, through the roots of the process that carries the ASID; none when no loaded slot carries it (R414). -/
def migWalk (s : State) (w : Work) : Option (Except XStop (Stage1 × State)) :=
  let asid := bits (w.word 2) 11 0
  if migHost w then some (hostLookup {} s w.vf (w.pair 0))
  else (slotOfAsid s w.vf asid).map (fun n => guestLookup {} s w.vf asid (slotOf s w.vf n).gtrt (slotOf s w.vf n).grdt (w.pair 0))

/-- The checks of the leaf that step 0 found: the work as it starts, or its status. -/
def migLeafStart (s : State) (w : Work) (st : Stage1) : Work :=
  let new := w.pair 4
  match st.range, st.leaf with
  | none, some pa =>
    let w := { w with data := tabPut w.data 0 [pa, bits st.pte 56 12 * 4096, bits new 56 12 * 4096, pageBytes st.size, st.pte, new] }
    if st.m then w.failed 0x01 0x101
    else match leafOut (sizeLevel st.size) new pa (w.pair 0) (migHost w) with
      | .error _ => w.failed 0x01 4
      | .ok _ =>
        if bits new 0 0 = 0 ∨ bits new 1 1 = 0 ∨ bits new 8 8 = 1 ∨ bits new 9 9 ≠ bits st.pte 9 9 then w.failed 0x01 4
        else if bits new 56 12 = bits st.pte 56 12 ∨ migOverlap s w then w.failed 0x01 4
        else if !(migLeases s w).isEmpty ∧ !migForce w then w.failed 0x01 0x100
        else { w with pages := migPages w }
  | _, _ => w.failed 0x01 0x102

/-- Block checks and step 0 of MIGRATE: the work as it starts, or its status; a table page that migrates keeps the context waiting (R416). -/
def migStart (s : State) (w : Work) : Except Stop (Work × State) :=
  match migBlockBad w with
  | some i => .ok (w.failed 0x01 i, s)
  | none => match migWalk s w with
    | none => .ok (w.failed 0x01 2, s)
    | some (.ok (st, _)) => .ok (migLeafStart s w st, s)
    | some (.error (.fault c a s2 pa)) => .ok (w.failed c 0, noteXStop s w.vf (.fault c a s2 pa))
    | some (.error (.migrating _ _ leaf)) => if limitHit s leaf then .ok (w.failed 0x08 0, s) else .error (.wait (.migration leaf))

/-- The lines of both pages for positions in a page. -/
def migKeys (s : State) (w : Work) (ls : List Nat) : List Nat := (ls.flatMap (fun k => migKey s w true k ++ migKey s w false k)).eraseDups

/-- The lines of a chunk: all of a small page while the tables have room, else 8 of each, which no home slice has more than 16 of (R415). -/
def migChunk (s : State) (w : Work) (from' : Nat) : List Nat :=
  let whole := List.range (migLines w)
  if migAt w 3 ≤ 65536 ∧ from' = 0 ∧ claimRoom s w.id (migKeys s w whole) then whole
  else ((List.range 8).map (fun i => from' + i)).filter (fun k => decide (k < migLines w))

/-- The leaf at its home, as an atomic of the home reads it (R316). -/
def migLeaf (s : State) (w : Work) : Nat × State :=
  let s := serveLine s (lineOf (migAt w 0))
  (leNat (memReadList s.mem (migAt w 0) 8), s)

/-- A MIGRATE writes its leaf. -/
def migPut (s : State) (w : Work) (e : Nat) : State := { homeWrite { s with cur := w.agent } none (migAt w 0) (leBytes 8 e) with cur := s.cur }

/-- Steps already done are undone: the old leaf stands with M = 0 (R417). -/
def migUndo (s : State) (w : Work) (cause index : Nat) : State :=
  let (e, s) := migLeaf s w
  setWork (dropClaims (migPut s w (e &&& (2 ^ 64 - 1 - 256))) w.id) (w.failed cause index)

def migFinish (s : State) (w : Work) : State := setWork s { w with ended := true }

/-- A MIGRATE starts its invalidation and waits for it. -/
def migInvalidate (s : State) (w : Work) (stage : Nat) : State :=
  let id := s.nextId
  setWork (startInval { s with nextId := id + 1 } w.agent (some w.id) { migInval s w with id := id, agent := none }) { w with stage := stage, index := id }

/-- Line k of a chunk is copied, or its failure ends the MIGRATE (R417); a translation that an invalidation has taken stops it (R410). -/
def migCopy (s : State) (w : Work) (k : Nat) : State :=
  match (do
    let (a, s) ← migAccess s w true (k * lineSize)
    let (b, s) ← migAccess s w false (k * lineSize)
    return ((a, b), s) : Except XStop ((Nat × Nat) × State)) with
  | .ok ((a, b), s) =>
    if w.gone ≠ [] then migUndo s w 0x08 k
    else if !firstClaim s w.id (lineOf a) ∨ !firstClaim s w.id (lineOf b) then s
    else match transferBad s ((List.range lineSize).map (fun i => .glob (a + i))) ((List.range lineSize).map (fun i => .glob (b + i))) with
      | some (c, pa) => migUndo (logError s c pa w.vf true) w 0x0C k
      | none =>
        let s := serveLine (countReq s a) (lineOf a)
        let s := engineWrite s w (((List.range lineSize).map (fun i => .glob (b + i))).zip (memReadList s.mem a lineSize))
        let chunk := w.vals.map (·.1)
        let w := { w with pieces := k :: w.pieces, mwait := none }
        if chunk.all w.pieces.contains then
          if migAt w 3 ≤ 65536 ∧ chunk.length = migLines w then setWork s { w with stage := 4 }
          else setWork (dropClaims s w.id) { w with stage := 2, index := w.index + chunk.length }
        else setWork s w
  | .error (.fault c x s2 pa) => migUndo (noteXStop s w.vf (.fault c x s2 pa)) w c k
  | .error (.migrating _ _ leaf) => if waitedOut w.mlimit w.mwait leaf then migUndo s w 0x08 k else workWaits s w (.migration leaf)

/-- One step of a MIGRATE (R415): stage 0 sets M and starts the first invalidation; 1 waits for it; 2 claims a chunk; 3 copies its lines; 4 writes the new leaf and invalidates again; 5 ends, and only then does the leaf let accesses on. -/
def migStep (s : State) (w : Work) (k : Nat) : State :=
  if w.ended then s
  else match w.stage with
  | 0 =>
    let (e, t) := migLeaf s w
    if bits e 8 8 = 1 then setWork t (w.failed 0x01 0x101)
    else
      let t := migPut t w (e ||| 256)
      migInvalidate (if migForce w then (migLeases t w).foldl (fun s p => revokeLease s p.1 p.2) t else t) w 1
  | 1 =>
    match findInval s w.index with
    | some v => if v.done then setWork (dropInval s v.id) { w with stage := 2, index := 0 } else s
    | none => s
  | 2 =>
    let ls := migChunk s w w.index
    if ls = [] then setWork s { w with stage := 4 }
    else match claimLines s w.id (migKeys s w ls) with
      | .ok s => setWork s { w with stage := 3, pieces := [], vals := ls.map (fun k => (k, 0)) }
      | .error _ => s
  | 3 => if !(w.vals.map (·.1)).contains k ∨ w.pieces.contains k then s else migCopy s w k
  | 4 =>
    let (e, t) := migLeaf s w
    migInvalidate (migPut t w ((migAt w 5 &&& (2 ^ 64 - 1 - 192 - 256)) ||| (e &&& 192))) w 5
  | _ =>
    match findInval s w.index with
    | some v => if v.done then migFinish (dropClaims (dropInval s v.id) w.id) { w with index := 0 } else s
    | none => s

/-- MIGRATE (R414): the work starts with its checks. -/
def migrateBody (s : State) (d a : BitVec 7) (force host : Bool) : Except Stop State := do
  engineGate s
  let w := newWork s (.migrate force host) d 0 (readBlock s a 8)
  let vf := if levelOf s ≤ 1 then vfOf s else bits (w.word 2) 20 16
  let (w, s) ← migStart s { w with vf := vf }
  return advance 4 (issueWork s w)

/-! ## Queries (R422, R423) -/

/-- The lowest lease entry of a VF's grids, held until they retire (R419), that covers a VA of the executing space. -/
def leaseAt (s : State) (sp : Space) (va : Nat) : Option Lease :=
  s.grids.findSome? (fun p =>
    if p.2.vf = sp.vf ∧ p.2.space.asid = sp.asid ∧ !p.2.waiting then
      p.2.leases.find? (fun l => decide (l.va ≤ va) && decide (va < l.va + l.len)) else none)

/-- The two result words of LEASEQ. -/
def leaseWords (s : State) (va : Nat) : Word × Word :=
  match leaseAt s (spaceOf s) va with
  | none => (0, 0xFFFFFFFF)
  | some l =>
    (BitVec.ofNat 32 (2 ^ 31 + (if l.rw then 2 ^ 30 else 0) + (if l.revoked || l.pending.isSome then 2 ^ 29 else 0) + l.n),
     match l.pending with
     | some t => if l.revoked then 0xFFFFFFFF else BitVec.ofNat 32 ((t - s.time + 1999) / 2000)
     | none => 0xFFFFFFFF)

/-- A LEASEQ or PTQ result: it returns later, and its destination is empty until then (R88). -/
def longValue (s : State) (dst : Nat) (bs : List Byte) : State :=
  addPending s .value ((coreOf s).getD noCore) dst bs.length [{ lane := none, src := bs.map .byte }] false none none []

def bit1 (b : Bool) (n : Nat) : Nat := if b then 2 ^ n else 0

/-- The four words of PTQ. -/
def ptqWords (pa st : Nat) : List Word :=
  [BitVec.ofNat 32 pa, BitVec.ofNat 32 (pa / 2 ^ 32), BitVec.ofNat 32 st, BitVec.ofNat 32 (modOf pa + homeSlice pa * 65536)]

/-- The attribute word of R423 for a host stage and, unless `.h`, a guest stage. -/
def ptqAttr (g : Option Stage1) (h : Stage1) (pol : Nat) : Nat :=
  let both (f : Stage1 → Bool) : Bool := f h && (match g with | some x => f x | none => true)
  let guest (f : Stage1 → Bool) : Bool := match g with | some x => f x | none => false
  bit1 (guest (fun x => x.range.isSome)) 23 + bit1 h.range.isSome 22
  + (match g with | some x => min x.size h.size | none => h.size) * 2 ^ 20
  + h.part * 2 ^ 17 + pol * 2 ^ 15 + h.plc * 2 ^ 13
  + bit1 (h.m || guest (·.m)) 12 + bit1 (guest (·.d)) 7 + bit1 (guest (·.a)) 6 + bit1 (guest (·.u)) 5
  + bit1 (both (·.x)) 4 + bit1 (both (·.w)) 3 + bit1 (both (·.r)) 2 + 1

/-- PTQ's result words: a found translation, one that meets M, or the cause, and how the walk stopped. R423 gives no CAUSE for a table that its home cannot serve: it is 0x08 or 0x09, which is free (log 96). -/
def ptqResult (s : State) (k : Acc) (host : Bool) (x : Nat) : List Word × Option XStop :=
  let none' (st : Nat) : List Word := [0, 0, BitVec.ofNat 32 st, 0]
  let found (g : Option Stage1) (h : Stage1) (vf : Nat) : List Word × Option XStop :=
    let pa := placeModule s (getVf s vf) h * 2 ^ 48 + h.out
    let pol := match g with | some y => if y.pol ≠ 0 then y.pol else h.pol | none => h.pol
    (ptqWords pa (ptqAttr g h pol), none)
  let fail (x : XStop) : List Word × Option XStop := (match x with
    | .fault c _ _ _ => none' ((if c = 0x08 ∨ c = 0x09 then c else 0x08 + pick s 7 2) * 2 ^ 24)
    | .migrating _ _ _ => none' (2 ^ 12), some x)
  if host then
    match hostLookup {} s (regVf s) x with
    | .error e => fail e
    | .ok (h, _) => (match (if h.m then .ok () else permit h k false true) with
      | .error e => fail e
      | .ok () => found none h (regVf s))
  else
    let sp := spaceOf s
    if 2 ^ 57 ≤ x then (none' (0x08 * 2 ^ 24), none)
    else match guestLookup {} s sp.vf sp.asid sp.gtrt sp.grdt x with
      | .error e => fail e
      | .ok (g, t) =>
        match (if g.m then .ok () else permit g k (decide (sp.pl = 0)) false) with
        | .error e => fail e
        | .ok () =>
          match hostLookup {} t sp.vf g.out with
          | .error e => fail e
          | .ok (h, _) =>
            match (if g.m || h.m then .ok () else permit h k false true) with
            | .error e => fail e
            | .ok () => found (some g) h sp.vf

/-- R408 TFENCE_PT: Make earlier page-table stores visible to walkers. -/
def execTfencePt (s : BitVec 2) (st : State) : Host.Outcome State Fault Refusal :=
  run st 0x2E0 0 [] (do
    match st.cur with
    | .group gid => if !(storesAt st gid .die && releaseDone st gid (scopeOf s)) then throw (.wait .accesses)
    | _ => pure ()
    return finish [] 4 (if (scopeOf s).hasWalkers then fenceWalks st st.cur else st))

/-- R408 TFENCE_WALK: completes at once; walks for later accesses of the group start after its earlier accesses have performed. -/
def execTfenceWalk (s : State) : Host.Outcome State Fault Refusal :=
  run s 0x2E0 0 [] (.ok (finish [] 4 (match s.cur with
    | .group gid => modGroup s gid (fun g => { g with walkSeq := s.seq })
    | _ => s)))

/-- R409 TFENCE_INV: Remove cached translations of a range and wait for their users. -/
def execTfenceInv (a : BitVec 7) (e : BitVec 1) (s : BitVec 2) (g : BitVec 1) (st : State) : Host.Outcome State Fault Refusal :=
  run st 0x2E0 (1 + (if g = 1 then 32 else 0)) (Uses.axbind a) (do
    let (asid, vf) ← spaceWord st (readField st (a.toNat + 3) 0).toNat (g = 1)
    invalBody st (Uses.axbind a) (fun t => { noInval with
      vf := vf, asid := asid, host := decide (g = 1), all := decide (e = 1), scope := scopeOf s, core := coreKey t,
      ranges := [(bits (readSPair t a).toNat 63 12, (readField t (a.toNat + 2) 0).toNat)] }))

/-- R415 MIGRATE: Move a page under a migrating leaf with copy and invalidation. -/
def execMigrate (d : BitVec 7) (a : BitVec 7) (f : BitVec 1) (h : BitVec 1) (s : State) : Host.Outcome State Fault Refusal :=
  run s 0x2E1 (if h = 1 then 2 else 0) (Uses.cpy d a) (migrateBody s d a (f = 1) (h = 1))

/-- R423 PTQ: Translate without access and report PA and attributes. -/
def execPtq (d : BitVec 7) (a : BitVec 7) (k : BitVec 2) (h : BitVec 1) (s : State) : Host.Outcome State Fault Refusal :=
  run s 0x2E2 0 (Uses.ptq d a k) (do
    if h = 1 ∧ levelOf s < 2 then throw (trapOf 0x03)
    let acc : Acc := if k = 0 then .read else if k = 1 then .write else .exec
    let r := ptqResult s acc (h = 1) (readSPair s a).toNat
    let s := match r.2 with | some x => noteXStop s (vfOf s) x | none => s
    return finish (Uses.ptq d a k) 4 (longValue s d.toNat (r.1.flatMap (fun w => leBytes 4 w.toNat))))

/-- R424 RNGINV: Remove cached range descriptors. -/
def execRnginv (a : BitVec 7) (s : BitVec 2) (h : BitVec 1) (st : State) : Host.Outcome State Fault Refusal :=
  run st 0x2E3 (if h = 1 then 32 else 0) (Uses.ret a) (do
    let x := (readSReg st a).toNat
    if bits x 31 16 ≠ 0 then throw (illegal 1)
    let (asid, vf) ← spaceWord st (readField st (a.toNat + 1) 0).toNat (h = 1)
    invalBody st (Uses.ret a) (fun t => { noInval with
      vf := vf, asid := asid, host := decide (h = 1), scope := scopeOf s, core := coreKey t,
      ranges := descRanges t vf asid (h = 1) (bits x 7 0) (bits x 15 8 + 1) }))

/-- R422 LEASEQ: Report the lease covering a VA. -/
def execLeaseq (d : BitVec 7) (a : BitVec 7) (s : State) : Host.Outcome State Fault Refusal :=
  run s 0x2E4 0 (Uses.leaseq d a) (do
    let (w0, w1) := leaseWords s (readSPair s a).toNat
    return finish (Uses.leaseq d a) 4 (longValue s d.toNat (leBytes 4 w0.toNat ++ leBytes 4 w1.toNat)))

/-- R410 TFENCE_INV_COMPLETE: an invalidation completes when all that used a removed translation has drained. -/
def execTfenceInvComplete (id : Nat) (s : State) : Host.Outcome State Fault Refusal :=
  match findInval s id with
  | some v => if invalReady s v then .next { s with invals := s.invals.map (fun x => if x.id = id then { x with done := true } else x) } else .next s
  | none => .next s

/-- R420 LEASE_TIMEOUT: a pending revocation falls due and the lease is revoked. -/
def execLeaseTimeout (grid : Nat) (n : Nat) (s : State) : Host.Outcome State Fault Refusal :=
  match (getGrid s grid).leases.find? (fun l => l.n = n) with
  | some l => match l.pending with
    | some t => if t ≤ s.time ∧ !l.revoked then .next (revokeLease s grid l) else .next s
    | none => .next s
  | none => .next s

/-- R416 MIGRATION_LIMIT: a wait on M has lasted 10 ms, and the access takes TRANSLATION with code 6 when it is tried again: of a group, of its access slice, of a queue context, or of their engine work. -/
def execMigrationLimit (who : Watched) (s : State) : Host.Outcome State Fault Refusal :=
  let due (m : Option (Nat × Nat)) : Bool := m.any (fun p => decide (p.2 + migrationLimit ≤ s.time))
  let works (t : State) (mine : Agent → Bool) : State := { t with works := t.works.map (fun w => if mine w.agent ∧ due w.mwait then { w with mlimit := true } else w) }
  match who with
  | .group gid => .next (if (tabFind s.groups gid).isNone then s else works (modGroup s gid (fun g => { g with
      mlimit := g.mlimit || due g.mwait
      axp := g.axp.map (fun a => { a with mlimit := a.mlimit || due a.mwait }) })) (fun a => decide (a = .group gid) || decide (a = .axp gid)))
  | .queue qid => .next (if (tabFind s.queues qid).isNone then s else works (modQueue s qid (fun q => { q with mlimit := q.mlimit || due q.mwait })) (fun a => decide (a = .queue qid)))

end Sys2Proof.Machine
end

