-- ==== Sys2Proof/Machine/Launch.lean ====
section
/-! DEFINITION. LAUNCH (14_tenancy R444-R446), its leases (13_translation R418) and the offers to modules (16_fabric R490). -/

namespace Sys2Proof.Machine

/-- A little-endian field of a block of bytes. -/
def fieldOf (bs : List Byte) (off n : Nat) : Nat := leNat ((bs.drop off).take n)

/-- The record's fields out of their limits, by offset / 4 (R445, R446). -/
def recordBad (r : List Byte) : Option Nat :=
  let dim (o : Nat) : Bool := decide (fieldOf r o 4 = 0) || decide (65535 < fieldOf r o 4)
  firstOf [(0, fieldOf r 0 8 % 64 ≠ 0), (2, dim 8), (3, dim 12), (4, dim 16), (5, 2 ≤ fieldOf r 0x14 4),
    (6, fieldOf r 0x18 8 % 16 ≠ 0), (8, fieldOf r 0x20 4 % 16 ≠ 0 ∨ 2 ^ 20 < fieldOf r 0x20 4),
    (9, fieldOf r 0x24 4 % 1024 ≠ 0 ∨ 65536 < fieldOf r 0x24 4), (10, fieldOf r 0x28 8 % 64 ≠ 0),
    (13, fieldOf r 0x34 4 ≠ 0), (14, fieldOf r 0x38 8 % 64 ≠ 0)]

/-- A V budget that `.regs` can name (01_encoding R55). -/
def budgetOk (v : Nat) : Bool := decide (8 ≤ v) && decide (v ≤ 88) && decide (v % 8 = 0)

/-- Is a kernel descriptor one that exas could not have written (R444; log 41)? -/
def kernelBad (k : List Byte) : Bool :=
  let shape := fieldOf k 0x1C 4
  let regs := fieldOf k 0x20 4
  let mods := fieldOf k 0x24 4
  let n := bits shape 4 0
  let roles := decide (bits shape 10 10 = 1)
  let np := bits regs 4 0
  let nc := bits regs 20 16
  decide (n = 0) || decide (16 < n) || decide (bits shape 7 5 ≠ 0) || decide (bits shape 15 11 ≠ 0) || decide (bits shape 31 24 ≠ 0)
  || decide (524288 < fieldOf k 0x18 4) || decide (fieldOf k 0x18 4 % 128 ≠ 0) || !budgetOk (bits regs 14 8)
  || (roles && (decide (np = 0) || decide (nc = 0) || decide (np + nc ≠ n) || !budgetOk (bits regs 30 24)))
  || decide (bits mods 9 0 = 0) || decide (bits mods 25 16 < bits mods 9 0) || decide (512 < bits mods 25 16)

/-- Is a decode map loaded (01_encoding R44)? -/
def mapLoaded (s : State) (m : Nat) : Bool := decide (m = 1) || s.decSlots.any (fun p => decide (p.2.1 = m))

/-- Size of a VF's module set (13_translation R397). -/
def setSize (v : Vf) : Nat := 2 ^ min (v.msetc.toNat % 8) 4

def membersOf (v : Vf) : List Nat := (List.range (setSize v)).map (memberOf v)

/-- Clusters in service. -/
def clustersUp (s : State) : Nat := Config.clusters - (s.clusters.filter (fun p => p.2.retired)).length

/-- Teams of a kernel that an empty core holds (05_core_memory R154, R155). -/
def teamsPerCore (g : Grid) : Nat :=
  min (32 / max g.groups 1) (min (if g.spad = 0 then 32 else 524288 / g.spad) (if g.access = 0 then 32 else 16 / max g.groups 1))

/-- Bit n of DEMANDS or LEASES. -/
def declared (w n : Nat) : Bool := decide (bits w n n = 1)

/-- How the reads of a LAUNCH end it: with a cause and an INDEX, or a wait on M (13_translation R416). -/
inductive LaunchEnd where
  | fail (cause index : Nat) (x : Option XStop)
  | later (leaf : Nat)
  deriving DecidableEq, Repr

/-- Reads the record, the descriptor and the range table, and makes the checks of R446: the grid, or how the LAUNCH ends. -/
def launchGrid (s : State) (w : Work) : Except LaunchEnd (Grid × State) := do
  match firstOf ((List.range 6).map (fun i => (i + 2, decide (w.word (i + 2) ≠ 0)))) with
  | some i => throw (.fail 0x01 i none)
  | none => pure ()
  let read (s : State) (va n : Nat) : Except LaunchEnd (List Byte × State) :=
    match readVirt s w.space va n with
    | .ok r => .ok r
    | .error (.fault c x s2 pa) => .error (.fail c 0xFF (some (.fault c x s2 pa)))
    | .error (.migrating _ _ leaf) => if limitHit s leaf then .error (.fail 0x08 0xFF none) else .error (.later leaf)
  let (r, s) ← read s (w.pair 0) 128
  match recordBad r with
  | some i => throw (.fail 0x01 i none)
  | none => pure ()
  let (k, s) ← read s (fieldOf r 0 8) 64
  let (t, s) ← (if fieldOf r 0x38 8 = 0 then pure (List.replicate 512 0, s) else read s (fieldOf r 0x38 8) 512)
  if kernelBad k then throw (.fail 0x01 0 none)
  let shape := fieldOf k 0x1C 4
  let regs := fieldOf k 0x20 4
  let mods := fieldOf k 0x24 4
  let range (n : Nat) : Nat × Nat := (fieldOf t (16 * n) 8, fieldOf t (16 * n + 8) 8)
  let ls := (List.range 16).filter (declared (fieldOf k 0x28 4))
  let ds := (List.range 16).filter (declared (fieldOf k 0x2C 4))
  let g : Grid := {
    vf := w.vf, qid := (match w.agent with | .queue q => q | _ => 0), slot := (match w.agent with | .queue q => (getQueue s q).slot | _ => 0), inst := w.inst, space := { w.space with pl := 0 },
    entry := BitVec.ofNat 64 (fieldOf k 0 8), access := BitVec.ofNat 64 (fieldOf k 8 8), livemap := BitVec.ofNat 64 (fieldOf k 16 8),
    spad := fieldOf k 0x18 4, groups := bits shape 4 0, det := bits shape 8 8 = 1, gang := bits shape 9 9 = 1, roles := bits shape 10 10 = 1,
    decmap := bits shape 23 16, np := bits regs 4 0, vp := bits regs 14 8, nc := bits regs 20 16, vc := bits regs 30 24,
    minMods := bits mods 9 0, maxMods := bits mods 25 16,
    gx := fieldOf r 8 4, gy := fieldOf r 12 4, gz := fieldOf r 16 4, idem := bits (fieldOf r 0x14 4) 0 0 = 1,
    pb := BitVec.ofNat 64 (fieldOf r 0x18 8), ps := fieldOf r 0x20 4, satlen := fieldOf r 0x24 4, farea := BitVec.ofNat 64 (fieldOf r 0x28 8),
    tcap := (if fieldOf r 0x30 4 = 0 then 10000 else fieldOf r 0x30 4) * 2000,
    args := (List.range 16).map (fun i => BitVec.ofNat 32 (fieldOf r (0x40 + 4 * i) 4)),
    leases := ls.map (fun n => { n := n, va := (range n).1, len := (range n).2, rw := declared (fieldOf k 0x28 4) (16 + n) }),
    demands := ds.map (fun n => ((range (16 + n)).1, (range (16 + n)).2, n)),
    mods := if bits mods 25 16 ≤ 1 then [s.modn.toNat] else [], offered := if bits mods 25 16 ≤ 1 then [s.modn.toNat] else [],
    token := w.token, waiting := true, issuedAt := s.time }
  if !mapLoaded s g.decmap then throw (.fail 0x01 0x40 none)
  if g.gang ∧ clustersUp s * Config.coresPerCluster * teamsPerCore g * g.maxMods < gridTeams g then throw (.fail 0x01 0x41 none)
  if setSize (getVf s w.vf) < g.minMods then throw (.fail 0x01 0x42 none)
  if (ls.any (fun n => decide ((range n).2 = 0))) ∨ (ds.any (fun n => decide ((range (16 + n)).2 = 0))) then throw (.fail 0x01 14 none)
  return (g, s)

/-! ## Leases (13_translation R418) -/

/-- Merges pages into ranges: VA page, pages, PA page. -/
def coalesce : List (Nat × Nat) → List (Nat × Nat × Nat) → List (Nat × Nat × Nat)
  | [], acc => acc.reverse
  | (v, p) :: r, acc =>
    match acc with
    | (v0, n, p0) :: rest => if v = v0 + n ∧ p = p0 + n then coalesce r ((v0, n + 1, p0) :: rest) else coalesce r ((v, 1, p) :: acc)
    | [] => coalesce r [(v, 1, p)]

/-- Every page of a lease made resident: its ranges, or the cause, or a wait on M. -/
def pinLease (s : State) (g : Grid) (l : Lease) : Except XStop (Lease × State) := do
  let (ps, s) ← translateRun s none g.space l.va l.len (if l.rw then .write else .read)
  return ({ l with ranges := coalesce (ps.map (fun p => (p.page, p.pa))) [],
                   gpas := (coalesce (ps.map (fun p => (p.gpa, p.gpa))) []).map (fun r => (r.1, r.2.1)) }, s)

inductive Pinned where
  | ok (ls : List Lease) (s : State)
  | failed (index : Nat) (x : XStop)
  deriving DecidableEq, Repr

def pinLeases (s : State) (g : Grid) : List Lease → List Lease → Pinned
  | [], acc => .ok acc.reverse s
  | l :: r, acc =>
    match pinLease s g l with
    | .ok (m, s) => pinLeases s g r (m :: acc)
    | .error x => .failed l.n x

def leaseRanges (ls : List Lease) : Nat := (ls.map (fun l => l.ranges.length)).foldl (· + ·) 0

/-- Ranges of the lease table that grids hold. -/
def leasesHeld (s : State) : Nat := (s.grids.map (fun p => leaseRanges p.2.leases)).foldl (· + ·) 0

/-- A launch fails: no team was placed, its entries go, the token reports (R446). -/
def failLaunch (s : State) (n cause index : Nat) : State :=
  let s := { s with grids := tabErase s.grids n }
  match getWork s n with
  | some w => setWork s (w.failed cause index)
  | none => s

/-- Translations of the demand ranges go into the walk caches (R421). -/
def prefetchDemands (s : State) (g : Grid) : State :=
  g.demands.foldl (fun s d => (pagesOf d.1 d.2.1).foldl (fun s p =>
    match lookupBoth {} s g.space (p * 4096) .read false with
    | .ok (_, s) => s
    | .error _ => s) s) s

/-- A grid that waits starts once MIN modules have accepted it and its leases fit in the table of 4,096 ranges (R418, R490). -/
def startGrid (s : State) (n : Nat) : State :=
  let g := getGrid s n
  if (tabFind s.grids n).isNone ∨ !g.waiting ∨ g.mods.length < g.minMods then s
  else match pinLeases s g g.leases [] with
    | .failed i (.fault c x s2 pa) => failLaunch (noteXStop s g.vf (.fault c x s2 pa)) n c i
    | .failed i (.migrating _ _ leaf) => (match getWork s n with
      | some w => if waitedOut w.mlimit w.mwait leaf then failLaunch s n 0x08 i else workWaits s w (.migration leaf)
      | none => s)
    | .ok ls t =>
      if 4096 < leaseRanges ls then failLaunch s n 0x01 0x44
      else if 4096 < leasesHeld s + leaseRanges ls then s
      else
        let t := prefetchDemands (setGrid t n { g with leases := ls, waiting := false }) g
        -- an invalidation that is under way waits for these leases too (R420)
        (t.invals.filter (fun v => !v.done)).foldl pendLeases t

/-- The next module to which a grid is offered: this one, then the members of the set in order (R490). -/
def nextOffer (s : State) (g : Grid) : Option Nat :=
  (s.modn.toNat :: membersOf (getVf s g.vf)).find? (fun m => !g.offered.contains m)

/-- Inserts into a rising list. -/
def addModule (ms : List Nat) (m : Nat) : List Nat := insertNat ms m

/-- R446 LAUNCH: Check and hand a grid to the dispatcher. -/
def execLaunch (d : BitVec 7) (a : BitVec 7) (s : State) : Host.Outcome State Fault Refusal :=
  run s 0x300 0 (Uses.cpy d a) (do
    engineGate s
    let w := newWork s .launch d 0 (readBlock s a 8)
    match launchGrid s w with
    | .error (.later leaf) => throw (.wait (.migration leaf))
    | .error (.fail c i x) => return advance 4 (issueWork (match x with | some x => noteXStop s w.vf x | none => s) (w.failed c i))
    | .ok (g, t) => return advance 4 (startGrid (setGrid (issueWork t { w with grid := w.id }) w.id g) w.id))

/-- R490 GRID_OFFER_RECEIVED: a module of the set, asked in order, accepts or declines a grid that waits for modules. -/
def execGridOfferReceived (grid : Nat) (modn : Nat) (accept : Bool) (s : State) : Host.Outcome State Fault Refusal :=
  let g := getGrid s grid
  if (tabFind s.grids grid).isNone ∨ g.maxMods ≤ 1 ∨ g.home.isSome ∨ placedAll g ≠ 0 ∨ g.maxMods ≤ g.mods.length ∨ nextOffer s g ≠ some modn then .next s
  else
    let t := setGrid s grid { g with offered := g.offered ++ [modn], mods := if accept then addModule g.mods modn else g.mods }
    .next (startGrid t grid)

/-- R490, R418 PLACEMENT_LIMIT: one second after its issue a launch that is short of modules, or of lease entries, fails. -/
def execPlacementLimit (grid : Nat) (s : State) : Host.Outcome State Fault Refusal :=
  let g := getGrid s grid
  if (tabFind s.grids grid).isNone ∨ !g.waiting ∨ g.home.isSome ∨ s.time < g.issuedAt + 2000000000 then .next s
  else .next (failLaunch s grid 0x01 (if g.mods.length < g.minMods then 0x43 else 0x44))

end Sys2Proof.Machine
end

