-- ==== Sys2Proof/Machine/Queue.lean ====
section
/-! DEFINITION. The other queue-class instructions of PL1 (14_tenancy R443, R447-R453), the context images (R430, R431), DECTAB (R454) and QOSSET (R455). -/

namespace Sys2Proof.Machine

/-! ## QWAIT and QSIG (R447)

QWAIT orders as LD.acq: what follows it in its context issues after it. QSIG orders as ST.rel: it waits until the context's loads and atomics have returned; its stores performed as they issued (log 13). -/

def globOnly (w : Win) : Bool := decide (w = .glob) || decide (w = .bad)

/-- The semaphore word: 8 bytes, aligned, in the global window; and the page that it was reached through. -/
def semaphore (s : State) (a : BitVec 7) (k : Acc) : Except Stop ((List Loc × PageUse) × State) := do
  accessGate s
  let ((es, _), t) ← elements s { n := 8, k := k, align := 8, perm := globOnly } true (fun _ => (readSPair s a).toNat)
  let ls := es.flatMap (·.locs)
  if ls.any (claimed t) then throw (.wait .claim)
  if ls.any (locHeld t) then throw (.wait .accesses)
  return ((ls, (es.flatMap (·.pages)).headD { vf := 0, asid := 0, page := 0, gpa := 0 }), t)

/-- The word at its home, after partials that combined before (R316). -/
def readWord64 (s : State) (ls : List Loc) : DWord × State :=
  let s := (ls.take 1).foldl (fun s l => serveLine s l.key) s
  (BitVec.ofNat 64 (leNat (ls.map (locRead s))), s)

def writeWord64 (s : State) (ls : List Loc) (v : DWord) : State := locWrites s none (ls.zip (leBytes 8 v.toNat))

def firstPa (ls : List Loc) : Nat := match ls with | .glob pa :: _ => pa | _ => 0

/-! ## Stopping queues -/

/-- A context stops where it is: its wait is abandoned, and with it an invalidation, a switch or a save that it had begun (R449, R451, R452). -/
def abandon (s : State) (qid : Nat) : State :=
  { s with invals := s.invals.filter (fun v => decide (v.agent ≠ some (.queue qid))),
           queues := tabMod s.queues qid (fun q => { q with swap := none, saving := none }) }

/-- Has a context of a slot a load or an atomic that has not returned? Its image is written after that. -/
def slotPending (s : State) (vf slot : Nat) : Bool :=
  s.pending.any (fun p => match p.agent with
    | .queue q => decide (q / 64 = vf) && (slotOf s vf slot).qmask.getLsbD (q % 64)
    | _ => false)

/-! ## Context images (R430) -/

/-- The queues of a mask, ascending. -/
def queuesIn (m : BitVec 64) : List Nat := lanesOf m

def parseQueue (q : Nat) (b : List Byte) : QueueImage :=
  { q := q, s := (List.range 31).map (fun i => BitVec.ofNat 32 (fieldOf b (4 * i) 4)), full := BitVec.ofNat 32 (fieldOf b 0x7C 4),
    pc := BitVec.ofNat 64 (fieldOf b 0x80 8), erm3 := BitVec.ofNat 32 (fieldOf b 0x88 4),
    trapped := bits (fieldOf b 0x8C 4) 0 0 = 1, notice := bits (fieldOf b 0x8C 4) 1 1 = 1,
    trpc := BitVec.ofNat 64 (fieldOf b 0x90 8), trinfo := BitVec.ofNat 32 (fieldOf b 0x98 4), traux := BitVec.ofNat 32 (fieldOf b 0x9C 4) }

/-- Reserved bits of a queue entry: R430, ERM3 (R89) and TRINFO (R435). -/
def queueReserved (b : List Byte) : Bool :=
  decide (bits (fieldOf b 0x7C 4) 31 31 ≠ 0) || decide (bits (fieldOf b 0x8C 4) 31 2 ≠ 0) || decide (bits (fieldOf b 0x88 4) 31 31 ≠ 0)
  || decide (bits (fieldOf b 0x98 4) 11 10 ≠ 0) || decide (bits (fieldOf b 0x98 4) 31 14 ≠ 0) || (b.drop 0xA0).any (fun x => decide (x ≠ 0))

/-- Reserved bits of an image's head: R430, and of its roots (R388). -/
def headReserved (b : List Byte) : Bool :=
  decide (BitVec.ofNat 64 (fieldOf b 0 8) &&& ~~~rootMask ≠ 0) || decide (BitVec.ofNat 64 (fieldOf b 8 8) &&& ~~~rangeMask ≠ 0) ||
  decide (bits (fieldOf b 0x10 4) 15 8 ≠ 0) || decide (bits (fieldOf b 0x10 4) 31 24 ≠ 0) || decide (fieldOf b 0x14 4 ≠ 0)
  || ((b.drop 0x28).take 24).any (fun x => decide (x ≠ 0))

/-- Chunks of 256 bytes. -/
def chunks256 : Nat → List Byte → List (List Byte)
  | 0, _ => []
  | n + 1, b => b.take 256 :: chunks256 n (b.drop 256)

def parseSlot (b : List Byte) : SlotImage :=
  let m : BitVec 64 := BitVec.ofNat 64 (fieldOf b 0x18 8)
  { gtrt := BitVec.ofNat 64 (fieldOf b 0 8), grdt := BitVec.ofNat 64 (fieldOf b 8 8),
    map := bits (fieldOf b 0x10 4) 7 0, weight := bits (fieldOf b 0x10 4) 23 16, qmask := m, tvec := BitVec.ofNat 64 (fieldOf b 0x20 8),
    queues := ((queuesIn m).zip (chunks256 (queuesIn m).length (b.drop 64))).map (fun p => parseQueue p.1 p.2) }

def queueBytes (c : QCtx) : List Byte :=
  (List.range 31).flatMap (fun i => leBytes 4 (c.regs.readS i).toNat)
  ++ leBytes 4 ((List.range 31).foldl (fun a i => a + (if c.regs.empty.getLsbD (96 + i) then 0 else 2 ^ i)) 0)
  ++ leBytes 8 (queuePc c).toNat ++ leBytes 4 (c.regs.erm.extractLsb' 96 32).toNat
  ++ leBytes 4 ((if c.trapped then 1 else 0) + (if c.notices.isEmpty then 0 else 2))
  ++ leBytes 8 c.trpc.toNat ++ leBytes 4 c.trinfo.toNat ++ leBytes 4 c.traux.toNat ++ List.replicate 96 0

/-- The image of a loaded slot. -/
def slotBytes (s : State) (vf slot : Nat) : List Byte :=
  let p := slotOf s vf slot
  leBytes 8 p.gtrt.toNat ++ leBytes 8 p.grdt.toNat ++ leBytes 4 (p.map + p.weight * 65536) ++ leBytes 4 0
  ++ leBytes 8 p.qmask.toNat ++ leBytes 8 p.tvec.toNat ++ List.replicate 24 0
  ++ (queuesIn p.qmask).flatMap (fun q => queueBytes (getQueue s (vf * 64 + q)))

/-- An access of an instruction that answers with a status stops: its cause and what is logged, or a wait on M, which past the migration limit is a TRANSLATION (13_translation R416). -/
def accessStop (s : State) (x : XStop) : Except Stop (Nat × State) :=
  match x with
  | .fault c _ _ _ => .ok (c, noteXStop s (vfOf s) x)
  | .migrating _ _ leaf => if limitHit s leaf then .ok (0x08, s) else .error (.wait (.migration leaf))

/-- The status of a memory fault with a cause (R450). -/
def memStatus (c : Nat) : Nat := c * 256 + 4

/-- Reads an image: its bytes and their state. -/
def readImage (s : State) (addr : Nat) : Except XStop (List Byte × State) := do
  let (h, t) ← readVirt s (spaceOf s) addr 64
  let (q, t) ← readVirt t (spaceOf s) (addr + 64) (256 * (queuesIn (BitVec.ofNat 64 (fieldOf h 0x18 8))).length)
  return (h ++ q, t)

/-- Status 3 of R450. -/
def imageBad (s : State) (vf slot : Nat) (b : List Byte) : Bool :=
  let i := parseSlot b
  headReserved b || (chunks256 i.queues.length (b.drop 64)).any queueReserved
  || decide (i.weight = 0) || decide (i.map = 0) || !mapLoaded s i.map
  || (getVf s vf).slots.any (fun p => decide (p.1 ≠ slot) && decide (p.2.qmask &&& i.qmask ≠ 0))

/-- The PAs of the four 64-byte pieces of an image's entry k (log 42). -/
def entryPas (s : State) (addr k : Nat) : List Nat :=
  (List.range 4).map (fun i => match translate s none (spaceOf s) (addr + 64 + 256 * k + 64 * i) .read with
    | .ok (pa, _) => pa
    | .error _ => 0)

/-- A queue context as its entry gives it; it keeps the instance of the saved entry at the same place, and its notices where NOTICE is set (R431, R434; log 42). The entry holds no level: the context goes on at PL1, or PL2 for a firmware context, also one that was saved in its HVCALL handler (log 71). -/
def loadQueue (s : State) (vf slot : Nat) (i : QueueImage) (pas : List Nat) : State :=
  let old := s.saved.find? (fun c => decide (c.vf = vf) && decide (c.q = i.q) && decide (c.pas = pas) && !pas.isEmpty)
  let qid := vf * 64 + i.q
  let regs : RegFile := (i.s.zipIdx).foldl (fun r x => r.writeS x.2 x.1) {}
  let regs := (List.range 31).foldl (fun r n => if i.full.getLsbD n then r else r.setEmpty (96 + n) true) regs
  let c : QCtx := {
    regs := { regs with erm := BitVec.ofNat 128 (i.erm3.toNat % 2 ^ 31 * 2 ^ 96) }, pc := i.pc, slot := slot, away := true,
    level := if vf = hostVf then 2 else 1, trapped := i.trapped, notices := if i.notice then (old.map (·.notices)).getD [] else [], trpc := i.trpc, trinfo := i.trinfo &&& 0x33FF, traux := i.traux,
    inst := (old.map (·.inst)).getD s.nextId }
  let s := { s with nextId := s.nextId + 1, saved := s.saved.filter (fun x => some x ≠ old) }
  let s := readDescriptor (setQueue s qid c) qid
  modQueue s qid (fun c => c.goesTo c.pc)

/-- The image becomes the slot's; its queues start from their entries (R451). A PL2 context that an HVCTX names takes the notices held for it (R434). -/
def loadSlot (s : State) (vf slot : Nat) (i : SlotImage) (pas : Nat → List Nat) : State :=
  let s := setSlot s vf slot { gtrt := i.gtrt &&& rootMask, grdt := i.grdt &&& rangeMask, map := i.map, weight := i.weight, qmask := i.qmask, tvec := i.tvec }
  let s := (i.queues.zipIdx).foldl (fun s q => loadQueue s vf slot q.1 (pas q.2)) s
  if vf = hostVf then (List.range Config.vfs).foldl deliverHeld s else s

/-- The slot becomes empty: its contexts go, and are kept by their saved entries when an image was written at addr. -/
def unloadSlot (s : State) (vf slot : Nat) (addr : Option Nat) : State :=
  let p := slotOf s vf slot
  let qs := queuesIn p.qmask
  let s := (qs.zipIdx).foldl (fun s q =>
    let qid := vf * 64 + q.1
    let c := getQueue s qid
    let s := abandon s qid
    let s := match addr with
      | some a =>
        let pas := entryPas s a q.2
        let e : SavedCtx := { vf := vf, q := q.1, inst := c.inst, pas := pas, notices := c.notices }
        { s with saved := s.saved.filter (fun (x : SavedCtx) => decide (x.pas ≠ pas)) ++ [e] }
      | none => s
    { s with queues := tabErase s.queues qid }) s
  setVf s vf { getVf s vf with slots := tabErase (getVf s vf).slots slot }

/-- Writes the image of a slot. -/
def saveSlot (s : State) (vf slot addr : Nat) : Except XStop State := (writeVirt s (spaceOf s) addr (slotBytes s vf slot)).map (·.2)

/-- The block of the three: slot, and the words that must be 0 or aligned (R450). -/
def ctxBlockBad (b : List Word) (image : Bool) : Bool :=
  let w (i : Nat) : Nat := (b.getD i 0).toNat
  decide (w 0 = 0) || decide (15 < w 0) || decide (w 1 ≠ 0) || decide (w 2 % 64 ≠ 0)
  || (image && (decide (w 4 % 64 ≠ 0) || decide (w 6 ≠ 0) || decide (w 7 ≠ 0)))

def pairAt (b : List Word) (i : Nat) : Nat := (b.getD i 0).toNat + (b.getD (i + 1) 0).toNat * 2 ^ 32

def slotLoaded (s : State) (vf slot : Nat) : Bool := (tabFind (getVf s vf).slots slot).isSome

/-- A status in S(d), and on. -/
def endStatus (s : State) (us : List Use) (d : BitVec 7) (st : Nat) : State := finish us 4 (writeSReg s d (BitVec.ofNat 32 st))

/-- A memory fault ends the instruction with status 4; nothing else has changed (R450). -/
def endFault (s : State) (us : List Use) (d : BitVec 7) (x : XStop) : Except Stop State := do
  let (c, t) ← accessStop s x
  return endStatus t us d (memStatus c)

/-- How long a CTXSW that pre-emption waits for may last, 20 µs (R452). -/
def swapLimit : Nat := 40000

/-- Is the VF to give way, and has its CTXSW lasted 20 µs (R452)? -/
def swapOverdue (s : State) (qid : Nat) : Bool :=
  s.qpAsked.any (fun n => decide (tabGet s.qpVf n 0 = qid / 64)) && decide ((getQueue s qid).swapAt + swapLimit ≤ s.time)

/-- A CTXSW that has not flipped is undone: its save area holds undefined bytes, the slot keeps its image, and the CTXSW executes anew; a context that was stopped meanwhile stays stopped (R452). -/
def rollBack (s : State) (qid slot : Nat) : State :=
  let c := { s with cur := .queue qid }
  let n := (slotBytes s (qid / 64) slot).length
  let addr := match fetch c with
    | .ok (.word w, _) => pairAt (readBlock c (wordA w) 8) 2
    | _ => 0
  let junk := (List.range n).map (fun i => Config.freeByte (s.fresh + i))
  let t := match writeVirt { s with fresh := s.fresh + n } (spaceOf c) addr junk with
    | .ok (_, t) => t
    | .error _ => s
  modQueue t qid (fun q => { q with swap := none, state := if q.state = .waiting then .running else q.state, wait := none })

/-- CTXSW (R451, R452): it checks and stops the slot's contexts, and when it goes on it writes the outgoing image and flips. -/
def ctxswBody (s : State) (us : List Use) (d a : BitVec 7) : Except Stop State :=
  let qid := queueOfCur s
  let vf := qid / 64
  let b := readBlock s a 8
  let slot := (b.getD 0 0).toNat
  let clear (t : State) : State := modQueue t qid (fun q => { q with swap := none })
  if ctxBlockBad b true then .ok (endStatus (clear s) us d 1)
  else if !slotLoaded s vf slot then .ok (endStatus (clear s) us d 2)
  else match readImage s (pairAt b 4) with
    | .error x => endFault (clear s) us d x
    | .ok (img, t) =>
      if imageBad s vf slot img then .ok (endStatus (clear s) us d 3)
      else if (getQueue s qid).swap = none then
        .ok (waitOn .work (modQueue t qid (fun q => { q with swap := some slot, swapAt := s.time })))
      else if swapOverdue s qid then .ok (rollBack s qid slot)
      else if slotPending s vf slot then .ok (waitOn .work s)
      else
        match saveSlot (endStatus (clear t) us d 0) vf slot (pairAt b 2) with
        | .error x => endFault (clear s) us d x
        | .ok v =>
          let v := unloadSlot v vf slot (some (pairAt b 2))
          .ok (loadSlot v vf slot (parseSlot img) (entryPas s (pairAt b 4)))

/-! ## DECTAB (R42, R43, R454) -/

/-- The use count of a slot's map: grids launched under it, and queue contexts whose image selects it, the firmware's too. A context that CTXSV.free or CTXSW has saved and unloaded is not counted: R43 does not say that it still exists (log 84). -/
def mapUsed (s : State) (m : Nat) : Bool :=
  s.grids.any (fun p => decide (p.2.decmap = m)) ||
  s.vfs.any (fun v => v.2.slots.any (fun p => decide (p.2.map = m) && decide (p.2.qmask ≠ 0)))

/-- A decode-table slot takes new contents: what stood there, its errors too, is gone. -/
def setDecode (s : State) (slot : Nat) (new : Option (Nat × List Word)) : State :=
  let was := (tabFind s.decSlots slot).map (·.1)
  { s with decSlots := (match new with | some e => tabPut s.decSlots slot e | none => tabErase s.decSlots slot),
           struck := s.struck.filter (fun x => match x with | .decode m _ => decide (some m ≠ was) | _ => true) }

/-- Does an entry break R42? -/
def entryBad (e : Word) : Bool :=
  decide (e.extractLsb' 10 18 ≠ 0) ||
  (if e.getLsbD 31 then
    let n := (e.extractLsb' 0 10).toNat
    !opMapped n || decide ((e.extractLsb' 28 3).toNat ≠ opFormat n)
   else decide (e ≠ 0))

/-- DECTAB's status word, and the slot's new contents when it loads. The spec gives the conditions no order: the slot's number comes first, then BUSY, the image's alignment, the map number, a memory fault and the entries (log 72). An image that is not 4 KiB aligned ends as a memory fault of cause ALIGN, and a map number above 255 is rejected like 0 and 1 (log 72). -/
def dectabResult (s : State) (b : List Word) (clr : Bool) : Except Stop (Nat × State) :=
  let w (i : Nat) : Nat := (b.getD i 0).toNat
  let slot := w 2
  if slot = 0 ∨ 7 < slot then .ok (4, s)
  else if (match tabFind s.decSlots slot with | some p => mapUsed s p.1 | none => false) then .ok (2, s)
  else if clr then .ok (0, setDecode s slot none)
  else if pairAt b 0 % 4096 ≠ 0 then .ok (0x0503, s)
  else if w 3 ≤ 1 ∨ 255 < w 3 ∨ s.decSlots.any (fun p => decide (p.1 ≠ slot) && decide (p.2.1 = w 3)) then .ok (0xFFFF0001, s)
  else match readVirt s (spaceOf s) (pairAt b 0) 4096 with
    | .error x => do
      let (c, t) ← accessStop s x
      return (c * 256 + 3, t)
    | .ok (bs, t) =>
      let es := (List.range 1024).map (fun i => BitVec.ofNat 32 (fieldOf bs (4 * i) 4))
      match (es.zipIdx).find? (fun e => entryBad e.1) with
      | some e => .ok (e.2 * 65536 + 1, t)
      | none => .ok (0, setDecode t slot (some (w 3, es)))

/-! ## QOSSET (R440, R455) -/

def sumVfs (s : State) (f : Vf → Nat) : Nat := ((List.range Config.vfs).map (fun v => f (getVf s v))).foldl (· + ·) 0

/-- Capacity in GB/s: floor(43.2 x channels in service). -/
def bwCapacity (s : State) : Nat := 432 * (Config.channels - s.retiredChannels.length) / 10

def qossetResult (s : State) (b : List Word) : Nat × State :=
  let w (i : Nat) : Nat := (b.getD i 0).toNat
  let vf := w 0
  if Config.vfs ≤ vf ∨ bits (w 1) 15 4 ≠ 0 ∨ bits (w 1) 31 28 ≠ 0 ∨ w 3 ≠ 0 then (1, s)
  else
    let t := setVf s vf { getVf s vf with mincl := bits (w 1) 3 0, mintile := bits (w 1) 27 16, minbw := w 2, scaled := false }
    if clustersUp s < sumVfs t (·.mincl) ∨ 2048 < sumVfs t (·.mintile) ∨ bwCapacity s < sumVfs t (·.minbw) then (2, s) else (0, t)

/-- R447 QWAIT: Wait on a semaphore condition, optionally decrementing; one that does not hold yet is registered at the word in the same step. -/
def execQwait (d : BitVec 7) (a : BitVec 7) (c : BitVec 2) (e : BitVec 1) (s : State) : Host.Outcome State Fault Refusal :=
  run s 0x301 0 (Uses.qwait d a c e) (do
    let ((ls, use), t) ← semaphore s a (if e = 1 then .write else .read)
    let (v, t) := readWord64 t ls
    let w : SemWait := { pa := firstPa ls, cond := c.toNat, value := readSPair s d, dec := decide (e = 1), use := use }
    return (if w.holds v then finish (Uses.qwait d a c e) 4 (if e = 1 then writeWord64 t ls (v - w.value) else t) else waitOn (.semaphore w) t))

/-- R447 QSIG: Add to or set a semaphore word. -/
def execQsig (d : BitVec 7) (a : BitVec 7) (s : BitVec 1) (st : State) : Host.Outcome State Fault Refusal :=
  run st 0x302 0 (Uses.qsig d a) (do
    if loadsOpen st .fab then throw (.wait .accesses)
    let ((ls, _), t) ← semaphore st a .write
    let (v, t) := readWord64 t ls
    let x := readSPair st d
    return finish (Uses.qsig d a) 4 (writeWord64 t ls (if s = 1 then x else v + x)))

/-- R448 QJMP: Jump within the ring by moving HEAD; from an odd PC the target is odd, which raises ALIGN (01 R18). -/
def execQjmp (o : BitVec 20) (s : State) : Host.Outcome State Fault Refusal :=
  run s 0x303 0 [] (
    let q := getQueue s (queueOfCur s)
    let pc := queuePc q
    if pc.getLsbD 0 then .error (oddTarget s)
    else if inRing q pc then
      let h := ((pc.toNat - q.base.toNat : Nat) : Int) + 2 * o.toInt
      .ok (modQueue s (queueOfCur s) (fun q => { q with away := false, head := (h % (2 ^ q.logsz : Nat)).toNat, state := .running, wait := none, wdog := 0, mlimit := false, mwait := none }))
    else .ok (jumpTo s (relPc s o.toInt)))

/-- The queue that QSTOP names, when the context may name it (R449). -/
def stopTarget (s : State) (a : BitVec 7) : Except Stop Nat :=
  let v := (readSReg s a).toNat
  let qid := queueOfCur s
  let t := qid / 64 * 64 + v % 64
  if v / 64 ≠ 0 then .error (illegal 1)
  else if (getQueue s qid).slot ≠ 0 ∧ (getQueue s t).slot ≠ (getQueue s qid).slot then .error (illegal 2)
  else .ok t

/-- R449 QSTOP_STOP: Make a queue STOPPED at its next boundary. -/
def execQstopStop (a : BitVec 7) (s : State) : Host.Outcome State Fault Refusal :=
  run s 0x304 0 (Uses.qpushS a) (do
    let t ← stopTarget s a
    let u := finish (Uses.qpushS a) 4 s
    if (tabFind u.queues t).isNone then return u
    return writeDescriptor (modQueue (abandon u t) t (fun q => { q with state := .stopped, wait := none, mlimit := false, mwait := none })) t)

/-- R449 QSTOP_START: Return a STOPPED queue to running. -/
def execQstopStart (a : BitVec 7) (s : State) : Host.Outcome State Fault Refusal :=
  run s 0x304 1 (Uses.qpushS a) (do
    let t ← stopTarget s a
    let u := finish (Uses.qpushS a) 4 s
    if (tabFind u.queues t).isNone ∨ (getQueue u t).state ≠ .stopped then return u
    return writeDescriptor (modQueue u t (fun q => { q with state := if q.away || decide (2 ≤ ringRoom q) then .running else .idle })) t)

/-- R451 CTXSW: Indivisibly switch a process slot to a new image. -/
def execCtxsw (d : BitVec 7) (a : BitVec 7) (s : State) : Host.Outcome State Fault Refusal :=
  run s 0x308 0 (Uses.ctxsw d a) (ctxswBody s (Uses.ctxsw d a) d a)

/-- R451 CTXSV: Save a process slot's image, optionally freeing it. It stops the slot's contexts, and while a load of theirs has yet to return it waits. -/
def execCtxsv (d : BitVec 7) (a : BitVec 7) (f : BitVec 1) (s : State) : Host.Outcome State Fault Refusal :=
  run s 0x309 0 (Uses.ctxsv d a) (
    let vf := queueOfCur s / 64
    let b := readBlock s a 4
    let slot := (b.getD 0 0).toNat
    let me := queueOfCur s
    let stopped := s
    let s := modQueue s me (fun q => { q with saving := none })
    if ctxBlockBad b false then .ok (endStatus s (Uses.ctxsv d a) d 1)
    else if !slotLoaded s vf slot then .ok (endStatus s (Uses.ctxsv d a) d 2)
    else if slotPending s vf slot then .ok (waitOn .work (modQueue stopped me (fun q => { q with saving := some slot })))
    else match saveSlot (endStatus s (Uses.ctxsv d a) d 0) vf slot (pairAt b 2) with
      | .error x => endFault s (Uses.ctxsv d a) d x
      | .ok t => .ok (if f = 1 then unloadSlot t vf slot (some (pairAt b 2)) else (queuesIn (slotOf t vf slot).qmask).foldl (fun t q => abandon t (vf * 64 + q)) t))

/-- R451 CTXLD: Load a process image into an empty slot. -/
def execCtxld (d : BitVec 7) (a : BitVec 7) (s : State) : Host.Outcome State Fault Refusal :=
  run s 0x30A 0 (Uses.ctxsv d a) (
    let vf := queueOfCur s / 64
    let b := readBlock s a 4
    let slot := (b.getD 0 0).toNat
    if ctxBlockBad b false then .ok (endStatus s (Uses.ctxsv d a) d 1)
    else if slotLoaded s vf slot then .ok (endStatus s (Uses.ctxsv d a) d 2)
    else match readImage s (pairAt b 2) with
      | .error x => endFault s (Uses.ctxsv d a) d x
      | .ok (img, t) =>
        .ok (if imageBad s vf slot img then endStatus s (Uses.ctxsv d a) d 3
          else loadSlot (endStatus t (Uses.ctxsv d a) d 0) vf slot (parseSlot img) (entryPas s (pairAt b 2))))

/-- R42 DECTAB_LOAD: Load a decode-table image into a slot. -/
def execDectabLoad (d : BitVec 7) (a : BitVec 7) (s : State) : Host.Outcome State Fault Refusal :=
  run s 0x318 0 (Uses.ctxsv d a) (do
    let (st, t) ← dectabResult s (readBlock s a 4) false
    return endStatus t (Uses.ctxsv d a) d st)

/-- R454 DECTAB_CLR: Empty a decode-table slot. -/
def execDectabClr (d : BitVec 7) (a : BitVec 7) (s : State) : Host.Outcome State Fault Refusal :=
  run s 0x318 1 (Uses.ctxsv d a) (do
    let (st, t) ← dectabResult s (readBlock s a 4) true
    return endStatus t (Uses.ctxsv d a) d st)

/-- R453 HVCALL: Enter the PL2 hypervisor handler with a call number; an odd HVVEC raises ALIGN here (01 R18). -/
def execHvcall (i : BitVec 14) (s : State) : Host.Outcome State Fault Refusal :=
  run s 0x319 0 [] (
    let qid := queueOfCur s
    let hv := (getVf s (regVf s)).hvvec
    if 2 ≤ levelOf s then .error (illegal 2)
    else if hv = 0 then .error (illegal 3)
    else if hv.getLsbD 0 then .error (oddTarget s)
    else .ok (enterHandler s qid (queueNext (getQueue s qid) 4) hv 0x200 (i.setWidth 32) 2))

/-- R455 QOSSET: Write a VF's QoS minima if within capacity. -/
def execQosset (d : BitVec 7) (a : BitVec 7) (s : State) : Host.Outcome State Fault Refusal :=
  run s 0x31A 0 (Uses.ctxsv d a) (.ok (
    let r := qossetResult s (readBlock s a 4)
    endStatus r.2 (Uses.ctxsv d a) d r.1))

/-- R452 CTXSW_ROLLBACK: a CTXSW that has not flipped 20 µs after it issued, while its VF is to give way, is undone and executes anew. -/
def execCtxswRollback (qid : Nat) (s : State) : Host.Outcome State Fault Refusal :=
  match (getQueue s qid).swap with
  | some slot => .next (if swapOverdue s qid then rollBack s qid slot else s)
  | none => .next s

end Sys2Proof.Machine
end

