-- ==== Sys2Proof/Machine/Reprog.lean ====
section
/-! DEFINITION. Reprogramming array tiles and the cairn journal (14_tenancy R456-R460; 11_die_analogue R338-R344): ARPROG, ARCOMMIT, ARSTAT, the replay in Camp 1 and the background rows. -/

namespace Sys2Proof.Machine

/-! ## Tiles and images -/

/-- A tile of the module: die x 65536 + number. -/
def arrTile (s : State) (n : Nat) : Tile := tabGet s.tiles n {}
def setArrTile (s : State) (n : Nat) (t : Tile) : State := { s with tiles := tabPut s.tiles n t }
def tileNo (die tile : Nat) : Nat := die * Config.tilesPerDie + tile

/-- What PL2 keeps of an image: its record, or before any is kept a free one, with rows and columns in multiples of 1,024 (R340; log 44). -/
def imageOf (s : State) (id : Nat) : Image :=
  (tabFind s.images id).getD { ki := 1024 * (Config.image id 0 + 1), ni := 1024 * (Config.image id 1 + 1), golden := Config.image id 2 }

/-- Columns of an image in tiles (R340). -/
def imageCols (s : State) (id : Nat) : Nat := max 1 ((imageOf s id).ni / 1024)

/-- The image tiles that a window touches, ascending (R340). -/
def windowTiles (s : State) (img row0 rows col0 cols : Nat) : List Nat :=
  ((List.range (lineSpan row0 rows)).flatMap (fun i =>
    (List.range (lineSpan col0 cols)).map (fun j => (row0 / 1024 + i) * imageCols s img + (col0 / 1024 + j))))
where
  /-- Blocks of 1,024 that n elements from a touch. -/
  lineSpan (a n : Nat) : Nat := if n = 0 then 0 else (a + n - 1) / 1024 - a / 1024 + 1

/-! ## Grants (R341) -/

def getGrant (s : State) (vf i : Nat) : List Word := ((tabFind (getVf s vf).agt i).map (·.words)).getD (List.replicate 8 0)
def setGrant (s : State) (vf i : Nat) (ws : List Word) : State :=
  setVf s vf { getVf s vf with agt := tabPut (getVf s vf).agt i { words := ws } }

/-- Field [hi:lo] of an entry as one 256-bit number. -/
def grantField (ws : List Word) (hi lo : Nat) : Nat := bits (ws.foldr (fun w a => w.toNat + 2 ^ 32 * a) 0) hi lo

def grantValid (ws : List Word) : Bool := decide (grantField ws 32 32 = 1)

/-! ## The journal (R456) -/

def journalOf (s : State) (die : Nat) : List Cairn := tabGet s.journal die []

/-- A cairn is written: SEQ rises by one, and the ring holds 1,048,576. -/
def putCairn (s : State) (die : Nat) (c : Cairn) : State :=
  let q := tabGet s.journalSeq die 0 + 1
  { s with journal := tabPut s.journal die (journalOf s die ++ [{ c with seq := q }]), journalSeq := tabPut s.journalSeq die q }

def freeCairns (s : State) (die : Nat) : Nat := 2 ^ 20 - (journalOf s die).length

/-- The cairns of a tile are freed for reuse. -/
def dropCairns (s : State) (die tile : Nat) : State :=
  { s with journal := tabPut s.journal die ((journalOf s die).filter (fun c => c.tile ≠ tile)) }

/-- Whole cairns of a tile: one whose CRC fails counts as never written. -/
def tileCairns (s : State) (die tile : Nat) : List Cairn := (journalOf s die).filter (fun c => c.whole && decide (c.tile = tile))

def rowHas (s : State) (die tile kind row : Nat) : Bool := (tileCairns s die tile).any (fun c => decide (c.kind = kind) && decide (c.row = row))

/-- The staged bytes of a row (16 parts), or of the column scales (row 1,024, 64 parts); none when a part is missing. -/
def stagedRow (s : State) (die tile row : Nat) : Option (List Byte) :=
  let cs := (tileCairns s die tile).filter (fun c => decide (c.kind = 2) && decide (c.row = row))
  let parts := (List.range (if row = 1024 then 64 else 16)).map (fun p => (cs.find? (fun c => c.part = p)).map (·.body))
  if parts.all Option.isSome then some (parts.filterMap id).flatten else none

/-- First 16 bytes of SHAKE256 (R456). -/
def rowDigest (bs : List Byte) : List Byte := shake256 bs 16

def cairnBody (bs : List Byte) : List Byte := bs ++ List.replicate (32 - bs.length) 0

/-! ## Program-and-verify (R457) -/

/-- The 1,024 raw 4-bit levels of a row. -/
def rowNibbles (bs : List Byte) : List Nat := bs.flatMap (fun b => [b.toNat % 16, b.toNat / 16])

/-- A tile goes one step on with a row (R457): INTENT; then program-and-verify to the targets and VERIFY; then COMMIT. Power may fail between any two (R460). Whether the read-back matches after the retries is free, and a target of -8 cannot be reached (R338); a failure sets ERR 1. -/
def rowStep (s : State) (die tile row : Nat) (bs : List Byte) : State :=
  let n := tileNo die tile
  let t := arrTile s n
  let put (s : State) (kind : Nat) (body : List Byte) : State := putCairn s die { kind := kind, image := t.newImage, tile := tile, row := row, body := cairnBody body }
  let dig := rowDigest bs
  if !rowHas s die tile 1 row then put s 1 dig
  else if t.verified = some row then setArrTile (put s 4 dig) n { t with verified := none }
  else
    let fail := freeBool s
    let s := fail.2
    if fail.1 || (rowNibbles bs).contains 8 then
      let back := (List.range 16).map (fun i => Config.freeByte (s.fresh + i))
      setArrTile (put { s with fresh := s.fresh + 16 } 3 back) n { t with err := 1, failRow := row }
    else
      let lv := (rowNibbles bs).zipIdx.foldl (fun l p => tabSet l (row * 1024 + p.2) ((p.1 + 8) % 16) 8) t.newLevels
      setArrTile (put s 3 dig) n { t with newLevels := lv, verified := some row }

/-! ## ARPROG -/

def progTile (w : Work) : Nat := bits (w.word 2) 15 0
def progDie (w : Work) : Nat := bits (w.word 2) 19 16

/-- An ARPROG in flight. -/
def programming (s : State) (p : Work → Bool) : Bool := s.works.any (fun w => decide (w.kind = .arprog) && !w.ended && p w)

/-- The checks of ARPROG, in order: CAUSE and INDEX. -/
def arprogBad (s : State) (w : Work) : Option (Nat × Nat) :=
  let t := arrTile s (tileNo (progDie w) (progTile w))
  let bad := firstOf [(0, w.pair 0 % 128 ≠ 0 ∨ winOf (w.pair 0) ≠ .glob), (2, bits (w.word 2) 31 20 ≠ 0), (3, bits (w.word 3) 31 16 ≠ 0),
    (5, w.word 5 ≠ 0), (6, w.word 6 ≠ 0), (7, w.word 7 ≠ 0)]
  let granted := t.programmed && s.vfs.any (fun v => v.2.agt.any (fun g => decide (g.1 < v.2.agtlen) && grantValid g.2.words && decide (grantField g.2.words 15 0 = t.image)))
  match bad with
  | some i => some (0x01, i)
  | none => (firstOf [(0x100, granted),
      (0x101, decide (t.state = .reprogramming) && programming s (fun x => decide (progTile x = progTile w) && decide (progDie x = progDie w))),
      (0x102, decide (10000 ≤ t.reprogrammings)), (0x103, decide (freeCairns s (progDie w) < 19521)),
      (0x104, decide (16 ≤ (s.works.filter (fun x => decide (x.kind = .arprog) && !x.ended && decide (progDie x = progDie w))).length))]).map (fun i => (0x01, i))

/-- A piece of the source becomes DATA cairns of a row. -/
def stageRow (s : State) (w : Work) (row : Nat) : State :=
  let die := progDie w
  let n := tileNo die (progTile w)
  let len := if row = 1024 then 2048 else 512
  let lost (s : State) (w : Work) (c : Nat) : State := setWork (setArrTile s n { arrTile s n with err := 2 }) (w.failed c 0)
  match workLocs s w (w.pair 0 + 512 * row) len .read notPriv with
  | .error (.wait x) => workWaits s w x
  | .error (.trap t) => lost (noteError s t.cause t.aux t.pa w.vf) w t.cause
  | .ok (src, w, t) =>
    match transferBad t src [] with
    | some (c, pa) => lost (logError t c pa w.vf true) w 0x0C
    | none =>
      if sourceBusy t w src then s
      else
        let (w, t) := keepLines t w src
        let bs := src.map (keptByte w)
        let t := (List.range (len / 32)).foldl (fun t p => putCairn t die
          { kind := 2, part := p, image := bits (w.word 3) 15 0, tile := progTile w, row := row, body := (bs.drop (32 * p)).take 32 }) t
        setWork t { w with stage := w.stage + 1, srcLines := [] }

/-- One piece of an ARPROG: the 1,025 rows are staged, then each row goes through its three steps. -/
def arprogStep (s : State) (w : Work) : State :=
  let die := progDie w
  if w.ended then s
  else if w.stage ≤ 1024 then stageRow s w w.stage
  else
    let row := w.stage - 1025
    match stagedRow s die (progTile w) row with
    | none => setWork (setArrTile s (tileNo die (progTile w)) { arrTile s (tileNo die (progTile w)) with err := 2 }) (w.failed 0x0C row)
    | some bs =>
      let s := rowStep s die (progTile w) row bs
      if (arrTile s (tileNo die (progTile w))).err ≠ 0 then setWork (logError s 0x09 (Config.linkId 0x09 die) w.vf true) (w.failed 0x0C row)
      else if !rowHas s die (progTile w) 4 row then s
      else setWork s { w with stage := w.stage + 1, ended := decide (row = 1023) }

/-! ## ARCOMMIT (R458) -/

/-- The column scales of a staged tile as FP32 words. -/
def stagedScales (bs : List Byte) : Tab Word :=
  (List.range 1024).foldl (fun t c => tabSet t c (BitVec.ofNat 32 (fieldOf bs (2 * c) 2 * 65536)) 0) []

/-- .tile: SEAL, latch, count, free, UNCAL; or 0x105. -/
def commitTile (s : State) (w : Work) : State :=
  let die := progDie w
  let tile := progTile w
  let n := tileNo die tile
  let t := arrTile s n
  let committed := (List.range 1024).all (fun r => rowHas s die tile 4 r)
  match (if t.state = .reprogramming ∧ committed ∧ t.err = 0 then stagedRow s die tile 1024 else none) with
  | none => setWork s (w.failed 0x01 0x105)
  | some sc =>
    let digs := (List.range 1024).flatMap (fun r => (((tileCairns s die tile).find? (fun c => decide (c.kind = 4) && decide (c.row = r))).map (fun c => c.body.take 16)).getD [])
    let s := putCairn s die { kind := 5, image := t.newImage, tile := tile, row := 0xFFFF, body := cairnBody (shake256 digs 16) }
    let s := dropCairns s die tile
    let s := setArrTile s n { t with
      state := .uncal, programmed := true, image := t.newImage, imageTile := t.newTile, levels := t.newLevels,
      scale := stagedScales sc, reprogrammings := t.reprogrammings + 1, newLevels := [], rows := 1024 }
    setWork s { w with ended := true }

/-- The tiles that hold, or are being programmed to hold, an image tile in a range. -/
def rangeReprog (s : State) (img first count : Nat) : Bool :=
  s.tiles.any (fun p => decide (p.2.state = .reprogramming) &&
    ((p.2.programmed && decide (p.2.image = img) && decide (first ≤ p.2.imageTile) && decide (p.2.imageTile < first + count))
      || (decide (p.2.newImage = img) && decide (first ≤ p.2.newTile) && decide (p.2.newTile < first + count))))

/-- .grant: an entry is written with V = 1 and the slot's GEN; reserved bits are 0. -/
def commitGrant (s : State) (w : Work) : State :=
  let vf := w.word 2
  let i := w.word 3
  match readVirt s w.space (w.pair 0) 32 with
  | .error (.migrating _ _ leaf) => if waitedOut w.mlimit w.mwait leaf then setWork s (w.failed 0x08 0) else workWaits s w (.migration leaf)
  | .error x => (match x with
    | .fault c _ _ _ => setWork (noteXStop s w.vf x) (w.failed c 0)
    | _ => s)
  | .ok (bs, t) =>
    let ws := (List.range 8).map (fun k => BitVec.ofNat 32 (fieldOf bs (4 * k) 4))
    let old := getGrant s vf i
    let first := grantField ws 191 160
    let count := grantField ws 223 192
    let img := grantField ws 15 0
    let tiles := windowTiles s img (grantField ws 87 64) (grantField ws 111 88) (grantField ws 135 112) (grantField ws 159 136)
    if grantValid old then setWork s (w.failed 0x01 0x110)
    else if rangeReprog s img first count then setWork s (w.failed 0x01 0x111)
    else if tiles.any (fun x => decide (x < first) || decide (first + count ≤ x)) then setWork s (w.failed 0x01 0x112)
    else
      let w0 := BitVec.ofNat 32 (img + grantField old 31 16 * 65536)
      let w1 := (ws.getD 1 0 &&& 0x1F) ||| 1
      setWork (setGrant t vf i ([w0, w1] ++ ((ws.drop 2).take 5) ++ [0])) { w with ended := true }

/-- Work that passed R342 on an entry and has not filled its token (R343). -/
def grantUsers (s : State) (vf i before : Nat) : Bool :=
  s.works.any (fun w => decide (w.vf = vf) && decide (w.seq < before) && decide (w.word 0 = i) &&
    (match w.kind with | .layerf => true | .layert => true | .layerd => true | .calrd => true | .almrun => true | _ => false))

/-- .revoke: V clears and GEN rises in one write. -/
def commitRevoke (s : State) (w : Work) : State :=
  let old := getGrant s (w.word 2) (w.word 3)
  let w0 := BitVec.ofNat 32 (grantField old 15 0 + (grantField old 31 16 + 1) % 65536 * 65536)
  let w1 := old.getD 1 0 &&& ~~~1
  setWork (setGrant s (w.word 2) (w.word 3) ([w0, w1] ++ old.drop 2)) { w with stage := 1 }

def arcommitBad (s : State) (w : Work) : Option Nat :=
  let rest (i : Nat) : List (Nat × Bool) := ((List.range 8).filter (fun k => decide (i ≤ k))).map (fun k => (k, decide (w.word k ≠ 0)))
  if w.mods = 0 then firstOf ((2, decide (bits (w.word 2) 31 20 ≠ 0)) :: rest 3)
  else firstOf ([(2, decide (Config.vfs ≤ w.word 2)), (3, decide ((getVf s (w.word 2)).agtlen ≤ w.word 3) && (decide (w.mods = 1) || decide (65536 ≤ w.word 3)))]
    ++ (if w.mods = 1 then rest 4 else []))

/-- An ARCOMMIT as far as it goes at once; a revocation then waits for the entry's users. -/
def arcommitStep (s : State) (w : Work) : State :=
  if w.ended then s
  else if w.mods = 0 then commitTile s w
  else if w.mods = 1 then commitGrant s w
  else if w.stage = 0 then commitRevoke s w
  else if grantUsers s (w.word 2) (w.word 3) w.seq then s else setWork s { w with ended := true }

def arcommitBody (s : State) (us : List Use) (d a : BitVec 7) (op : Nat) : Except Stop State := do
  engineGate s
  let w := newWork s .arcommit d op (readBlock s a 8)
  match arcommitBad s w with
  | some i => return finish us 4 (issueWork s (w.failed 0x01 i))
  | none => return finish us 4 (arcommitStep (issueWork s w) w)

/-! ## ARSTAT (R459) -/

def TileState.code : TileState → Nat
  | .safe => 0 | .reprogramming => 1 | .uncal => 2 | .ready => 3 | .drift => 4

/-- The report: while a tile is REPROG its image ID and image tile are the new ones (log 45). -/
def arstatBytes (s : State) (die tile : Nat) : List Byte :=
  let t := arrTile s (tileNo die tile)
  let rp := decide (t.state = .reprogramming)
  let rows := if t.err = 1 then t.failRow else if tileCairns s die tile = [] then t.rows else ((List.range 1024).filter (fun r => rowHas s die tile 4 r)).length
  leBytes 4 t.state.code ++ leBytes 4 t.err ++ leBytes 4 (if rp then t.newImage else t.image) ++ leBytes 4 rows ++ leBytes 4 t.reprogrammings
    ++ leBytes 4 (if rp then t.newTile else t.imageTile) ++ leBytes 8 (tabGet s.journalSeq die 0) ++ leBytes 4 (freeCairns s die) ++ leBytes 28 0

def arstatSegs (s : State) (w : Work) : List Seg :=
  [{ index := 2, ea := w.pair 2, bytes := arstatBytes s (bits (w.word 0) 19 16) (bits (w.word 0) 15 0) }]

def arstatBad (w : Work) : Option (Nat × Nat) :=
  match firstOf [(0, bits (w.word 0) 31 20 ≠ 0), (1, w.word 1 ≠ 0), (2, w.pair 2 % 64 ≠ 0)] with
  | some i => some (0x01, i)
  | none => if winOf (w.pair 2) = .glob then none else some (0x06, 2)

/-! ## Replay in Camp 1 (R460) -/

/-- Rows of a tile with INTENT and no COMMIT. -/
def openRows (s : State) (die tile : Nat) : List Nat := (List.range 1024).filter (fun r => rowHas s die tile 1 r && !rowHas s die tile 4 r)

/-- Is a tile's staging incomplete? -/
def stagingLost (s : State) (die tile : Nat) : Bool := (List.range 1025).any (fun r => (stagedRow s die tile r).isNone)

/-- Has the replay of a tile still to go on: it has DATA and no SEAL, and is not yet REPROG or has open rows and no error? -/
def replayOpen (s : State) (die tile : Nat) : Bool :=
  let t := arrTile s (tileNo die tile)
  let cs := tileCairns s die tile
  cs.any (fun c => decide (c.kind = 2)) && !cs.any (fun c => decide (c.kind = 5)) && (decide (t.state ≠ .reprogramming) || (decide (t.err = 0) && !(openRows s die tile).isEmpty))

/-- One step of a tile's replay: it becomes REPROG, its staging may be lost; then its lowest open row goes one step on from the staged data, or its digest does not match. -/
def replayTile (s : State) (die tile : Nat) : State :=
  let n := tileNo die tile
  let t := arrTile s n
  let cs := tileCairns s die tile
  if t.state ≠ .reprogramming then
    setArrTile s n { t with state := .reprogramming, newImage := ((cs.find? (fun c => c.kind = 2)).map (·.image)).getD 0, err := if stagingLost s die tile then 2 else 0 }
  else match openRows s die tile with
    | [] => s
    | r :: _ =>
      let bs := (stagedRow s die tile r).getD []
      let want := ((cs.find? (fun c => decide (c.kind = 1) && decide (c.row = r))).map (fun c => c.body.take 16)).getD []
      if rowDigest bs ≠ want then setArrTile s n { t with err := 3 } else rowStep s die tile r bs

/-- A die replays its journal, tiles ascending: its next step, if one is left. -/
def replayDie (s : State) (die : Nat) : Option State :=
  ((sortBy id ((journalOf s die).map (·.tile)).eraseDups).find? (replayOpen s die)).map (replayTile s die)

def replaySteps : Nat → State → Nat → State
  | 0, s, _ => s
  | n + 1, s, die => match replayDie s die with
    | some t => replaySteps n t die
    | none => s

/-- What is left of a die's replay: each cairn leads to at most three steps. -/
def replayAll (s : State) (die : Nat) : State := replaySteps (3 * (journalOf s die).length) s die

/-- The next row without COMMIT of a tile that a replay left REPROG: the replay has resolved every open one, so it had no INTENT. -/
def backgroundRow (s : State) (die tile : Nat) : Option (Nat × List Byte) :=
  let t := arrTile s (tileNo die tile)
  if t.state ≠ .reprogramming ∨ t.err ≠ 0 ∨ programming s (fun w => decide (progTile w = tile) && decide (progDie w = die)) ∨ stagingLost s die tile then none
  else match (List.range 1024).find? (fun r => !rowHas s die tile 4 r) with
    | some r => (stagedRow s die tile r).map (fun bs => (r, bs))
    | none => none

/-- R457 ARPROG: Stage and program one tile through the journal. -/
def execArprog (d : BitVec 7) (a : BitVec 7) (s : State) : Host.Outcome State Fault Refusal :=
  run s 0x310 0 (Uses.cpy d a) (do
    engineGate s
    let w := newWork s .arprog d 0 (readBlock s a 8)
    match arprogBad s w with
    | some (c, i) => return finish (Uses.cpy d a) 4 (issueWork s (w.failed c i))
    | none =>
      let n := tileNo (progDie w) (progTile w)
      let t := dropCairns (issueWork s w) (progDie w) (progTile w)
      return finish (Uses.cpy d a) 4 (setArrTile t n { arrTile t n with
        state := .reprogramming, err := 0, newLevels := [], verified := none, rows := 0, newImage := bits (w.word 3) 15 0, newTile := w.word 4 }))

/-- R458 ARCOMMIT_TILE: Seal a reprogrammed tile and make it UNCAL. -/
def execArcommitTile (d : BitVec 7) (a : BitVec 7) (s : State) : Host.Outcome State Fault Refusal :=
  run s 0x311 0 (Uses.cpy d a) (arcommitBody s (Uses.cpy d a) d a 0)

/-- R458 ARCOMMIT_GRANT: Write a valid AGT entry for a VF. -/
def execArcommitGrant (d : BitVec 7) (a : BitVec 7) (s : State) : Host.Outcome State Fault Refusal :=
  run s 0x311 1 (Uses.cpy d a) (arcommitBody s (Uses.cpy d a) d a 1)

/-- R458 ARCOMMIT_REVOKE: Revoke an AGT entry, waiting for in-flight users. -/
def execArcommitRevoke (d : BitVec 7) (a : BitVec 7) (s : State) : Host.Outcome State Fault Refusal :=
  run s 0x311 2 (Uses.cpy d a) (arcommitBody s (Uses.cpy d a) d a 2)

/-- R459 ARSTAT: Write a tile status report. -/
def execArstat (d : BitVec 7) (a : BitVec 7) (s : State) : Host.Outcome State Fault Refusal :=
  run s 0x312 0 (Uses.cbload d a) (do
    engineGate s
    let w := newWork s .arstat d 0 (readBlock s a 4)
    match arstatBad w with
    | some (c, i) => return finish (Uses.cbload d a) 4 (issueWork s (w.failed c i))
    | none =>
      let (keys, w, t) := segKeys s w [(w.pair 2, 64)]
      let t ← claimLines t w.id keys
      return finish (Uses.cbload d a) 4 (issueWork t w))

/-- R460 JOURNAL_BACKGROUND_ROW: after Camp 1 the lowest row that is not committed goes one step on from its staged data. -/
def execJournalBackgroundRow (die : Nat) (tile : Nat) (s : State) : Host.Outcome State Fault Refusal :=
  match (if s.stage = .camp1 ∨ s.stage = .summit then backgroundRow s die tile else none) with
  | some (r, bs) => .next (rowStep s die tile r bs)
  | none => .next s

end Sys2Proof.Machine
end

