-- ==== Sys2Proof/Machine/LaneX.lean ====
section
/-! DEFINITION. Conversions, block records in lanes, codebook lookup and cross-lane operations (04_lane_ops R138-R151). -/

namespace Sys2Proof.Machine

/-! ## CVT -/

/-- CVT in every lane: sources and destinations of 64 bits are pairs (R140). -/
def cvtBody (s : State) (d a : BitVec 7) (c : BitVec 6) (opt : Bool) : State :=
  let lanes := opLanes s d
  let src (l : Nat) : DWord := if cvtSrc c = .pair then readPair s a.toNat l else (readField s a.toNat l).setWidth 64
  let r (l : Nat) := convert c.toNat opt (fpCtl s d l) (src l)
  let s1 := if cvtDst c = .pair then putPairs s d.toNat lanes (fun l => (r l).1)
    else putLanes s d.toNat lanes (fun l => (r l).1.setWidth 32)
  fpFlags s1 (isS d) lanes (fun l => (r l).2)

/-! ## Block records (R142-R145) -/

/-- Element format of CVTB, its bits, its element bytes per record, and emax (R142-R144). -/
def blockFmt (f : Nat) : Fmt := match f with | 0 => e2m1 | 1 => e3m2 | 2 => e2m3 | 3 => e4m3 | _ => e5m2
def blockBits (f : Nat) : Nat := match f with | 0 => 4 | 1 => 6 | 2 => 6 | _ => 8
def blockEmax (f : Nat) : Int := match f with | 0 => 2 | 1 => 4 | 2 => 2 | 3 => 8 | _ => 15

/-- Codes of w bits laid end to end, the first lowest (R63, R65). -/
def packBits (w : Nat) : List Nat → Nat
  | [] => 0
  | c :: r => c + 2 ^ w * packBits w r

/-- The scale byte of a record (R144). -/
def packScale (f : Nat) (xs : List Nat) : Nat :=
  match fp32.decode ((xs.map fp32.mag).foldl max 0) with
  | .fin _ n d => if n = 0 then 127 else (max 0 (min 254 (127 + floorLog2 n d - blockEmax f))).toNat
  | _ => 0xFF

/-- One element of a record: its code and flags; a value beyond the largest finite clamps with NX only (R144). -/
def packElem (f scale x : Nat) : Nat × Flags :=
  let r := roundSat ((fp32.decode x).div (scaleUE8 scale)).1 (blockFmt f) .rne false true
  (r.1, if r.2 &&& flagOF ≠ 0 then flagNX else r.2)

/-- A record of 32 FP32 codes: the 32 words of its half of the byte image, and the lanes' flags (R142, R144). -/
def packRecord (f : Nat) (xs : List Nat) : List Word × List Flags :=
  let bad (x : Nat) : Bool := decide (fp32.infCode ≤ fp32.mag x)
  let scale := packScale f xs
  let anyBad := xs.any bad
  let es := if anyBad then xs.map (fun x => ((0 : Nat), if bad x then flagNV else 0)) else xs.map (packElem f scale)
  let bytes := leBytes (4 * blockBits f) (packBits (blockBits f) (es.map (·.1)))
  let sc := if anyBad then 0xFF else scale
  ((List.range 32).map (fun j => BitVec.ofNat 32 (sc * 256 + (bytes.getD j 0).toNat)), es.map (·.2))

/-- One element of an unpacked record (R145). -/
def unpackElem (f scale code : Nat) (c : FpCtl) : Nat × Flags :=
  let x := ((blockFmt f).decode code).mul (scaleUE8 scale)
  if scale = 0xFF ∨ (blockFmt f).isNaN code then (fp32.canonNaN, snanFlag (blockFmt f) [code])
  else roundFP x.1 fp32 c.rm c.ftz

/-- Element j of a half of a byte image. -/
def imageElem (f : Nat) (words : List Word) (j : Nat) : Nat :=
  leNat ((words.take (4 * blockBits f)).map (fun w => w.extractLsb' 0 8)) / 2 ^ (blockBits f * j) % 2 ^ blockBits f

/-! ## Cross-lane -/

/-- d := a of the source lane, which is read whether or not it is active (R146). -/
def shfl (s : State) (opn : Nat) (us : List Use) (d a b : BitVec 7) (src : Nat → Word → Nat) : Host.Outcome State Fault Refusal :=
  lane0 s opn b us 4 d (fun l => readField s a.toNat (src l (readField s b.toNat l)))

/-- The lanes' votes: q, or its inverse, in the active lanes (R147). -/
def votes (s : State) (q : BitVec 3) (n : BitVec 1) : List Bool :=
  (laneList s).map (fun l => readPred s q.toNat l != decide (n = 1))

/-- The value of each lane for REDX and SCAN: none where inactive (R149). -/
def laneVals (s : State) (a : BitVec 7) : List (Option Word) :=
  (List.range 64).map (fun l => if (activeOf s).getLsbD l then some (readField s a.toNat l) else none)

/-- The value MATCH compares. -/
def matchVal (s : State) (a : BitVec 7) (w : BitVec 1) (l : Nat) : DWord :=
  if w = 1 then readPair s a.toNat l else (readField s a.toNat l).setWidth 64

/-- R138 CVT: Scalar format conversion selected by the conversion number. -/
def execCvt (d : BitVec 7) (a : BitVec 7) (c : BitVec 6) (o : BitVec 1) (s : State) : Host.Outcome State Fault Refusal :=
  run s 0x0C0 (o ++ c) (Uses.cvt d a c o) (.ok (finish (Uses.cvt d a c o) 4 (cvtBody s d a c (o = 1))))

/-- R144 CVTB_PACK: Group-collective pack of FP32 lanes into two block-record byte images. -/
def execCvtbPack (d : BitVec 7) (a : BitVec 7) (f : BitVec 3) (s : State) : Host.Outcome State Fault Refusal :=
  let rec' (r : Nat) := packRecord f.toNat ((List.range 32).map (fun j =>
    let l := 32 * r + j
    fp32.daz (laneCtl s l).daz (readField s a.toNat l).toNat))
  let r0 := rec' 0
  let r1 := rec' 1
  let ws := r0.1 ++ r1.1
  let fs := r0.2 ++ r1.2
  runOp s 0x0C1 0 (Uses.cvtbPack d a f) 4 (fpFlags (putLanes s d.toNat (List.range 64) (fun l => ws.getD l 0)) false (List.range 64) (fun l => fs.getD l 0))

/-- R145 CVTB_UNPACK: Group-collective unpack of block-record byte images to FP32. -/
def execCvtbUnpack (d : BitVec 7) (a : BitVec 7) (f : BitVec 3) (s : State) : Host.Outcome State Fault Refusal :=
  let half (r : Nat) : List Word := (List.range 32).map (fun j => readField s a.toNat (32 * r + j))
  let h0 := half 0
  let h1 := half 1
  let r (l : Nat) : Nat × Flags :=
    let h := if l < 32 then h0 else h1
    unpackElem f.toNat ((h.headD 0).extractLsb' 8 8).toNat (imageElem f.toNat h (l % 32)) (laneCtl s l)
  runOp s 0x0C1 0 (Uses.cvtbPack d a f) 4 (fpFlags (putLanes s d.toNat (List.range 64) (fun l => BitVec.ofNat 32 (r l).1)) false (List.range 64) (fun l => (r l).2))

/-- R141 CBLOOK: Look up a CB4 code in an eight-register BF16 table. -/
def execCblook (d : BitVec 7) (a : BitVec 7) (b : BitVec 7) (s : State) : Host.Outcome State Fault Refusal :=
  lane0 s 0x0C2 b (Uses.cblook d a b) 4 d (fun l =>
    let c := (readField s a.toNat l).toNat % 16
    let w := readField s (b.toNat + c / 2) 0
    let e := (if c % 2 = 0 then w.extractLsb' 0 16 else w.extractLsb' 16 16).toNat
    BitVec.ofNat 32 (bf16.daz (fpCtl s d l).daz e * 65536))

/-- R146 SHFL_IDX: Shuffle from an indexed lane. -/
def execShflIdx (d : BitVec 7) (a : BitVec 7) (b : BitVec 7) (s : State) : Host.Outcome State Fault Refusal :=
  shfl s 0x100 (Uses.sel d a b) d a b (fun _ y => y.toNat % 64)

/-- R146 SHFL_UP: Shuffle from a lower lane. -/
def execShflUp (d : BitVec 7) (a : BitVec 7) (b : BitVec 7) (s : State) : Host.Outcome State Fault Refusal :=
  shfl s 0x101 (Uses.sel d a b) d a b (fun l y => if l < y.toNat then l else l - y.toNat)

/-- R146 SHFL_DN: Shuffle from a higher lane. -/
def execShflDn (d : BitVec 7) (a : BitVec 7) (b : BitVec 7) (s : State) : Host.Outcome State Fault Refusal :=
  shfl s 0x102 (Uses.sel d a b) d a b (fun l y => if 63 < l + y.toNat then l else l + y.toNat)

/-- R146 SHFL_XOR: Shuffle from lane i XOR b. -/
def execShflXor (d : BitVec 7) (a : BitVec 7) (b : BitVec 7) (s : State) : Host.Outcome State Fault Refusal :=
  shfl s 0x103 (Uses.sel d a b) d a b (fun l y => l ^^^ (y.toNat % 64))

/-- R147 VOTE_ANY: Predicate true in active lanes if any active lane has q, else false in them (log 63). -/
def execVoteAny (p : BitVec 7) (q : BitVec 3) (n : BitVec 1) (s : State) : Host.Outcome State Fault Refusal :=
  pred0 s 0x104 0 (Uses.voteAny p q) p (fun _ => (votes s q n).any id)

/-- R147 VOTE_ALL: Predicate true in active lanes if every active lane has q, else false in them (log 63). -/
def execVoteAll (p : BitVec 7) (q : BitVec 3) (n : BitVec 1) (s : State) : Host.Outcome State Fault Refusal :=
  pred0 s 0x105 0 (Uses.voteAny p q) p (fun _ => (votes s q n).all id)

/-- R147 VOTE_BAL: 64-bit ballot mask of q into an S pair. -/
def execVoteBal (d : BitVec 7) (q : BitVec 3) (n : BitVec 1) (s : State) : Host.Outcome State Fault Refusal :=
  let m := maskOf ((laneList s).filter (fun l => readPred s q.toNat l != decide (n = 1)))
  runOp s 0x106 0 (Uses.voteBal d q) 4 (writePair s d.toNat 0 m)

/-- R149 REDX: Fixed pairwise tree reduction over active lanes into an S register. -/
def execRedx (d : BitVec 7) (a : BitVec 7) (o : BitVec 4) (s : State) : Host.Outcome State Fault Refusal :=
  let r := redxTree o.toNat 6 (laneVals s a) 0
  runOp s 0x107 0 (Uses.redx d a o) 4 (orFcsrAll (writeField s d.toNat 0 (r.1.getD (combineNone o.toNat))) (laneList s) r.2)

/-- R150 SCAN: Inclusive or exclusive prefix combine over lanes. -/
def execScan (d : BitVec 7) (a : BitVec 7) (o : BitVec 4) (e : BitVec 1) (s : State) : Host.Outcome State Fault Refusal :=
  let r := scanAll o.toNat (laneVals s a)
  let vals := if e = 1 then none :: r.1 else r.1
  runOp s 0x108 0 (Uses.scan d a o) 4 (orFcsrAll (putLanes s d.toNat (laneList s) (fun l => (vals.getD l none).getD (combineNone o.toNat))) (laneList s) r.2)

/-- R151 MATCH: Lane match masks, or an all-equal test with .all. -/
def execMatchOp (d : BitVec 7) (a : BitVec 7) (l : BitVec 1) (w : BitVec 1) (s : State) : Host.Outcome State Fault Refusal :=
  let lanes := laneList s
  let eqMask (l : Nat) : DWord := maskOf (lanes.filter (fun k => matchVal s a w k == matchVal s a w l))
  if l = 0 then runOp s 0x109 0 (Uses.matchOp d a l w) 4 (putPairs s d.toNat lanes eqMask)
  else
    let m : DWord := match lanes with
      | [] => 0
      | k :: _ => if eqMask k = activeOf s then activeOf s else 0
    runOp s 0x109 0 (Uses.matchOp d a l w) 4 (writePair s d.toNat 0 m)

end Sys2Proof.Machine
end

