-- ==== Sys2Proof/Machine/Matrix.lean ====
section
/-! DEFINITION. The matrix unit: operand slots, accumulator tiles, MMA and MMAS, ACCST (06_core_matrix R192-R225; 02_numbers R78-R80). -/

namespace Sys2Proof.Machine

/-! ## Formats (R194) -/

def slotKmax (f : Nat) : Nat :=
  match f with
  | 0 => 64 | 1 => 64 | 5 => 256 | 8 => 160 | 9 => 160 | 0xA => 256 | _ => 128

def isRecordFmt (f : Nat) : Bool := decide (6 ≤ f) && decide (f ≤ 0xA)

/-- Bits of an element. -/
def slotBits (f : Nat) : Nat :=
  match f with
  | 0 => 16 | 1 => 16 | 5 => 4 | 8 => 6 | 9 => 6 | 0xA => 4 | _ => 8

/-- Source bytes of one line of klen elements; a record has its scale byte too (R65, R194). -/
def slotLineBytes (f klen : Nat) : Nat :=
  if isRecordFmt f then (1 + 4 * slotBits f) * klen / 32 else ceilDiv (slotBits f * klen) 8

/-- Codes of w bits from bytes, the first lowest. -/
def unpackCodes (w n : Nat) (bs : List Nat) : List Nat :=
  let v := bs.foldr (fun b a => b + 256 * a) 0
  (List.range n).map (fun i => v / 2 ^ (w * i) % 2 ^ w)

/-- Codes and scale bytes of a line (R65, R194). -/
def slotLine (f klen : Nat) (bs : List Nat) : List Nat × List Nat :=
  if isRecordFmt f then
    let n := 1 + 4 * slotBits f
    let recs := (List.range (klen / 32)).map (fun c => (bs.drop (n * c)).take n)
    (recs.flatMap (fun r => unpackCodes (slotBits f) 32 (r.drop 1)), recs.map (fun r => r.headD 0))
  else (unpackCodes (slotBits f) klen bs, [])

/-- The value of a code (R60-R63). -/
def slotDecode (f : Nat) (cb : List Nat) (c : Nat) : XR :=
  match f with
  | 0 => bf16.decode c
  | 1 => fp16.decode c
  | 2 => e4m3.decode c
  | 3 => e5m2.decode c
  | 4 => .ofInt (sextInt 8 c) 1 false
  | 5 => bf16.decode (cb.getD c 0)
  | 6 => e4m3.decode c
  | 7 => e5m2.decode c
  | 8 => e3m2.decode c
  | 9 => e2m3.decode c
  | _ => e2m1.decode c

/-- Element k of line i, scaled; none when absent (R195). -/
def slotElem (sl : OpSlot) (i k : Nat) : Option XR :=
  if i < sl.lines ∧ k < sl.klen then
    let x := slotDecode sl.fmt sl.codebook ((tabGet sl.data i []).getD k 0)
    some (if isRecordFmt sl.fmt then (x.mul (scaleUE8 ((tabGet sl.scales i []).getD (k / 32) 0))).1 else x)
  else none

/-- NSP of a sparsity record (R208). -/
def nspOf (r : Nat) : Nat := 16 * 2 ^ (r % 4)

/-- Element (i, k) of the expanded A of MMAS (R209). -/
def sparseElem (val meta' : OpSlot) (i k : Nat) : Option XR :=
  let n := nspOf meta'.sparsity
  let b := k / 128
  if b < meta'.klen / n ∧ i < meta'.lines then
    match (List.range n).find? (fun j => (tabGet meta'.data i []).getD (b * n + j) 255 = k % 128) with
    | some j => slotElem val i (b * n + j)
    | none => none
  else none

/-! ## The summation order (R79) -/

def mulOpt (x y : Option XR) : XR × Flags :=
  match x, y with
  | some a, some b => a.mul b
  | _, _ => (.fin false 0 1, 0)

def XR.toInt : XR → Int
  | .fin n a d => XR.signedNum n (a / d)
  | _ => 0

/-- One chunk in FA36. -/
def chunkFa (acc : BitVec 36) (ps : List (XR × Flags)) : BitVec 36 × Flags :=
  let sum := exactSum (ps.map (·.1))
  let r := exactSum [fa36.decode acc.toNat, sum.1]
  let o := roundFP r.1 fa36 .rne false
  (BitVec.ofNat 36 o.1, ps.foldl (fun f p => f ||| p.2) (sum.2 ||| r.2 ||| o.2))

/-- One chunk in INT36. -/
def chunkInt (acc : BitVec 36) (ps : List (XR × Flags)) : BitVec 36 × Flags :=
  let v := ps.foldl (fun a p => a + p.1.toInt) acc.toInt
  let c := max (-(2 ^ 35)) (min (2 ^ 35 - 1) v)
  (BitVec.ofInt 36 c, if c = v then 0 else flagSAT)

/-- The products of a chunk of 32; those from K on are 0. -/
def chunkOf (xs ys : List (Option XR)) : List (XR × Flags) :=
  let ps := (xs.take 32).zipWith mulOpt (ys.take 32)
  ps ++ List.replicate (32 - ps.length) (.fin false 0 1, 0)

/-- All chunks of one element, in order. -/
def mmaElem (int : Bool) : Nat → BitVec 36 → Flags → List (Option XR) → List (Option XR) → BitVec 36 × Flags
  | 0, acc, f, _, _ => (acc, f)
  | n + 1, acc, f, xs, ys =>
    let ps := chunkOf xs ys
    let r := if int then chunkInt acc ps else chunkFa acc ps
    mmaElem int n r.1 (f ||| r.2) (xs.drop 32) (ys.drop 32)

/-! ## Slots and tiles of a team -/

def teamSlot (t : Team) (n : Nat) : Option OpSlot := tabFind t.slots n
def putSlot (s : State) (tag n : Nat) (sl : OpSlot) : State := modTeam s tag (fun t => { t with slots := tabPut t.slots n sl })

def tileRow (t : AccTile) (r : Nat) : List (BitVec 36) := tabGet t.rows r (List.replicate 128 0)
def getTile (t : Team) (n : Nat) : AccTile := tabGet t.tiles n {}
def putTile (s : State) (tag n : Nat) (a : AccTile) : State := modTeam s tag (fun t => { t with tiles := tabPut t.tiles n a })

/-- Teams that occupy a core's matrix memories. -/
def onCore (core : Nat) (t : Team) : Bool := decide (t.core = core) && decide (t.res ≠ .spilled) && decide (t.res ≠ .evicted)

def freeTiles (s : State) (core : Nat) : Nat := 4 - (s.teams.filter (fun p => onCore core p.2)).foldl (fun a p => a + p.2.held) 0

/-- The physical slots of a core that no team holds (R192). -/
def freeSlots (s : State) (core : Nat) : List Nat :=
  let used := (s.teams.filter (fun p => onCore core p.2)).flatMap (fun p => p.2.slotMap.map (·.2))
  (List.range 16).filter (fun n => !used.contains n)

/-- The mode of a tile as the matrix operations issued so far leave it (R199; log 28). -/
def tileIsInt (s : State) (core tag n : Nat) : Bool :=
  ((getCore s core).matrix.reverse.findSome? (fun o => match o.kind with
    | .accz t i => if tagOf o.gid = tag ∧ t = n then some i else none
    | _ => none)).getD (getTile (getTeam s tag) n).int

/-- Has every matrix operation, LDSLOT and CBLOAD of the team finished (R201)? -/
def matrixIdle (s : State) (core tag : Nat) : Bool :=
  (getCore s core).matrix.all (fun o => decide (tagOf o.gid ≠ tag)) &&
  s.works.all (fun w => match w.kind, w.agent with
    | .ldslot _, .group g => decide (tagOf g ≠ tag) || w.ended
    | .cbload _, .group g => decide (tagOf g ≠ tag) || w.ended
    | _, _ => true)

def slotTrap (r : Nat) : Stop := trapOf 0x11 r

/-- An instruction that names an operand slot or an accumulator tile with an uncorrectable error faults, before its operation is queued (15_platform R465; log 95). -/
def matrixMemOk (s : State) (tag : Nat) (slots tiles : List Nat) : Except Stop Unit :=
  let t := getTeam s tag
  if slots.any (fun n => ((teamSlot t n).map (·.bad)).getD false) || tiles.any (fun n => (getTile t n).bad) then .error (trapOf 0x0C 0x02) else .ok ()

/-- The first reason that applies traps (R206). -/
def firstReason (l : List (Nat × Bool)) : Except Stop Unit :=
  match l.find? (·.2) with
  | some p => .error (slotTrap p.1)
  | none => .ok ()

/-- Puts an operation into the core's matrix queue of 8, or waits (R199). -/
def queueMatrix (s : State) (k : MatrixKind) : Except Stop State :=
  let c := coreOfCur s
  if 8 ≤ (getCore s c).matrix.length then .error (.wait .matrixQueue)
  else .ok (setCore s c { getCore s c with matrix := (getCore s c).matrix ++ [{ gid := groupOfCur s, kind := k }] })

def curTag (s : State) : Nat := tagOf (groupOfCur s)

/-! ## MMA and MMAS at issue (R206, R218) -/

def isIntFmt (f : Nat) : Bool := decide (f = 4)

/-- The checks of R206 in reason order. MMAS names its value slot; that its metadata slot is not claimed is reason 1 too (log 70). -/
def mmaChecks (s : State) (sparse : Bool) (a b tile shp : Nat) : Except Stop Unit :=
  let t := getTeam s (curTag s)
  let k := bits shp 23 16 + 1
  let sa := (teamSlot t a).getD {}
  let sb := (teamSlot t b).getD {}
  let sm := (teamSlot t (a + 1)).getD {}
  let int := isIntFmt sa.fmt && isIntFmt sb.fmt
  firstReason [
    (1, (teamSlot t a).isNone || (teamSlot t b).isNone || (sparse && (teamSlot t (a + 1)).isNone)),
    (2, decide (sa.state ≠ .valid) || decide (sb.state ≠ .valid)),
    (3, (decide (sa.fmt = 5) && !sa.cbv) || (decide (sb.fmt = 5) && !sb.cbv)),
    (4, decide (sa.fmt = 0xB) || decide (sb.fmt = 0xB) || (isIntFmt sa.fmt != isIntFmt sb.fmt) || (sparse && isRecordFmt sa.fmt)),
    (5, decide (slotKmax sa.fmt < k) || decide (slotKmax sb.fmt < k)),
    (6, decide (t.held ≤ tile)),
    (7, tileIsInt s (coreOfCur s) (curTag s) tile != int),
    (8, sparse && (decide (sm.state ≠ .valid) || decide (sm.fmt ≠ 0xB) || decide (sm.klen / nspOf sm.sparsity < ceilDiv k 128))),
    (9, decide (bits shp 31 24 ≠ 0) || decide (bits shp 15 15 ≠ 0) || decide (bits shp 7 7 ≠ 0))]

def mmaBody (s : State) (sparse : Bool) (us : List Use) (a b tile : Nat) (shape : BitVec 7) : Except Stop State := do
  let shp := (readSReg s shape).toNat
  mmaChecks s sparse a b tile shp
  matrixMemOk s (curTag s) ([a, b] ++ (if sparse then [a + 1] else [])) [tile]
  let s ← queueMatrix s (.mma sparse a b tile (bits shp 6 0 + 1) (bits shp 14 8 + 1) (bits shp 23 16 + 1))
  return finish us 4 s

/-! ## Executing a matrix operation (R199) -/

def runMma (s : State) (gid : Nat) (sparse : Bool) (a b tile m n k : Nat) : State :=
  let t := teamOf s gid
  let sa := (teamSlot t a).getD {}
  let sb := (teamSlot t b).getD {}
  let sm := (teamSlot t (a + 1)).getD {}
  let old := getTile t tile
  let cols := (List.range n).map (fun j => (List.range k).map (slotElem sb j))
  let rows := (List.range m).map (fun i =>
    let xs := (List.range k).map (fun q => if sparse then sparseElem sa sm i q else slotElem sa i q)
    let rs := (tileRow old i).mapIdx (fun j acc => match cols[j]? with
      | some ys => mmaElem old.int (ceilDiv k 32) acc 0 xs ys
      | none => (acc, 0))
    (i, rs.map (·.1), rs.foldl (fun f r => f ||| r.2) (0 : Flags)))
  let new := rows.foldl (fun (x : AccTile) r => { x with rows := tabPut x.rows r.1 r.2.1 }) old
  orMfr (putTile s (tagOf gid) tile new) gid (rows.foldl (fun f r => f ||| r.2.2) 0)

def accXR (int : Bool) (v : BitVec 36) : XR := if int then .ofInt v.toInt 1 false else fa36.decode v.toNat

/-- Writes the 64 lanes of an ACCRD and leaves the destination full (R202, R221). -/
def runAccrd (s : State) (gid tile row half : Nat) (f32 : Bool) (dst : Nat) : State :=
  let t := getTile (teamOf s gid) tile
  let vs := ((tileRow t row).drop (64 * half)).take 64
  let cur := s.cur
  let s := { s with cur := .group gid }
  let s := if f32 then
      let rs := vs.map (fun v => roundFP (accXR t.int v) fp32 .rne false)
      orMfr (putLanes s dst (List.range 64) (fun l => BitVec.ofNat 32 (rs.getD l (0, 0)).1)) gid (rs.foldl (fun f r => f ||| r.2) 0)
    else putPairs s dst (List.range 64) (fun l => (vs.getD l 0).setWidth 64)
  { s with cur := cur }

/-- The element that ACCWR stores, with its flag (R221). -/
def accwrElem (int f32 : Bool) (v : DWord) : BitVec 36 × Flags :=
  if f32 then
    let c := v.toNat % 2 ^ 32
    if fp32.isNaN c then (BitVec.ofNat 36 fa36.canonNaN, snanFlag fp32 [c])
    else (BitVec.ofNat 36 (roundFP (fp32.decode c) fa36 .rne false).1, 0)
  else if !int && fa36.isNaN (v.toNat % 2 ^ 36) then (BitVec.ofNat 36 fa36.canonNaN, 0)
  else (v.setWidth 36, 0)

def runAccwr (s : State) (gid tile row half : Nat) (f32 : Bool) (vals : List DWord) : State :=
  let t := getTile (teamOf s gid) tile
  let rs := vals.map (accwrElem t.int f32)
  let old := tileRow t row
  let new := old.mapIdx (fun c x => if 64 * half ≤ c ∧ c < 64 * half + 64 then (rs.getD (c - 64 * half) (x, 0)).1 else x)
  orMfr (putTile s (tagOf gid) tile { t with rows := tabPut t.rows row new }) gid (rs.foldl (fun f r => f ||| r.2) 0)

/-! ## ACCST (R222-R225) -/

/-- Element bytes of an output format; 0 for the record formats. -/
def outBytes (f : Nat) : Nat :=
  match f with
  | 0 => 4 | 1 => 2 | 2 => 2 | 3 => 1 | 4 => 1 | 8 => 8 | 9 => 4 | _ => 0

def outFmt (f : Nat) : Fmt := match f with | 0 => fp32 | 1 => bf16 | 2 => fp16 | 3 => e4m3 | 4 => e5m2 | 5 => e3m2 | 6 => e2m3 | _ => e2m1

/-- Bytes of a record of a record format (R65). -/
def outRecord (f : Nat) : Nat := if f = 7 then 17 else 25

structure AccstArgs where
  tile : Nat
  sat : Bool
  ofmt : Nat
  deriving DecidableEq, Repr

def accstArgs (mods : Nat) : AccstArgs := { tile := mods % 4, sat := decide (mods / 4 % 2 = 1), ofmt := mods / 8 % 16 }

def accRow0 (w : Work) : Nat := bits (w.word 4) 7 0
def accCol0 (w : Work) : Nat := bits (w.word 4) 15 8
def accRows (w : Work) : Nat := bits (w.word 4) 23 16 + 1
def accCols (w : Work) : Nat := bits (w.word 4) 31 24 + 1
def accT (w : Work) : Bool := decide (bits (w.word 7) 2 2 = 1)
def isRecordOut (f : Nat) : Bool := decide (5 ≤ f) && decide (f ≤ 7)

/-- The parameter status of an ACCST block, lowest word first (R225). -/
def accstParam (s : State) (w : Work) : Option (Nat × Nat) :=
  let rec' := isRecordOut (accstArgs w.mods).ofmt
  if winOf (w.pair 0) = .priv then some (0x01, 0)
  else if 128 < accRow0 w + accRows w ∨ 128 < accCol0 w + accCols w ∨ (rec' ∧ (accCol0 w % 32 ≠ 0 ∨ accCols w % 32 ≠ 0)) then some (0x01, 4)
  else match barLocator s (w.word 6) with
    | .error c => some (c, 6)
    | .ok _ => if bits (w.word 7) 31 8 ≠ 0 ∨ bits (w.word 7) 3 3 ≠ 0 ∨ bits (w.word 7) 7 4 ≠ 0 ∨ (rec' ∧ accT w) then some (0x01, 7) else none

/-- tsA x tsB x acc, exact, with NV for zero times infinity and for a signalling scale (R80). -/
def accValue (w : Work) (x : XR) : XR × Flags :=
  let p := (fp32.decode (w.word 2)).mul (fp32.decode (w.word 3))
  let v := p.1.mul x
  (v.1, p.2 ||| v.2 ||| snanFlag fp32 [w.word 2, w.word 3])

/-- RoundOut (R80): an infinite result raises no flag of its own. -/
def roundOut (f : Fmt) (sat : Bool) (v : XR) : Nat × Flags :=
  let r := roundSat v f .rne false sat
  match v with
  | .inf _ => (r.1, 0)
  | _ => r

/-- FA36 to INT32 (R223). -/
def outS32 (v : XR) : Nat × Flags :=
  let lo : Int := -(2 ^ 31)
  let hi : Int := 2 ^ 31 - 1
  let enc (i : Int) : Nat := (BitVec.ofInt 32 i).toNat
  match v with
  | .nan => (0, flagNV)
  | .inf n => (enc (if n then lo else hi), flagNV)
  | .fin n a d =>
    let r := roundInt n a d .rne
    let nx : Flags := if r.2 then flagNX else 0
    if r.1 < lo then (enc lo, nx ||| flagSAT) else if hi < r.1 then (enc hi, nx ||| flagSAT) else (enc r.1, nx)

/-- One element outside the record formats: its bytes and flags. -/
def outElem (w : Work) (int : Bool) (acc : BitVec 36) : List Byte × Flags :=
  let a := accstArgs w.mods
  if a.ofmt = 8 then (leBytes 8 acc.toNat, 0)
  else
    let v := accValue w (accXR int acc)
    let r := if a.ofmt = 9 then outS32 v.1 else roundOut (outFmt a.ofmt) a.sat v.1
    (leBytes (outBytes a.ofmt) r.1, v.2 ||| r.2)

/-- floor(log2) of the greatest finite magnitude; none when all are zero. -/
def maxLog (vs : List XR) : Option Int :=
  vs.foldl (fun m v => match v with
    | .fin _ a d => if a = 0 then m else some (max (m.getD (floorLog2 a d)) (floorLog2 a d))
    | _ => m) none

/-- One record of 32 elements (R224): its bytes and flags. Where every value is infinite there is no finite one to take amax over, and the scale is a free value, the same for the same record (02_numbers R83; log 69). -/
def outRec (w : Work) (int : Bool) (accs : List (BitVec 36)) : List Byte × Flags :=
  let f := outFmt (accstArgs w.mods).ofmt
  let emax : Int := if (accstArgs w.mods).ofmt = 5 then 4 else 2
  let wd := f.width
  let vs := accs.map (fun x => accValue w (accXR int x))
  let base := vs.foldl (fun g v => g ||| v.2) (0 : Flags)
  if vs.any (fun v => v.1.isNaN) then (leBytes (1 + 4 * wd) 0xFF, base)
  else
    let sc := if vs.all (fun v => match v.1 with | .inf _ => true | _ => false) then Config.infiniteScale ((accstArgs w.mods).ofmt :: vs.map (fun v => match v.1 with | .inf true => 1 | _ => 0)) % 255 else match maxLog (vs.map (·.1)) with
      | none => 127
      | some e => (max 0 (min 254 (127 + e - emax))).toNat
    let cs := vs.map (fun v => match v.1 with
      | .inf n => (f.signed n f.maxCode, (0 : Flags))
      | x => roundFP (x.div (scaleUE8 sc)).1 f .rne false)
    (leBytes (1 + 4 * wd) (sc + 256 * packBits wd (cs.map (·.1))), cs.foldl (fun g c => g ||| c.2) base)

/-- The bytes and flags of the whole region, one row of elements at a time. -/
def accstRows (w : Work) (t : AccTile) : List (List (List Byte)) × Flags :=
  let rows := (List.range (accRows w)).map (fun i =>
    let accs := ((tileRow t (accRow0 w + i)).drop (accCol0 w)).take (accCols w)
    if isRecordOut (accstArgs w.mods).ofmt then (List.range (accCols w / 32)).map (fun g => outRec w t.int ((accs.drop (32 * g)).take 32))
    else accs.map (outElem w t.int))
  (rows.map (fun r => r.map (·.1)), rows.foldl (fun f r => r.foldl (fun g x => g ||| x.2) f) 0)

/-- The segments of an ACCST: by row, or by column when T = 1 (R223, R225). -/
def accstSegs (w : Work) : List Seg :=
  let row (i : Nat) : List Byte := (tabGet w.data i []).map (BitVec.ofNat 8)
  let n := outBytes (accstArgs w.mods).ofmt
  if accT w then
    (List.range (accCols w)).map (fun j =>
      { index := accCol0 w + j, ea := (w.pair 0 + j * w.word 5) % 2 ^ 64,
        bytes := (List.range (accRows w)).flatMap (fun i => ((row i).drop (n * j)).take n) })
  else (List.range (accRows w)).map (fun i => { index := accRow0 w + i, ea := (w.pair 0 + i * w.word 5) % 2 ^ 64, bytes := row i })

/-- The places that an ACCST will write, before its tile is read. -/
def accstStarts (w : Work) : List (Nat × Nat) :=
  let f := (accstArgs w.mods).ofmt
  if accT w then (List.range (accCols w)).map (fun j => ((w.pair 0 + j * w.word 5) % 2 ^ 64, accRows w * outBytes f))
  else (List.range (accRows w)).map (fun i => ((w.pair 0 + i * w.word 5) % 2 ^ 64, if isRecordOut f then accCols w / 32 * outRecord f else accCols w * outBytes f))

/-- The tile read of ACCST in matrix-unit order: converted, with the flags in MFR (R78, R223). -/
def runAccst (s : State) (gid tile work : Nat) : State :=
  match getWork s work with
  | none => s
  | some w =>
    if (getTile (teamOf s gid) tile).bad then setWork (dropClaims (logError s 0x02 0 w.vf true) w.id) (w.failed 0x0C 0x02) else
    let (rows, f) := accstRows w (getTile (teamOf s gid) tile)
    let data := rows.mapIdx (fun i r => (i, r.flatten.map (·.toNat)))
    orMfr (setWork s { w with stage := 1, data := data }) gid f

/-- MATRIX_UNIT_OPERATION: the unit performs the oldest operation of its queue. -/
def matrixStep (s : State) (core : Nat) : State :=
  match (getCore s core).matrix with
  | [] => s
  | o :: rest =>
    let s := setCore s core { getCore s core with matrix := rest }
    match o.kind with
    | .mma sp a b t m n k => runMma s o.gid sp a b t m n k
    | .accz t i => putTile s (tagOf o.gid) t { int := i }
    | .accrd t r h f d => runAccrd s o.gid t r h f d
    | .accwr t r h f v => runAccwr s o.gid t r h f v
    | .accst t w => runAccst s o.gid t w

/-- One destination line of an ACCST, after its tile read. -/
def accstLine (s : State) (w : Work) (k : Nat) : State := if w.stage = 0 then s else writeSegs (accstSegs w) s w k

/-! ## LDSLOT and CBLOAD (R213-R216) -/

def ldSlotNo (w : Work) : Nat := bits (w.word 2) 3 0
def ldFmt (w : Work) : Nat := bits (w.word 2) 7 4
def ldT (w : Work) : Bool := decide (bits (w.word 2) 8 8 = 1)
def ldKlen (w : Work) : Nat := bits (w.word 2) 24 16

/-- The block check of LDSLOT, lowest word first. -/
def ldslotParam (s : State) (w : Work) : Option (Nat × Nat) :=
  let f := ldFmt w
  let k := ldKlen w
  let n := nspOf (w.word 7)
  if winOf (w.pair 0) = .priv then some (0x01, 0)
  else if bits (w.word 2) 31 25 ≠ 0 ∨ bits (w.word 2) 15 9 ≠ 0 ∨ 0xC ≤ f ∨ k = 0 ∨ slotKmax f < k ∨ (isRecordFmt f ∧ k % 32 ≠ 0) ∨ (ldT w ∧ 5 ≤ f) ∨ (f = 0xB ∧ w.word 7 % 4 ≠ 3 ∧ k ≠ n ∧ k ≠ 2 * n) then some (0x01, 2)
  else if w.word 3 = 0 ∨ 128 < w.word 3 then some (0x01, 3)
  else if !copyCtlOk (w.word 5) false then some (0x01, 5)
  else match barLocator s (w.word 6) with
    | .error c => some (c, 6)
    | .ok _ => if (f = 0xB ∧ (4 ≤ w.word 7 ∨ w.word 7 % 4 = 3)) ∨ (f ≠ 0xB ∧ w.word 7 ≠ 0) then some (0x01, 7) else none

/-- Source rows of an LDSLOT: how many, and their bytes (R214). -/
def ldRows (w : Work) : Nat := if ldT w then ldKlen w else w.word 3
def ldRowBytes (w : Work) : Nat := if ldT w then w.word 3 * (slotBits (ldFmt w) / 8) else slotLineBytes (ldFmt w) (ldKlen w)

/-- Does a queued matrix operation read a slot of the team (R200)? -/
def slotRead (s : State) (core tag slot : Nat) : Bool :=
  (getCore s core).matrix.any (fun o => decide (tagOf o.gid = tag) && (match o.kind with
    | .mma sp a b _ _ _ _ => decide (a = slot) || decide (b = slot) || (sp && decide (a + 1 = slot))
    | _ => false))

/-- Lines of codes and scales from the source rows (R194, R214). -/
def ldLines (w : Work) : Tab (List Nat) × Tab (List Nat) :=
  let f := ldFmt w
  if ldT w then
    let sz := slotBits f / 8
    let rows := (List.range (ldKlen w)).map (fun k => unpackCodes (8 * sz) (w.word 3) (tabGet w.data k []))
    ((List.range (w.word 3)).map (fun i => (i, rows.map (fun r => r.getD i 0))), [])
  else
    let ls := (List.range (w.word 3)).map (fun i => (i, slotLine f (ldKlen w) (tabGet w.data i [])))
    (ls.map (fun p => (p.1, p.2.1)), (ls.map (fun p => (p.1, p.2.2))).filter (fun p => decide (p.2 ≠ [])))

/-- A META line: positions below 128, strictly rising in each block (R208). -/
def metaLineOk (n : Nat) (l : List Nat) : Bool :=
  l.all (fun p => decide (p < 128)) &&
  (List.range (l.length / n)).all (fun b =>
    let blk := (l.drop (b * n)).take n
    (blk.zip (blk.drop 1)).all (fun p => decide (p.1 < p.2)))

def failSlot (s : State) (tag slot : Nat) : State :=
  modTeam s tag (fun t => { t with slots := tabMod t.slots slot (fun sl => { sl with state := .claimed }) })

def subtractBar (s : State) (w : Work) (n : Nat) : State :=
  match w.bar with
  | some obj => (addBytes s obj (-(n : Int))).1
  | none => s

def workTag (w : Work) : Nat := tagOf (gidOfAgent w.agent)

/-- The last row has been read: META check, latch, VALID, the last subtraction (R215). Of several META lines that break R208, INDEX names the lowest (log 85). -/
def ldslotEnd (s : State) (w : Work) (n : Nat) : State :=
  let (lines, scales) := ldLines w
  let bad := if ldFmt w = 0xB then lines.find? (fun p => !metaLineOk (nspOf (w.word 7)) p.2) else none
  match bad with
  | some p => setWork (failSlot s (workTag w) (ldSlotNo w)) (w.failed 0x01 (0x80 + p.1))
  | none =>
    let old := (teamSlot (getTeam s (workTag w)) (ldSlotNo w)).getD {}
    let s := putSlot s (workTag w) (ldSlotNo w) { old with
      state := .valid, bad := false, fmt := ldFmt w, klen := ldKlen w, lines := w.word 3, data := lines, scales := scales, sparsity := w.word 7 }
    subtractBar (setWork s { w with ended := true }) w n

/-- After a row failed or was read: the work ends with its failure once every row below it has been read (R184). -/
def ldslotSettle (s : State) (w : Work) : State :=
  if w.status ≠ 0 ∧ (List.range w.index).all w.pieces.contains then setWork (failSlot s (workTag w) (ldSlotNo w)) { w with ended := true }
  else setWork s w

/-- One source row of an LDSLOT. -/
def ldslotRow (s : State) (w : Work) (k : Nat) : State :=
  if w.ended ∨ ldRows w ≤ k ∨ w.pieces.contains k ∨ slotRead s w.core (workTag w) (ldSlotNo w) then s
  else match workLocs s w ((w.pair 0 + k * w.word 4) % 2 ^ 64) (ldRowBytes w) .read notPriv with
    | .error (.wait x) => workWaits s w x
    | .error (.trap t) =>
      let (s, w) := noteTrap s w t k
      ldslotSettle s w
    | .ok (src, w, t) =>
      match transferBad t src [] with
      | some (c, pa) => ldslotSettle (logError t c pa w.vf true) (w.note 0x0C k)
      | none =>
        if sourceBusy t w src then s
        else
          let (w, t) := keepLines t w src
          let w := { w with pieces := k :: w.pieces, data := tabPut w.data k (src.map (fun l => (keptByte w l).toNat)) }
          if w.status = 0 ∧ (List.range (ldRows w)).all w.pieces.contains then ldslotEnd t w (ldRowBytes w)
          else ldslotSettle (subtractBar t w (ldRowBytes w)) w

def cbloadParam (s : State) (w : Work) : Option (Nat × Nat) :=
  if winOf (w.pair 0) = .priv then some (0x01, 0)
  else if 16 ≤ w.word 2 then some (0x01, 2)
  else match barLocator s (w.word 3) with
    | .error c => some (c, 3)
    | .ok _ => none

/-- The one step of a CBLOAD (R216). -/
def cbloadStep (s : State) (w : Work) : State :=
  let slot := w.word 2 % 16
  if w.ended ∨ slotRead s w.core (workTag w) slot then s
  else match workLocs s w (w.pair 0) 32 .read notPriv with
    | .error (.wait x) => workWaits s w x
    | .error (.trap t) => setWork (noteError s t.cause t.aux t.pa w.vf) (w.failed t.cause 0)
    | .ok (src, w, t) =>
      match transferBad t src [] with
      | some (c, pa) => setWork (logError t c pa w.vf true) (w.failed 0x0C 0)
      | none =>
        if sourceBusy t w src then s
        else
          let (w, t) := keepLines t w src
          let cb := unpackCodes 16 16 (src.map (fun l => (keptByte w l).toNat))
          let t := modTeam t (workTag w) (fun x => { x with slots := tabMod x.slots slot (fun sl => { sl with codebook := cb, cbv := true }) })
          subtractBar (setWork t { w with ended := true }) w 32

/-- The half-row that a coordinate word names (R220). -/
def crdRow (w : Nat) : Nat := bits w 6 0
def crdHalf (w : Nat) : Nat := bits w 7 7

/-- R211 SHAPE: Set the number of accumulator tiles the team holds. -/
def execShape (d : BitVec 7) (c : BitVec 3) (s : State) : Host.Outcome State Fault Refusal :=
  run s 0x200 (c.setWidth 7) (Uses.shape d c) (do
    let tag := curTag s
    let core := coreOfCur s
    if !matrixIdle s core tag then throw (.wait .work)
    let n := c.toNat
    let held := (getTeam s tag).held
    let grow := decide (held < n)
    let ok := !grow || decide (n - held ≤ freeTiles s core)
    let t := if ok then modTeam s tag (fun x => { x with held := n, tiles := x.tiles.filter (fun p => decide (p.1 < min held n)) }) else s
    return finish (Uses.shape d c) 4 (writeSReg t d (BitVec.ofNat 32 ((if ok then n else held) + (if ok then 0 else 2 ^ 31)))))

/-- R212 SLCLAIM: Claim logical operand slots all or nothing. -/
def execSlclaim (d : BitVec 7) (a : BitVec 7) (s : State) : Host.Outcome State Fault Refusal :=
  run s 0x201 0 (Uses.slclaim d a) (do
    let tag := curTag s
    let core := coreOfCur s
    let m := (readSReg s a).toNat
    firstReason [(9, decide (65536 ≤ m))]
    if !matrixIdle s core tag then throw (.wait .work)
    let t := getTeam s tag
    let new := (List.range 16).filter (fun n => decide (m / 2 ^ n % 2 = 1) && (teamSlot t n).isNone)
    let free := freeSlots s core
    let ok := decide (new.length ≤ free.length)
    let s1 := if ok then modTeam s tag (fun x => (new.zip free).foldl (fun x p => { x with slots := tabPut x.slots p.1 { state := .claimed }, slotMap := tabPut x.slotMap p.1 p.2 }) x) else s
    let mask := ((getTeam s1 tag).slots.map (fun p => 2 ^ p.1)).foldl (· + ·) 0
    return finish (Uses.slclaim d a) 4 (writeSReg s1 d (BitVec.ofNat 32 (mask + (if ok then 0 else 2 ^ 31)))))

/-- R212 SLREL: Release logical operand slots. -/
def execSlrel (a : BitVec 7) (s : State) : Host.Outcome State Fault Refusal :=
  run s 0x202 0 (Uses.qpushS a) (do
    let tag := curTag s
    let m := (readSReg s a).toNat
    firstReason [(9, decide (65536 ≤ m))]
    if !matrixIdle s (coreOfCur s) tag then throw (.wait .work)
    let named (n : Nat) : Bool := decide (m / 2 ^ n % 2 = 1)
    return finish (Uses.qpushS a) 4 (modTeam s tag (fun x => { x with slots := x.slots.filter (fun p => !named p.1), slotMap := x.slotMap.filter (fun p => !named p.1) })))

/-- R215 LDSLOT: Load and latch an operand slot on the copy engine. -/
def execLdslot (d : BitVec 7) (a : BitVec 7) (s : State) : Host.Outcome State Fault Refusal :=
  run s 0x203 0 (Uses.cpy d a) (do
    let w := newWork s (.ldslot 0) d 0 (readBlock s a 8)
    let w := { w with kind := .ldslot (ldSlotNo w) }
    let tag := curTag s
    let slot := ldSlotNo w
    match teamSlot (getTeam s tag) slot with
    | none => throw (slotTrap 1)
    | some sl =>
      if sl.state = .loading then throw (.wait .work)
      engineGate s
      match ldslotParam s w with
      | some (c, i) => return finish (Uses.cpy d a) 4 (issueWork (putSlot s tag slot { sl with state := .claimed }) (w.failed c i))
      | none =>
        let w := { w with bar := match barLocator s (w.word 6) with | .ok b => b | .error _ => none }
        let (_, w, t) := tryKeys s w .read ((List.range (ldRows w)).map (fun k => ((w.pair 0 + k * w.word 4) % 2 ^ 64, ldRowBytes w)))
        return finish (Uses.cpy d a) 4 (issueWork (putSlot t tag slot { sl with state := .loading }) w))

/-- R216 CBLOAD: Load a slot's CB4 codebook. -/
def execCbload (d : BitVec 7) (a : BitVec 7) (s : State) : Host.Outcome State Fault Refusal :=
  run s 0x204 0 (Uses.cbload d a) (do
    let w := newWork s (.cbload 0) d 0 (readBlock s a 4)
    let slot := w.word 2 % 16
    let w := { w with kind := .cbload slot }
    let tag := curTag s
    match teamSlot (getTeam s tag) slot with
    | none => throw (slotTrap 1)
    | some sl =>
      engineGate s
      let t := putSlot s tag slot { sl with cbv := false }
      match cbloadParam s w with
      | some (c, i) => return finish (Uses.cbload d a) 4 (issueWork t (w.failed c i))
      | none =>
        let (_, w, t) := tryKeys t { w with bar := match barLocator s (w.word 3) with | .ok x => x | .error _ => none } .read [(w.pair 0, 32)]
        return finish (Uses.cbload d a) 4 (issueWork t w))

/-- R218 MMA: Queue a matrix multiply-accumulate into a tile. -/
def execMma (s : BitVec 4) (a : BitVec 7) (b : BitVec 4) (t : BitVec 2) (st : State) : Host.Outcome State Fault Refusal :=
  run st 0x208 0 (Uses.qpushS a) (mmaBody st false (Uses.qpushS a) s.toNat b.toNat t.toNat a)

/-- R209 MMAS: Queue a structured-sparse matrix multiply-accumulate. -/
def execMmas (s : BitVec 4) (a : BitVec 7) (b : BitVec 4) (t : BitVec 2) (st : State) : Host.Outcome State Fault Refusal :=
  run st 0x209 0 (Uses.mmas s a) (mmaBody st true (Uses.mmas s a) s.toNat b.toNat t.toNat a)

/-- R219 ACCZ: Zero a tile and set its mode. -/
def execAccz (t : BitVec 2) (m : BitVec 1) (s : State) : Host.Outcome State Fault Refusal :=
  run s 0x210 0 [] (do
    firstReason [(6, decide ((getTeam s (curTag s)).held ≤ t.toNat))]
    return finish [] 4 (← queueMatrix s (.accz t.toNat (m = 1))))

/-- R221 ACCRD: Read one half-row of a tile into V registers. -/
def execAccrd (d : BitVec 7) (a : BitVec 7) (t : BitVec 2) (f : BitVec 1) (s : State) : Host.Outcome State Fault Refusal :=
  run s 0x211 0 (Uses.accrd d a f) (do
    let w := (readSReg s a).toNat
    firstReason [(6, decide ((getTeam s (curTag s)).held ≤ t.toNat)), (9, decide (256 ≤ w))]
    matrixMemOk s (curTag s) [] [t.toNat]
    let u ← queueMatrix s (.accrd t.toNat (crdRow w) (crdHalf w) (f = 1) d.toNat)
    return finish (Uses.accrd d a f) 4 (markEmpty u (if f = 1 then [d.toNat] else [d.toNat, d.toNat + 1])))

/-- R221 ACCWR: Write one half-row of a tile from V registers. -/
def execAccwr (d : BitVec 7) (a : BitVec 7) (t : BitVec 2) (f : BitVec 1) (s : State) : Host.Outcome State Fault Refusal :=
  run s 0x212 0 (Uses.accwr d a f) (do
    let w := (readSReg s a).toNat
    firstReason [(6, decide ((getTeam s (curTag s)).held ≤ t.toNat)),
      (7, decide (f = 1) && tileIsInt s (coreOfCur s) (curTag s) t.toNat), (9, decide (256 ≤ w))]
    let vals := (List.range 64).map (fun l => if f = 1 then (readField s d.toNat l).setWidth 64 else readPair s d.toNat l)
    return finish (Uses.accwr d a f) 4 (← queueMatrix s (.accwr t.toNat (crdRow w) (crdHalf w) (f = 1) vals)))

/-- R223 ACCST: Store a tile region with tensor scales to memory. -/
def execAccst (d : BitVec 7) (a : BitVec 7) (t : BitVec 2) (z : BitVec 1) (o : BitVec 4) (s : State) : Host.Outcome State Fault Refusal :=
  run s 0x213 0 (Uses.accst d a z o) (do
    firstReason [(6, decide ((getTeam s (curTag s)).held ≤ t.toNat))]
    engineGate s
    let w := newWork s .accst d (t.toNat + 4 * z.toNat + 8 * o.toNat) (readBlock s a 8)
    match accstParam s w with
    | some (c, i) => return finish (Uses.accst d a z o) 4 (issueWork s (w.failed c i))
    | none =>
      let w := { w with bar := match barLocator s (w.word 6) with | .ok b => b | .error _ => none }
      let (keys, w, u) := segKeys s w (accstStarts w)
      let u ← claimLines u w.id keys
      let u ← queueMatrix u (.accst t.toNat w.id)
      return finish (Uses.accst d a z o) 4 (issueWork u w))

end Sys2Proof.Machine
end

