-- ==== Sys2Proof/Machine/Sched.lean ====
section
/-! DEFINITION. The life of teams and grids: placement (05_core_memory R154-R158; 03_group R85; 08_cluster_sequence R268), pre-emption, saving and restoring (07_core_sched_traps R255-R261), retirement (03_group R104; 14_tenancy R446), barriers that the scheduler completes (R108, R242, R243, 16_fabric R491), timers and watchdogs (R93, R94, R231, R442). -/

namespace Sys2Proof.Machine

/-! ## Room on a core (R155) -/

/-- The V budget of logical group i (R156). -/
def groupBudget (g : Grid) (i : Nat) : Nat := if g.roles ∧ g.np ≤ i then g.vc else g.vp

/-- Teams whose registers and scratchpad a core holds, whether they run or are held. -/
def coreTags (s : State) (core : Nat) : List Nat := (s.teams.filter (fun p => onCore core p.2)).map (·.1)

/-- Register bytes of bank p that a core's teams hold. -/
def bankUsed (s : State) (core p : Nat) : Nat :=
  ((coreTags s core).flatMap (fun t => (teamGids s t).map (fun g => if (getGroup s g).pipe = p then 256 * (getGroup s g).budget else 0))).foldl (· + ·) 0

/-- Where a contiguous range of a size is free in a core's scratchpad (R155): the lowest such place (log 75). -/
def spadRoom (s : State) (core size : Nat) : Option Nat :=
  let used := ((coreTags s core).map (getTeam s)).filter (fun t => decide (t.spadSize ≠ 0))
  (sortBy id (0 :: used.map (fun t => t.spadBase + t.spadSize))).find? (fun b => decide (b + size ≤ 524288) &&
    (decide (size = 0) || used.all (fun t => decide (t.spadBase + t.spadSize ≤ b) || decide (b + size ≤ t.spadBase))))

/-- Numbers of the access-processor contexts that a core's groups hold. -/
def axpUsed (s : State) (core : Nat) : List Nat :=
  (coreTags s core).flatMap (fun t => (teamGids s t).filterMap (fun g => (getGroup s g).axp.map (·.num)))

/-- The resident slots that groups hold (R154). -/
def slotsUsed (s : State) (core : Nat) : List Nat := (seatedGroups s core).map (fun g => (getGroup s g).slot)

/-- Are resident slots free for n groups from pipeline p0 on: at most 32 on the core and 8 on each pipeline (R154)? -/
def seatsFree (s : State) (core p0 n : Nat) : Bool :=
  decide ((slotsUsed s core).length + n ≤ 32)
  && (List.range 4).all (fun p => decide (((seatedGroups s core).filter (fun g => decide ((getGroup s g).pipe = p))).length
      + ((List.range n).filter (fun i => decide ((p0 + i) % 4 = p))).length ≤ 8))

/-- Is there room on a core for groups of these budgets, from pipeline p0 on (R155)? -/
def roomOn (s : State) (core p0 : Nat) (budgets : List Nat) (spad : Nat) (axp : Bool) : Bool :=
  let on (p : Nat) : List Nat := (budgets.zipIdx.filter (fun b => decide ((p0 + b.2) % 4 = p))).map (·.1)
  decide (core < Config.cores) && decide (p0 < 4) && !(getCluster s (clusterOfCore core)).retired
  && seatsFree s core p0 budgets.length
  && (List.range 4).all (fun p => decide (bankUsed s core p + 256 * (on p).foldl (· + ·) 0 ≤ 262144))
  && (spadRoom s core spad).isSome
  && (!axp || decide ((axpUsed s core).length + budgets.length ≤ 16))

def gridBudgets (g : Grid) : List Nat := (List.range g.groups).map (groupBudget g)

/-- The n lowest numbers below a limit that are not used. -/
def lowestFree (used : List Nat) (limit n : Nat) : List Nat := ((List.range limit).filter (fun k => !used.contains k)).take n

/-! ## First placement (R85, R157, R231, R268) -/

/-- A free SAT extent in a cluster. -/
def satExtent (s : State) (c len : Nat) : Option Nat :=
  let used := s.grids.filterMap (fun p => (tabFind p.2.sat c).map (fun b => (b, p.2.satlen)))
  ((List.range 64).map (· * 1024)).find? (fun b => decide (b + len ≤ 65536) && used.all (fun u => decide (u.1 + u.2 ≤ b) || decide (b + len ≤ u.1)))

/-- Gives the grid its SAT extent in a cluster, every entry +0, unless it has one; none when no extent is free. -/
def withSat (s : State) (n c : Nat) : Option State :=
  let g := getGrid s n
  if g.satlen = 0 ∨ (tabFind g.sat c).isSome then some s
  else match satExtent s c g.satlen with
    | none => none
    | some b =>
      let k := getCluster s c
      some (setGrid (setCluster s c { k with sat := k.sat.filter (fun e => decide (e.1 < b) || decide (b + g.satlen ≤ e.1)) }) n { g with sat := tabPut g.sat c b })

/-- Group i of a team at its first placement (R85). -/
def newGroup (g : Grid) (i p0 slot axp : Nat) : Group :=
  { regs := { s := (g.args.zipIdx).foldl (fun t a => tabSet t a.2 a.1 0) [] },
    pc := g.entry, budget := groupBudget g i, role := if g.roles then (if i < g.np then 1 else 2) else 0,
    pipe := (p0 + i) % 4, slot := slot,
    axp := if g.access = 0 then none else some { num := axp, pc := g.access } }

/-- The groups of a team with the state of R85. -/
def startGroups (s : State) (g : Grid) (tag core p0 : Nat) : State :=
  let slots := lowestFree (slotsUsed s core) 32 g.groups
  let axps := lowestFree (axpUsed s core) 16 g.groups
  (List.range g.groups).foldl (fun s i => setGroup s (tag * 16 + i) (newGroup g i p0 (slots.getD i 0) (axps.getD i 0))) s

/-- The k-th index from a start that is not taken. -/
def nextIndex (taken : List Nat) (total : Nat) : Nat → Nat → Nat
  | 0, i => i
  | n + 1, i => if taken.contains (i % total) then nextIndex taken total n (i + 1) else i % total

/-- The linear index of the next team: rising in a .det grid, on whichever module (R231; 16_fabric R490), else free. -/
def chooseIndex (s : State) (g : Grid) : Nat × State :=
  let total := gridTeams g
  let taken := g.taken ++ g.abroad.map (·.1)
  if g.det then (taken.length, s)
  else
    let f := freeNat s
    (nextIndex taken total (taken.length + 1) (f.1 % max 1 total), f.2)

/-- Are teams of the grid still to be placed? -/
def unplaced (g : Grid) : Bool := decide (placedAll g < gridTeams g)

/-- Is this module one of the grid's (16_fabric R490, R491)? -/
def heldHere (s : State) (g : Grid) : Bool := g.mods.contains s.modn.toNat

/-- Has every team of a gang grid its room on a core, here or on another module, and is none here being saved? Then they run (R260). -/
def gangReady (s : State) (n : Nat) : Bool :=
  let g := getGrid s n
  let ready (r : Residence) : Bool := match r with
    | .running => true
    | .admitted => true
    | .draining => true
    | _ => false
  !unplaced g && s.teams.all (fun p => decide (p.2.grid ≠ n) || ready p.2.res)

def startGang (s : State) (n : Nat) : State :=
  if (getGrid s n).gang ∧ gangReady s n then
    { s with teams := s.teams.map (fun p => if p.2.grid = n ∧ p.2.res = .admitted then (p.1, { p.2 with res := .running }) else p) }
  else s

/-- Placement discards the core's copies of code, as IFENCE.local does (10 R327, R328). -/
def freshCode (s : State) (core : Nat) : State := setCore s core { getCore s core with fetchFrom := s.seq, code := [] }

/-- A team is placed for the first time. -/
def placeTeam (s : State) (n core p0 tag : Nat) : State :=
  let g := getGrid s n
  let (idx, s) := chooseIndex s g
  let t : Team := {
    grid := n, index := idx, x := idx % g.gx, y := idx / g.gx % g.gy, z := idx / (g.gx * g.gy), core := core, cluster := clusterOfCore core, p0 := p0,
    res := if g.gang then .admitted else .running, ngrp := g.groups, spadSize := g.spad, spadBase := (spadRoom s core g.spad).getD 0, placedAt := s.time }
  let s := startGroups (freshCode s core) g tag core p0
  let s := { s with teams := tabPut s.teams tag t }
  startGang (setGrid s n { g with placed := g.placed + 1, taken := g.taken ++ [idx] }) n

/-! ## Quiet teams (R255) -/

/-- Nothing of the team is in flight: tokens, matrix operations, LDSLOT and CBLOAD, store queues; its stores and loads have performed (log 46). -/
def teamQuiet (s : State) (tag : Nat) : Bool :=
  let mine (a : Agent) : Bool := match a with | .group g => decide (tagOf g = tag) | .axp g => decide (tagOf g = tag) | _ => false
  s.works.all (fun w => !mine w.agent) && s.pending.all (fun p => !mine p.agent)
  && s.cores.all (fun c => c.2.matrix.all (fun m => decide (tagOf m.gid ≠ tag)) && c.2.out.all (fun e => decide (tagOf e.gid ≠ tag)))
  && (teamGids s tag).all (fun g => (getGroup s g).sq.isEmpty)

/-- The team leaves its core: its physical slots are free for others (R204). -/
def leaveCore (s : State) (tag : Nat) (r : Residence) : State := modTeam s tag (fun t => { t with res := r, slotMap := [] })

/-- GTIME of a team's logical group 0, which counts the cycles that the team runs (R92); once the group has retired, the team's own count stands for it. -/
def teamTime (s : State) (tag : Nat) : Nat :=
  match tabFind s.groups (tag * 16) with
  | some g => g.gtime.toNat
  | none => (getTeam s tag).resident

/-- The mean resident cycles of the grid's retired teams, less GTIME of logical group 0, is at most 40,000 (R256). -/
def nearEnd (s : State) (tag : Nat) : Bool :=
  let g := getGrid s (getTeam s tag).grid
  decide (0 < g.retired) && decide (g.residentSum ≤ g.retired * (40000 + teamTime s tag))

/-- What a request starts for one team (R256). -/
def preemptTeam (s : State) (tag : Nat) : State :=
  let t := getTeam s tag
  let g := getGrid s t.grid
  if t.res ≠ .running then s
  else if g.det ∨ nearEnd s tag then modTeam s tag (fun t => { t with res := .draining })
  else if g.idem ∧ teamTime s tag ≤ 40000 then modTeam s tag (fun t => { t with res := .flushing })
  else modTeam s tag (fun t => { t with res := .saving 0 false })

/-- A team to be flushed, once it is quiet: its state is discarded and it waits to be placed from its entry (R256). -/
def flushTeam (s : State) (tag : Nat) : State :=
  let t := getTeam s tag
  if t.res = .flushing ∧ teamQuiet s tag then
    let s := startGroups s (getGrid s t.grid) tag t.core t.p0
    modTeam s tag (fun t => { t with
      res := .spilled, spad := [], tags := [], slots := [], slotMap := [], held := 0, tiles := [], stepArrived := false, capCount := 0, capFired := false, resident := 0 })
  else s

/-! ## Livemaps (R257, R444) -/

def liveEntry (b : List Byte) : LiveEntry :=
  { pc := BitVec.ofNat 64 (fieldOf b 0 8), v := BitVec.ofNat 128 (fieldOf b 8 16), s := BitVec.ofNat 32 (fieldOf b 24 4),
    ranges := (List.range (min 4 (fieldOf b 28 4))).map (fun i => (fieldOf b (32 + 8 * i) 4, fieldOf b (36 + 8 * i) 4)) }

/-- The entry of a TBAR; none when the kernel has no table, or it cannot be read. -/
def livemapAt (s : State) (g : Grid) (pc : DWord) : Option LiveEntry :=
  if g.livemap = 0 then none
  else match readVirt s { g.space with pl := 1 } g.livemap.toNat 8 with
    | .error _ => none
    | .ok (h, t) => match readVirt t { g.space with pl := 1 } (g.livemap.toNat + 8) (64 * fieldOf h 0 8) with
      | .error _ => none
      | .ok (b, _) => ((List.range (fieldOf h 0 8)).map (fun i => liveEntry ((b.drop (64 * i)).take 64))).find? (fun e => e.pc = pc)

/-- Registers that a map does not list read 0 after the restore. -/
def keepRegs (e : LiveEntry) (g : Group) : Group :=
  { g with regs := { g.regs with v := g.regs.v.filter (fun p => e.v.getLsbD (p.1 / 64)), s := g.regs.s.filter (fun p => e.s.getLsbD p.1) } }

/-- Ranges are from a first to a last offset, as `.livemap` writes them. -/
def inLive (es : List LiveEntry) (off : Nat) : Bool := es.any (fun e => e.ranges.any (fun r => decide (r.1 ≤ off) && decide (off ≤ r.2)))

/-- Discards what the maps of the team's TBARs do not list. Without an entry for a group's TBAR nothing names what is dead: the group keeps its registers, and the team its whole scratchpad (log 47). -/
def discardDead (s : State) (tag : Nat) : State :=
  let g := getGrid s (getTeam s tag).grid
  let at' := (teamGids s tag).filter (fun gid => groupRun s gid = .blocked .tbar)
  let maps := at'.map (fun gid => (gid, livemapAt s g (getGroup s gid).pc))
  let s := maps.foldl (fun s m => match m.2 with | some e => modGroup s m.1 (keepRegs e) | none => s) s
  if maps.all (fun m => m.2.isSome) then modTeam s tag (fun t => { t with spad := t.spad.filter (fun p => inLive (maps.filterMap (·.2)) p.1) }) else s

/-- A saved team stays in its banks or is spilled: whether they are needed at once, the core decides (R258; log 47). -/
def keepTeam (s : State) (tag : Nat) : Bool × State :=
  let f := freeBool s
  (f.1, if f.1 then modTeam f.2 tag (fun t => { t with res := .held }) else leaveCore f.2 tag .spilled)

/-- A team in its banks is spilled: one that was saved at TBAR leaves there what the livemaps do not list (R257, R258). -/
def spillTeam (s : State) (tag : Nat) : State :=
  leaveCore (if (teamGids s tag).all (fun g => isAt (getGroup s g) .tbar) then discardDead s tag else s) tag .spilled

/-- The teams that a core holds in its banks. -/
def heldTags (s : State) (core : Nat) : List Nat := (s.teams.filter (fun p => decide (p.2.core = core) && decide (p.2.res = .held))).map (·.1)

/-- Banks of a core that are needed are given up, one held team after another, until what needs them fits (R258). -/
def spillUntil (fits : State → Bool) (s : State) : List Nat → State
  | [] => s
  | t :: r => if fits s then s else spillUntil fits (spillTeam s t) r

/-- No held team keeps others from a core: its banks can be had (R258). -/
def sansHeld (s : State) : State :=
  { s with teams := s.teams.map (fun p => if p.2.res = .held then (p.1, { p.2 with res := .spilled, slotMap := [] }) else p) }

def isForced (t : Team) : Bool := match t.res with | .saving _ f => f | _ => false
def savingFor (t : Team) : Nat := match t.res with | .saving c _ => c | _ => 0

/-! ## Restoring (R258, R259, R260, R263) -/

/-- Each group that is blocked in BARWAIT executes it again (R241); TBAR, GBAR and STEP are looked at again. -/
def repeatWaits (s : State) (tag : Nat) : State :=
  let again (g : Group) : Group := match g.run with | .blocked (.barwait _ _ _ _) => { g with run := .eligible } | _ => g
  tryBarriers ((teamGids s tag).foldl (fun s gid => modGroup s gid again) s) tag

/-- The groups of a team that comes back to its banks take resident slots again (R258). -/
def takeSlots (s : State) (tag core : Nat) : State :=
  let slots := lowestFree (slotsUsed s core) 32 (getTeam s tag).ngrp
  (teamGids s tag).foldl (fun s gid => modGroup s gid (fun g => { g with slot := slots.getD (gixOf gid) 0 })) s

/-- A team that left its core takes room on one again, which discards the core's copies of code. Its groups keep their ages: R227 and R261 do not say whether the order of age starts anew (log 86). -/
def seatTeam (s : State) (tag core p0 : Nat) : State :=
  let base := (spadRoom s core (getTeam s tag).spadSize).getD 0
  let s := freshCode s core
  let slots := lowestFree (slotsUsed s core) 32 (getTeam s tag).ngrp
  let axps := lowestFree (axpUsed s core) 16 (getTeam s tag).ngrp
  let free := freeSlots s core
  let s := (teamGids s tag).foldl (fun s gid => modGroup s gid (fun g => { g with
    pipe := (p0 + gixOf gid) % 4, slot := slots.getD (gixOf gid) 0, axp := g.axp.map (fun a => { a with num := axps.getD (gixOf gid) 0 }) })) s
  modTeam s tag (fun t => { t with core := core, p0 := p0, spadBase := base, slotMap := (t.slots.map (·.1)).zip free })

/-- Is there room for a team that was saved? -/
def roomFor (s : State) (tag core p0 : Nat) : Bool :=
  let t := getTeam s tag
  decide (clusterOfCore core = t.cluster)
  && roomOn s core p0 ((teamGids s tag).map (fun g => (getGroup s g).budget)) t.spadSize ((teamGids s tag).any (fun g => (getGroup s g).axp.isSome))
  && decide (t.slots.length ≤ (freeSlots s core).length) && decide (t.held ≤ freeTiles s core)

/-- Has the barrier of an evicted team's group completed (R259)? -/
def wakes (s : State) (gid : Nat) : Bool :=
  match groupRun s gid with
  | .blocked .step => false
  | .blocked (.barwait o token _ _) => decide ((readBar s o).phase ≠ BitVec.ofNat 16 token) || (readBar s o).br
  | _ => true

def evictedReady (s : State) (tag : Nat) : Bool := decide ((getTeam s tag).res = .evicted) && (teamGids s tag).any (wakes s)

/-- The team runs again; a gang's teams go on together. -/
def resumeTeam (s : State) (tag core : Nat) : State :=
  let s := applyAcquire s core .die
  let n := (getTeam s tag).grid
  if (getGrid s n).gang then startGang (modTeam s tag (fun t => { t with res := .admitted })) n
  else repeatWaits (modTeam s tag (fun t => { t with res := .running })) tag

/-- Every team of a gang is looked at again after they start together. -/
def repeatGang (s : State) (n : Nat) : State :=
  if !(getGrid s n).gang then s
  else (s.teams.filter (fun p => decide (p.2.grid = n) && decide (p.2.res = .running))).foldl (fun s p => repeatWaits s p.1) s

/-- Every group of the team waits at STEP or at a cluster barrier (R259). -/
def isVictim (s : State) (tag : Nat) : Bool :=
  (teamGids s tag).all (fun g => match groupRun s g with
    | .blocked .step => true
    | .blocked (.barwait o _ _ _) => o.clusterOf.isSome
    | _ => false)

/-- A core on which the next team of a grid has room, from some pipeline on. -/
def gridFits (s : State) (g : Grid) (core : Nat) : Bool :=
  (List.range 4).any (fun p0 => roomOn (sansHeld s) core p0 (gridBudgets g) g.spad (decide (g.access ≠ 0)))

/-- Has a grid of this module a team still to be placed? -/
def wantsCore (s : State) (g : Grid) : Bool := !g.waiting && g.ended.isNone && unplaced g && heldHere s g

/-- A team that left its core waits to be placed again, and its cluster has no room; or its core has no resident slots for one that stayed in its banks (R258, R259). -/
def restoreShort (s : State) (tag : Nat) : Bool :=
  let t := getTeam s tag
  ((decide (t.res = .spilled) || evictedReady s tag) &&
    (List.range Config.cores).all (fun c => (List.range 4).all (fun p0 => !roomFor (sansHeld s) tag c p0)))
  || (decide (t.res = .held) && !seatsFree s t.core t.p0 t.ngrp)

/-- A team that no core has room for, of a grid that `of` picks (R259, R439). -/
def shortOf (s : State) (of : Grid → Bool) : Bool :=
  s.grids.any (fun p => of p.2 && wantsCore s p.2 && (List.range Config.cores).all (fun c => !gridFits s p.2 c))
  || s.teams.any (fun p => of (getGrid s p.2.grid) && restoreShort s p.1)

/-- A team of a non-gang grid waits and no core has room (R259). -/
def placementShort (s : State) : Bool := shortOf s (fun g => !g.gang)

/-! ## Whose team may be pre-empted (14_tenancy R439, R440) -/

/-- The cores on which teams of the grids that `of` picks hold room. -/
def coresHeld (s : State) (of : Grid → Bool) : Nat :=
  (((s.teams.filter (fun p => p.2.res.seats && of (getGrid s p.2.grid))).map (fun p => p.2.core)).eraseDups).length

/-- Is a VF in its quantum: does a queue processor serve it? -/
def inQuantum (s : State) (vf : Nat) : Bool := (List.range 8).any (fun n => decide (tabGet s.qpVf n 0 = vf))

/-- Is a process slot served: is a context of it the last that issued on a queue processor (R437; log 78)? -/
def slotServed (s : State) (vf slot : Nat) : Bool :=
  (List.range 8).any (fun n => match tabFind s.qpCtx n with
    | some q => decide (tabGet s.qpVf n 0 = vf) && decide (q / 64 = vf) && decide ((getQueue s q).slot = slot)
    | none => false)

def ofVf (vf : Nat) (g : Grid) : Bool := decide (g.vf = vf)
def ofSlot (vf slot : Nat) (g : Grid) : Bool := decide (g.vf = vf) && decide (g.slot = slot)

/-- Does a VF hold fewer cores than its minimum gives it (R440)? -/
def belowMinimum (s : State) (vf : Nat) : Bool := decide (coresHeld s (ofVf vf) < 8 * (getVf s vf).mincl)
def aboveMinimum (s : State) (vf : Nat) : Bool := decide (8 * (getVf s vf).mincl < coresHeld s (ofVf vf))

/-- The oldest-placed running team of those that `of` picks, this one among them. -/
def oldestOf (s : State) (tag : Nat) (of : Grid → Bool) : Bool :=
  s.teams.all (fun p => !(decide (p.2.res = .running) && of (getGrid s p.2.grid)) || decide ((getTeam s tag).placedAt ≤ p.2.placedAt))

/-- May a team be pre-empted (R439): for a VF with a team that cannot be placed, which is below its minimum or in its quantum, the oldest team of a VF above its own minimum; among the processes of one VF the same by slots, without minima. -/
def mayPreempt (s : State) (tag : Nat) : Bool :=
  let g := getGrid s (getTeam s tag).grid
  let byVf := aboveMinimum s g.vf && (List.range (Config.vfs + 1)).any (fun v => decide (v ≠ g.vf) && shortOf s (ofVf v) &&
    (belowMinimum s v || inQuantum s v) && oldestOf s tag (fun x => decide (x.vf ≠ v) && aboveMinimum s x.vf))
  let bySlot := (List.range 16).any (fun n => decide (n ≠ g.slot) && shortOf s (ofSlot g.vf n) && slotServed s g.vf n
    && oldestOf s tag (fun x => decide (x.vf = g.vf) && decide (x.slot ≠ n)))
  decide ((getTeam s tag).res = .running) && (byVf || bySlot)

/-- Must a core's room be left to a VF below its minimum, which has a team that fits there, when a VF at or above its own places one (R440)? -/
def reserved (s : State) (vf core : Nat) : Bool :=
  !belowMinimum s vf && (List.range Config.vfs).any (fun v => decide (v ≠ vf) && belowMinimum s v &&
    s.grids.any (fun p => ofVf v p.2 && wantsCore s p.2 && gridFits s p.2 core))

/-! ## Retirement -/

/-- A group that has retired, and its team with its last group. -/
def retireGroup (s : State) (gid : Nat) : State :=
  let tag := tagOf gid
  let s := { s with groups := tabErase s.groups gid, pending := s.pending.filter (fun p => decide (p.agent ≠ .axp gid)) }
  let n := (getTeam s tag).grid
  let s := if teamGids s tag = [] then
      let g := getGrid s n
      setGrid { s with teams := tabErase s.teams tag } n { g with retired := g.retired + 1, residentSum := g.residentSum + (getTeam s tag).resident }
    else tryTbar s tag
  tryStep (tryGbar s n) n

/-- Every team of the grid has retired, and its engine work is complete (R446). -/
def gridDone (s : State) (n : Nat) : Bool :=
  let g := getGrid s n
  (tabFind s.grids n).isSome && !g.waiting && g.home.isNone && s.teams.all (fun p => decide (p.2.grid ≠ n)) && g.abroad.all (fun a => a.2.2)
  && (g.ended.isSome || !unplaced g)
  && s.works.all (fun w => decide (w.grid ≠ n) || decide (w.id = n))

/-! ## Timers and limits -/

/-- The time cap reaches at once a group that is not TRAPPED and has no trap whose record waits. -/
def mayTakeCap (s : State) (gid : Nat) : Bool :=
  (getGroup s gid).recDue.isNone && decide (groupRun s gid ≠ .trapped)

/-- May a group take a trap from outside now (R94)? -/
def mayTakeTimer (s : State) (gid : Nat) : Bool :=
  (tabFind s.groups gid).isSome && (teamOf s gid).res.issues && !midLdfe (getGroup s gid) && (getGroup s gid).recDue.isNone &&
  (match groupRun s gid with
   | .eligible => true
   | .waiting _ => true
   | .blocked (.barwait _ _ _ _) => true
   | _ => false)

/-- The watchdog limit in reference cycles (R442). -/
def wdogLimit (s : State) : Nat := s.wdlim.toNat * 2000000

def queueFaulted (s : State) (qid : Nat) (t : Trap) : State :=
  let s := modQueue s qid (fun q => { q with state := .faulted, wait := none, wdog := 0 })
  writeDescriptor (noticeHost { s with out := s.out ++ [.faulted qid t] } (qid / 64) { info := noticeInfo t.cause, aux := t.aux, recAt := 0, gh := 0 }) qid

/-- R93 GTCMP_WRITE: GTCMP takes a value, which arms the resident-time compare. -/
def execGtcmpWrite (gid : Nat) (v : BitVec 64) (s : State) : Host.Outcome State Fault Refusal :=
  .next (if (tabFind s.groups gid).isSome then setGtcmp s gid v else s)

/-- R94 WDL_WRITE: WDL takes a value, which arms the wall-deadline compare. -/
def execWdlWrite (gid : Nat) (v : BitVec 64) (s : State) : Host.Outcome State Fault Refusal :=
  .next (if (tabFind s.groups gid).isSome then setWdl s gid v else s)

/-- R78 MFR_ACCESS: an access of MFR acts once the group's earlier matrix operations have performed; a write sets its defined bits. -/
def execMfrAccess (gid : Nat) (v : Option (BitVec 32)) (s : State) : Host.Outcome State Fault Refusal :=
  .next (match v with
    | some w => if (tabFind s.groups gid).isSome ∧ !matrixBusy s gid then modGroup s gid (fun g => { g with mfr := w &&& mfrMask }) else s
    | none => s)

/-- R435 CHRCTL_RESTART: the halt of a VF's ring on a package is cleared. -/
def execChrctlRestart (vf : Nat) (pkg : Nat) (s : State) : Host.Outcome State Fault Refusal :=
  .next (restartRing s vf pkg)

/-- R434 PASSGH: the trap of the group that a handle names is passed on to the PL1 context that issued its grid's LAUNCH. -/
def execPassgh (vf : Nat) (gh : BitVec 32) (s : State) : Host.Outcome State Fault Refusal :=
  .next (passGh s vf gh)

/-- R434 HVCTX_WRITE: HVCTX names the PL2 context that takes the VF's notices, and those held are delivered. -/
def execHvctxWrite (vf : Nat) (v : BitVec 32) (s : State) : Host.Outcome State Fault Refusal :=
  .next (writeHvctx s vf v)

/-- R93 GTCMP_FIRE: at an instruction boundary with GTIME at or above GTCMP the group takes TIMER. -/
def execGtcmpFire (gid : Nat) (s : State) : Host.Outcome State Fault Refusal :=
  .next (if gtimeDue (getGroup s gid) && mayTakeTimer s gid then fireTimers s gid else s)

/-- R94 WDL_FIRE: at an instruction boundary with CYCLE at or above WDL the group takes TIMER. -/
def execWdlFire (gid : Nat) (s : State) : Host.Outcome State Fault Refusal :=
  .next (if wallDue s (getGroup s gid) && mayTakeTimer s gid then fireTimers s gid else s)

/-- R442 HANG_WATCHDOG: a count reaches the limit: a group takes WATCHDOG with auxiliary word 0, a queue context becomes FAULTED. -/
def execHangWatchdog (who : Watched) (s : State) : Host.Outcome State Fault Refusal :=
  match who with
  | .group gid =>
    if (tabFind s.groups gid).isSome ∧ wdogLimit s ≤ (getGroup s gid).wdog then
      .next (trapGroup (modGroup s gid (fun g => { g with feDone := 0 })) gid { cause := 0x14 } (getGroup s gid).pc)
    else .next s
  | .queue qid =>
    if (tabFind s.queues qid).isSome ∧ wdogLimit s ≤ (getQueue s qid).wdog then .next (queueFaulted s qid { cause := 0x14 }) else .next s

/-- R231 DET_TEAM_TIME_CAP: the count of a .det team reaches its cap and every group of it takes WATCHDOG with auxiliary word 1: a TRAPPED one after its ERET, and a DONE one, which issues nothing more, never. -/
def execDetTeamTimeCap (tag : Nat) (s : State) : Host.Outcome State Fault Refusal :=
  let t := getTeam s tag
  if (tabFind s.teams tag).isNone ∨ !(getGrid s t.grid).det ∨ t.capFired ∨ t.capCount < (getGrid s t.grid).tcap then .next s
  else
    let gs := (teamGids s tag).filter (fun g => decide (groupRun s g ≠ .done))
    let due := gs.foldl (fun s g => modGroup s g (fun x => { x with capDue := true })) (modTeam s tag (fun t => { t with capFired := true }))
    .next ((gs.filter (mayTakeCap due)).foldl takeCap due)

/-- R255, R256 PREEMPTION_REQUEST: a team that R439 gives up drains, is to be flushed, or is to be saved; all teams of a gang together (R260). A team to be flushed is flushed once nothing of it is in flight. -/
def execPreemptionRequest (tag : Nat) (s : State) : Host.Outcome State Fault Refusal :=
  let n := (getTeam s tag).grid
  let tags := if (getGrid s n).gang then (s.teams.filter (fun p => decide (p.2.grid = n))).map (·.1) else [tag]
  .next (if (tabFind s.teams tag).isNone then s
    else if (getTeam s tag).res = .flushing then tags.foldl flushTeam s
    else if mayPreempt s tag then tags.foldl (fun s t => flushTeam (preemptTeam s t) t) s
    else s)

/-- R257 SAVE_AT_TBAR: a team to be saved stops at TBAR completion and keeps what the livemap lists; in banks that it keeps, the rest may survive (log 47). -/
def execSaveAtTbar (tag : Nat) (s : State) : Host.Outcome State Fault Refusal :=
  if isSaving (getTeam s tag) ∧ (teamGids s tag).all (fun g => isAt (getGroup s g) .tbar) ∧ teamQuiet s tag then
    let (held, t) := keepTeam s tag
    let f := freeBool t
    .next (if held then (if f.1 then discardDead f.2 tag else f.2) else discardDead t tag)
  else .next s

/-- R257 FORCED_SAVE: 40,000 cycles after the request, where some group has not reached TBAR, every group stops at its next boundary; the whole state is saved once nothing of the team is in flight, and until then the groups stay stopped (log 77). -/
def execForcedSave (tag : Nat) (s : State) : Host.Outcome State Fault Refusal :=
  let t := getTeam s tag
  if !isSaving t ∨ savingFor t < 40000 ∨ (teamGids s tag).all (fun g => isAt (getGroup s g) .tbar) then .next s
  else
    let u := modTeam s tag (fun t => { t with res := .saving (savingFor t) true })
    .next (if teamQuiet u tag then (keepTeam u tag).2 else u)

/-- R155 TEAM_PLACEMENT: the dispatcher places the next team of a grid on a core with room, where needed in the banks of teams that were held there (07 R258), under a free tag, after the evicted teams that can go on there (07 R259) and the teams that a VF below its minimum can place there (14 R440). -/
def execTeamPlacement (grid : Nat) (core : Nat) (p0 : Nat) (tag : Nat) (s : State) : Host.Outcome State Fault Refusal :=
  let g := getGrid s grid
  let fits (u : State) : Bool := roomOn u core p0 (gridBudgets g) g.spad (decide (g.access ≠ 0))
  let u := spillUntil fits s (heldTags s core)
  if (tabFind s.grids grid).isNone ∨ !wantsCore s g ∨ tag = 0 ∨ 65535 < tag ∨ (tabFind s.teams tag).isSome
      ∨ s.stage = .halting ∨ s.stage = .halted ∨ (s.teams.any (fun p => evictedReady s p.1 && (List.range 4).any (fun q => roomFor (sansHeld s) p.1 core q)))
      ∨ !fits u ∨ reserved s g.vf core then .next s
  else match withSat u grid (clusterOfCore core) with
    | none => .next s
    | some t => .next (placeTeam t grid core p0 tag)

/-- R258 TEAM_RESTORE: a team held in its banks is switched back on its core; a spilled one, or an evicted one whose barrier has completed, is placed again in its cluster. -/
def execTeamRestore (tag : Nat) (core : Nat) (p0 : Nat) (s : State) : Host.Outcome State Fault Refusal :=
  let t := getTeam s tag
  let n := t.grid
  let u := spillUntil (fun u => roomFor u tag core p0) s (heldTags s core)
  if (tabFind s.teams tag).isNone ∨ s.stage = .halting ∨ s.stage = .halted then .next s
  else match t.res with
    | .held => if t.core = core ∧ seatsFree s core t.p0 t.ngrp then .next (repeatGang (resumeTeam (takeSlots s tag core) tag core) n) else .next s
    | .spilled => if roomFor u tag core p0 then .next (repeatGang (resumeTeam (seatTeam u tag core p0) tag core) n) else .next s
    | .evicted => if evictedReady s tag && roomFor u tag core p0 then .next (repeatGang (resumeTeam (seatTeam u tag core p0) tag core) n) else .next s
    | _ => .next s

/-- R259 VICTIM_EVICTION: a quiet team whose groups all wait at STEP or at cluster barriers gives up its core to a team that cannot be placed. -/
def execVictimEviction (tag : Nat) (s : State) : Host.Outcome State Fault Refusal :=
  let t := getTeam s tag
  if (tabFind s.teams tag).isSome ∧ t.res.issues ∧ !(getGrid s t.grid).gang ∧ isVictim s tag ∧ teamQuiet s tag ∧ placementShort s then
    .next (leaveCore s tag .evicted)
  else .next s

/-- R104 GROUP_RETIREMENT: a group whose lanes are all done retires once its tokens are full and its accesses have drained. -/
def execGroupRetirement (gid : Nat) (s : State) : Host.Outcome State Fault Refusal :=
  let g := getGroup s gid
  if (tabFind s.groups gid).isSome ∧ g.run = .done ∧ tokensFull s gid ∧ g.sq.isEmpty
      ∧ s.pending.all (fun p => decide (p.agent ≠ .group gid)) ∧ s.cores.all (fun c => c.2.matrix.all (fun m => decide (m.gid ≠ gid))) then
    .next (retireGroup s gid)
  else .next s

/-- R446 GRID_RETIREMENT: every team has retired and all engine work is complete: leases, use count, SAT extents and adapters go with the grid, and the LAUNCH token reports. -/
def execGridRetirement (grid : Nat) (s : State) : Host.Outcome State Fault Refusal :=
  if gridDone s grid then
    let st := (getGrid s grid).ended.getD 0
    let t := { s with grids := tabErase s.grids grid, colls := s.colls.filter (fun c => decide (c.grid ≠ grid)) }
    .next (match getWork t grid with
      | some w => setWork t { w with status := st, index := 0, ended := true }
      | none => t)
  else .next s

/-- R108, R491 STEP_BARRIER_COMPLETE: the step barrier completes; the scheduler may add a member of the module set or withdraw a module without teams, and the groups go on. -/
def execStepBarrierComplete (grid : Nat) (change : StepChange) (s : State) : Host.Outcome State Fault Refusal :=
  let g := getGrid s grid
  let ok : Bool := match change with
    | .keep => true
    | .add m => !g.gang && unplaced g && decide (g.mods.length < g.maxMods) && !g.mods.contains m && (m == s.modn.toNat || (membersOf (getVf s g.vf)).contains m)
    | .withdraw m => !g.gang && g.mods.contains m && decide (g.minMods < g.mods.length) && (decide (m ≠ s.modn.toNat) || s.teams.all (fun p => decide (p.2.grid ≠ grid)))
        && g.abroad.all (fun a => a.2.2 || decide (a.2.1 ≠ m))
  if stepArrived s grid ∧ ok then
    let mods := match change with
      | .keep => g.mods
      | .add m => addModule g.mods m
      | .withdraw m => g.mods.filter (fun x => decide (x ≠ m))
    .next (releaseStep (setGrid s grid { g with mods := mods }) grid)
  else .next s

/-- R242, R243 TEAM_BARRIER_COMPLETE: the last arrival has come, and TBAR or GBAR releases the groups. -/
def execTeamBarrierComplete (b : BarrierOf) (s : State) : Host.Outcome State Fault Refusal :=
  match b with
  | .team tag => .next (tryTbar s tag)
  | .grid n => .next (if gbarArrived s n then releaseGbar s n else s)

/-- R434 TRAP_NOTICE: a trapped group's notice reaches its handling context. -/
def execTrapNotice (gid : Nat) (s : State) : Host.Outcome State Fault Refusal :=
  .next (if (tabFind s.groups gid).isSome then deliverNotice s gid else s)

end Sys2Proof.Machine
end

