-- ==== Sys2Proof/Machine/Che.lean ====
section
/-! DEFINITION. Channel engines (12_die_channel): rings and tasks (R373-R377), the threads (R378-R385), their accesses under leases (R375) and the two views of memory (10_die_memory R322, R323). -/

namespace Sys2Proof.Machine

/-! ## Weak accesses (R322) -/

/-- A weak read: LPDDR-6's bytes, or the home's where they are newer (10_die_memory R322). -/
def weakRead (s : State) (pa n : Nat) : List Byte × State :=
  let home := memReadList s.mem pa n
  let low := (List.range n).map (fun i => lpddrRead s (pa + i))
  if low = home then (home, s)
  else
    let f := freeBool s
    (if f.1 then low else home, f.2)

/-- A line's LPDDR-6 copy, kept only where it differs from the home. -/
def putLpddr (s : State) (line : Nat) (bs : List Byte) : State :=
  { s with lpddr := if bs = lineBytes s line then tabErase s.lpddr line else tabPut s.lpddr line bs }

/-- The first half of a weak write, within one line: LPDDR-6 changes, the home not yet. -/
def weakWrite (s : State) (pa : Nat) (bs : List Byte) : State :=
  putLpddr s (lineOf pa) (patchBytes ((tabFind s.lpddr (lineOf pa)).getD (lineBytes s (lineOf pa))) (pa % lineSize) bs)

/-- The second half: the home takes the bytes. -/
def weakLand (s : State) (pa : Nat) (bs : List Byte) : State :=
  let s := homeWrite s none pa bs
  match tabFind s.lpddr (lineOf pa) with
  | some l => putLpddr s (lineOf pa) l
  | none => s

/-- A strong read of bytes of one line at the home. -/
def strongRead (s : State) (pa n : Nat) : List Byte × State :=
  let s := serveLine (countReq s pa) (lineOf pa)
  (memReadList s.mem pa n, s)

/-! ## Leases (R375) -/

/-- The PA that a lease recorded for a VA. -/
def Lease.paOf (l : Lease) (va : Nat) : Option Nat :=
  (l.ranges.find? (fun r => decide (r.1 ≤ va / 4096) && decide (va / 4096 < r.1 + r.2.1))).map (fun r => (r.2.2 + (va / 4096 - r.1)) * 4096 + va % 4096)

def Lease.spans (l : Lease) (va n : Nat) : Bool := decide (l.va ≤ va) && decide (va + n ≤ l.va + l.len)

/-- The PAs of n bytes under the leases of a grid: LEASE_REVOKED where only a revoked lease holds them, LEASE_VIOLATION outside every lease, for a write outside an `rw` one, and for another module's memory. -/
def leasePas (s : State) (grid va n : Nat) (write : Bool) : Except Nat (List Nat) :=
  let ls := (getGrid s grid).leases.filter (fun l => l.spans va n && (!write || l.rw))
  match ls.find? (fun l => !l.revoked) with
  | none => if ls.isEmpty then .error 0x0A else .error 0x0B
  | some l =>
    match (List.range n).mapM (fun i => l.paOf (va + i)) with
    | none => .error 0x0A
    | some pas => if pas.all (isLocal s) then .ok pas else .error 0x0A

/-- The PA of a beat. -/
def beatPa (s : State) (grid va : Nat) (write : Bool) : Except Nat Nat :=
  if va % 64 ≠ 0 then .error 0x05
  else match leasePas s grid va 64 write with
    | .ok pas => .ok (pas.headD 0)
    | .error c => .error c

/-- What an access meets before it performs: a claim by other work, an error of its home, or nothing. -/
inductive Obstacle where
  | clear
  | busy
  | bad (cls : Nat)
  deriving DecidableEq, Repr

def meets (s : State) (work pa : Nat) : Obstacle :=
  match badClass s pa with
  | some c => .bad c
  | none => if claimedByOther s (some work) (lineOf pa) then .busy else .clear

/-- Reads single bytes as one access: strong at their homes, or weak. -/
def readPas (s : State) (pas : List Nat) (strong : Bool) : List Byte × State :=
  let r := pas.foldl (fun (p : List Byte × State) pa =>
    let r := if strong then strongRead p.2 pa 1 else weakRead p.2 pa 1
    (r.1.headD 0 :: p.1, r.2)) ([], s)
  (r.1.reverse, r.2)

/-! ## Tasks in rings (R373, R376) -/

/-- The package of a CHLAUNCH or COMPACT block. -/
def taskPkg (w : Work) : Nat := bits (w.word 4) 21 16

/-- A task takes its place in a ring, with the ring's next sequence number. -/
def addTask (s : State) (pkg vf : Nat) (t : ChTask) : State :=
  let r := getRing s pkg vf
  setRing s pkg vf { r with tasks := r.tasks ++ [{ t with seqNo := r.seqNo }], seqNo := (r.seqNo + 1) % 2 ^ 32 }

/-- The lowest bad word of a CHLAUNCH block (R386). -/
def taskBad (s : State) (w : Work) : Option Nat :=
  firstOf [(0, w.pair 0 % 64 ≠ 0), (2, w.pair 2 % 64 ≠ 0),
    (4, bits (w.word 4) 31 22 ≠ 0 ∨ Config.packages ≤ taskPkg w ∨ cheWeight s w.vf = 0), (6, w.pair 6 % 64 ≠ 0)]

/-- The ring at the head of whose task a work runs. -/
def taskOf (s : State) (pkg vf work : Nat) : Option ChTask :=
  match getTask s pkg vf with
  | some t => if t.work = work ∧ t.started then some t else none
  | none => none

/-- May a ring be served: it has a task, is not halted, and its weight is not 0? -/
def ringReady (s : State) (pkg vf : Nat) : Bool :=
  !(getRing s pkg vf).tasks.isEmpty && !(getRing s pkg vf).halted && decide (cheWeight s vf ≠ 0)

/-- Has the quantum of the ring that has the engine's turn run out? -/
def quantumOut (s : State) (pkg : Nat) : Bool :=
  decide (tabGet s.cheSince pkg 0 + cheQuant s (tabGet s.cheTurn pkg 0) ≤ s.time)

/-- The other rings that can be served, in the order of the round, which ascends by VF (log 79). -/
def otherRings (s : State) (pkg : Nat) : List Nat :=
  let vf := tabGet s.cheTurn pkg 0
  ((List.range Config.vfs).map (fun i => (vf + 1 + i) % Config.vfs)).filter (fun v => decide (v ≠ vf) && ringReady s pkg v)

/-- Has the ring that has the turn another quantum in this round? -/
def moreQuanta (s : State) (pkg : Nat) : Bool := decide (tabGet s.cheQuanta pkg 0 + 1 < cheWeight s (tabGet s.cheTurn pkg 0))

/-- A ring's next quantum of the round begins, or its first when the turn passes to it. -/
def beginQuantum (s : State) (pkg vf : Nat) : State :=
  { s with cheTurn := tabPut s.cheTurn pkg vf, cheSince := tabPut s.cheSince pkg s.time,
           cheQuanta := if tabGet s.cheTurn pkg 0 = vf ∧ moreQuanta s pkg then tabPut s.cheQuanta pkg (tabGet s.cheQuanta pkg 0 + 1) else tabErase s.cheQuanta pkg }

/-- The ring that an engine serves next when it runs no task (R376): the one that has the turn, while it has time in the round, else the next with a task. -/
def cheNext (s : State) (pkg : Nat) : Option Nat :=
  let vf := tabGet s.cheTurn pkg 0
  if ringReady s pkg vf ∧ (!quantumOut s pkg ∨ moreQuanta s pkg ∨ otherRings s pkg = []) then some vf else (otherRings s pkg).head?

/-- Does the engine run no task now? -/
def cheIdle (s : State) (pkg : Nat) : Bool :=
  match cheRing s pkg with
  | some _ => false
  | none => true

/-! ## Program words (R374, R378, R379) -/

/-- Is a program word legal in its thread? -/
def cheWordOk (x : Bool) (w : Word) : Bool :=
  let op := wordOp w
  let d := wordD w
  let a := wordA w
  let b := wordB w
  w.getLsbD 0 && ctxAllows (if x then .cheX else .cheA) op &&
  (if op = 0x2D8 then decide (d = 0) && decide (a = 0) && decide (b = 0)
   else if op = 0x2D0 then isA d && decide (a = 0) && decide (b = 0)
   else if op = 0x2D1 then isA d && isA a && decide ((b.extractLsb' 0 3).toNat ≤ 5) && decide (b.extractLsb' 3 2 ≠ 3) && decide (b.extractLsb' 5 2 = 0)
   else if op = 0x2D2 then isA a && decide (d = 0) && decide (b = 0)
   else if op = 0x2C8 then isA d && isA a && !b.getLsbD 6
   else if op = 0x2C9 then isA d && isA a && !b.getLsbD 6 && decide (b.extractLsb' 0 4 = 0)
   else if op = 0x2CA ∨ op = 0x2CB then isA a && decide (d = 0) && !b.getLsbD 6 && decide (b.extractLsb' 0 5 = 0)
   else if op = 0x28 ∨ op = 0x29 then isA d
   else if op = 0x1D then isA d && isA a && decide (b = 0)
   else if 0x24 ≤ op ∧ op ≤ 0x26 then isA d && isA a && decide (b.toNat ≤ 63)
   else if 0x20 ≤ op then isA d && isA a
   else isA d && isA a && isA b)

/-- The first illegal word of a program. -/
def firstIllegal (x : Bool) (ws : List Word) : Option Nat := ws.findIdx? (fun w => !cheWordOk x w)

/-! ## Task start (R374) -/

/-- What reading a task's code and parameters comes to. -/
inductive Loaded where
  | ok (bs : List Byte) (s : State)
  | failed (cause : Nat) (va pa cls : Nat)
  | busy
  deriving DecidableEq, Repr

/-- Strong reads of n bytes of a task. -/
def loadBytes (s : State) (t : ChTask) (va n : Nat) : Loaded :=
  match leasePas s t.grid va n false with
  | .error c => .failed c va 0 0
  | .ok pas =>
    match pas.find? (fun pa => (badClass s pa).isSome) with
    | some pa => .failed 0x0C va pa ((badClass s pa).getD 0)
    | none =>
      if pas.any (fun pa => claimedByOther s (some t.work) (lineOf pa)) then .busy
      else
        let r := readPas s pas true
        .ok r.1 r.2

def wordsOf (bs : List Byte) : List Word :=
  (List.range (bs.length / 4)).map (fun i => BitVec.ofNat 32 (leNat ((bs.drop (4 * i)).take 4)))

/-- Reads the programs and the parameter area, and starts the threads. -/
def startTask (s : State) (pkg vf : Nat) (t : ChTask) (w : Work) : State :=
  let alen := bits (w.word 4) 7 0 + 1
  let xlen := bits (w.word 4) 15 8 + 1
  match loadBytes s t (w.pair 0) (4 * alen) with
  | .busy => s
  | .failed c va pa k => failLoad s pkg vf c va pa k
  | .ok ab s1 =>
    match loadBytes s1 t (w.pair 2) (4 * xlen) with
    | .busy => s
    | .failed c va pa k => failLoad s1 pkg vf c va pa k
    | .ok xb s2 =>
      match loadBytes s2 t (w.pair 6) 192 with
      | .busy => s
      | .failed c va pa k => failLoad s2 pkg vf c va pa k
      | .ok pb s3 =>
        match firstIllegal false (wordsOf ab), firstIllegal true (wordsOf xb) with
        | some i, _ => faultTask s3 pkg vf 0x01 0 i 0
        | none, some i => faultTask s3 pkg vf 0x01 1 i 0
        | none, none => setTask s3 pkg vf { t with
            started := true, aprog := wordsOf ab, xprog := wordsOf xb, xDone := decide (w.word 5 = 0),
            a := (List.range 16).map (fun i => (i, BitVec.ofNat 64 (leNat ((pb.drop (8 * i)).take 8)))),
            x := [(15, pb.drop 128)] }

/-! ## Registers of the arithmetic thread (R378) -/

def ChTask.xReg (t : ChTask) (n : Nat) : List Byte := tabGet t.x n (List.replicate 64 0)
def ChTask.xLane (t : ChTask) (n l : Nat) : Word := BitVec.ofNat 32 (leNat ((t.xReg n).drop (4 * l) |>.take 4))

/-- The head task of the executing thread's ring. -/
def curTask (s : State) : Option (Nat × Nat × ChTask) :=
  match s.cur with
  | .cheA p v => (getTask s p v).map (fun t => (p, v, t))
  | .cheX p v => (getTask s p v).map (fun t => (p, v, t))
  | _ => none

/-- One lane of XOP (R384). -/
def xopLane (o y : Nat) (d a x15 : Word) : Word :=
  let f (r : Nat × Flags) : Word := BitVec.ofNat 32 r.1
  let c := FpCtl.plain
  match o with
  | 0 => if y = 0 then f (fpAdd fp32 c d.toNat a.toNat) else d + a
  | 1 => if y = 0 then f (fpMul fp32 c d.toNat a.toNat) else d * a
  | 2 => if y = 0 then f (fpFma fp32 c a.toNat x15.toNat d.toNat) else d + a * x15
  | 3 => if y = 0 then f (fpMinMax fp32 c false d.toNat a.toNat) else if y = 1 then minS d a else minU d a
  | 4 => if y = 0 then f (fpMinMax fp32 c true d.toNat a.toNat) else if y = 1 then maxS d a else maxU d a
  | _ =>
    if y = 0 then BitVec.ofNat 32 (roundF32 (XR.ofInt a.toInt 1 false))
    else if y = 1 then BitVec.ofInt 32 (toIntSat (fp32.decode a.toNat) (-(2 ^ 31)) (2 ^ 31 - 1) .rne).1
    else BitVec.ofInt 32 (toIntSat (fp32.decode a.toNat) 0 (2 ^ 32 - 1) .rne).1

/-! ## Streams and queues (R380-R382) -/

/-- Pushes one beat's address into the fetch queue. -/
def pushFetch (s : State) (pkg vf : Nat) (t : ChTask) (strong : Bool) (idx va : Nat) : State :=
  match beatPa s t.grid va false with
  | .error c => faultTask s pkg vf c 0 idx va
  | .ok pa => setTask s pkg vf { t with fetch := t.fetch ++ [{ va := va, pa := pa, strong := strong, idx := idx }], stalled := 0 }

/-- Takes the oldest result and starts its store. -/
def popStore (s : State) (pkg vf : Nat) (t : ChTask) (strong : Bool) (idx va : Nat) : State :=
  match t.result with
  | [] => s
  | r :: rest =>
    match beatPa s t.grid va true with
    | .error c => faultTask s pkg vf c 0 idx va
    | .ok pa => setTask s pkg vf { t with result := rest, stores := t.stores ++ [{ va := va, pa := pa, strong := strong, idx := idx, bytes := r }], stalled := 0 }

/-- What remains of a stream after one beat. -/
def ChStream.rest (st : ChStream) : Option ChStream :=
  if st.left ≤ 1 then none else some { st with left := st.left - 1, base := st.base + (if st.gather then 8 else st.stride) }

/-- Has the port an earlier access to one of these beats that has not performed (R382)? -/
def portBusy (t : ChTask) (store : Bool) (pas : List Nat) : Bool :=
  let same (pa : Nat) : Bool := pas.any (fun q => decide (q / 64 = pa / 64))
  if store then t.stores.any (fun x => same x.pa) else t.fetch.any (fun f => f.data.isNone && same f.pa)

/-- The next address of a stream: computed, or read from the list as an access of the stream's own kind (R381), in its port's order (R382). -/
def streamVa (s : State) (t : ChTask) (store : Bool) (st : ChStream) : Loaded :=
  if !st.gather then .ok (leBytes 8 st.base.toNat) s
  else match leasePas s t.grid st.base.toNat 8 false with
    | .error c => .failed c st.base.toNat 0 0
    | .ok pas =>
      match pas.find? (fun pa => (badClass s pa).isSome) with
      | some pa => .failed 0x0C st.base.toNat pa ((badClass s pa).getD 0)
      | none =>
        if portBusy t store pas || (st.strong && pas.any (fun pa => claimedByOther s (some t.work) (lineOf pa))) then .busy
        else
          let r := readPas s pas st.strong
          .ok r.1 r.2

/-- One beat of a port's stream. -/
def streamBeat (s : State) (pkg vf : Nat) (t : ChTask) (store : Bool) : State :=
  match (if store then t.sport else t.fport) with
  | none => s
  | some st =>
    if (if store then t.result.isEmpty else decide (64 ≤ t.fetch.length)) then s
    else match streamVa s t store st with
      | .busy => s
      | .failed c va pa k => faultTask (if c = 0x0C then logError s k pa vf true else s) pkg vf c 0 st.idx va
      | .ok bs s =>
        if store then popStore s pkg vf { t with sport := st.rest } st.strong st.idx (leNat bs)
        else pushFetch s pkg vf { t with fport := st.rest } st.strong st.idx (leNat bs)

/-- Replaces entry k of a list. -/
def putAt {α : Type} (l : List α) (k : Nat) (x : α) : List α := l.take k ++ [x] ++ l.drop (k + 1)

/-- The beat of fetch k arrives, after the earlier fetches of the same beat (R382). -/
def landFetch (s : State) (pkg vf : Nat) (t : ChTask) (k : Nat) : State :=
  match t.fetch[k]? with
  | none => s
  | some f =>
    if f.data.isSome || (t.fetch.take k).any (fun g => decide (g.pa = f.pa) && g.data.isNone) then s
    else match meets s t.work f.pa with
      | .bad c => faultTask (logError s c f.pa vf true) pkg vf 0x0C 0 f.idx f.va
      | m =>
        if f.strong ∧ m = .busy then s
        else
          let r := if f.strong then strongRead s f.pa 64 else weakRead s f.pa 64
          setTask r.2 pkg vf { t with fetch := putAt t.fetch k { f with data := some r.1 }, stalled := 0 }

/-- Store k goes one stage on, after the earlier stores of the same beat (R382): weak ones to LPDDR-6 and then to the home, strong ones to the home. -/
def moveStore (s : State) (pkg vf : Nat) (t : ChTask) (k : Nat) : State :=
  match t.stores[k]? with
  | none => s
  | some x =>
    if (t.stores.take k).any (fun y => decide (y.pa = x.pa)) then s
    else match meets s t.work x.pa with
      | .bad c => faultTask (logError s c x.pa vf true) pkg vf 0x0C 0 x.idx x.va
      | m =>
        if !x.strong ∧ !x.landed then
          setTask (weakWrite s x.pa x.bytes) pkg vf { t with stores := putAt t.stores k { x with landed := true }, stalled := 0 }
        else if m = .busy then s
        else setTask (if x.strong then homeWrite s none x.pa x.bytes else weakLand s x.pa x.bytes) pkg vf { t with stores := t.stores.eraseIdx k, stalled := 0 }

/-- Piece k of a CHLAUNCH: 0 and 1 are the streams of the fetch and the store port, which run while the engine serves the ring; 2 + 2j is fetch j, 3 + 2j is store j. -/
def chePiece (s : State) (w : Work) (k : Nat) : State :=
  let pkg := taskPkg w
  match taskOf s pkg w.vf w.id with
  | none => s
  | some t =>
    if k ≤ 1 then (if (cheRing s pkg).any (fun r => decide (r.1 = w.vf)) then streamBeat s pkg w.vf t (k = 1) else s)
    else if k % 2 = 0 then landFetch s pkg w.vf t ((k - 2) / 2)
    else moveStore s pkg w.vf t ((k - 3) / 2)

/-- The instruction reads registers of its thread without a parity error, by the numbers of `ChTask.bad` (15_platform R465). -/
def cheParity (s : State) (ns : List Nat) : Except Stop Unit :=
  if (curTask s).any (fun c => ns.any c.2.2.bad.contains) then .error (trapOf 0x0C 0x01) else .ok ()

/-- Writes an X register. -/
def ChTask.putX (t : ChTask) (n : Nat) (bs : List Byte) : ChTask := { t with x := tabPut t.x n bs, bad := t.bad.filter (· ≠ 16 + n) }

/-- Starts a stream on a port (R381): a busy port makes the thread wait, and a count of 0 does nothing. -/
def startStream (s : State) (store : Bool) (count : Nat) (mk : ChTask → ChStream) : Except Stop State :=
  match curTask s with
  | none => .error illegal
  | some (p, v, t) =>
    if (if store then t.sport else t.fport).isSome then .error (.wait .queueFull)
    else if count % 2 ^ 32 = 0 then .ok (advance 4 s)
    else
      let st := some (mk t)
      .ok (advance 4 (setTask s p v (if store then { t with sport := st } else { t with fport := st })))

/-- A CHLAUNCH with a bad block: a task that ends with 0x01 (R386). Where its package exists it takes a sequence number of the ring, halts it and has its record (R377; log 80). -/
def badTask (s : State) (w : Work) (i : Nat) : State :=
  if Config.packages ≤ taskPkg w then issueWork s (w.failed 0x01 i)
  else
    let r := getRing s (taskPkg w) w.vf
    let t := setRing (issueWork s w) (taskPkg w) w.vf { r with seqNo := (r.seqNo + 1) % 2 ^ 32 }
    writeRingRecord (haltRing t (taskPkg w) w.vf) (taskPkg w) w.vf 0x01 0 0 r.seqNo 0 w.id i []

/-- R373 CHLAUNCH: Place a task in the VF's ring of a channel engine. -/
def execChlaunch (d : BitVec 7) (a : BitVec 7) (s : State) : Host.Outcome State Fault Refusal :=
  run s 0x2C0 0 (Uses.cpy d a) (do
    engineGate s
    let w := newWork s .chlaunch d 0 (readBlock s a 8)
    match taskBad s w with
    | some i => return finish (Uses.cpy d a) 4 (badTask s w i)
    | none =>
      if 64 ≤ (getRing s (taskPkg w) w.vf).tasks.length then throw (.wait .queueFull)
      return finish (Uses.cpy d a) 4 (addTask (issueWork s w) (taskPkg w) w.vf { work := w.id, seqNo := 0, grid := w.grid }))

/-- R381 ASTM: Strided address stream on the fetch or store port. -/
def execAstm (b : BitVec 7) (a : BitVec 7) (c : BitVec 4) (k : BitVec 1) (t : BitVec 1) (s : State) : Host.Outcome State Fault Refusal :=
  run s 0x2C8 0 (Uses.astm b a) (do
    cheParity s [b.toNat, a.toNat, c.toNat]
    startStream s (k = 1) (readA s (c.setWidth 7)).toNat
      (fun task => { strong := decide (t = 1), gather := false, base := readA s b, stride := readA s a, left := (readA s (c.setWidth 7)).toNat % 2 ^ 32, idx := task.apc }))

/-- R381 AGAT: Address-list stream on the fetch or store port. -/
def execAgat (l : BitVec 7) (a : BitVec 7) (k : BitVec 1) (t : BitVec 1) (s : State) : Host.Outcome State Fault Refusal :=
  run s 0x2C9 0 (Uses.agat l a) (do
    cheParity s [l.toNat, a.toNat]
    startStream s (k = 1) (readA s a).toNat
      (fun task => { strong := decide (t = 1), gather := true, base := readA s l, stride := 8, left := (readA s a).toNat % 2 ^ 32, idx := task.apc }))

/-- R381 AQP: Push one fetch address. -/
def execAqp (a : BitVec 7) (t : BitVec 1) (s : State) : Host.Outcome State Fault Refusal :=
  run s 0x2CA 0 (Uses.aqp a) (do cheParity s [a.toNat]; match curTask s with
    | none => .error illegal
    | some (p, v, task) =>
      if task.fport.isSome ∨ 64 ≤ task.fetch.length then .error (.wait .queueFull)
      else
        let va := (readA s a).toNat
        match beatPa s task.grid va false with
        | .error c => .error (.trap { cause := c, va := BitVec.ofNat 64 va })
        | .ok _ => .ok (advance 4 (pushFetch s p v task (t = 1) task.apc va)))

/-- R381 ASTQ: Pop and store one result beat. -/
def execAstq (a : BitVec 7) (t : BitVec 1) (s : State) : Host.Outcome State Fault Refusal :=
  run s 0x2CB 0 (Uses.aqp a) (do cheParity s [a.toNat]; match curTask s with
    | none => .error illegal
    | some (p, v, task) =>
      if task.sport.isSome ∨ task.result.isEmpty then .error (.wait .queueFull)
      else
        let va := (readA s a).toNat
        match beatPa s task.grid va true with
        | .error c => .error (.trap { cause := c, va := BitVec.ofNat 64 va })
        | .ok _ => .ok (advance 4 (popStore s p v task (t = 1) task.apc va)))

/-- R383 XPOP: Pop the oldest fetch beat into an X register. -/
def execXpop (d : BitVec 7) (s : State) : Host.Outcome State Fault Refusal :=
  run s 0x2D0 0 (Uses.xpop d) (match curTask s with
    | none => .error illegal
    | some (p, v, t) =>
      match t.fetch with
      | f :: rest =>
        match f.data with
        | some bs => .ok (advance 4 (setTask s p v ({ t with fetch := rest }.putX d.toNat bs)))
        | none => .error (.wait .accesses)
      | [] => .error (.wait .accesses))

/-- R384 XOP: Lane-wise arithmetic on X registers. -/
def execXop (d : BitVec 7) (a : BitVec 7) (o : BitVec 3) (y : BitVec 2) (s : State) : Host.Outcome State Fault Refusal :=
  run s 0x2D1 0 (Uses.xop d a o y) (do cheParity s ((if o = 5 then [] else [16 + d.toNat]) ++ [16 + a.toNat] ++ (if o = 2 then [31] else [])); match curTask s with
    | none => .error illegal
    | some (p, v, t) =>
      let lane (l : Nat) : Word := xopLane o.toNat y.toNat (t.xLane d.toNat l) (t.xLane a.toNat l) (t.xLane 15 l)
      .ok (advance 4 (setTask s p v (t.putX d.toNat ((List.range 16).flatMap (fun l => leBytes 4 (lane l).toNat))))))

/-- R383 XPUSH: Push an X register to the result queue. -/
def execXpush (a : BitVec 7) (s : State) : Host.Outcome State Fault Refusal :=
  run s 0x2D2 0 (Uses.aqp a) (do cheParity s [16 + a.toNat]; match curTask s with
    | none => .error illegal
    | some (p, v, t) =>
      if 32 ≤ t.result.length then .error (.wait .queueFull)
      else .ok (advance 4 (setTask s p v { t with result := t.result ++ [t.xReg a.toNat] })))

/-- R385 CHEND: End a program pass or end the address thread. -/
def execChend (s : State) : Host.Outcome State Fault Refusal :=
  run s 0x2D8 0 [] (match s.cur, curTask s with
    | .cheA p v, some (_, _, t) =>
      if t.fport.isSome ∨ t.sport.isSome then .error (.wait .accesses)
      else .ok (setTask s p v { t with aDone := true, stalled := 0 })
    | .cheX p v, some (_, _, t) =>
      let iters := ((getWork s t.work).map (fun w => w.word 5)).getD 0
      .ok (setTask s p v { t with iter := t.iter + 1, xpc := 0, xDone := decide (iters ≤ t.iter + 1), stalled := 0 })
    | _, _ => .error illegal)

/-- R376, R374 CHE_TASK_START: an engine that runs no task starts the first task of the ring that is next in weighted round robin, or resumes a parked one, if the ring is not halted and its weight is not 0. -/
def execCheTaskStart (pkg : Nat) (vf : Nat) (s : State) : Host.Outcome State Fault Refusal :=
  match getTask s pkg vf with
  | none => .next s
  | some t =>
    if cheNext s pkg ≠ some vf ∨ !(cheIdle s pkg) then .next s
    else
      let u := if tabGet s.cheTurn pkg 0 = vf ∧ !quantumOut s pkg then s else beginQuantum s pkg vf
      if t.started then .next u
      else if t.doomed then .next (revokeTask u pkg vf t)
      else if t.compact then .next (setTask u pkg vf { t with started := true })
      else match getWork u t.work with
        | some w => .next (startTask u pkg vf t w)
        | none => .next s

/-- R385 CHE_TASK_END: both threads have ended and every store has reached its home; the beats in the queues are discarded and the status is OK. -/
def execCheTaskEnd (pkg : Nat) (vf : Nat) (s : State) : Host.Outcome State Fault Refusal :=
  match getTask s pkg vf with
  | none => .next s
  | some t =>
    if t.started ∧ t.aDone ∧ t.xDone ∧ t.stores.isEmpty then
      let r := getRing s pkg vf
      .next (endWork (setRing s pkg vf { r with tasks := r.tasks.tail }) t.work 0 0)
    else .next s

/-- R376 CHE_QUANTUM_EXPIRY: once QUANT µs of its quantum have passed and its issued fetches have landed, a running task goes on in the ring's next quantum of the round, or is parked and the next ring with a task is served. -/
def execCheQuantumExpiry (pkg : Nat) (s : State) : Host.Outcome State Fault Refusal :=
  let vf := tabGet s.cheTurn pkg 0
  match getTask s pkg vf with
  | none => .next s
  | some t =>
    if !t.started ∨ !quantumOut s pkg ∨ t.fetch.any (fun f => f.data.isNone) then .next s
    else match otherRings s pkg with
      | [] => .next s
      | v :: _ => .next (beginQuantum s pkg (if moreQuanta s pkg then vf else v))

/-- R385 CHE_TASK_WATCHDOG: no thread has issued and no stream has moved for 1 ms of the task's own quanta; where both threads still run, or both have ended and a store waits, which one the record names is free. -/
def execCheTaskWatchdog (pkg : Nat) (vf : Nat) (s : State) : Host.Outcome State Fault Refusal :=
  match getTask s pkg vf with
  | none => .next s
  | some t =>
    if !t.started ∨ t.compact ∨ t.stalled < 2000000 then .next s
    else if t.aDone ∧ !t.xDone then .next (faultTask s pkg vf 0x14 1 t.xpc 0)
    else if t.xDone ∧ !t.aDone then .next (faultTask s pkg vf 0x14 0 t.apc 0)
    else
      let f := freeBool s
      .next (if f.1 then faultTask f.2 pkg vf 0x14 0 t.apc 0 else faultTask f.2 pkg vf 0x14 1 t.xpc 0)

end Sys2Proof.Machine
end

