-- ==== Sys2Proof/Machine/Sqe.lean ====
section
/-! DEFINITION. The cluster's sequence engine (08_cluster_sequence): its queue (R265), the score accumulator table (R268, R269), paged blocks and COMPACT (R271-R279), ranking (R281), the prefix index (R284-R287), sequence records (R288-R294) and the lane loads (R274, R275, R295). -/

namespace Sys2Proof.Machine

/-! ## How an operation ends -/

/-- Why an operation does not perform: not yet, not until a page has migrated (13_translation R416), or with a status (none: an INDEX that no rule states: the class of an INTEGRITY, R465, else free; log 49); `err` is the class and PA of an INTEGRITY. -/
inductive SqeEnd where
  | later
  | hold (x : Wait)
  | fail (cause : Nat) (index : Option Nat) (err : Nat × Nat)
  deriving DecidableEq, Repr

def bad (i : Nat) : SqeEnd := .fail 0x01 (some i) (0, 0)

/-- Is a line claimed by work that issued before w (R265, R313)? -/
def earlierClaim (s : State) (w key : Nat) : Bool := s.claims.any (fun c => decide (c.1 = key) && decide (c.2 < w))

/-- The places of n bytes for an operation; a fault carries `index`. -/
def sqeLocs (s : State) (w : Work) (ea n : Nat) (k : Acc) (index : Option Nat) : Except SqeEnd (List Loc × Work × State) :=
  match workLocs s w ea n k notPriv with
  | .ok (ls, w, s) =>
    (match (if k = .write then transferBad s [] ls else transferBad s ls []) with
     | some c => .error (.fail 0x0C index c)
     | none => .ok (ls, w, s))
  | .error (.trap t) => .error (.fail t.cause index (t.aux.toNat % 256, t.pa))
  | .error (.wait x) => .error (.hold x)

/-- The places of n bytes that an operation reads and then rewrites. -/
def sqeUpdate (s : State) (w : Work) (ea n : Nat) (index : Option Nat) : Except SqeEnd (List Loc × Work × State) := do
  let (_, w, s) ← sqeLocs s w ea n .read index
  sqeLocs s w ea n .write index

/-- Reads bytes at their points of coherence once no earlier claim holds them. -/
def sqeBytes (s : State) (w : Work) (ls : List Loc) : Except SqeEnd (List Byte × State) :=
  let keys := (ls.map Loc.key).eraseDups
  if keys.any (earlierClaim s w.id) then .error .later
  else
    let s := (keys.filter (fun k => decide (k < 2 ^ 60))).foldl (fun s k => serveLine (countReq s (k * lineSize)) k) s
    .ok (ls.map (locRead s), s)

def sqeRead (s : State) (w : Work) (ea n : Nat) (index : Option Nat) : Except SqeEnd (List Byte × Work × State) := do
  let (ls, w, s) ← sqeLocs s w ea n .read index
  let (bs, s) ← sqeBytes s w ls
  return (bs, w, s)

/-- All writes of an operation, and its end with status OK. -/
def sqeCommit (s : State) (w : Work) (ws : List (Loc × Byte)) : Except SqeEnd State :=
  if ((ws.map (fun x => x.1.key)).eraseDups).any (earlierClaim s w.id) then .error .later
  else .ok (setWork (dropClaims (engineWrites s w ws) w.id) { w with ended := true })

/-- An operation ends without effect and with a status. -/
def sqeFail (s : State) (w : Work) (cause : Nat) (index : Option Nat) (err : Nat × Nat) : State :=
  let f := freeNat s
  let s := if index.isNone then f.2 else s
  let s := if cause = 0x0C then logError s err.1 err.2 w.vf true else s
  setWork (dropClaims s w.id) (w.failed cause (index.getD (if cause = 0x0C then err.1 else f.1 % 2 ^ 24)))

def require (ok : Bool) (e : SqeEnd) : Except SqeEnd Unit := if ok then .ok () else .error e

def word32 (bs : List Byte) (i : Nat) : Nat := leNat ((bs.drop (4 * i)).take 4)
def word64 (bs : List Byte) (i : Nat) : Nat := leNat ((bs.drop (8 * i)).take 8)

/-! ## Lane operands -/

/-- Lane values latched at issue: operand o of lane l. -/
def Work.val (w : Work) (o l : Nat) : Word := tabGet w.vals (64 * o + l) 0

/-- Latches n consecutive V registers in the active lanes. -/
def latchLanes (s : State) (f n : Nat) : Tab Word :=
  (List.range n).flatMap (fun o => (laneList s).map (fun l => (64 * o + l, readField s (f + o) l)))

/-! ## The score accumulator table (R268-R270) -/

/-- RoundFA36 of the exact sum (R269). -/
def satAdd (x : BitVec 36) (f : Word) : BitVec 36 :=
  BitVec.ofNat 36 (roundFP (exactSum [fa36.decode x.toNat, fp32.decode f.toNat]).1 fa36 .rne false).1

/-- The extent of a work's grid in its cluster: base and length. -/
def satOf (s : State) (w : Work) : Nat × Nat :=
  let g := getGrid s w.grid
  match tabFind g.sat (clusterOfCore w.core) with
  | some b => (b, g.satlen)
  | none => (0, 0)

def satRead (s : State) (c i : Nat) : BitVec 36 := tabGet (getCluster s c).sat i 0
def satWrite (s : State) (c i : Nat) (v : BitVec 36) : State :=
  setCluster s c { getCluster s c with sat := tabSet (getCluster s c).sat i v 0 }

/-- Does entry i with value x rank above entry j with value y (R270)? -/
def ranksAbove (i : Nat) (x : XR) (j : Nat) (y : XR) : Bool :=
  if x.isNaN then y.isNaN && decide (i < j)
  else if y.isNaN then true
  else match x.cmp y with
    | some c => decide (0 < c) || (decide (c = 0) && decide (i < j))
    | none => false

def rankInsert (p : Nat × XR) : List (Nat × XR) → List (Nat × XR)
  | [] => [p]
  | q :: r => if ranksAbove p.1 p.2 q.1 q.2 then p :: q :: r else q :: rankInsert p r

/-- Indices, highest first. -/
def rankOrder (l : List (Nat × XR)) : List Nat := (l.foldl (fun acc p => rankInsert p acc) []).map (·.1)

/-- SCACC of mode 0 (R283): lanes in ascending order; those beyond the extent add nothing. -/
def scaccTable (s : State) (w : Work) : State :=
  let (b, n) := satOf s w
  let c := clusterOfCore w.core
  let lanes := lanesOf w.lanes
  let s := (lanes.filter (fun l => decide ((w.val 0 l).toNat < n))).foldl (fun s l =>
    satWrite s c (b + (w.val 0 l).toNat) (satAdd (satRead s c (b + (w.val 0 l).toNat)) (w.val 1 l))) s
  match lanes.find? (fun l => decide (n ≤ (w.val 0 l).toNat)) with
  | some l => setWork (dropClaims s w.id) (w.failed 0x01 l)
  | none => setWork (dropClaims s w.id) { w with ended := true }

/-- SCRD (R282, R283). -/
def scrdOp (s : State) (w : Work) : Except SqeEnd State := do
  let (b, n) := satOf s w
  let count := bits (w.word 1) 16 0
  require (decide (bits (w.word 1) 30 17 = 0) && decide (1 ≤ count) && decide (count ≤ 65536) && decide (w.word 0 + count ≤ n)) (bad 1)
  let c := clusterOfCore w.core
  let f32 := decide (bits (w.word 1) 31 31 = 1)
  let out (i : Nat) : List Byte :=
    let v := satRead s c (b + w.word 0 + i)
    if f32 then leBytes 4 (roundF32 (fa36.decode v.toNat)) else leBytes 8 v.toNat
  let bs := (List.range count).flatMap out
  let (ls, w, s) ← sqeLocs s w (w.pair 2) bs.length .write none
  sqeCommit s w (ls.zip bs)

/-- SCCLR (R282, R283). -/
def scclrOp (s : State) (w : Work) : Except SqeEnd State := do
  let (b, n) := satOf s w
  require (decide (1 ≤ w.word 1) && decide (w.word 1 ≤ 65536) && decide (w.word 0 + w.word 1 ≤ n)) (bad 1)
  require (decide (w.word 2 = 0)) (bad 2)
  require (decide (w.word 3 = 0)) (bad 3)
  let c := clusterOfCore w.core
  let k := getCluster s c
  let lo := b + w.word 0
  sqeCommit (setCluster s c { k with sat := k.sat.filter (fun e => decide (e.1 < lo) || decide (lo + w.word 1 ≤ e.1)) }) w []

/-- TOPK (R280, R281). -/
def topkOp (s : State) (w : Work) : Except SqeEnd State := do
  let (b, n) := satOf s w
  let first := w.word 4
  let count := w.word 5
  require (decide (w.pair 2 % 4 = 0)) (bad 2)
  require (decide (1 ≤ count) && decide (count ≤ 65536) && decide (first + count ≤ n)) (bad 5)
  require (decide (1 ≤ w.word 6) && decide (w.word 6 ≤ 65536)) (bad 6)
  require (decide (w.word 7 = 0)) (bad 7)
  let (mask, w, s) ← (if w.pair 0 = 0 then pure ([], w, s) else sqeRead s w (w.pair 0) (ceilDiv count 8) (some 0))
  let masked (j : Nat) : Bool := (mask.getD (j / 8) 0).getLsbD (j % 8)
  let es := ((List.range count).filter (fun j => !masked j)).map (fun j => (first + j, fa36.decode (satRead s (clusterOfCore w.core) (b + first + j)).toNat))
  let top := (rankOrder es).take (w.word 6)
  let bs := leBytes 4 top.length ++ top.flatMap (leBytes 4)
  let (ls, w, s) ← sqeLocs s w (w.pair 2) bs.length .write (some 0)
  sqeCommit s w (ls.zip bs)

/-! ## Paged blocks (R271-R277) -/

/-- The fields of a block-table entry. -/
structure BlockEnt where
  page : Nat
  map : BitVec 16
  base : Nat
  pend : BitVec 16
  p : Bool
  /-- bits [127:113] -/
  rsv : Nat
  deriving DecidableEq, Repr

def BlockEnt.ofBytes (bs : List Byte) : BlockEnt :=
  let v := leNat bs
  { page := bits v 63 0, map := BitVec.ofNat 16 (bits v 79 64), base := bits v 95 80, pend := BitVec.ofNat 16 (bits v 111 96), p := bits v 112 112 = 1, rsv := bits v 127 113 }

def BlockEnt.bytes (e : BlockEnt) : List Byte :=
  leBytes 16 (e.page + e.map.toNat * 2 ^ 64 + e.base * 2 ^ 80 + e.pend.toNat * 2 ^ 96 + (if e.p then 2 ^ 112 else 0) + e.rsv * 2 ^ 113)

def popcount (m : BitVec 16) (below : Nat) : Nat := (List.range below).countP (fun j => m.getLsbD j)

/-- SURV (R276, R277): PEND and P of blocks F to F + C - 1. -/
def survOp (s : State) (w : Work) : Except SqeEnd State := do
  let t := w.pair 0
  let f := w.word 2
  let c := w.word 3
  require (decide (t % 16 = 0)) (bad 0)
  require (decide (1 ≤ c) && decide (c ≤ 4096) && decide (f + c ≤ 4096)) (bad 3)
  require (decide (w.word 6 ≤ 65536)) (bad 6)
  require (decide (w.word 7 = 0)) (bad 7)
  let (kb, w, s) ← sqeRead s w (w.pair 4) (4 * w.word 6) none
  let keep := (List.range (w.word 6)).map (word32 kb)
  match keep.findIdx? (fun p => decide (p < 16 * f) || decide (16 * (f + c) ≤ p)) with
  | some i => throw (bad i)
  | none =>
    let (ls, w, s) ← sqeUpdate s w (t + 16 * f) (16 * c) none
    let (bs, s) ← sqeBytes s w ls
    let entry (i : Nat) : BlockEnt :=
      let e := BlockEnt.ofBytes ((bs.drop (16 * i)).take 16)
      let m : BitVec 16 := (keep.filter (fun p => decide (p / 16 = f + i))).foldl (fun (m : BitVec 16) (p : Nat) => m ||| BitVec.ofNat 16 (2 ^ (p % 16))) 0
      { e with pend := e.map &&& m, p := true }
    sqeCommit s w (ls.zip ((List.range c).flatMap (fun i => (entry i).bytes)))

/-! ## Sequence records (R288-R290) -/

/-- A record's header. -/
structure Rec where
  off : Nat
  n : Nat
  round : Nat
  rule : Nat
  knum : Nat
  thr : Nat
  tau : Nat
  maxage : Nat
  lg : Nat
  maskAt : Nat
  chgAt : Nat
  tokAt : Nat
  confAt : Nat
  candAt : Nat
  ageAt : Nat
  dmapAt : Nat
  mom : Nat
  masked : Nat
  deriving DecidableEq, Repr

/-- The offset of a record's header, or why its address is rejected (R288). -/
def recAt (s : State) (w : Work) (ea : Nat) : Except SqeEnd Nat :=
  let c := clusterOfCore w.core
  let off := bits ea 21 0
  if winOf ea ≠ .clu ∨ !layoutOk .clu ea then .error (.fail 0x06 (some 0) (0, 0))
  else if bits ea 43 40 ≠ c then .error (.fail 0x07 (some 0) (0, 0))
  else if off % 128 ≠ 0 then .error (bad 0)
  else if !granuleOk s w.space.vf w.space.pl c off then .error (.fail 0x09 (some 0) (0, 0))
  else .ok off

def cluLocs (w : Work) (off n : Nat) : List Loc := (List.range n).map (fun i => .clu (clusterOfCore w.core) (off + i))

/-- Bytes of the work's cluster memory; a granule of another VF is PERMISSION (R262), with INDEX 0 (log 93). -/
def cluGranules (s : State) (w : Work) (off n : Nat) : Except SqeEnd Unit :=
  require ((List.range (n / 65536 + 2)).all (fun i =>
    decide (off + n ≤ off / 65536 * 65536 + 65536 * i) || granuleOk s w.space.vf w.space.pl (clusterOfCore w.core) (off / 65536 * 65536 + 65536 * i)))
    (.fail 0x09 (some 0) (0, 0))

def cluBytes (s : State) (w : Work) (off n : Nat) : Except SqeEnd (List Byte) := do
  cluGranules s w off n
  let (bs, _) ← sqeBytes s w (cluLocs w off n)
  return bs

/-- Granules of the 4-byte elements p of an array (R262, R288). A PERMISSION there has INDEX 0, as one at the record's address does: no rule states it (R290-R294; log 93). -/
def cluElems (s : State) (w : Work) (base : Nat) (ps : List Nat) : Except SqeEnd Unit :=
  require (ps.all (fun p => granuleOk s w.space.vf w.space.pl (clusterOfCore w.core) (base + 4 * p))) (.fail 0x09 (some 0) (0, 0))

/-- The words p of an array, by p: those elements alone are accessed. -/
def cluWords (s : State) (w : Work) (base : Nat) (ps : List Nat) : Except SqeEnd (Nat → Nat) := do
  cluElems s w base ps
  let (bs, _) ← sqeBytes s w (ps.flatMap (fun p => cluLocs w (base + 4 * p) 4))
  return fun p => word32 bs (ps.idxOf p)

def bitmapBytes (n : Nat) : Nat := 4 * ceilDiv n 32

def recOf (off : Nat) (h : List Byte) : Rec :=
  { off := off, n := word32 h 0, round := word32 h 1, rule := word32 h 2, knum := word32 h 3, thr := word32 h 4, tau := word32 h 5, maxage := word32 h 6,
    lg := word32 h 7, maskAt := word32 h 8, chgAt := word32 h 9, tokAt := word32 h 10, confAt := word32 h 11, candAt := word32 h 12, ageAt := word32 h 13,
    dmapAt := word32 h 14, mom := word64 h 8, masked := word32 h 18 }

/-- The first field of a header that R289 and R290 reject, as its offset / 4; MASKED and the reserved words are judged apart. -/
def recBad (r : Rec) : Option Nat :=
  let at' (off len align : Nat) : Bool := decide (off % align ≠ 0) || decide (2 ^ 22 < off + len)
  firstOf [(0, r.n = 0 ∨ 16384 < r.n), (2, bits r.rule 30 1 ≠ 0),
    (3, if r.rule % 2 = 0 then r.knum = 0 ∨ 16384 < r.knum else bits r.knum 31 16 = 0 ∨ bits r.knum 15 0 < bits r.knum 31 16),
    (5, fp32.isNaN r.tau), (6, 65535 < r.maxage), (7, r.lg = 0 ∨ 64 < r.lg),
    (8, at' r.maskAt (bitmapBytes r.n) 4), (9, at' r.chgAt (bitmapBytes r.n) 4), (10, at' r.tokAt (4 * r.n) 4), (11, at' r.confAt (4 * r.n) 4),
    (12, at' r.candAt (4 * r.n) 4), (13, at' r.ageAt (2 * r.n) 2), (14, at' r.dmapAt (r.lg * bitmapBytes r.n) 4),
    (16, r.mom % 128 ≠ 0 ∨ 2 ^ 57 ≤ r.mom)]

/-- The bits of a bitmap below n. -/
def bitsOf (bs : List Byte) (n : Nat) : List Bool := (List.range n).map (fun p => (bs.getD (p / 8) 0).getLsbD (p % 8))

def bitmapOf (n : Nat) (f : Nat → Bool) : List Byte :=
  (List.range (bitmapBytes n)).map (fun i => BitVec.ofNat 8 ((List.range 8).foldl (fun a j => if decide (8 * i + j < n) && f (8 * i + j) then a + 2 ^ j else a) 0))

/-- Reads and checks a header: the record and its mask bits. -/
def readRec (s : State) (w : Work) (ea : Nat) : Except SqeEnd (Rec × List Bool) := do
  let off ← recAt s w ea
  let h ← cluBytes s w off 128
  let r := recOf off h
  match recBad r with
  | some i => throw (bad i)
  | none => pure ()
  let mb ← cluBytes s w r.maskAt (bitmapBytes r.n)
  let mask := bitsOf mb r.n
  require (decide (r.masked = mask.countP id)) (bad 18)
  match (List.range 13).find? (fun i => word32 h (19 + i) ≠ 0) with
  | some i => throw (bad (19 + i))
  | none => return (r, mask)

/-- Words a+2 and a+3 that must be 0. -/
def zeroWords (w : Work) : Except SqeEnd Unit := do
  require (decide (w.word 2 = 0)) (bad 2)
  require (decide (w.word 3 = 0)) (bad 3)

def cluWrite (w : Work) (off : Nat) (bs : List Byte) : List (Loc × Byte) := (cluLocs w off bs.length).zip bs

/-- CONFW (R291). -/
def confwOp (s : State) (w : Work) : Except SqeEnd State := do
  let _ ← recAt s w (w.pair 0)
  zeroWords w
  let (r, mask) ← readRec s w (w.pair 0)
  let lanes := lanesOf w.lanes
  match lanes.find? (fun l => decide (r.n ≤ (w.val 0 l).toNat)) with
  | some l => throw (bad l)
  | none => pure ()
  let open' := lanes.filter (fun l => mask.getD (w.val 0 l).toNat false)
  cluElems s w r.confAt (open'.map (fun l => (w.val 0 l).toNat))
  cluElems s w r.candAt (open'.map (fun l => (w.val 0 l).toNat))
  sqeCommit s w (open'.flatMap (fun l =>
    cluWrite w (r.confAt + 4 * (w.val 0 l).toNat) (leBytes 4 (w.val 1 l).toNat) ++ cluWrite w (r.candAt + 4 * (w.val 0 l).toNat) (leBytes 4 (w.val 2 l).toNat)))

/-- Entry (b, l, p) of the mass-on-masked area (R293). -/
def momAt (r : Rec) (b l p : Nat) : Nat := r.mom + 8 * ((b * r.lg + l) * r.n + p)

/-- SCACC of mode 1 (R293). -/
def scaccMass (s : State) (w : Work) : Except SqeEnd State := do
  let (r, _) ← readRec s w (w.pair 2)
  require (decide (w.word 1 < r.lg)) (bad 1)
  let lanes := lanesOf w.lanes
  match lanes.find? (fun l => decide (r.n ≤ (w.val 0 l).toNat)) with
  | some l => throw (bad l)
  | none => pure ()
  let (ls, w, s) ← lanes.foldlM (fun (acc : List (Nat × List Loc) × Work × State) l => do
    let (x, w, s) ← sqeUpdate acc.2.2 acc.2.1 (momAt r (r.round % 2) (w.word 1) (w.val 0 l).toNat) 8 none
    return (acc.1 ++ [(l, x)], w, s)) ([], w, s)
  let (_, s) ← sqeBytes s w (ls.flatMap (·.2))
  -- each lane adds to what the lanes below it left
  let ws := ls.foldl (fun (ws : List (Loc × Byte)) (p : Nat × List Loc) =>
    let old := p.2.map (fun x => match ws.reverse.find? (fun y => decide (y.1 = x)) with | some y => y.2 | none => locRead s x)
    ws ++ p.2.zip (leBytes 8 (satAdd (BitVec.ofNat 36 (leNat old)) (w.val 1 p.1)).toNat)) []
  sqeCommit s w ws

def scaccOp (s : State) (w : Work) : Except SqeEnd State :=
  if w.word 0 = 0 then (do
    zeroWords w
    return scaccTable s w)
  else if w.word 0 = 1 then scaccMass s w
  else .error (bad 0)

/-- UNMASK (R292). -/
def unmaskOp (s : State) (w : Work) : Except SqeEnd State := do
  let (r, mask) ← readRec s w (w.pair 0)
  let open' := (List.range r.n).filter (fun p => mask.getD p false)
  let conf' ← cluWords s w r.confAt open'
  cluGranules s w r.chgAt (bitmapBytes r.n)
  let m := r.masked
  let c := if m = 0 then 0 else if r.rule % 2 = 0 then min r.knum m else min m (max 1 (m * bits r.knum 31 16 / bits r.knum 15 0))
  let conf (p : Nat) : XR := fp32.decode (conf' p)
  let order := rankOrder (open'.map (fun p => (p, conf p)))
  let above (p : Nat) : Bool := decide (bits r.rule 31 31 = 1) && (match (conf p).cmp (fp32.decode r.thr) with | some x => decide (0 ≤ x) | none => false)
  let chosen := (order.zipIdx.filter (fun x => decide (x.2 < c) || above x.1)).map (·.1)
  let cand ← cluWords s w r.candAt chosen
  cluElems s w r.tokAt chosen
  let k := chosen.length
  let ws := cluWrite w r.chgAt (bitmapOf r.n chosen.contains)
    ++ cluWrite w r.maskAt (bitmapOf r.n (fun p => mask.getD p false && !chosen.contains p))
    ++ chosen.flatMap (fun p => cluWrite w (r.tokAt + 4 * p) (leBytes 4 (cand p)))
    ++ cluWrite w (r.off + 0x3C) (leBytes 4 k) ++ cluWrite w (r.off + 0x48) (leBytes 4 (m - k)) ++ cluWrite w (r.off + 4) (leBytes 4 (r.round + 1))
  if w.pair 2 = 0 then sqeCommit s w ws
  else
    let bs := leBytes 4 k ++ chosen.flatMap (leBytes 4)
    let (ls, w, s) ← sqeLocs s w (w.pair 2) bs.length .write none
    sqeCommit s w (ws ++ ls.zip bs)

/-- DIRTY (R294). -/
def dirtyOp (s : State) (w : Work) : Except SqeEnd State := do
  let _ ← recAt s w (w.pair 0)
  zeroWords w
  let (r, _) ← readRec s w (w.pair 0)
  let nb := bitmapBytes r.n
  let chg ← cluBytes s w r.chgAt nb
  let ages ← cluBytes s w r.ageAt (2 * r.n)
  cluGranules s w r.dmapAt (r.lg * nb)
  let prev := (r.round + 1) % 2
  let cur := r.round % 2
  let (mass, w, s) ← (if r.lg ≤ 1 then pure ([], w, s) else sqeRead s w (momAt r prev 0 0) (8 * (r.lg - 1) * r.n) none)
  let changed := bitsOf chg r.n
  let age (p : Nat) : Nat := leNat ((ages.drop (2 * p)).take 2)
  let heavy (l p : Nat) : Bool :=
    let v := fa36.decode (word64 mass ((l - 1) * r.n + p) % 2 ^ 36)
    v.isNaN || (match v.cmp (fp32.decode r.tau) with | some x => decide (0 < x) | none => false)
  let old (p : Nat) : Bool := decide (r.maxage ≠ 65535) && decide (r.maxage < age p)
  let dirty (l p : Nat) : Bool := changed.getD p false || old p || (decide (0 < l) && heavy l p)
  let (zs, w, s) ← sqeLocs s w (momAt r cur 0 0) (8 * r.lg * r.n) .write none
  sqeCommit s w ((List.range r.lg).flatMap (fun l => cluWrite w (r.dmapAt + l * nb) (bitmapOf r.n (dirty l)))
    ++ cluWrite w r.ageAt ((List.range r.n).flatMap (fun p => leBytes 2 (if dirty 0 p then 0 else min (age p + 1) 65535)))
    ++ zs.map (fun z => (z, 0)))

/-! ## The prefix index (R284-R287) -/

def isPx (k : WorkKind) : Bool := match k with | .pxfind => true | .pxins => true | .pxrel => true | _ => false

/-- The block checks of a PX operation (R285, R286). -/
def pxBad (w : Work) : Option (Nat × Nat) :=
  if 2 ^ 57 ≤ w.pair 0 then some (0x06, 0)
  else if w.pair 0 % 128 ≠ 0 then some (0x01, 0)
  else if w.pair 2 = 0 then some (0x01, 2)
  else if w.kind ≠ .pxins ∧ w.word 4 ≠ 0 then some (0x01, 4)
  else if w.kind ≠ .pxins ∧ w.word 5 ≠ 0 then some (0x01, 5)
  else if w.pair 6 % 16 ≠ 0 then some (0x01, 6)
  else none

/-- The bucket of the key, by the table's header; a bad header is status 0x01 (R284, R286). -/
def pxBucket (s : State) (w : Work) : Except SqeEnd (Nat × Work × State) := do
  let (h, w, s) ← sqeRead s w (w.pair 0) 128 (some 0)
  let logb := word32 h 0 % 32
  require (decide (leNat h / 32 = 0) && decide (4 ≤ logb) && decide (logb ≤ 24)) (bad 0)
  return (w.pair 0 + 128 * (w.pair 2 % 2 ^ logb + 1), w, s)

/-- Entries of a bucket: key, page, count. -/
def pxEntry (bs : List Byte) (i : Nat) : Nat × Nat × Nat :=
  let v := leNat ((bs.drop (32 * i)).take 32)
  (bits v 63 0, bits v 127 64, bits v 159 128)

def pxEntryBytes (bs : List Byte) (i key page count : Nat) : List Byte :=
  patchBytes bs (32 * i) (leBytes 8 key ++ leBytes 8 page ++ leBytes 4 count ++ (bs.drop (32 * i + 20)).take 12)

/-- The operation on a bucket: its new bytes, OUT, PAGE, COUNT (R286). -/
def pxApply (kind : WorkKind) (key page : Nat) (bs : List Byte) : List Byte × Nat × Nat × Nat :=
  let found := (List.range 4).find? (fun i => decide ((pxEntry bs i).1 = key))
  match found with
  | some i =>
    let (_, p, c) := pxEntry bs i
    if kind = .pxins then
      (if c = 2 ^ 32 - 1 then (bs, 5, p, c) else (pxEntryBytes bs i key p (c + 1), 1, p, c + 1))
    else if kind = .pxrel then
      let c := (c + 2 ^ 32 - 1) % 2 ^ 32
      if c = 0 then (patchBytes bs (32 * i) (List.replicate 32 0), 4, p, 0) else (pxEntryBytes bs i key p c, 1, p, c)
    else (bs, 1, p, c)
  | none =>
    if kind = .pxins then
      (match (List.range 4).find? (fun i => decide ((pxEntry bs i).1 = 0)) with
       | some i => (pxEntryBytes bs i key page 1, 2, page, 1)
       | none => (bs, 3, 0, 0))
    else (bs, 0, 0, 0)

/-- Claims of works other than PX operations on a line. -/
def foreignClaim (s : State) (w key : Nat) : Bool :=
  s.claims.any (fun c => decide (c.1 = key) && decide (c.2 < w) && !(match getWork s c.2 with | some v => isPx v.kind | none => false))

/-- A PX operation at its home, after the group's earlier accesses (R287). -/
def pxOp (s : State) (w : Work) : Except SqeEnd State := do
  match pxBad w with
  | some (c, i) => throw (.fail c (some i) (0, 0))
  | none => pure ()
  require (pendingOf s w.agent w.seq).isEmpty .later
  let (b, w, s) ← pxBucket s w
  let (ls, w, s) ← (if w.kind = .pxfind then sqeLocs s w b 128 .read (some 0) else sqeUpdate s w b 128 (some 0))
  let (rs, w, s) ← sqeLocs s w (w.pair 6) 16 .write (some 0)
  if ls.any (fun l => foreignClaim s w.id l.key) then throw .later
  let s := (ls.filterMap (fun l => match l with | .glob pa => some (lineOf pa) | _ => none)).eraseDups.foldl serveLine s
  let old := ls.map (locRead s)
  let (new, out, page, count) := pxApply w.kind (w.pair 2) (w.pair 4) old
  if rs.any (fun l => earlierClaim s w.id l.key) then throw .later
  let ws := (if new = old then [] else ls.zip new) ++ rs.zip (leBytes 8 page ++ leBytes 4 count ++ leBytes 4 out)
  return setWork (dropClaims (engineWrites s w ws) w.id) { w with ended := true }

/-! ## COMPACT (R276, R278, R279) -/

/-- The block checks of COMPACT. -/
def compactBad (s : State) (w : Work) : Option (Nat × Nat) :=
  if w.pair 0 % 16 ≠ 0 then some (0x01, 0)
  else if w.word 2 = 0 ∨ 4096 < w.word 2 then some (0x01, 2)
  else if w.word 3 = 0 ∨ 2 ^ 20 < w.word 3 then some (0x01, 3)
  else match barLocator { s with cur := w.agent } (w.word 6) with
    | .error c => some (c, 6)
    | .ok _ => if copyCtlOk (w.word 7) false then none else some (0x01, 7)

/-- Keys of a COMPACT's private data. -/
def cmpMove : Nat := 4096
def cmpPkg : Nat := 4097
def cmpOpen : Nat := 4098
def Work.datum (w : Work) (k i : Nat) : Nat := (tabGet w.data k []).getD i 0
def Work.putDatum (w : Work) (k : Nat) (l : List Nat) : Work := { w with data := tabPut w.data k l }

def packageOf (s : State) (pa : Nat) : Nat := pa % 2 ^ 48 / (Config.capacity s.memCode / Config.packages)

/-- What the SQE does before it forwards a COMPACT, and the task (R278). While the ring holds 64 tasks the COMPACT stays at the head of its cluster's queue: no rule says what the SQE does then (log 90). -/
def compactForward (s : State) (w : Work) : Except SqeEnd State := do
  match compactBad s w with
  | some (c, i) => throw (.fail c (some i) (0, 0))
  | none => pure ()
  let (e, w, s) ← sqeRead s w (w.pair 0) 16 (some 0x800000)
  let page := (BlockEnt.ofBytes e).page
  require (decide (page ≠ 0)) (bad 0xC00000)
  match leasePas s w.grid page 1 false with
  | .error c => throw (.fail c (some 0xC00001) (0, 0))
  | .ok pas =>
    let pkg := packageOf s (pas.headD 0) % Config.packages
    require (decide (cheWeight s w.vf ≠ 0)) (bad 0xC00002)
    if 64 ≤ (getRing s pkg w.vf).tasks.length then throw .later
    return addTask (setWork s ({ w with stage := 1 }.putDatum cmpPkg [pkg])) pkg w.vf { work := w.id, seqNo := 0, grid := w.grid, compact := true }

/-- Entry b as the task read it: page, MAP, BASE, new MAP, new BASE, bits [127:113]. -/
def cmpEntry (w : Work) (b i : Nat) : Nat := w.datum b i

/-- The moves in order of their destination rank: source ranks. -/
def cmpMoves (w : Work) : List Nat :=
  (List.range (w.word 2)).flatMap (fun b =>
    let new := BitVec.ofNat 16 (cmpEntry w b 3)
    let map := BitVec.ofNat 16 (cmpEntry w b 1)
    ((List.range 16).filter (fun j => new.getLsbD j)).map (fun j => cmpEntry w b 2 + popcount map j))

/-- Address of a slot under the page fields as they stood (R278). A rank whose entry lies beyond the table has a free page: no rule gives it one (log 91). -/
def cmpSlot (w : Work) (r : Nat) : Nat :=
  (if r / 16 < w.word 2 then cmpEntry w (r / 16) 0 else Config.freeNat (w.datum cmpOpen 0 + (r / 16 - w.word 2)) % 2 ^ 64) + r % 16 * w.word 3

def cmpUsed (w : Work) : Nat := ceilDiv (cmpMoves w).length 16

/-- The pages that the packed blocks leave over. -/
def cmpFreed (w : Work) : List Nat :=
  (((List.range (w.word 2)).drop (cmpUsed w)).map (fun e => cmpEntry w e 0)).filter (· ≠ 0)

def cmpFreeBytes (w : Work) : List Byte := leBytes 8 (cmpFreed w).length ++ (cmpFreed w).flatMap (leBytes 8)

/-- Entries of the new table. -/
def cmpNewEntry (w : Work) (b : Nat) : List Byte :=
  (BlockEnt.bytes { page := if cmpUsed w ≤ b then 0 else cmpEntry w b 0, map := BitVec.ofNat 16 (cmpEntry w b 3), base := cmpEntry w b 4, pend := 0, p := false, rsv := cmpEntry w b 5 })

/-- The task fails with INDEX; its ring's record names the VA of the access that failed (12_die_channel R377). -/
def cmpFail (s : State) (w : Work) (cause index va : Nat) (err : Nat × Nat) : State :=
  let s := if cause = 0x0C then logError s err.1 err.2 w.vf true else s
  failTask (dropClaims s w.id) (w.datum cmpPkg 0) w.vf cause index 0 0 va

/-- Access of a task under its leases: the PAs, a failure, or a claim to wait for. An error of a line that the access writes with `whole` does not stop it (15_platform R466). -/
inductive CmpAcc where
  | ok (pas : List Nat)
  | failed (cause : Nat) (err : Nat × Nat)
  | busy
  deriving DecidableEq, Repr

def cmpAccess (s : State) (w : Work) (va n : Nat) (write whole : Bool) : CmpAcc :=
  match leasePas s w.grid va n write with
  | .error c => .failed c (0, 0)
  | .ok pas =>
    match firstBad s (pas.map .glob) (fun c _ => write && (decide (c = 0x02) || (whole && (decide (c = 0x03) || decide (c = 0x05))))) with
    | some e => .failed 0x0C e
    | none => if pas.any (fun pa => claimedByOther s (some w.id) (lineOf pa)) then .busy else .ok pas

/-- Bytes that a barrier expects are subtracted line by line (R278). -/
def cmpSubtract (s : State) (w : Work) (n : Nat) : State :=
  match w.bar with
  | some obj => (addBytes s obj (-(n : Int))).1
  | none => s

/-- The runs of bytes that a COMPACT writes once its table is known: slots, free list, table (R166, R279). -/
def cmpRuns (w : Work) : List (Nat × Nat) :=
  (List.range (cmpMoves w).length).map (fun c => (cmpSlot w c, w.word 3)) ++ [(w.pair 4, (cmpFreeBytes w).length), (w.pair 0, 16 * w.word 2)]

/-- The lines of those that lie in leases. -/
def cmpLines (s : State) (w : Work) : List Nat :=
  ((cmpRuns w).flatMap (fun r => (List.range (lineCount r.1 r.2)).filterMap (fun k =>
    match leasePas s w.grid (max r.1 ((r.1 / lineSize + k) * lineSize)) 1 true with
    | .ok pas => some (lineOf (pas.headD 0))
    | .error _ => none))).eraseDups

/-- The claims of a COMPACT become those of the lines that it writes, once its table names the slots; R279 allows a load that comes before that both contents (log 100). None while a table has no room. -/
def cmpClaim (s : State) (w : Work) : Option State :=
  let lines := cmpLines s w
  let t := { s with claims := s.claims.filter (fun c => decide (c.2 ≠ w.id) || lines.contains c.1) }
  match claimLines t w.id (lines.filter (fun l => !t.claims.contains (l, w.id))) with
  | .ok t => some t
  | .error _ => none

/-- The table is read: entries, new sets and base ranks. Every entry is read before any set is checked, so a fault on an entry wins over a bad set of an earlier one: R278 gives them no order (log 89). -/
def cmpReadTable (s : State) (w : Work) : State :=
  let old := s
  let step (acc : Except (Nat × Nat × Nat × Nat) (Bool × Nat × Work × State)) (b : Nat) : Except (Nat × Nat × Nat × Nat) (Bool × Nat × Work × State) := do
    let (busy, sum, w, s) ← acc
    match cmpAccess s w (w.pair 0 + 16 * b) 16 false false with
    | .failed c k => throw (c, 0x800000 + b, k)
    | .busy => return (true, sum, w, s)
    | .ok pas =>
      let (bs, s) := readPas s pas true
      let e := BlockEnt.ofBytes bs
      let new := if e.p then e.pend else e.map
      return (busy, sum + popcount new 16, w.putDatum b [e.page, e.map.toNat, e.base, new.toNat, sum, e.rsv], s)
  match (List.range (w.word 2)).foldl step (.ok (false, 0, w, s)) with
  | .error (c, i, k) => cmpFail s w c i (if c = 0x01 then 0 else w.pair 0 + 16 * (i - 0x800000)) k
  | .ok (true, _, _, _) => s
  | .ok (false, n, w, s) =>
    match (List.range (w.word 2)).find? (fun b => decide (BitVec.ofNat 16 (cmpEntry w b 3) &&& ~~~(BitVec.ofNat 16 (cmpEntry w b 1)) ≠ 0)) with
    | some b => cmpFail s w 0x01 b 0 (0, 0)
    | none => match cmpClaim s w with
      | none => old
      | some s =>
        let w := (w.putDatum cmpMove [0]).putDatum cmpOpen [s.fresh]
        setWork { s with fresh := s.fresh + 65536 } { w with stage := if n = 0 then 3 else 2, pieces := [] }

/-- Piece k of a run of n bytes at a: offset and length of its part in line k. -/
def runPiece (a n k : Nat) : Nat × Nat :=
  let start := max a ((a / lineSize + k) * lineSize)
  (start - a, min (a + n) ((a / lineSize + k + 1) * lineSize) - start)

/-- One destination line of the current slot's move. -/
def cmpMoveLine (s : State) (w : Work) (k : Nat) : State :=
  let cur := w.datum cmpMove 0
  let src := cmpSlot w ((cmpMoves w).getD cur 0)
  let dst := cmpSlot w cur
  let n := w.word 3
  if w.pieces.contains k ∨ lineCount dst n ≤ k then s
  else
    let (o, m) := runPiece dst n k
    match cmpAccess s w (src + o) m false false, cmpAccess s w (dst + o) m true (decide (m = lineSize)) with
    | .failed c x, _ => cmpFail s w c cur (src + o) x
    | _, .failed c x => cmpFail s w c cur (dst + o) x
    | .ok a, .ok b =>
      let (bs, s) := readPas s a true
      let s := cmpSubtract (engineWrites s w ((b.map Loc.glob).zip bs)) w m
      -- the line is released unless the next slot writes in it too
      let last := decide ((dst + o + m) % lineSize = 0) || decide (cur % 16 = 15) || decide (cur + 1 = (cmpMoves w).length)
      let s := if last then dropClaim s w.id (lineOf (b.headD 0)) else s
      let w := { w with pieces := k :: w.pieces }
      if w.pieces.length < lineCount dst n then setWork s w
      else setWork s ({ w with pieces := [], stage := if cur + 1 < (cmpMoves w).length then 2 else 3 }.putDatum cmpMove [cur + 1])
    | _, _ => s

/-- One destination line of the free list. -/
def cmpFreeLine (s : State) (w : Work) (k : Nat) : State :=
  let bs := cmpFreeBytes w
  let dst := w.pair 4
  if w.pieces.contains k ∨ lineCount dst bs.length ≤ k then s
  else
    let (o, m) := runPiece dst bs.length k
    match cmpAccess s w (dst + o) m true (decide (m = lineSize)) with
    | .failed c x => cmpFail s w c (0xA00000 + o / 8) (dst + o) x
    | .busy => s
    | .ok pas =>
      let s := dropClaim (cmpSubtract (engineWrites s w ((pas.map Loc.glob).zip ((bs.drop o).take m))) w m) w.id (lineOf (pas.headD 0))
      let w := { w with pieces := k :: w.pieces }
      setWork s (if w.pieces.length < lineCount dst bs.length then w else { w with pieces := [], stage := 4 })

/-- The table entries, last: all of them, or none (R279). -/
def cmpWriteTable (s : State) (w : Work) (pkg : Nat) (t : ChTask) : State :=
  let table := w.pair 0
  let whole (va : Nat) : Bool := decide (table ≤ va / lineSize * lineSize) && decide ((va / lineSize + 1) * lineSize ≤ table + 16 * w.word 2)
  let accs := (List.range (w.word 2)).map (fun b => (b, cmpAccess s w (table + 16 * b) 16 true (whole (table + 16 * b))))
  match accs.find? (fun x => match x.2 with | .failed _ _ => true | _ => false) with
  | some (b, .failed c x) => cmpFail s w c (0x800000 + b) (w.pair 0 + 16 * b) x
  | _ =>
    if accs.any (fun x => decide (x.2 = .busy)) then s
    else
      let ws := accs.flatMap (fun x => match x.2 with | .ok pas => (pas.map Loc.glob).zip (cmpNewEntry w x.1) | _ => [])
      let s := cmpSubtract (dropClaims (engineWrites s w ws) w.id) w (16 * w.word 2)
      setTask s pkg w.vf { t with aDone := true, xDone := true }

/-- One piece of a COMPACT's task, while the engine serves its ring. -/
def compactPiece (s : State) (w : Work) (k : Nat) : State :=
  let pkg := w.datum cmpPkg 0
  match taskOf s pkg w.vf w.id with
  | none => s
  | some t =>
    if !(cheRing s pkg).any (fun r => decide (r.1 = w.vf)) ∨ t.aDone then s
    else match w.stage with
      | 1 => cmpReadTable s w
      | 2 => cmpMoveLine s w k
      | 3 => cmpFreeLine s w k
      | 4 => cmpWriteTable s w pkg t
      | _ => s

/-! ## The queue (R265) -/

/-- The operation of a local work. -/
def sqeLocal (s : State) (w : Work) : Except SqeEnd State :=
  match w.kind with
  | .confw => confwOp s w
  | .scacc => scaccOp s w
  | .scrd => scrdOp s w
  | .scclr => scclrOp s w
  | .topk => topkOp s w
  | .surv => survOp s w
  | .unmask => unmaskOp s w
  | .dirty => dirtyOp s w
  | .compact => compactForward s w
  | _ => .ok (setWork s { w with stage := 1 })

/-- The head of a cluster's queue performs, or is forwarded. -/
def sqeHead (s : State) (c : Nat) : State :=
  let k := getCluster s c
  match k.sqe with
  | [] => s
  | id :: rest =>
    let pop (s : State) : State := setCluster s c { getCluster s c with sqe := rest }
    match getWork s id with
    | none => pop s
    | some w =>
      match sqeLocal s w with
      | .ok s => pop s
      | .error .later => s
      | .error (.hold x) => workWaits s w x
      | .error (.fail cause i cls) => pop (sqeFail s w cause i cls)

/-- Generic runs that an operation may write, as far as its block and its record now tell: its claims (R166, R313). -/
def sqeStarts (s : State) (w : Work) : List (Nat × Nat) :=
  let clu (off n : Nat) : Nat × Nat := (0xFC * 2 ^ 56 + clusterOfCore w.core * 2 ^ 40 + off, n)
  let rec' (ea : Nat) : Option Rec := match readRec { s with claims := [] } w ea with | .ok (r, _) => some r | .error _ => none
  match w.kind with
  | .scrd => [(w.pair 2, (if bits (w.word 1) 31 31 = 1 then 4 else 8) * min (bits (w.word 1) 16 0) 65536)]
  | .topk => [(w.pair 2, 4 + 4 * min (min (w.word 5) (w.word 6)) 65536)]
  | .surv => if w.word 3 ≤ 4096 then [(w.pair 0 + 16 * w.word 2, 16 * w.word 3)] else []
  | .compact => if w.word 2 ≤ 4096 then [(w.pair 0, 16 * w.word 2), (w.pair 4, 8 * w.word 2 + 8)] else []
  | .confw => (match rec' (w.pair 0) with
    | some r => (lanesOf w.lanes).flatMap (fun l => if (w.val 0 l).toNat < r.n then [clu (r.confAt + 4 * (w.val 0 l).toNat) 4, clu (r.candAt + 4 * (w.val 0 l).toNat) 4] else [])
    | none => [])
  | .scacc => if w.word 0 ≠ 1 then [] else (match rec' (w.pair 2) with
    | some r => (lanesOf w.lanes).flatMap (fun l => if (w.val 0 l).toNat < r.n ∧ w.word 1 < r.lg then [(momAt r 0 (w.word 1) (w.val 0 l).toNat, 8), (momAt r 1 (w.word 1) (w.val 0 l).toNat, 8)] else [])
    | none => [])
  | .unmask => (match rec' (w.pair 0) with
    | some r => [clu r.off 128, clu r.maskAt (bitmapBytes r.n), clu r.chgAt (bitmapBytes r.n), clu r.tokAt (4 * r.n)] ++ (if w.pair 2 = 0 then [] else [(w.pair 2, 4 + 4 * r.n)])
    | none => [])
  | .dirty => (match rec' (w.pair 0) with
    | some r => [clu r.ageAt (2 * r.n), clu r.dmapAt (r.lg * bitmapBytes r.n), (r.mom, 16 * r.lg * r.n)]
    | none => [])
  | .pxfind => [(w.pair 6, 16)]
  | _ => [(w.pair 6, 16)] ++ (match pxBucket { s with claims := [] } w with | .ok (b, _, _) => [(b, 128)] | .error _ => [])

/-- An operation enters the queue of its cluster with its claims, or waits while the queue or a claim table is full. No L1 keeps a line of a COMPACT's table, so that a POSXL issued after it waits for the new one (R279). -/
def sqeIssue (s : State) (kind : WorkKind) (us : List Use) (d a : BitVec 7) (n : Nat) (lanes : Option (Nat × Nat)) : Except Stop State := do
  engineGate s
  let w := newWork s kind d 0 (readBlock s a n)
  let w := match lanes with
    | some (f, m) => { w with lanes := activeOf s, vals := latchLanes s f m }
    | none => w
  if lanes.isSome ∧ w.lanes = 0 then return finish us 4 (issueWork s { w with ended := true })
  let c := clusterOfCore w.core
  if 64 ≤ (getCluster s c).sqe.length then throw (.wait .queueFull)
  let w := if kind = .compact then { w with bar := match barLocator s (w.word 6) with | .ok b => b | .error _ => none } else w
  let (keys, _, _) := segKeys s w (sqeStarts s w)
  let t ← claimLines s w.id keys
  let t := if kind = .compact then (keys.filter (fun k => decide (k < 2 ^ 60))).foldl dropCopies t else t
  let t := issueWork t w
  return finish us 4 (setCluster t c { getCluster t c with sqe := (getCluster t c).sqe ++ [w.id] })

/-! ## Lane loads (R274, R275, R295) -/

/-- One block-table entry of a lane. -/
def posEntry (s : State) (lane ea : Nat) : Except Stop (BlockEnt × State) := do
  let (e, s) ← element s { n := 16, k := .read, align := 16, weak := true } lane lane ea
  let (bs, s) ← loadNow s e.locs
  return (BlockEnt.ofBytes bs, s)

/-- R272 in one lane: none where the position is absent. -/
def posLane (s : State) (table nblk slotb lane p : Nat) : Except Stop (Option Nat × State) := do
  if nblk = 0 ∨ 4096 < nblk ∨ slotb = 0 ∨ 2 ^ 20 < slotb ∨ nblk ≤ p / 16 then return (none, s)
  let (b, s) ← posEntry s lane ((table + 16 * (p / 16)) % 2 ^ 64)
  if !b.map.getLsbD (p % 16) then return (none, s)
  let rank := b.base + popcount b.map (p % 16)
  if nblk ≤ rank / 16 then return (none, s)
  let (e, s) ← posEntry s lane ((table + 16 * (rank / 16)) % 2 ^ 64)
  if e.page = 0 then return (none, s)
  return (some ((e.page + rank % 16 * slotb) % 2 ^ 64), s)

/-- DMAPRD in one lane: the word, and its bit. -/
def dmapLane (s : State) (row n lane p : Nat) : Except Stop ((Nat × Bool) × State) := do
  if n ≤ p then return ((0, false), s)
  let (e, s) ← element s { n := 4, k := .read, align := 4, weak := true } lane lane ((row + 4 * (p / 32)) % 2 ^ 64)
  let (bs, s) ← loadNow s e.locs
  return ((leNat bs, decide (leNat bs / 2 ^ (p % 32) % 2 = 1)), s)

/-- A lane load: its results and predicates, sampled here (log 50), come with its return (R275). -/
def laneLoad (s : State) (us : List Use) (d p : Nat) (n : Nat) (f : State → Nat → Except Stop ((Nat × List Byte × Bool) × State)) : Except Stop State := do
  accessGate s
  let ((rs, m), t) ← eachLane f (laneList s) s
  let part (r : Nat × List Byte × Bool) : AccPart := { lane := some r.1, src := r.2.1.map .byte, operand := if r.2.2 then 1 else 0 }
  let t := if rs.isEmpty then t else addPending t (.lookup p) (coreOfCur s) d n (rs.map part) false none none []
  return completeLanes us 4 false m t

/-- R291 CONFW: Write confidences and candidates of masked positions. -/
def execConfw (d : BitVec 7) (a : BitVec 7) (v : BitVec 7) (s : State) : Host.Outcome State Fault Refusal :=
  run s 0x280 v (Uses.confw d a v) (sqeIssue s .confw (Uses.confw d a v) d a 4 (some (v.toNat, 3)))

/-- R283 SCACC: Add lane values into SAT entries or the mass-on-masked buffer. -/
def execScacc (d : BitVec 7) (a : BitVec 7) (v : BitVec 7) (s : State) : Host.Outcome State Fault Refusal :=
  run s 0x281 v (Uses.scacc d a v) (sqeIssue s .scacc (Uses.scacc d a v) d a 4 (some (v.toNat, 2)))

/-- R283 SCRD: Copy SAT entries to memory. -/
def execScrd (d : BitVec 7) (a : BitVec 7) (s : State) : Host.Outcome State Fault Refusal :=
  run s 0x282 0 (Uses.cbload d a) (sqeIssue s .scrd (Uses.cbload d a) d a 4 none)

/-- R283 SCCLR: Clear SAT entries to +0. -/
def execScclr (d : BitVec 7) (a : BitVec 7) (s : State) : Host.Outcome State Fault Refusal :=
  run s 0x283 0 (Uses.cbload d a) (sqeIssue s .scclr (Uses.cbload d a) d a 4 none)

/-- R281 TOPK: Rank SAT entries and write the top k indices. -/
def execTopk (d : BitVec 7) (a : BitVec 7) (s : State) : Host.Outcome State Fault Refusal :=
  run s 0x284 0 (Uses.cpy d a) (sqeIssue s .topk (Uses.cpy d a) d a 8 none)

/-- R274 POSXL: Translate logical positions through a block table per lane. -/
def execPosxl (d : BitVec 7) (a : BitVec 7) (p : BitVec 3) (m : BitVec 3) (s : State) : Host.Outcome State Fault Refusal :=
  run s 0x285 0 (Uses.posxl d a p m) (do
    let f := 96 + 4 * m.toNat
    laneLoad s (Uses.posxl d a p m) d.toNat p.toNat 8 (fun t l => do
      let (r, t) ← posLane t (readPair s f 0).toNat (readField s (f + 2) 0).toNat (readField s (f + 3) 0).toNat l (readField s a.toNat l).toNat
      return ((l, leBytes 8 (r.getD 0), r.isNone), t)))

/-- R277 SURV: Compute pending survivor sets from a keep list. -/
def execSurv (d : BitVec 7) (a : BitVec 7) (s : State) : Host.Outcome State Fault Refusal :=
  run s 0x286 0 (Uses.cpy d a) (sqeIssue s .surv (Uses.cpy d a) d a 8 none)

/-- R278 COMPACT: Forward a survivor compaction task to a channel engine. -/
def execCompact (d : BitVec 7) (a : BitVec 7) (s : State) : Host.Outcome State Fault Refusal :=
  run s 0x287 0 (Uses.cpy d a) (sqeIssue s .compact (Uses.cpy d a) d a 8 none)

/-- R286 PXFIND: Look up a prefix key in a bucket. -/
def execPxfind (d : BitVec 7) (a : BitVec 7) (s : State) : Host.Outcome State Fault Refusal :=
  run s 0x288 0 (Uses.cpy d a) (sqeIssue s .pxfind (Uses.cpy d a) d a 8 none)

/-- R286 PXINS: Insert or reference a prefix key. -/
def execPxins (d : BitVec 7) (a : BitVec 7) (s : State) : Host.Outcome State Fault Refusal :=
  run s 0x289 0 (Uses.cpy d a) (if gridIsDet s then .error (trapOf 0x0D) else sqeIssue s .pxins (Uses.cpy d a) d a 8 none)

/-- R286 PXREL: Release a prefix key reference. -/
def execPxrel (d : BitVec 7) (a : BitVec 7) (s : State) : Host.Outcome State Fault Refusal :=
  run s 0x28A 0 (Uses.cpy d a) (if gridIsDet s then .error (trapOf 0x0D) else sqeIssue s .pxrel (Uses.cpy d a) d a 8 none)

/-- R292 UNMASK: Commit the top-ranked masked positions of a sequence record. -/
def execUnmask (d : BitVec 7) (a : BitVec 7) (s : State) : Host.Outcome State Fault Refusal :=
  run s 0x28B 0 (Uses.cbload d a) (sqeIssue s .unmask (Uses.cbload d a) d a 4 none)

/-- R294 DIRTY: Build the dirty map and update ages after UNMASK. -/
def execDirty (d : BitVec 7) (a : BitVec 7) (s : State) : Host.Outcome State Fault Refusal :=
  run s 0x28C 0 (Uses.cbload d a) (sqeIssue s .dirty (Uses.cbload d a) d a 4 none)

/-- R295 DMAPRD: Per-lane load of a dirty-map word and bit. -/
def execDmaprd (d : BitVec 7) (a : BitVec 7) (p : BitVec 3) (m : BitVec 3) (s : State) : Host.Outcome State Fault Refusal :=
  run s 0x28D 0 (Uses.dmaprd d a p m) (do
    let f := 96 + 4 * m.toNat
    laneLoad s (Uses.dmaprd d a p m) d.toNat p.toNat 4 (fun t l => do
      let (r, t) ← dmapLane t (readPair s f 0).toNat (readField s (f + 2) 0).toNat l (readField s a.toNat l).toNat
      return ((l, leBytes 4 r.1, r.2), t)))

/-- R265 SQE_OPERATION: the operation at the head of a cluster's queue performs as one step, or is forwarded. -/
def execSqeOperation (cluster : Nat) (s : State) : Host.Outcome State Fault Refusal :=
  .next (sqeHead s cluster)

/-- R286 PX_BUCKET_UPDATE: a forwarded PX operation reads and changes its bucket at the home, and writes its result record. -/
def execPxBucketUpdate (work : Nat) (s : State) : Host.Outcome State Fault Refusal :=
  match getWork s work with
  | none => .next s
  | some w =>
    if !isPx w.kind ∨ w.stage ≠ 1 ∨ w.ended then .next s
    else match pxOp s w with
      | .ok s => .next s
      | .error .later => .next s
      | .error (.hold x) => .next (workWaits s w x)
      | .error (.fail c i k) => .next (sqeFail s w c i k)

end Sys2Proof.Machine
end

