-- ==== Sys2Proof/Machine/Array.lean ====
section
/-! DEFINITION. Array dies (11_die_analogue): handles (R342), layer instructions (R345-R358), adapters (R359, R360), Almanac's sets (R361-R366), ARXQ (R367) and the links (R368). -/

namespace Sys2Proof.Machine

/-! ## Handles and tiles -/

/-- The cause and auxiliary word with which R342 refuses a handle, if it does; `need` are bits of the grant. -/
def handleBad (s : State) (vf lo hi : Nat) (need : List Nat) : Option (Nat × Nat) :=
  let g := getGrant s vf lo
  if (getVf s vf).agtlen ≤ lo then some (0x16, 1)
  else if grantField g 31 16 ≠ hi % 65536 then some (0x17, grantField g 31 16)
  else if !grantValid g then some (0x16, 2)
  else if grantField g 15 0 ≠ hi / 65536 then some (0x16, 3)
  else if need.any (fun b => grantField g b b = 0) then some (0x16, 4)
  else none

def checkHandle (s : State) (lo hi : Word) (need : List Nat) : Except Stop (List Word) :=
  match handleBad s (vfOf s) lo.toNat hi.toNat need with
  | some (c, a) => .error (trapOf c a)
  | none => .ok (getGrant s (vfOf s) lo.toNat)

/-- A window (R341). -/
structure Window where
  img : Nat
  row0 : Nat
  rows : Nat
  col0 : Nat
  cols : Nat
  tfirst : Nat
  tcount : Nat
  deriving DecidableEq, Repr

def windowOf (g : List Word) : Window :=
  { img := grantField g 15 0, row0 := grantField g 87 64, rows := grantField g 111 88, col0 := grantField g 135 112, cols := grantField g 159 136,
    tfirst := grantField g 191 160, tcount := grantField g 223 192 }

def Window.tiles (x : Window) (s : State) : List Nat := windowTiles s x.img x.row0 x.rows x.col0 x.cols

/-- The tile of the module that holds an image tile. -/
def tileFor (s : State) (img t : Nat) : Option (Nat × Tile) :=
  s.tiles.find? (fun p => p.2.programmed && decide (p.2.image = img) && decide (p.2.imageTile = t))

/-- Is an image tile in a tile that is being reprogrammed, from it or to it? -/
def tileBusy (s : State) (img t : Nat) : Bool := rangeReprog s img t 1

def tileStateOf (s : State) (img t : Nat) : TileState := match tileFor s img t with | some p => p.2.state | none => .safe

/-- Has work in flight latched the tile's set of a generation (R360)? -/
def setLatched (s : State) (n gen : Nat) : Bool :=
  s.works.any (fun w => !w.ended && decide (w.kind ≠ .almrun) && decide (w.datum 0 0 = (arrTile s n).image)
    && decide ((tabFind w.sets (arrTile s n).imageTile).map (·.gen) = some gen))

/-- A tile's earlier sets that Almanac retains: the three before the current one, and those that issued work has latched (R361). -/
def retained (s : State) (n : Nat) : List CalSet :=
  let old := (s.calOld.filter (fun p => decide (p.1 = n))).map (·.2)
  old.take 3 ++ (old.drop 3).filter (fun c => setLatched s n c.gen)

/-- Is it the newest set published at or before a generation? -/
def CalSet.serves (c : CalSet) (gen : Nat) : Bool :=
  decide (c.gen ≤ gen) && (match c.till with | some t => decide (gen < t) | none => true)

/-- A tile's set of generation G (R360): the newest published at or before G, if Almanac still retains it (R361). -/
def setAt (s : State) (n gen : Nat) : Option CalSet :=
  match tabFind s.calCur n with
  | some c => (c :: retained s n).find? (·.serves gen)
  | none => none

/-- The correction generation that a layer instruction latches (R360). -/
def latchedGen (s : State) : Nat := ((getGrid s (gridNo s)).pin).getD s.cgen.toNat

/-- Is the pinned generation retired for an image tile? -/
def setRetired (s : State) (img t : Nat) : Bool :=
  match tileFor s img t with
  | some p => (setAt s p.1 (latchedGen s)).isNone
  | none => true

def uncalibrated (st : TileState) : Bool := decide (st = .safe) || decide (st = .uncal)

/-- Work waits while the link of a die that its tiles lie in is retrained (R368). -/
def linkGate (s : State) (img : Nat) (ts : List Nat) : Except Stop Unit :=
  if ts.any (fun t => match tileFor s img t with | some p => s.retraining.contains (p.1 / Config.tilesPerDie) | none => false) then .error (.wait .work) else .ok ()

def firstTile (ts : List Nat) (cause base : Nat) (p : Nat → Bool) : Except Stop Unit :=
  match ts.find? p with
  | some t => .error (trapOf cause (base ||| t))
  | none => .ok ()

/-- ARRAY_BUSY, ARRAY_NOT_READY and ARRAY_DRIFT for a window (R353). -/
def arrayTraps (s : State) (x : Window) (calibrated tolerant : Bool) : Except Stop Unit := do
  let ts := x.tiles s
  firstTile ts 0x0E 0 (tileBusy s x.img)
  if calibrated then
    match ts.find? (fun t => uncalibrated (tileStateOf s x.img t) || setRetired s x.img t) with
    | some t => throw (trapOf 0x0F ((if uncalibrated (tileStateOf s x.img t) then 0x10000 else 0x20000) ||| t))
    | none => pure ()
    if !tolerant then firstTile ts 0x10 0 (fun t => decide (tileStateOf s x.img t = .drift))

/-! ## The windows of a block's addresses -/

/-- Global or cluster window: else status 0x06; and a multiple of 128, else 0x01. -/
def addrBad (w : Work) (i align : Nat) : Option (Nat × Nat) :=
  match winOf (w.pair i) with
  | .glob => if w.pair i % align ≠ 0 then some (0x01, i) else none
  | .clu => if w.pair i % align ≠ 0 then some (0x01, i) else none
  | _ => some (0x06, i)

/-- The lowest bad word: each with its status. -/
def firstStatus (l : List (Option (Nat × Nat))) : Option (Nat × Nat) := l.findSome? id

def badIf (i : Nat) (b : Bool) : Option (Nat × Nat) := if b then some (0x01, i) else none

/-! ## Layer instructions (R346, R347) -/

inductive LayerKind where
  | f | t | d
  deriving DecidableEq, Repr

def layerOf (k : WorkKind) : LayerKind := match k with | .layert => .t | .layerd => .d | _ => .f

def lyNvec (w : Work) : Nat := bits (w.word 6) 12 0
def lyIfmt (w : Work) : Nat := bits (w.word 6) 19 16
def lyOfmt (w : Work) : Nat := bits (w.word 6) 23 20
def lyAdp (w : Work) : Nat := bits (w.word 6) 29 24
def lySat (w : Work) : Bool := decide (w.mods / 4 % 2 = 1)
def lyFine (w : Work) : Bool := decide (w.mods % 2 = 1)

/-- The window that the work latched: its words, then the image's golden copy. -/
def lyWin (w : Work) : Window :=
  { img := w.datum 0 0, row0 := w.datum 0 1, rows := w.datum 0 2, col0 := w.datum 0 3, cols := w.datum 0 4, tfirst := w.datum 0 5, tcount := w.datum 0 6 }

/-- Image columns in tiles, as latched. -/
def lyCols (w : Work) : Nat := w.datum 0 7
def lyGolden (w : Work) : Nat := w.datum 0 8

/-- The adapter's eight words as latched (R360); none is no adapter. -/
def lyAdapter (w : Work) : List Nat := tabGet w.data 1 []

def lyIn (w : Work) : Nat := if layerOf w.kind = .t then (lyWin w).cols else (lyWin w).rows
def lyOut (w : Work) : Nat := if layerOf w.kind = .t then (lyWin w).rows else (lyWin w).cols
def inBytes (w : Work) : Nat := if lyIfmt w = 2 then 2 else 1
def lyOb (w : Work) : Nat := outBytes (lyOfmt w)
def stride128 (n : Nat) : Nat := ceilDiv n 128 * 128
def lyIstr (w : Work) : Nat := stride128 (lyIn w * inBytes w)
def lyOstr (w : Work) : Nat := stride128 (lyOut w * lyOb w)

/-- The lowest bad word of a block (R346, R352, R359). -/
def layerBad (s : State) (w : Work) : Option (Nat × Nat) :=
  let ad := (tabFind (getGrid s w.grid).adapters (lyAdp w)).map (·.words)
  let adOk := match ad with
    | some ws => decide ((ws.getD 6 0).toNat = (lyWin w).rows) && decide ((ws.getD 7 0).toNat = (lyWin w).cols)
    | none => false
  firstStatus [addrBad w 2 128, addrBad w 4 128,
    badIf 6 (decide (bits (w.word 6) 31 30 ≠ 0) || decide (bits (w.word 6) 15 13 ≠ 0) || decide (lyNvec w = 0) || decide (4096 < lyNvec w)
      || !([0, 1, 2, 3, 8].contains (lyOfmt w)) || !((if layerOf w.kind = .t then [0, 2] else [0, 1]).contains (lyIfmt w)) || (decide (lyAdp w ≠ 0) && !adOk)),
    badIf 7 (decide (w.word 7 % 4 ≠ 0))]

/-! ## Arithmetic of the array port (R348, R349) -/

def f32 (x : XR) : XR := fp32.decode (roundF32 x)
def rfa (x : XR) : XR := fa36.decode (roundFP x fa36 .rne false).1
def xmul (x y : XR) : XR := (x.mul y).1
def faSum (x y : XR) : XR := rfa (exactSum [x, y]).1
def xint (i : Int) : XR := .ofInt i 1 false

/-- ChunkDot of products (R348): chunks of 32 in increasing index. -/
def chunkDot : Nat → XR → List XR → XR
  | 0, acc, _ => acc
  | n + 1, acc, ps => if ps.isEmpty then acc else chunkDot n (faSum acc (exactSum (ps.take 32)).1) (ps.drop 32)

def dot (ps : List XR) : XR := chunkDot (ps.length / 32 + 1) (.fin false 0 1) ps

def bf (w : Word) : XR := bf16.decode (w.toNat % 65536)

/-- A driving code: the nearest integer to x / s, clamped; of a quotient that is no number the code is a free function of the two operands' FP64 codes (R83; log 51). -/
def driveCode (x sc : XR) : Int :=
  let q := (x.div sc).1
  let code (y : XR) : Nat := (roundFP y fp64 .rne false).1
  if q.isNaN then (Config.nanCode (code x) (code sc) % 255 : Nat) - 127 else (toIntSat q (-127) 127 .rne).1

/-- One segment of a row or a column of the window: its image tile, where it begins in the window and in the tile, its length. -/
structure Span where
  blk : Nat
  off : Nat
  at' : Nat
  len : Nat
  deriving DecidableEq, Repr

/-- The parts of n elements from a that lie in blocks of 1,024. -/
def spans (a n : Nat) : List Span :=
  (List.range (windowTiles.lineSpan a n)).map (fun i =>
    let b := a / 1024 + i
    let lo := max a (b * 1024)
    { blk := b, off := lo - a, at' := lo % 1024, len := min (a + n) ((b + 1) * 1024) - lo })

/-- Where the golden copy holds a weight level (R340). -/
def goldenAt (w : Work) (t r c : Nat) : Nat := lyGolden w + t * 2 ^ 19 + r * 512 + c / 2

/-- A weight level: of the golden copy for LAYERD, else of the tile as latched. -/
def lyLevel (s : State) (w : Work) (t r c : Nat) : Int :=
  if layerOf w.kind = .d then
    let b := (lpddrRead s (goldenAt w t r c)).toNat
    sextInt 4 (if c % 2 = 0 then b % 16 else b / 16)
  else ((tabGet (tabGet w.tiles t {}).levels (r * 1024 + c) 8 : Nat) : Int) - 8

def lySet (w : Work) (t : Nat) : CalSet := tabGet w.sets t {}
def lyScale (w : Work) (t c : Nat) : XR := fp32.decode (tabGet (tabGet w.tiles t {}).scale c 0).toNat

/-- |E| bound of a segment (R356). -/
def codeBound (n : Nat) (fine : Bool) : Nat :=
  if n ≤ 64 then (if fine then 1 else 2) else if n ≤ 256 then (if fine then 8 else 12) else if fine then 48 else 64

/-- Does g x q + o differ from Q by at most the bound, exactly? -/
def codeOk (g o : XR) (bound : Nat) (exact q : Int) : Bool :=
  let v := ((xmul g (xint q)).add o false).1
  (match v.cmp (xint (exact - bound)), v.cmp (xint (exact + bound)) with
   | some a, some b => decide (0 ≤ a) && decide (b ≤ 0)
   | _, _ => false)

/-- Clamps to the range of INT24 (R338). -/
def int24 (q : Int) : Int := max (-(2 ^ 23)) (min (2 ^ 23 - 1) q)

/-- The raw code: free, but where R356 bounds it within the bound (log 10). -/
def rawCode (s : State) (bounded : Bool) (g o : XR) (bound : Nat) (exact : Int) : Int × State :=
  let q := int24 (Config.adcCode s.fresh)
  let s := { s with fresh := s.fresh + 1 }
  if !bounded || codeOk g o bound exact q then (q, s)
  else
    let near := (toIntSat ((((xint exact).add o.neg false).1).div g).1 (-(2 ^ 23)) (2 ^ 23 - 1) .rne).1
    (if codeOk g o bound exact near then near else q, s)

/-- A vector as it drives the array. -/
structure Drive where
  scale : XR
  /-- the elements' values -/
  x : List XR
  /-- the codes of an exact drive (R348; R350 with g = 1) -/
  codes : List Int
  fine : Bool
  bad : Bool
  deriving DecidableEq, Repr

/-- Elements and scale of a vector from its bytes (R348, R350). -/
def driveOf (w : Work) (bs sc : List Byte) : Drive :=
  let n := lyIn w
  let scale := fp32.decode (leNat sc)
  let codeAt (k : Nat) : Nat := leNat ((bs.drop (k * inBytes w)).take (inBytes w))
  let clampS (k : Nat) : Int := max (-127) (sextInt 8 (codeAt k))
  let nan := decide (lyIfmt w = 0) && (List.range n).any (fun k => e4m3.isNaN (codeAt k))
  let positive := match scale with | .fin false a _ => decide (a ≠ 0) | _ => false
  let x := (List.range n).map (fun k =>
    if lyIfmt w = 1 then xmul scale (xint (clampS k)) else if lyIfmt w = 0 then e4m3.decode (codeAt k) else bf16.decode (codeAt k))
  let codes :=
    if !positive then []
    else if lyIfmt w = 1 then (List.range n).map clampS
    else (List.range n).map (fun k =>
      let v := x.getD k (.fin false 0 1)
      let v := if layerOf w.kind = .t then
          (match (spans (lyWin w).col0 (lyWin w).cols).find? (fun z => decide (z.off ≤ k) && decide (k < z.off + z.len)) with
           | some z => f32 (xmul (f32 (lyScale w (((lyWin w).row0 / 1024) * lyCols w + z.blk) (z.at' + (k - z.off)))) v)
           | none => v)
        else v
      driveCode v scale)
  let fine := decide (layerOf w.kind = .d) || (lyFine w && decide (n ≤ 64) && codes.all (fun c => decide (c.natAbs ≤ 15)))
  { scale := scale, x := x, codes := codes, fine := fine, bad := nan || !positive }

/-- Is R356 in force for a segment's tile? -/
def lyBounded (w : Work) (t : Nat) : Bool := decide ((tabGet w.tiles t {}).state = .ready)

/-- The sum of a segment and its raw code: exact when fine on a tile that is not DRIFT (R358). -/
def segCode (s : State) (w : Work) (d : Drive) (t n : Nat) (g o : XR) (exact : Int) : Int × State :=
  if layerOf w.kind = .d then (exact, s)
  else if d.fine then (if lyBounded w t then (exact, s) else rawCode s false g o 0 exact)
  else rawCode s (lyBounded w t) g o (codeBound n (lyFine w)) exact

def sumInt (l : List Int) : Int := l.foldl (· + ·) 0

/-- Adds the adapter's term (R348, R350); `h` are its inner products, `b` its outer weights for this output. -/
def addAdapter (w : Work) (acc : XR) (h b : List XR) : XR :=
  if (lyAdapter w).isEmpty then acc
  else
    let alpha := fp32.decode ((lyAdapter w).getD 1 0)
    let z := dot ((b.zip h).map (fun p => xmul p.1 p.2))
    faSum acc (rfa (xmul alpha z))

/-- One output of LAYERF or LAYERD (R348). -/
def columnOut (s : State) (w : Work) (d : Drive) (h : List XR) (bcol : List XR) (c : Nat) : XR × State :=
  let x := lyWin w
  let cb := (x.col0 + c) / 1024
  let cc := (x.col0 + c) % 1024
  let segs := spans x.row0 x.rows
  let (acc, s) := segs.foldl (fun (p : XR × State) z =>
    let t := z.blk * lyCols w + cb
    let set := lySet w t
    let g := if d.fine then xint 1 else fp32.decode (tabGet set.gain cc 0).toNat
    let o := if d.fine then xint 0 else fp32.decode (tabGet set.offset cc 0).toNat
    let exact := sumInt ((List.range z.len).map (fun i => lyLevel p.2 w t (z.at' + i) cc * d.codes.getD (z.off + i) 0))
    let (q, s) := segCode p.2 w d t z.len g o exact
    let t1 := f32 (xmul g (xint q))
    let t2 := f32 (t1.add o false).1
    let t3 := f32 (xmul (f32 (xmul (lyScale w t cc) d.scale)) t2)
    (faSum p.1 t3, s)) (.fin false 0 1, s)
  let acc := if d.fine then acc else
    let rho := segs.foldl (fun (rho : XR) z =>
      let set := lySet w (z.blk * lyCols w + cb)
      let hr (r : Nat) : XR := dot ((List.range z.len).map (fun i => xmul (bf (tabGet set.v (r * 1024 + z.at' + i) 0)) (d.x.getD (z.off + i) (.fin false 0 1))))
      faSum rho (rfa (exactSum ((List.range 8).map (fun r => xmul (bf (tabGet set.u (cc * 8 + r) 0)) (hr r)))).1)) (.fin false 0 1)
    faSum acc rho
  (addAdapter w acc h bcol, s)

/-- One output of LAYERT (R350): row k of the window. -/
def rowOut (s : State) (w : Work) (d : Drive) (h : List XR) (acol : List XR) (k : Nat) : XR × State :=
  let x := lyWin w
  let rb := (x.row0 + k) / 1024
  let rr := (x.row0 + k) % 1024
  let segs := spans x.col0 x.cols
  let (acc, s) := segs.foldl (fun (p : XR × State) z =>
    let t := rb * lyCols w + z.blk
    let set := lySet w t
    let codes := if d.fine then (List.range z.len).map (fun i => d.codes.getD (z.off + i) 0) else
      (List.range z.len).map (fun i =>
        let g := fp32.decode (tabGet set.gain (z.at' + i) 0).toNat
        let u := f32 (xmul (f32 (xmul (lyScale w t (z.at' + i)) g)) (d.x.getD (z.off + i) (.fin false 0 1)))
        driveCode u d.scale)
    let exact := sumInt (codes.zipIdx.map (fun y => lyLevel p.2 w t rr (z.at' + y.2) * y.1))
    let (q, s) := segCode p.2 w d t z.len (xint 1) (xint 0) exact
    (faSum p.1 (f32 (xmul d.scale (xint q))), s)) (.fin false 0 1, s)
  let acc := if d.fine then acc else
    let rho := segs.foldl (fun (rho : XR) z =>
      let set := lySet w (rb * lyCols w + z.blk)
      let hr (r : Nat) : XR := dot ((List.range z.len).map (fun i => xmul (bf (tabGet set.u ((z.at' + i) * 8 + r) 0)) (d.x.getD (z.off + i) (.fin false 0 1))))
      faSum rho (rfa (exactSum ((List.range 8).map (fun r => xmul (bf (tabGet set.v (r * 1024 + rr) 0)) (hr r)))).1)) (.fin false 0 1)
    faSum acc rho
  (addAdapter w acc h acol, s)

/-- The bytes of an output (R348): FA36 as it is, else RoundOut. -/
def outputBytes (w : Work) (v : XR) : List Byte :=
  if lyOfmt w = 8 then leBytes 8 (roundFP v fa36 .rne false).1 else leBytes (lyOb w) (roundOut (outFmt (lyOfmt w)) (lySat w) v).1

/-! ## Weak reads of a work -/

/-- Reads bytes weakly from LPDDR-6, or from cluster memory. -/
def weakLocs (s : State) (ls : List Loc) : List Byte × State :=
  let r := ls.foldl (fun (p : List Byte × State) l => match l with
    | .glob pa =>
      let r := weakRead p.2 pa 1
      (r.1.headD 0 :: p.1, r.2)
    | l => (locRead p.2 l :: p.1, p.2)) ([], s)
  (r.1.reverse, r.2)

/-- n bytes at a generic address of a work, weakly or at their homes; a home error is INTEGRITY with its class. -/
def workRead (s : State) (w : Work) (ea n : Nat) (strong : Bool) : Except Stop (List Byte × Work × State) := do
  let (ls, w, s) ← workLocs s w ea n .read notPriv
  match transferBad s ls [] with
  | some (c, pa) => throw (integrity c pa ea)
  | none =>
    if strong then
      if ls.any (fun l => claimedByOther s (some w.id) l.key) then throw (.wait .claim)
      let s := ((ls.map Loc.key).eraseDups.filter (fun k => decide (k < 2 ^ 60))).foldl (fun s k => serveLine (countReq s (k * lineSize)) k) s
      return (ls.map (locRead s), w, s)
    else
      let (bs, s) := weakLocs s ls
      return (bs, w, s)

/-- Rows of BF16 values: n rows of m values from a, with a row stride. -/
def bfRows (s : State) (w : Work) (a str m : Nat) (rows : List Nat) : Except Stop (List (List XR) × Work × State) :=
  rows.foldlM (fun (p : List (List XR) × Work × State) r => do
    let (bs, w, s) ← workRead p.2.2 p.2.1 (a + r * str) (2 * m) false
    return (p.1 ++ [(List.range m).map (fun i => bf16.decode (leNat ((bs.drop (2 * i)).take 2)))], w, s)) ([], w, s)

/-- The adapter's inner products h, and for each wanted output its outer weights. -/
def adapterTerms (s : State) (w : Work) (d : Drive) (outs : List Nat) : Except Stop (List XR × List (List XR) × Work × State) := do
  let ad := lyAdapter w
  if ad.isEmpty then return ([], [], w, s)
  let r := ad.getD 0 0 / 256 % 256
  let k := ad.getD 6 0
  let n := ad.getD 7 0
  let aAt := ad.getD 2 0 + ad.getD 3 0 * 2 ^ 32
  let bAt := ad.getD 4 0 + ad.getD 5 0 * 2 ^ 32
  let aStr := stride128 (2 * k)
  if layerOf w.kind = .t then
    -- h from B over the columns, then A's column for each row
    let (bs, w, s) ← bfRows s w bAt 128 r (List.range n)
    let h := (List.range r).map (fun j => dot ((bs.zip d.x).map (fun p => xmul (p.1.getD j (.fin false 0 1)) p.2)))
    let (as', w, s) ← bfRows s w aAt aStr k (List.range r)
    return (h, outs.map (fun o => as'.map (fun row => row.getD o (.fin false 0 1))), w, s)
  else
    let (as', w, s) ← bfRows s w aAt aStr k (List.range r)
    let h := as'.map (fun row => dot ((row.zip d.x).map (fun p => xmul p.1 p.2)))
    let (bs, w, s) ← bfRows s w bAt 128 r outs
    return (h, bs, w, s)

/-! ## One line of results (R352) -/

def lyPerVec (w : Work) : Nat := lyOstr w / 128
def lyVecKey (v : Nat) : Nat := 2 ^ 20 + v
def lyLineKey (k : Nat) : Nat := 2 ^ 24 + k

/-- The bytes of vector v and its scale, read once. -/
def lyVector (s : State) (w : Work) (v : Nat) : Except Stop (List Byte × Work × State) :=
  match tabFind w.data (lyVecKey v) with
  | some l => .ok (l.map (BitVec.ofNat 8), w, s)
  | none => do
    let n := lyIn w * inBytes w
    let (bs, w, s) ← workRead s w (w.pair 2 + v * lyIstr w) n false
    let (sc, w, s) ← workRead s w (w.pair 2 + w.word 7 + 4 * v) 4 false
    return (bs ++ sc, w.putDatum (lyVecKey v) ((bs ++ sc).map (·.toNat)), s)

/-- The bytes of the golden copy that some outputs read (R351). -/
def goldenUsed (w : Work) (outs : List Nat) : List Nat :=
  let x := lyWin w
  if layerOf w.kind ≠ .d then []
  else outs.flatMap (fun c => (spans x.row0 x.rows).flatMap (fun z => (List.range z.len).map (fun i =>
    goldenAt w (z.blk * lyCols w + (x.col0 + c) / 1024) (z.at' + i) ((x.col0 + c) % 1024))))

/-- The results of vector v for the outputs of line j; LAYERD's read of the golden copy may meet INTEGRITY (R352). -/
def lyResults (s : State) (w : Work) (v j : Nat) : Except Stop (List Byte × Work × State) := do
  let (vb, w, s) ← lyVector s w v
  let n := lyIn w * inBytes w
  let per := 128 / lyOb w
  let outs := (List.range per).map (fun i => j * per + i) |>.filter (fun o => decide (o < lyOut w))
  match firstBadPa s (goldenUsed w outs) with
  | some (c, pa) => throw (integrity c pa 0)
  | none => pure ()
  let d := driveOf w (vb.take n) (vb.drop n)
  if d.bad then return (outs.flatMap (fun _ => outputBytes w .nan), w, s)
  let (h, bs, w, s) ← adapterTerms s w d outs
  let r := outs.zipIdx.foldl (fun (p : List Byte × State) o =>
    let b := bs.getD o.2 []
    let (v, s) := if layerOf w.kind = .t then rowOut p.2 w d h b o.1 else columnOut p.2 w d h b o.1
    (p.1 ++ outputBytes w v, s)) ([], s)
  return (r.1, w, r.2)

/-- Has every line of the vectors below INDEX, or every line, reached its home, and every other line that was written? -/
def lyDone (w : Work) : Bool :=
  (List.range ((if w.status = 0 then lyNvec w else min w.index (lyNvec w)) * lyPerVec w)).all w.pieces.contains
    && w.data.all (fun p => decide (p.1 < 2 ^ 24) || w.pieces.contains (p.1 - 2 ^ 24))

def lySettle (s : State) (w : Work) : State := setWork s { w with ended := lyDone w }

/-- Line k of the results: first in LPDDR-6, then at the home; in cluster memory at once. -/
def layerLine (s : State) (w : Work) (k : Nat) : State :=
  let v := k / max 1 (lyPerVec w)
  let j := k % max 1 (lyPerVec w)
  if w.ended ∨ lyNvec w ≤ v ∨ w.pieces.contains k then s
  else match tabFind w.data (lyLineKey k) with
    | some (pa :: bs) =>
      if claimedByOther s (some w.id) (lineOf pa) then s
      else lySettle (weakLand s pa (bs.map (BitVec.ofNat 8))) { w with pieces := k :: w.pieces }
    | _ =>
      match (do
        let (bs, w, s) ← lyResults s w v j
        let (ls, w, s) ← workLocs s w (w.pair 4 + v * lyOstr w + 128 * j) bs.length .write notPriv
        return (bs, ls, w, s) : Except Stop (List Byte × List Loc × Work × State)) with
      | .error (.wait x) => workWaits s w x
      | .error (.trap t) => lySettle (noteError s t.cause t.aux t.pa w.vf) (w.note t.cause v)
      | .ok (bs, ls, w', s') =>
        match transferBad s' [] ls with
        | some (c, pa) => lySettle (logError s c pa w.vf true) (w.note 0x0C v)
        | none =>
          match ls with
          | .glob pa :: _ => setWork (weakWrite s' pa bs) (w'.putDatum (lyLineKey k) (pa :: bs.map (·.toNat)))
          | _ => lySettle (locWrites s' none (ls.zip bs)) { w' with pieces := k :: w'.pieces }

/-- A layer instruction at issue: its traps in the order of R353, then the block, then what it latches (R343, R360). -/
def layerBody (s : State) (kind : WorkKind) (us : List Use) (d a : BitVec 7) (mods bit : Nat) : Except Stop State := do
  let cal := decide (kind ≠ .layerd)
  if cal && gridIsDet s then throw (trapOf 0x0D)
  engineGate s
  let w := newWork s kind d mods (readBlock s a 8)
  let g ← checkHandle s (w.blk.getD 0 0) (w.blk.getD 1 0) [bit]
  let x := windowOf g
  arrayTraps s x cal (decide (mods / 2 % 2 = 1))
  let ts := x.tiles s
  linkGate s x.img ts
  let w := w.putDatum 0 [x.img, x.row0, x.rows, x.col0, x.cols, x.tfirst, x.tcount, imageCols s x.img, (imageOf s x.img).golden]
  match layerBad s w with
  | some (c, i) => return finish us 4 (issueWork s (w.failed c i))
  | none =>
    let held := ts.filterMap (fun t => (tileFor s x.img t).map (fun p => (t, p.1, p.2)))
    let w := { w with
      tiles := held.map (fun p => (p.1, p.2.2)),
      sets := held.filterMap (fun p => (setAt s p.2.1 (latchedGen s)).map (fun c => (p.1, c))) }
    let w := match (if lyAdp w = 0 then none else tabFind (getGrid s w.grid).adapters (lyAdp w)) with
      | some ad => w.putDatum 1 (ad.words.map (·.toNat))
      | none => w
    return finish us 4 (issueWork s w)

/-! ## Results of the other array instructions -/

/-- An INDEX that no rule states: free (log 49). -/
def freeIndex (w : Work) : Nat := w.datum 9 0

/-- Work that writes one run of bytes; its claims are the run's lines (R166). -/
def issueRun (s : State) (us : List Use) (w : Work) (ea n : Nat) : Except Stop State := do
  let f := freeNat s
  let w := w.putDatum 9 [f.1 % 2 ^ 24]
  let (keys, w, t) := segKeys f.2 w [(ea, n)]
  let t ← claimLines t w.id keys
  return finish us 4 (issueWork t w)

/-- The run that a work computed, kept until it is written: data 2. -/
def keptRun (w : Work) : List Byte := (tabGet w.data 2 []).map (BitVec.ofNat 8)

/-- Computes a run at its first piece, then writes its lines. -/
def runLine (s : State) (w : Work) (k ea : Nat) (f : State → Work → Except Stop (List Byte × Work × State)) : State :=
  if w.ended then s
  else if w.stage = 1 then writeSegs [{ index := freeIndex w, ea := ea, bytes := keptRun w, classed := true }] s w k
  else match f s w with
    | .ok (bs, w, s) => setWork s { w.putDatum 2 (bs.map (·.toNat)) with stage := 1 }
    | .error (.wait x) => workWaits s w x
    | .error (.trap t) => setWork (dropClaims (noteError s t.cause t.aux t.pa w.vf) w.id) (w.failed t.cause (if t.cause = 0x0C then t.aux.toNat else freeIndex w))

/-! ## ARXQ (R367) -/

def arxqBytes (s : State) (w : Work) : List Byte :=
  let g := getGrant s w.vf (w.word 0)
  let x := windowOf g
  let grid := getGrid s w.grid
  let b (p : Bool) (n : Nat) : Nat := if p then 2 ^ n else 0
  let ts := x.tiles s
  let flags := grantField g 33 33 + grantField g 34 34 * 2 + grantField g 35 35 * 4 + grantField g 36 36 * 8
    + b (ts.any (tileBusy s x.img)) 8 + b (ts.any (fun t => uncalibrated (tileStateOf s x.img t))) 9
    + b (ts.any (fun t => decide (tileStateOf s x.img t = .drift))) 10
    + b (match grid.pin with
        | some p => ts.any (fun t => match tileFor s x.img t with | some q => (setAt s q.1 p).isNone | none => true)
        | none => false) 11
  let body := match handleBad s w.vf (w.word 0) (w.word 1) [] with
    | some (c, _) => leBytes 4 c ++ leBytes 36 0
    | none => leBytes 4 0 ++ leBytes 4 flags ++ leBytes 4 x.row0 ++ leBytes 4 x.rows ++ leBytes 4 x.col0 ++ leBytes 4 x.cols
        ++ leBytes 4 x.tfirst ++ leBytes 4 x.tcount ++ leBytes 4 (imageOf s x.img).ki ++ leBytes 4 (imageOf s x.img).ni
  leBytes 4 (w.word 0) ++ leBytes 4 (w.word 1) ++ body ++ leBytes 4 s.cgen.toNat
    ++ leBytes 4 (match grid.pin with | some p => p | none => 0xFFFFFFFF) ++ leBytes 8 0

def arxqLine (s : State) (w : Work) (k : Nat) : State := runLine s w k (w.pair 2) (fun s w => .ok (arxqBytes s w, w, s))

/-! ## ADPSET and CALSET (R359, R362) -/

def adpsetBad (w : Work) : Option (Nat × Nat) :=
  let rank := bits (w.word 0) 15 8
  let slot := bits (w.word 0) 5 0
  let first := badIf 0 (decide (slot = 0) || decide (64 < rank) || decide (bits (w.word 0) 7 6 ≠ 0) || decide (bits (w.word 0) 31 16 ≠ 0))
  if rank = 0 then first
  else firstStatus [first, badIf 2 (decide (winOf (w.pair 2) ≠ .glob)), badIf 4 (decide (winOf (w.pair 4) ≠ .glob)),
    badIf 6 (decide (w.word 6 = 0) || decide (65536 < w.word 6)), badIf 7 (decide (w.word 7 = 0) || decide (65536 < w.word 7))]

/-- Every array port holds the entry (R359). -/
def adpsetStep (s : State) (w : Work) : State :=
  let g := getGrid s w.grid
  let slot := bits (w.word 0) 5 0
  if w.ended then s
  else setWork (setGrid s w.grid { g with adapters := if bits (w.word 0) 15 8 = 0 then tabErase g.adapters slot else tabPut g.adapters slot { words := w.blk } }) { w with ended := true }

def calsetBad (s : State) (w : Work) : Option (Nat × Nat) :=
  firstStatus [badIf 0 (decide (1 < w.word 0)), badIf 1 (decide (w.word 0 = 1) && decide (s.cgen.toNat < w.word 1)), badIf 2 (decide (w.word 2 ≠ 0)), badIf 3 (decide (w.word 3 ≠ 0))]

def calsetStep (s : State) (w : Work) : State :=
  if w.ended then s
  else setWork (setGrid s w.grid { getGrid s w.grid with pin := if w.word 0 = 0 then none else some (w.word 1) }) { w with ended := true }

/-! ## CALRD (R363) -/

/-- The record of a set: R363's layout. -/
def setBytes (gen drift exact rank : Nat) (metric tile : Nat) (gain off : Nat → Nat) (u v : Nat → Nat) : List Byte :=
  leBytes 4 gen ++ leBytes 4 (drift + exact * 2 + rank * 256) ++ leBytes 4 metric ++ leBytes 4 tile ++ leBytes 48 0
  ++ (List.range 1024).flatMap (fun c => leBytes 4 (gain c)) ++ (List.range 1024).flatMap (fun c => leBytes 4 (off c))
  ++ (List.range 8192).flatMap (fun i => leBytes 2 (u i)) ++ (List.range 8192).flatMap (fun i => leBytes 2 (v i))

def calSetBytes (c : CalSet) (tile : Nat) : List Byte :=
  setBytes c.gen (if c.drift then 1 else 0) (if c.exactOk then 1 else 0) (min c.rank 8) c.metric.toNat tile
    (fun i => (tabGet c.gain i 0).toNat) (fun i => (tabGet c.offset i 0).toNat) (fun i => (tabGet c.u i 0).toNat) (fun i => (tabGet c.v i 0).toNat)

def recordSize : Nat := 41024

/-- The set that CALRD names. -/
def calrdSet (s : State) (x : Window) (w : Work) : Option CalSet :=
  (tileFor s x.img (x.tfirst + w.word 2)).bind (fun p => setAt s p.1 (if w.word 3 = 0xFFFFFFFF then latchedGen s else w.word 3))

def calrdBad (s : State) (x : Window) (w : Work) : Option (Nat × Nat) :=
  firstStatus [badIf 2 (decide (x.tcount ≤ w.word 2)), badIf 3 (calrdSet s x w).isNone, addrBad w 4 128, badIf 6 (decide (w.word 6 ≠ 0)), badIf 7 (decide (w.word 7 ≠ 0))]

/-- The set as it was at issue (R343). -/
def calrdLine (s : State) (w : Work) (k : Nat) : State :=
  runLine s w k (w.pair 4) (fun s w => .ok (calSetBytes (lySet w (w.datum 0 1)) (w.datum 0 1), w, s))

/-! ## ALMRUN (R364) -/

def almNvec (w : Work) : Nat := w.word 6

def almrunBad (s : State) (x : Window) (w : Work) : Option (Nat × Nat) :=
  firstStatus [badIf 0 (decide ((x.tiles s).length ≠ 1)), addrBad w 2 1, addrBad w 4 128,
    badIf 6 (decide (w.word 6 = 0) || decide (256 < w.word 6)), badIf 7 (decide (w.word 7 ≠ 0))]

/-- The clamped INT8 code of a byte. -/
def probeCode (b : Byte) : Int := max (-127) b.toInt

/-- Raw and exact codes of every vector and column; where R356 bounds the tile's code the raw code obeys it. -/
def almrunBytes (s : State) (w : Work) : Except Stop (List Byte × Work × State) := do
  let x := lyWin w
  let str := stride128 x.rows
  let (pb, w, s) ← workRead s w (w.pair 2) ((almNvec w - 1) * str + x.rows) true
  let t := x.row0 / 1024 * lyCols w + x.col0 / 1024
  let set := lySet w t
  let r := (List.range (almNvec w)).foldl (fun (p : List Byte × State) v =>
    (List.range x.cols).foldl (fun (p : List Byte × State) c =>
      let cc := (x.col0 + c) % 1024
      let exact := sumInt ((List.range x.rows).map (fun k => lyLevel p.2 w t ((x.row0 + k) % 1024) cc * probeCode (pb.getD (v * str + k) 0)))
      let (q, s) := rawCode p.2 (lyBounded w t) (fp32.decode (tabGet set.gain cc 0).toNat) (fp32.decode (tabGet set.offset cc 0).toNat) (codeBound x.rows (lyFine w)) exact
      (p.1 ++ leBytes 4 (BitVec.ofInt 32 q).toNat ++ leBytes 4 (BitVec.ofInt 32 exact).toNat, s)) p) ([], s)
  return (r.1, w, r.2)

def almrunLine (s : State) (w : Work) (k : Nat) : State := runLine s w k (w.pair 4) almrunBytes

/-! ## ALMFIT (R365, R366) -/

def afNvec (w : Work) : Nat := bits (w.word 6) 8 0
def afCols (w : Work) : Nat := bits (w.word 6) 26 16
def afRows (w : Work) : Nat := w.word 7

def almfitBad (w : Work) : Option (Nat × Nat) :=
  firstStatus [addrBad w 0 1, addrBad w 2 1, addrBad w 4 128,
    badIf 6 (decide (bits (w.word 6) 15 9 ≠ 0) || decide (bits (w.word 6) 31 27 ≠ 0) || decide (afNvec w < 8) || decide (256 < afNvec w) || decide (afCols w = 0) || decide (1024 < afCols w)),
    badIf 7 (decide (afRows w = 0) || decide (1024 < afRows w))]

def d64 (i : Int) : Nat := (roundFP (xint i) fp64 .rne false).1
def dAdd (a b : Nat) : Nat := (fpAdd fp64 .plain a b).1
def dSub (a b : Nat) : Nat := (fpSub fp64 .plain a b).1
def dMul (a b : Nat) : Nat := (fpMul fp64 .plain a b).1
def dDiv (a b : Nat) : Nat := (fpDiv fp64 .plain a b).1
def dSum (l : List Nat) : Nat := l.foldl dAdd 0

/-- Gain and offset of a column from its pairs (q, Q), in FP64 (R366). -/
def fitColumn (l : List (Int × Int)) : Nat × Nat :=
  let (n, sq, sqq, sQ, sqQ) := l.foldl (fun (a : Nat × Nat × Nat × Nat × Nat) (p : Int × Int) =>
    let q := d64 p.1
    let x := d64 p.2
    (dAdd a.1 (d64 1), dAdd a.2.1 q, dAdd a.2.2.1 (dMul q q), dAdd a.2.2.2.1 x, dAdd a.2.2.2.2 (dMul q x))) (0, 0, 0, 0, 0)
  let den := dSub (dMul n sqq) (dMul sq sq)
  if (fp64.decode den).isZero then (d64 1, dDiv (dSub sQ sq) n)
  else
    let g := dDiv (dSub (dMul n sqQ) (dMul sq sQ)) den
    (g, dDiv (dSub sQ (dMul g sq)) n)

/-- Column j of the Cholesky factor of a symmetric 8 x 8 matrix of FP64 codes, by 8 x row + column: a zero pivot leaves it out (R366). -/
def cholColumn (n : Nat → Nat → Nat) (l : Tab Nat) (j : Nat) : Tab Nat :=
  let less (i : Nat) : Nat := (List.range j).foldl (fun a k => dSub a (dMul (tabGet l (i * 8 + k) 0) (tabGet l (j * 8 + k) 0))) (n i j)
  let d := less j
  if (fp64.decode d).isZero then l
  else
    let p := (fpSqrt fp64 .plain d).1
    (List.range 8).foldl (fun m i => if i < j then m else tabPut m (i * 8 + j) (if i = j then p else dDiv (less i) p)) l

/-- The factor, with pivots in increasing r. -/
def cholesky (n : Nat → Nat → Nat) : Tab Nat := (List.range 8).foldl (cholColumn n) []

/-- Has a rank a pivot that is not zero? -/
def pivotOf (l : Tab Nat) (r : Nat) : Bool := (tabFind l (9 * r)).isSome

/-- Solves the normal equations for one right side: first with the factor, then with its transpose; a rank without a pivot is 0. -/
def solve8 (l : Tab Nat) (b : Nat → Nat) : List Nat :=
  let at' (i k : Nat) : Nat := tabGet l (i * 8 + k) 0
  let y := (List.range 8).foldl (fun (y : List Nat) j =>
    y ++ [if pivotOf l j then dDiv ((List.range j).foldl (fun a k => dSub a (dMul (at' j k) (y.getD k 0))) (b j)) (at' j j) else 0]) []
  (List.range 8).foldl (fun (x : List Nat) i =>
    let j := 7 - i
    (if pivotOf l j then dDiv ((List.range i).foldl (fun a k => dSub a (dMul (at' (j + 1 + k) j) (x.getD k 0))) (y.getD j 0)) (at' j j) else 0) :: x) []

/-- Factors in FP64: U by row c, V by row r, and the ranks whose pivots are not zero. -/
structure Fit where
  u : List (List Nat)
  v : List (List Nat)
  used : List Nat
  deriving DecidableEq, Repr

/-- Element (r, k) of V0: 2^-5 times the Sylvester-Hadamard matrix of order 1,024 (R366). -/
def hadamard (r k : Nat) : Nat :=
  let minus := ((List.range 10).filter (fun b => r.testBit b && k.testBit b)).length % 2 = 1
  (if minus then 2 ^ 63 else 0) + 0x3FA0000000000000

/-- U given V: for each column the normal equations of the probes' inner products with V; a zero pivot clears the rank's row of V too. -/
def fitU (nv nc rows : Nat) (e : Nat → Nat → Nat) (x : Nat → Nat → Int) (v : List (List Nat)) : Fit :=
  let h := (List.range nv).map (fun p => v.map (fun row => dSum ((List.range rows).map (fun k => dMul (row.getD k 0) (d64 (x p k))))))
  let at' (p r : Nat) : Nat := (h.getD p []).getD r 0
  let l := cholesky (fun i j => dSum ((List.range nv).map (fun p => dMul (at' p i) (at' p j))))
  { u := (List.range nc).map (fun c => solve8 l (fun i => dSum ((List.range nv).map (fun p => dMul (at' p i) (e p c))))),
    v := v.mapIdx (fun r row => if pivotOf l r then row else row.map (fun _ => 0)),
    used := (List.range 8).filter (pivotOf l) }

/-- V given U: which solution of the least-squares problem the step takes is free (log 11); a rank whose pivot in the equations of U is zero has none. -/
def fitV (inputs : List Nat) (rows : Nat) (u : List (List Nat)) : List (List Nat) :=
  let l := cholesky (fun i j => dSum (u.map (fun row => dMul (row.getD i 0) (row.getD j 0))))
  (List.range 8).map (fun r => (List.range rows).map (fun k => if pivotOf l r then Config.fit (inputs ++ u.flatten) 2 (r * 1024 + k) % 2 ^ 64 else 0))

/-- The four sweeps, from U given V0. -/
def fitSweeps (inputs : List Nat) (nv nc rows : Nat) (e : Nat → Nat → Nat) (x : Nat → Nat → Int) : Fit :=
  let start := fitU nv nc rows e x ((List.range 8).map (fun r => (List.range rows).map (hadamard r)))
  (List.range 4).foldl (fun f _ => fitU nv nc rows e x (fitV inputs rows f.u)) start

/-- The rank of a set: the number of its ranks, where those below it are the used ones; else it is free (log 11). -/
def Fit.rank (f : Fit) (inputs : List Nat) : Nat := if f.used = List.range f.used.length then f.used.length else Config.fit inputs 0 0 % 9

def Fit.at' (m : List (List Nat)) (i j : Nat) : Nat := (m.getD i []).getD j 0

/-- M of R366 in FP64: e is the residual of gain and offset, x a probe's code; sums ascend in v, then c, then r, then k (log 11). -/
def fitMetric (f : Fit) (nv nc rows : Nat) (e : Nat → Nat → Nat) (x : Nat → Nat → Int) : Nat :=
  let sq := (List.range nv).flatMap (fun v =>
    let h := (List.range 8).map (fun r => dSum ((List.range rows).map (fun k => dMul (Fit.at' f.v r k) (d64 (x v k)))))
    (List.range nc).map (fun c =>
      let d := dSub (e v c) (dSum (h.zipIdx.map (fun y => dMul (Fit.at' f.u c y.2) y.1)))
      dMul d d))
  dDiv (fpSqrt fp64 .plain (dDiv (dSum sq) (d64 (nv * nc : Nat)))).1 (d64 16)

/-- The set that ALMFIT writes (R366): the same for the same inputs; the image tile index, which no input names, is free (log 11). -/
def almfitBytes (s : State) (w : Work) : Except Stop (List Byte × Work × State) := do
  let nv := afNvec w
  let nc := afCols w
  let str := stride128 (afRows w)
  let (rb, w, s) ← workRead s w (w.pair 0) (8 * nv * nc) true
  let (pb, w, s) ← workRead s w (w.pair 2) ((nv - 1) * str + afRows w) true
  let rec' (v c : Nat) : Int × Int := ((BitVec.ofNat 32 (word32 rb (2 * (v * nc + c)))).toInt, (BitVec.ofNat 32 (word32 rb (2 * (v * nc + c) + 1))).toInt)
  let fit := (List.range nc).map (fun c => fitColumn ((List.range nv).map (fun v => rec' v c)))
  let f32of (d : Nat) : Nat := roundF32 (fp64.decode d)
  let exact := decide (64 < afRows w) || (List.range nv).all (fun v =>
    !((List.range (afRows w)).all (fun k => decide ((probeCode (pb.getD (v * str + k) 0)).natAbs ≤ 15))) || (List.range nc).all (fun c => decide ((rec' v c).1 = (rec' v c).2)))
  let inputs := nv :: nc :: afRows w :: (rb ++ pb).map (·.toNat)
  let e (v c : Nat) : Nat :=
    let p := fit.getD c (0, 0)
    let wide (d : Nat) : Nat := (roundFP (fp32.decode (f32of d)) fp64 .rne false).1
    dSub (d64 (rec' v c).2) (dAdd (dMul (wide p.1) (d64 (rec' v c).1)) (wide p.2))
  let x (v k : Nat) : Int := probeCode (pb.getD (v * str + k) 0)
  let f := fitSweeps inputs nv nc (afRows w) e x
  let m := f32of (fitMetric f nv nc (afRows w) e x)
  let toBf (d : Nat) : Nat := (roundFP (fp64.decode d) bf16 .rne false).1
  let drift := !exact || (match (fp32.decode m).cmp (fp32.decode s.dthr.toNat) with | some x => decide (0 < x) | none => true)
  let bs := setBytes 0 (if drift then 1 else 0) (if exact then 1 else 0) (f.rank inputs) m (Config.fit inputs 3 0 % 2 ^ 32)
    (fun c => match fit[c]? with | some p => f32of p.1 | none => 0x3F800000) (fun c => match fit[c]? with | some p => f32of p.2 | none => 0)
    (fun i => toBf (Fit.at' f.u (i / 8) (i % 8))) (fun i => toBf (Fit.at' f.v (i / 1024) (i % 1024)))
  return (bs, w, s)

def almfitLine (s : State) (w : Work) (k : Nat) : State := runLine s w k (w.pair 4) almfitBytes

/-! ## Almanac (R361) -/

/-- Does a new set pass both tests? -/
def setDrifts (s : State) (p : Publication) : Bool :=
  !p.exactOk || (match (fp32.decode p.metric.toNat).cmp (fp32.decode s.dthr.toNat) with | some x => decide (0 < x) | none => true)

/-- The factors of a published set whose ranks from `n` on are zero (R363). -/
def ranksBelow (n : Nat) (rankOf : Nat → Nat) (l : Tab (BitVec 16)) : Tab Word :=
  (l.filter (fun x => decide (rankOf x.1 < n))).map (fun x => (x.1, x.2.setWidth 32))

/-- Installs one tile's set; its current set joins the earlier ones, of which those still retained are kept (R361). -/
def installSet (gen : Nat) (s : State) (p : Publication) : State :=
  let n := tileNo p.die p.tile
  let t := arrTile s n
  if t.state = .safe ∨ t.state = .reprogramming ∨ !t.programmed then s
  else
    let drift := setDrifts s p
    let c : CalSet := { gen := gen, gain := p.gain, offset := p.offset,
                        u := ranksBelow p.rank (· % 8) p.u, v := ranksBelow p.rank (· / 1024) p.v, rank := min p.rank 8, metric := p.metric, exactOk := p.exactOk, drift := drift }
    let old := (match tabFind s.calCur n with | some o => [(n, { o with till := some gen })] | none => []) ++ s.calOld.filter (fun o => decide (o.1 = n))
    let t' : State := { s with calOld := old ++ s.calOld.filter (fun o => decide (o.1 ≠ n)) }
    setArrTile { t' with calCur := tabPut s.calCur n c, calOld := (retained t' n).map (fun o => (n, o)) ++ s.calOld.filter (fun o => decide (o.1 ≠ n)) } n { t with state := if drift then .drift else .ready }

/-- R348 LAYERF: Forward analogue layer product with digital corrections. -/
def execLayerf (d : BitVec 7) (a : BitVec 7) (f : BitVec 1) (l : BitVec 1) (s : BitVec 1) (st : State) : Host.Outcome State Fault Refusal :=
  run st 0x240 0 (Uses.cpy d a) (layerBody st .layerf (Uses.cpy d a) d a (f.toNat + 2 * l.toNat + 4 * s.toNat) 33)

/-- R350 LAYERT: Transposed analogue layer product. -/
def execLayert (d : BitVec 7) (a : BitVec 7) (f : BitVec 1) (l : BitVec 1) (s : BitVec 1) (st : State) : Host.Outcome State Fault Refusal :=
  run st 0x241 0 (Uses.cpy d a) (layerBody st .layert (Uses.cpy d a) d a (f.toNat + 2 * l.toNat + 4 * s.toNat) 34)

/-- R351 LAYERD: Exact digital layer product from the golden copy. -/
def execLayerd (d : BitVec 7) (a : BitVec 7) (s : BitVec 1) (st : State) : Host.Outcome State Fault Refusal :=
  run st 0x242 0 (Uses.cpy d a) (layerBody st .layerd (Uses.cpy d a) d a (4 * s.toNat) 35)

/-- R367 ARXQ: Report a handle's standing into a 64-byte record. -/
def execArxq (d : BitVec 7) (a : BitVec 7) (s : State) : Host.Outcome State Fault Refusal :=
  run s 0x248 0 (Uses.cbload d a) (do
    engineGate s
    let w := newWork s .arxq d 0 (readBlock s a 4)
    match addrBad w 2 64 with
    | some (c, i) => return finish (Uses.cbload d a) 4 (issueWork s (w.failed c i))
    | none => issueRun s (Uses.cbload d a) w (w.pair 2) 64)

/-- R359 ADPSET: Write an adapter descriptor into the grid's adapter table. -/
def execAdpset (d : BitVec 7) (a : BitVec 7) (s : State) : Host.Outcome State Fault Refusal :=
  run s 0x249 0 (Uses.cpy d a) (do
    engineGate s
    let w := newWork s .adpset d 0 (readBlock s a 8)
    match adpsetBad w with
    | some (c, i) => return finish (Uses.cpy d a) 4 (issueWork s (w.failed c i))
    | none => return finish (Uses.cpy d a) 4 (issueWork s w))

/-- R362 CALSET: Pin or release the grid's correction generation. -/
def execCalset (d : BitVec 7) (a : BitVec 7) (s : State) : Host.Outcome State Fault Refusal :=
  run s 0x24A 0 (Uses.cbload d a) (do
    engineGate s
    let w := newWork s .calset d 0 (readBlock s a 4)
    match calsetBad s w with
    | some (c, i) => return finish (Uses.cbload d a) 4 (issueWork s (w.failed c i))
    | none => return finish (Uses.cbload d a) 4 (issueWork s w))

/-- R363 CALRD: Write one tile's calibration set to memory. -/
def execCalrd (d : BitVec 7) (a : BitVec 7) (s : State) : Host.Outcome State Fault Refusal :=
  run s 0x24B 0 (Uses.cpy d a) (do
    engineGate s
    let w := newWork s .calrd d 0 (readBlock s a 8)
    let g ← checkHandle s (w.blk.getD 0 0) (w.blk.getD 1 0) [36]
    let x := windowOf g
    match calrdBad s x w with
    | some (c, i) => return finish (Uses.cpy d a) 4 (issueWork s (w.failed c i))
    | none =>
      let w := { w with sets := match calrdSet s x w with | some c => [(x.tfirst + w.word 2, c)] | none => [] }
      issueRun s (Uses.cpy d a) (w.putDatum 0 [x.img, x.tfirst + w.word 2]) (w.pair 4) recordSize)

/-- R364 ALMRUN: Run probe vectors through raw analogue and reference paths. -/
def execAlmrun (d : BitVec 7) (a : BitVec 7) (f : BitVec 1) (s : State) : Host.Outcome State Fault Refusal :=
  run s 0x250 0 (Uses.cpy d a) (do
    if gridIsDet s then throw (trapOf 0x0D)
    engineGate s
    let w := newWork s .almrun d f.toNat (readBlock s a 8)
    let g ← checkHandle s (w.blk.getD 0 0) (w.blk.getD 1 0) [33, 35]
    let x := windowOf g
    arrayTraps s x false true
    let ts := x.tiles s
    firstTile ts 0x0F 0x10000 (fun t => decide (tileStateOf s x.img t = .safe))
    linkGate s x.img ts
    match almrunBad s x w with
    | some (c, i) => return finish (Uses.cpy d a) 4 (issueWork s (w.failed c i))
    | none =>
      let held := ts.filterMap (fun t => (tileFor s x.img t).map (fun p => (t, p.1, p.2)))
      let w := { w with
        tiles := held.map (fun p => (p.1, p.2.2)),
        sets := held.filterMap (fun p => (tabFind s.calCur p.2.1).map (fun c => (p.1, c))) }
      issueRun s (Uses.cpy d a) (w.putDatum 0 [x.img, x.row0, x.rows, x.col0, x.cols, x.tfirst, x.tcount, imageCols s x.img]) (w.pair 4) (8 * almNvec w * x.cols))

/-- R366 ALMFIT: Fit a calibration set to ALMRUN results. -/
def execAlmfit (d : BitVec 7) (a : BitVec 7) (s : State) : Host.Outcome State Fault Refusal :=
  run s 0x251 0 (Uses.cpy d a) (do
    engineGate s
    let w := newWork s .almfit d 0 (readBlock s a 8)
    match almfitBad w with
    | some (c, i) => return finish (Uses.cpy d a) 4 (issueWork s (w.failed c i))
    | none => issueRun s (Uses.cpy d a) w (w.pair 4) recordSize)

/-- R361 ALMANAC_PUBLICATION: CGEN rises and new sets are installed in one step. -/
def execAlmanacPublication (sets : List Publication) (s : State) : Host.Outcome State Fault Refusal :=
  if s.stage = .camp1 ∨ s.stage = .summit ∨ s.stage = .halting then
    .next (sets.foldl (installSet (s.cgen.toNat + 1) ) { s with cgen := s.cgen + 1 })
  else .next s

end Sys2Proof.Machine
end

