-- ==== Sys2Proof/Machine/Platform.lean ====
section
/-! DEFINITION. The platform (15_platform): start, reset and power failure (R461, R462, R474), attestation and health (R461-R464), the patrol scrubber (R468), throttling (R470), Starfix (R472, R473), HALT (R474), the Ethernet endpoints (R475, R501); retirements (14_tenancy R441, 16_fabric R480), opening and closing a VF (14_tenancy R428), granules (08_cluster_sequence R262, R263), the queue processors' turns (14_tenancy R436), requests from other modules (16_fabric R482, R484) and lines leaving the L2 (10_die_memory R309). -/

namespace Sys2Proof.Machine

/-! ## Start (R461, R462) -/

/-- Does the module accept PL2 work: Camp 1 or later, and not halted? -/
def atWork (s : State) : Bool := decide (s.stage = .camp1) || decide (s.stage = .summit) || decide (s.stage = .halting)

/-- Tiles after a loss of power: weights stay, drivers are off (11_die_analogue R339). -/
def coldTiles (s : State) : Tab Tile := s.tiles.map (fun p => (p.1, { p.2 with state := .safe, verified := none }))

/-- A module that starts again: what outlives its registers is the tiles, the journal, the images and the firmware in its store; memory is as given. -/
def restarted (s : State) (mem : List Host.Cell) : State :=
  { mem := mem, firmware := s.firmware, hypervisor := s.hypervisor, down := s.down, tiles := coldTiles s, images := s.images, journal := s.journal, journalSeq := s.journalSeq,
    agenda := s.agenda, turn := s.turn, fresh := s.fresh, steps := s.steps, seq := s.seq, nextId := s.nextId, out := s.out }

/-- Does the secure ROM's check of a firmware hold: its key is the vendor's, and signs the digest of the image (R462; log 57)? -/
def Firmware.holds (f : Firmware) : Bool :=
  decide (shake256 f.key 64 = (List.range 64).map Config.fusedDigest) && Config.falconOk f.key (shake256 f.image 64) f.signature

/-- The health codes of the check (R462): 1 without an image, 2 where it fails. -/
def firmwareCodes (s : State) : List Word :=
  match s.firmware with
  | none => [1]
  | some f => if f.holds then [] else [2]

/-- Camp 0: the secure ROM measures the Camp firmware and checks it (R462, R464). -/
def enterCamp0 (s : State) : State :=
  { s with stage := .camp0, healthCodes := firmwareCodes s, firmwareSum := (s.firmware.map (fun f => shake256 f.image 64)).getD [] }

/-- A context of the module's firmware as the Camp firmware starts it: its PC is free (log 73). -/
def firmwareContext (s : State) (n level : Nat) : QCtx :=
  { pc := Config.freeDWord (s.fresh + n) &&& ~~~1, away := true, en := true, state := .running, level := level }

/-- Camp 1 starts the hypervisor's context at PL2, which takes the firmware's own notices, and the secure context at PL3, in the firmware's space (00_scope R5; log 73). -/
def startFirmware (s : State) : State :=
  let free (n : Nat) : DWord := Config.freeDWord (s.fresh + n)
  let s := { s with hypervisorSum := (s.hypervisor.map (fun bs => shake256 bs 64)).getD [] }
  let slot : PSlot := { gtrt := free 2 &&& rootMask, grdt := free 3 &&& rangeMask, tvec := free 4 &&& ~~~1, qmask := 1 ||| 2 ^ 63 }
  let t := setVf s hostVf { getVf s hostVf with htrt := hostRoot (free 5), hrdt := hostRange (free 6), hvctx := 0x80000000, slots := [(0, slot)] }
  { t with fresh := s.fresh + 7,
           queues := tabPut (tabPut t.queues (hostVf * 64) (firmwareContext s 0 2)) (hostVf * 64 + 63) (firmwareContext s 1 3) }

/-- Camp 1 completes for a programmed tile: UNCAL (11_die_analogue R339). -/
def wakeTiles (s : State) : State :=
  { s with tiles := s.tiles.map (fun p => (p.1, if p.2.programmed ∧ p.2.state = .safe then { p.2 with state := .uncal } else p.2)) }

/-- The newest cairn of a die may be torn by a power failure (14_tenancy R456). -/
def tearJournal (s : State) : State :=
  s.journal.foldl (fun s p =>
    let f := freeBool s
    match p.2.reverse with
    | [] => f.2
    | c :: r => { f.2 with journal := tabPut f.2.journal p.1 (({ c with whole := c.whole && f.1 } :: r).reverse) }) s

def Stage.code : Stage → Nat
  | .off => 0 | .camp0 => 0 | .camp1 => 1 | .summit => 2 | .halting => 2 | .halted => 3

/-- The current stage: while HALT is in progress, the one in which it began (R461, R474). -/
def stageNow (s : State) : Stage := if s.stage = .halting then s.haltFrom else s.stage

/-- Is the management endpoint's work beyond attestation and health accepted: from Camp 1 on (R461)? -/
def pastCamp0 (s : State) : Bool := decide (s.stage ≠ .off) && decide (s.stage ≠ .camp0)

/-! ## Reports (R463, R464) -/

def measured (k : Nat) : List Byte := (List.range 64).map (Config.measurement k)

/-- A measurement as it was made when the thing was loaded, or a free one (log 12). -/
def sumOr (l : List Byte) (k : Nat) : List Byte := if l = [] then measured k else l

def imageSum (s : State) (id : Nat) : List Byte := sumOr (((tabFind s.images id).map (·.sum)).getD []) (id + 2)

/-- The images that valid grants of these VFs name, with GEN. -/
def grantedImages (s : State) (vfs : List Nat) : List (Nat × Nat) :=
  vfs.flatMap (fun v => (getVf s v).agt.filterMap (fun g =>
    if g.1 < (getVf s v).agtlen ∧ grantValid g.2.words then some (grantField g.2.words 15 0, grantField g.2.words 31 16) else none))

/-- The fields of R464 in the order in which it names them; that order and their widths are the model's (log 12). -/
def reportBytes (s : State) (vf : Option Nat) (nonce : List Byte) : List Byte :=
  let slots := s.decSlots.flatMap (fun p => shake256 (p.2.2.flatMap (fun w => leBytes 4 w.toNat)) 64)
  let head := nonce ++ leBytes 4 (modid s).toNat ++ leBytes 4 (stageNow s).code ++ s.firmwareSum ++ sumOr s.hypervisorSum 1 ++ slots
  match vf with
  | none => head ++ (((grantedImages s (List.range Config.vfs)).map (·.1)).eraseDups).flatMap (imageSum s)
  | some v => head ++ leBytes 4 v ++ (grantedImages s [v]).flatMap (fun g => leBytes 2 g.1 ++ leBytes 2 g.2 ++ imageSum s g.1)

/-- The padded signature of 1,280 bytes over the report's digest (R463). -/
def signatureOf (bs : List Byte) : List Byte := (List.range 1280).map (Config.falcon (shake256 bs 64))

/-! ## Starfix (R472) -/

/-- A trigger: the snapshot of the current 8-cycle window, also one that has been read, or a new one whose 528 blocks latch within 8 cycles; none when four are held. -/
def trigger (s : State) : Option Nat × State :=
  match s.lastSnap.filter (fun x => decide (s.time < x.2 + 8)) with
  | some x => (some x.1, s)
  | none =>
    if 4 ≤ s.snapshots.length then (none, s)
    else
      let x : Snapshot := { seq := s.snapSeq, trigger := s.time, instants := (List.range 528).map (fun i => s.time + Config.freeNat (s.fresh + i) % 9), locl := [], remt := [] }
      (some x.seq, { s with fresh := s.fresh + 528, snapshots := s.snapshots ++ [latchSlices s (s.time + 1) x], snapSeq := (s.snapSeq + 1) % 0xFFFFFFFE, lastSnap := some (s.snapSeq, s.time) })

/-- May the executing context trigger (R473)? -/
def mayTrigger (s : State) : Bool := decide (2 ≤ levelOf s) || s.snapen.getLsbD (vfOf s)

/-! ## HALT (R474) -/

/-- A task in a ring that is halted, or of weight 0, does not run. -/
def stuckTask (s : State) (id : Nat) : Bool :=
  s.rings.any (fun r => r.2.tasks.any (fun t => decide (t.work = id)) && (r.2.halted || decide (cheWeight s (r.1 % 64) = 0)))

/-- Every line leaves the L2: partials are combined, and what is dirty is written to LPDDR-6 (10_die_memory R309, R316). -/
def flushL2 (s : State) : State :=
  let lines := (s.l2.map (·.1) ++ s.cores.flatMap (fun c => c.2.u.map (fun p => lineOf p.1))).eraseDups
  { lines.foldl l2Leave s with lpddr := [] }

/-- Engine work and channel-engine tasks that still run to their tokens; a grid is neither. -/
def haltWaits (s : State) : Bool :=
  s.works.any (fun w => match w.kind with
    | .launch => w.ended
    | .chlaunch => w.ended || !stuckTask s w.id
    | .compact => w.ended || !stuckTask s w.id
    | _ => true)

/-! ## The Ethernet endpoints (R475, R501) -/

/-- A page of a VF's guest-physical memory, through its host stage; a walk whose leaf has changed is made again (13_translation R405). -/
def hostPage (wk : Walker) (s : State) (vf page : Nat) (k : Acc) : Except XStop (Option (PageMap × State)) := do
  let (h, s) ← hostLookup wk s vf (page * 4096)
  if h.m then throw (.migrating h.level true (h.leaf.getD 0))
  permit h k false true
  return (setAD s h (decide (k = .write))).map (fun t => ({ page := page, pa := (placeModule t (getVf t vf) h * 2 ^ 48 + h.out) / 4096, gpa := page }, t))

def hostPages (vf : Nat) (k : Acc) : List Nat → State → Except XStop (List PageMap × State)
  | [], s => .ok ([], s)
  | p :: r, s => do
    let (m, s) ← match ← hostPage {} s vf p k with
      | some x => .ok x
      | none => match ← hostPage { now := true } s vf p k with
        | some x => .ok x
        | none => .error (xfault 0 1 true)
    let (l, s) ← hostPages vf k r s
    return (m :: l, s)

/-- The endpoint of a MAC address: a VF's, or 32, the management endpoint's; each has its own (R475; log 98). -/
def endpointOf (mac : BitVec 48) : Nat := (mac - Config.macBase).toNat

/-- Is an endpoint there: the management endpoint, or the endpoint of an open VF? -/
def endpointUp (s : State) (e : Nat) : Bool := atWork s && (decide (e = Config.vfs) || (decide (e < Config.vfs) && (getVf s e).endpoint))

/-- Does an endpoint take a frame: at work, open, and no longer than 9,216 bytes? -/
def frameTaken (s : State) (e n : Nat) : Bool := endpointUp s e && decide (n ≤ 9216)

/-- The places of a frame's bytes in a VF's memory, or why it does not translate or its home fails it. -/
def frameLocs (s : State) (vf gpa n : Nat) (k : Acc) : Except XStop (List Loc × State) := do
  let (ps, t) ← hostPages vf k (pagesOf gpa n) s
  let ls := (List.range n).map (fun i => Loc.glob (pageLookup ps (gpa + i)))
  match (if k = .write then transferBad t [] ls else transferBad t ls []) with
  | some (c, pa) => throw (.fault 0x0C c false pa)
  | none => return (ls, t)

/-- What writing a received message comes to: it is done, or gone, or has to wait for a claim, for a page that migrates, within the limit of 13_translation R416, or for an earlier message of its stream. -/
def frameWrite (s : State) (f : Arrival) : Option State :=
  if f.endpoint = Config.vfs then some { s with mgmtMem := (f.bytes.zipIdx).foldl (fun m b => tabSet m ((f.va + b.2) % 2 ^ 64) b.1 0) s.mgmtMem }
  else if !endpointUp s f.endpoint then some s
  else match frameLocs s f.endpoint f.va f.bytes.length .write with
    | .error (.migrating _ _ _) => if f.since + migrationLimit ≤ s.time then some s else none
    | .error x => some (noteXStop s f.endpoint x)
    | .ok (ls, t) => if ls.any (claimed t) then none else some (locWrites t none (ls.zip f.bytes))

/-- Message k of those received is written at its homes, unless an earlier one of its reliable ordered stream is still to be (16_fabric R501). -/
def deliver (k : Nat) (s : State) : State :=
  match s.inbox[k]? with
  | none => s
  | some f =>
    if f.stream.isSome && (s.inbox.take k).any (fun g => decide (g.endpoint = f.endpoint) && decide (g.stream = f.stream)) then s
    else match frameWrite s f with
      | some t => { t with inbox := t.inbox.eraseIdx k, locl := s.locl, remt := s.remt }
      | none => s

/-! ## Requests from other modules (16_fabric R482, R484) -/

/-- The PA and the bytes of a request. -/
def remotePlace : RemoteReq → Nat × Nat
  | .load pa n => (pa, n)
  | .store pa bs => (pa, bs.length)
  | .atom pa _ wide _ => (pa, if wide then 8 else 4)
  | .cas pa _ _ => (pa, 8)

/-- What the home does and answers. -/
def serveRemote (s : State) (r : RemoteReq) : List Byte × State :=
  let (pa, n) := remotePlace r
  let s := serveLine s (lineOf pa)
  let old := memReadList s.mem pa n
  match r with
  | .load _ _ => (old, s)
  | .store _ bs => ([], homeWrite s none pa bs)
  | .atom _ op _ v => (old, homeWrite s none pa (opBytes op.toNat old (leBytes n v.toNat)))
  | .cas _ e v => (old, if leNat old = e.toNat then homeWrite s none pa (leBytes 8 v.toNat) else s)

/-- A request of this module's agents, which R472 counts, is none that arrives from another module. -/
def keepCounts (s t : State) : State := { t with locl := s.locl, remt := s.remt }

/-! ## Retirement -/

/-- Minima rescaled to a capacity (14_tenancy R441). -/
def rescale (ms : List Nat) (c : Nat) : List Nat :=
  let t := ms.foldl (· + ·) 0
  if t ≤ c then ms
  else
    let floors := ms.map (fun m => m * c / t)
    let extra := (sortBy (fun v => (t - ms.getD v 0 * c % t) * 64 + v) (List.range ms.length)).take (c - floors.foldl (· + ·) 0)
    (floors.zipIdx).map (fun f => if extra.contains f.2 then f.1 + 1 else f.1)

def vfList (s : State) (f : Vf → Nat) : List Nat := (List.range Config.vfs).map (fun v => f (getVf s v))

/-- Writes the minima of one kind; every VF is SCALED, and OVERCOMMIT goes to the context that takes the firmware's notices (14_tenancy R441; 00_scope R12; log 74). -/
def applyScale (s : State) (aux : Word) (ms : List Nat) (put : Vf → Nat → Vf) : State :=
  let s := (ms.zipIdx).foldl (fun s m => setVf s m.2 { put (getVf s m.2) m.1 with scaled := true }) s
  noticeHost { s with out := s.out ++ [.overcommit aux] } hostVf { info := noticeInfo 0x18, aux := aux, recAt := 0, gh := 0 }

def scaleClusters (s : State) : State :=
  let ms := vfList s (·.mincl)
  if ms.foldl (· + ·) 0 ≤ clustersUp s then s else applyScale s 0 (rescale ms (clustersUp s)) (fun v m => { v with mincl := m })

def scaleBandwidth (s : State) : State :=
  let ms := vfList s (·.minbw)
  if ms.foldl (· + ·) 0 ≤ bwCapacity s then s else applyScale s 1 (rescale ms (bwCapacity s)) (fun v m => { v with minbw := m })

/-- A reply goes through the port of its request, or waits while a hold on VL 1 stops that port (16_fabric R477, R479). -/
def sendReply (s : State) (port : Nat) (bytes : Option (List Byte)) : State :=
  if s.heldVls.contains (port, 1) then { s with replies := s.replies ++ [.remoteReply port bytes] } else { s with out := s.out ++ [.remoteReply port bytes] }

def Message.viaPort (port : Nat) : Message → Bool
  | .remoteReply p _ => decide (p = port)
  | _ => false

/-! ## Requests that a failed port or link carries (16_fabric R480, R481, R487) -/

/-- Does a request for a byte go through this port? -/
def goesVia (s : State) (port : Nat) : Loc → Bool
  | .glob pa => !isLocal s pa && decide (portOf s pa = some port)
  | _ => false

/-- A remote store or RED in a core's path: if it has been sent on a failed port, it ends with INTEGRITY or completes; else it goes through another port. Which holds is free. -/
def failOut (port core : Nat) (s : State) (e : StoreEnt) : State :=
  let i := (getCore s core).out.idxOf e
  if !e.locs.any (goesVia s port) || !mayPerform s core i e then s
  else
    let f := freeNat s
    if f.1 % 3 = 0 then
      let p := e.parts.headD { lanes := 0, va := 0, writes := [] }
      let pa := match e.locs with | .glob pa :: _ => pa | _ => 0
      let t := setCore f.2 core { getCore f.2 core with out := (getCore f.2 core).out.eraseIdx i }
      logError (modGroup t e.gid (fun g => { g with failed := g.failed ++ [(p.lanes, p.va)] })) 0x07 pa (gridOf s e.gid).vf true
    else if f.1 % 3 = 1 then performHome f.2 core i else f.2

/-- Can an agent take the fault of a load or atomic of its own that is under way (log 99)? -/
def takesFault (s : State) : Agent → Bool
  | .group g => (match (getGroup s g).run with | .eligible => true | .waiting _ => true | _ => false) && (getGroup s g).deferred.isNone && (getGroup s g).recDue.isNone && decide ((teamOf s g).res = .running)
  | .axp g => (match (getGroup s g).axp with | some a => a.running && a.stopped.isNone | none => false)
  | .queue q => (match tabFind s.queues q with | some c => decide (c.state = .running) || decide (c.state = .waiting) | none => false)
  | _ => false

/-- A load or atomic that has been sent on a failed port ends with INTEGRITY, or completes, or is sent again; which is free. Its agent takes the fault where it stands, and its destination keeps what it held (log 99). -/
def failPending (port : Nat) (s : State) (p : Pending) : State :=
  match p.parts.find? (fun x => !x.done && x.waits.any (goesVia s port)) with
  | none => s
  | some x =>
    let f := freeBool s
    if !f.1 || !takesFault s p.agent || !mayReturn s p x then f.2
    else
      let pa := match x.waits.find? (goesVia s port) with | some (.glob pa) => pa | _ => 0
      let t : State := { f.2 with cur := p.agent, pending := f.2.pending.filter (fun q => decide (q.id ≠ p.id)) }
      let t := setRegs t ((dstFields p.dst p.width).foldl (fun r n => r.setEmpty n false) (regsOf t))
      { takeTrap { cause := 0x0C, aux := 0x07, va := BitVec.ofNat 64 x.va, pa := pa } t with cur := s.cur }

/-- The work of an engine whose request a failed port or link carried: the token's INDEX is the class where the work's entry gives it none (15_platform R465), and else the place of the failure, which is free (log 95). A collective goes on for its other members. -/
def failWork (s : State) (w : Work) (cls : Nat) : State :=
  let f := freeNat s
  let index := f.1 % 2 ^ 24
  if w.ended then s
  else match w.kind with
    | .coll => setWork f.2 (w.note 0x0C index)
    | .chlaunch => (match getTask s (taskPkg w) w.vf with
      | some t => if t.work = w.id ∧ t.started then faultTask s (taskPkg w) w.vf 0x0C 0 t.apc 0 else s
      | none => s)
    | .compact => (match getTask s (taskPkg w) w.vf with
      | some t => if t.work = w.id ∧ t.started then failTask (dropClaims f.2 w.id) (taskPkg w) w.vf 0x0C index 0 0 0 else s
      | none => s)
    | .cpy => setWork (dropClaims f.2 w.id) (w.failed 0x0C index)
    | .gather => setWork (dropClaims f.2 w.id) (w.failed 0x0C (index % 64))
    | .scatter => setWork (dropClaims f.2 w.id) (w.failed 0x0C (index % 64))
    | .ldslot _ => setWork (dropClaims f.2 w.id) (w.failed 0x0C index)
    | .cbload _ => setWork (dropClaims f.2 w.id) (w.failed 0x0C index)
    | .accst => setWork (dropClaims f.2 w.id) (w.failed 0x0C index)
    | .mma _ => s
    | .accz => s
    | .accrd => s
    | .accwr => s
    | .launch => s
    | .migrate _ _ => s
    | _ => setWork (dropClaims s w.id) (w.failed 0x0C cls)

/-- Work that reaches lines through a failed port: a request of it has been sent there and ends with INTEGRITY, or not, which is free. -/
def failWorkVia (port : Nat) (s : State) (w : Work) : State :=
  if w.pages.any (fun p => (List.range 32).any (fun i => goesVia s port (.glob (p.2.pa * 4096 + i * lineSize)))) then
    let f := freeBool s
    if f.1 then failWork f.2 w 0x07 else f.2
  else s

/-! ## Errors that strike (R465, R466; 16_fabric R487) -/

def strikeReg (s : State) (a : Agent) (f lane : Nat) : State :=
  let bit : Nat × Nat := (f, if 96 ≤ f then 0 else lane)
  let hit (r : RegFile) : RegFile := if (f < 88 ∧ lane < 64) ∨ (96 ≤ f ∧ f < 127) then { r with bad := bit :: r.bad.filter (· ≠ bit) } else r
  let task (p v n : Nat) : State := match getTask s p v with
    | some t => if f < 16 ∧ t.started then setTask s p v { t with bad := insertNat t.bad n } else s
    | none => s
  match a with
  | .group g => { s with groups := tabMod s.groups g (fun x => { x with regs := hit x.regs }) }
  | .axp g => { s with groups := tabMod s.groups g (fun x => { x with axp := x.axp.map (fun c => { c with regs := hit c.regs }) }) }
  | .queue q => { s with queues := tabMod s.queues q (fun x => { x with regs := hit x.regs }) }
  | .cheA p v => task p v f
  | .cheX p v => task p v (16 + f)

/-- An error in the tag of a line drops the line, a dirty one as R466 has it. -/
def strikeTag (s : State) (line : Nat) : State :=
  if (tabFind s.l2 line).isNone then s
  else
    let t := recallLine (dropCopies s line) line
    let t := if (tabFind t.lpddr line).isSome then { t with badLines := insertNat t.badLines line } else t
    logError { t with l2 := tabErase t.l2 line, struck := t.struck.filter (· ≠ .l2 line), lpddr := tabErase t.lpddr line, evictFirst := t.evictFirst.filter (· ≠ line) } 0x04 (line * lineSize) 255 true

/-- Is there something for an error to strike? -/
def strikes (s : State) : Strike → Bool
  | .byte (.spad tag off) => decide (off < (getTeam s tag).spadSize)
  | .byte (.clu c off) => decide (c < Config.clusters) && decide (off < 2 ^ 22)
  | .queue q => (tabFind s.queues q).isSome
  | .decode _ op => decide (op < 1024)
  | .l2 line => (tabFind s.l2 line).isSome
  | .flit line => decide (line < 2 ^ 50)
  | _ => false

/-- An uncorrectable error strikes. A detected one reaches whoever meets it; a dirty line's is recorded at its home at once (R466), and a frame is dropped, which its sender sends again. -/
def strike (x : Strike) (s : State) : State :=
  match x with
  | .reg a f lane => strikeReg s a f lane
  | .copy core line => { s with cores := tabMod s.cores core (fun k => { k with s := tabMod k.s line (fun l => { l with bad := true }) }) }
  | .slot tag n => modTeam s tag (fun t => { t with slots := tabMod t.slots n (fun o => { o with bad := true }) })
  | .tile tag n => modTeam s tag (fun t => { t with tiles := tabMod t.tiles n (fun o => { o with bad := true }) })
  | .l2Tag line => strikeTag s line
  | .low line => { s with badLow := insertNat s.badLow line }
  | .frame => logError s 0x08 (Config.linkId 0x08 0) 255 true
  | .l2 line =>
    if (tabFind s.lpddr line).isSome then { s with badLines := insertNat s.badLines line }
    else if strikes s x then { s with struck := x :: s.struck.filter (· ≠ x) } else s
  | _ => if strikes s x then { s with struck := x :: s.struck.filter (· ≠ x) } else s

/-- Another module reaches Camp 1, or leaves it. -/
def moduleChange (m : Nat) (up : Bool) (s : State) : State :=
  if 512 ≤ m ∨ m = s.modn.toNat then s else { s with down := s.down.filter (· ≠ m) ++ (if up then [] else [m]) }

/-- The other things that come from outside. -/
def outside (x : Outside) (s : State) : State :=
  match x with
  | .firmware f => { s with firmware := f }
  | .hypervisor bs => { s with hypervisor := some bs }
  | .image id ki ni golden =>
    if !atWork s ∨ ki % 1024 ≠ 0 ∨ ni % 1024 ≠ 0 then s
    else { s with images := tabPut s.images id { ki := ki, ni := ni, golden := golden, sum := shake256 (memReadList s.mem golden (ki / 1024 * (ni / 1024) * 2 ^ 19)) 64 } }
  | .stageFails =>
    if s.stage = .camp0 then { s with stageFailed := some .camp1 } else if s.stage = .camp1 then { s with stageFailed := some .summit } else s
  | .deliver k => deliver k s
  | .replay die => if s.stage = .camp0 ∧ s.healthCodes = [] ∧ die < Config.arrayDies then (replayDie s die).getD s else s
  | .routes => if pastCamp0 s then { s with out := s.out ++ [.routes s.routes] } else s

/-! ## Opening and closing a VF (14_tenancy R428) -/

def vfBad (s : State) (vf : Nat) (c : VfConfig) : Bool :=
  let t := setVf s vf { getVf s vf with mincl := c.mincl, mintile := c.mintile, minbw := c.minbw }
  !atWork s || decide (Config.vfs ≤ vf) || (getVf s vf).isOpen || decide (clustersUp s < sumVfs t (·.mincl)) || decide (2048 < sumVfs t (·.mintile))
  || decide (bwCapacity s < sumVfs t (·.minbw))

/-- Ends the tasks of a VF's ring on a package with LEASE_REVOKED, first to last. -/
def endTasks (pkg vf : Nat) : Nat → State → State
  | 0, s => s
  | n + 1, s =>
    match getTask s pkg vf with
    | none => s
    | some t =>
      endTasks pkg vf n (revokeTask s pkg vf t)

/-- V clears and GEN rises in every valid entry of a VF (11_die_analogue R343). -/
def revokeAll (s : State) (vf : Nat) : State :=
  let v := getVf s vf
  setVf s vf { v with agt := v.agt.map (fun g => if grantValid g.2.words then (g.1,
    { words := [BitVec.ofNat 32 (grantField g.2.words 15 0 + (grantField g.2.words 31 16 + 1) % 65536 * 65536), g.2.words.getD 1 0 &&& ~~~1] ++ g.2.words.drop 2 }) else g) }

/-- Bytes of a granule become zero (08_cluster_sequence R263). -/
def clearGranule (k : Cluster) (g : Nat) : Cluster := { k with mem := k.mem.filter (fun p => decide (p.1 / 65536 ≠ g)) }

/-- The granules of a VF are cleared and no longer assigned. -/
def clearGranules (s : State) (vf : Nat) : State :=
  { s with clusters := s.clusters.map (fun p =>
      (p.1, (p.2.owner.filter (fun o => o.2 = vf + 1)).foldl (fun k o => { clearGranule k o.1 with owner := tabErase k.owner o.1 }) p.2)) }

/-- Every queue context of a VF stops. -/
def stopQueues (s : State) (vf : Nat) : State :=
  (queuesOf s vf).foldl (fun s q => writeDescriptor (modQueue (abandon s q) q (fun c => { c with state := .stopped, wait := none })) q) s

/-! ## The turns of the queue processors (14_tenancy R436) -/

/-- Has a VF a context that could issue? -/
def vfRunnable (s : State) (vf : Nat) : Bool := (queuesOf s vf).any (queueRunnable s)

/-- Weight of a VF; the firmware's contexts take turns as a VF of weight 1 (log 58). -/
def turnWeight (s : State) (vf : Nat) : Nat := if vf = hostVf then 1 else max 1 (getVf s vf).weight

/-- A VF that no processor serves any more: its waiting instructions are abandoned and execute again (R452). -/
def unserved (s : State) (vf : Nat) : State :=
  if (List.range 8).any (fun n => decide (tabGet s.qpVf n 0 = vf)) then s
  else (queuesOf s vf).foldl (fun s q =>
    if (getQueue s q).state = .waiting then modQueue (abandon s q) q (fun c => { c with state := .running, wait := none }) else s) s

/-- R473 STARFIX: Trigger a Starfix snapshot and return its sequence number. -/
def execStarfix (d : BitVec 7) (s : State) : Host.Outcome State Fault Refusal :=
  run s 0x348 0 (Uses.starfix d) (
      if !mayTrigger s then .ok (finish (Uses.starfix d) 4 (writeSReg s d 0xFFFFFFFE))
      else match trigger s with
        | (some n, t) => .ok (finish (Uses.starfix d) 4 (writeSReg t d (BitVec.ofNat 32 n)))
        | (none, t) => .ok (finish (Uses.starfix d) 4 (writeSReg t d 0xFFFFFFFF)))

/-- R474 HALT: groups and the other queue contexts stop; once engine work and tasks have run to their tokens, dirty lines are written to LPDDR-6 and the module enters T3. -/
def execHalt (s : State) : Host.Outcome State Fault Refusal :=
  run s 0x349 0 [] (
      let t := { s with stage := .halting, haltBy := queueOfCur s, haltFrom := stageNow s }
      if haltWaits t then .ok (waitOn .work t)
      else
        let t := flushL2 t
        .ok (finish [] 4 { t with stage := .halted, throttle := 3, throttledAt := s.time }))

/-- R433 QUEUE_DOORBELL: a write to a descriptor's TAIL word, which its context observes. -/
def execQueueDoorbell (qid : Nat) (tail : BitVec 32) (s : State) : Host.Outcome State Fault Refusal :=
  if (tabFind s.queues qid).isNone then .next s
  else if qid / 64 = hostVf then .next (modQueue s qid (fun q => { q with tail := tail.toNat }))
  else if (getVf s (qid / 64)).qtab = 0 then .next s
  else match writeVirt s (slotSpace s (qid / 64) 0 1) ((getVf s (qid / 64)).qtab.toNat + 64 * (qid % 64) + 12) (leBytes 4 tail.toNat) with
    | .ok (_, t) => .next (readDescriptor t qid)
    | .error x => .next (noteXStop s (qid / 64) x)

/-- R461, R462 POWER_GOOD: CYCLE starts at 0, Camp 0 begins with every tile SAFE, and the Camp firmware is checked. -/
def execPowerGood (s : State) : Host.Outcome State Fault Refusal :=
  .next (if s.stage = .off then enterCamp0 (restarted s s.mem) else s)

/-- R461, R460 CAMP_1: memory and ports are trained, the module has its number and its route table, programmed tiles are UNCAL, and each array die has replayed what is left of its journal; the firmware's contexts start. Not after a failed check of the firmware (R462), nor where the stage cannot complete, and MEM is 0 or 1 (00_scope R11). -/
def execCamp1 (modn : BitVec 9) (mem : BitVec 4) (routes : List Nat) (s : State) : Host.Outcome State Fault Refusal :=
  if s.stage = .camp0 ∧ s.healthCodes = [] ∧ s.stageFailed = none ∧ mem.toNat ≤ 1 then
    .next ((List.range Config.arrayDies).foldl replayAll (startFirmware <| wakeTiles { s with stage := .camp1, modn := modn, memCode := mem, routes := routes }))
  else .next s

/-- R461 SUMMIT: Almanac has warmed up every programmed tile, so that none is UNCAL, and all work is accepted. -/
def execSummit (s : State) : Host.Outcome State Fault Refusal :=
  .next (if s.stage = .camp1 ∧ s.stageFailed = none ∧ s.tiles.all (fun p => !(p.2.programmed && decide (p.2.state = .uncal))) then { s with stage := .summit } else s)

/-- R474 MANAGEMENT_RESET: the module leaves T3 and starts again from Camp 0; whether LPDDR-6 keeps its contents is free (log 57). -/
def execManagementReset (s : State) : Host.Outcome State Fault Refusal :=
  if s.stage = .halted then
    let f := freeBool s
    .next (enterCamp0 { restarted f.2 (if f.1 then s.mem else []) with time := s.time })
  else .next s

/-- R472 STARFIX_TRIGGER_PIN: An external trigger pin latches a snapshot. -/
def execStarfixTriggerPin (s : State) : Host.Outcome State Fault Refusal :=
  .next (if pastCamp0 s then (trigger s).2 else s)

/-- R472 MANAGEMENT_STARFIX: A management-endpoint request triggers a snapshot. -/
def execManagementStarfix (s : State) : Host.Outcome State Fault Refusal :=
  .next (if pastCamp0 s then (trigger s).2 else s)

/-- R472 SNAPSHOT_READ: the management endpoint reads a snapshot that every block has latched, and it is free again. -/
def execSnapshotRead (seq : Nat) (s : State) : Host.Outcome State Fault Refusal :=
  match s.snapshots.find? (fun x => x.seq = seq) with
  | some x => .next (if pastCamp0 s ∧ x.instants.all (fun i => decide (i < s.time)) then { s with snapshots := s.snapshots.filter (fun y => decide (y.seq ≠ seq)), out := s.out ++ [.snapshot x] } else s)
  | none => .next s

/-- R464 ATTESTATION_REQUEST: a report that binds the requester's nonce, signed; a VF's report where the VF's endpoint is asked. -/
def execAttestationRequest (vf : Option Nat) (nonce : List (BitVec 8)) (s : State) : Host.Outcome State Fault Refusal :=
  let ok : Bool := decide (s.stage ≠ .off) && decide (nonce.length = 32) && (match vf with | none => true | some v => decide (v < Config.vfs) && (getVf s v).endpoint)
  .next (if ok then { s with out := s.out ++ [.attestation (reportBytes s vf nonce) (signatureOf (reportBytes s vf nonce))] } else s)

/-- R461, R462, R470 HEALTH_REQUEST: the management endpoint answers with the codes of the firmware check, the overrun of the power cap and the stage that could not complete. -/
def execHealthRequest (s : State) : Host.Outcome State Fault Refusal :=
  .next (if s.stage = .off then s else { s with out := s.out ++ [.health s.healthCodes s.overrun s.stageFailed] })

/-- R501, R475 UET_WRITE_RECEIVED: a frame comes to an endpoint, and its bytes are written: a VF's at their homes through its host translation, after the earlier messages of its stream; while a claim holds a line they wait. A message whose lines perform apart is several of these. -/
def execUetWriteReceived (hdr : UetHeader) (va : BitVec 64) (bytes : List (BitVec 8)) (s : State) : Host.Outcome State Fault Refusal :=
  let e := endpointOf hdr.mac
  if !frameTaken s e bytes.length then .next s
  else .next (deliver s.inbox.length { s with inbox := s.inbox ++ [{ endpoint := e, stream := hdr.stream, va := va.toNat, bytes := bytes, since := s.time }] })

/-- R475 UET_READ_RECEIVED: an endpoint serves a read of its own address space: a VF's of the VF's memory, at the homes. -/
def execUetReadReceived (mac : BitVec 48) (va : BitVec 64) (len : Nat) (s : State) : Host.Outcome State Fault Refusal :=
  let e := endpointOf mac
  let answer (s : State) (bs : Option (List Byte)) : State := { s with out := s.out ++ [.uetRead e bs] }
  if !endpointUp s e then .next s
  else if e = Config.vfs then .next (answer s (some ((List.range len).map (fun i => tabGet s.mgmtMem ((va.toNat + i) % 2 ^ 64) 0))))
  else match frameLocs s e va.toNat len .read with
    | .error (.migrating _ _ _) => .next s
    | .error x => .next (answer (noteXStop s e x) none)
    | .ok (ls, t) =>
      if ls.any (claimed t) then .next s
      else
        let u := ((ls.map Loc.key).eraseDups).foldl serveLine t
        .next (keepCounts s (answer u (some (ls.map (locRead u)))))

/-- R482, R484 REMOTE_REQUEST_RECEIVED: a request within one line of this module's memory performs at its home, whatever the VF, and is answered through the port that it came by. -/
def execRemoteRequestReceived (r : PortReq) (s : State) : Host.Outcome State Fault Refusal :=
  let p := remotePlace r.req
  if !atWork s ∨ !isLocal s p.1 ∨ p.2 = 0 ∨ lineOf p.1 ≠ lineOf (p.1 + p.2 - 1) ∨ claimed s (.glob p.1) then .next s
  else
    let covers : Bool := match r.req with | .store _ bs => decide (bs.length = lineSize) | _ => false
    match badClass s p.1 with
    | some c =>
      if covers && decide (c ≠ 0x0A) then .next (keepCounts s (sendReply (serveRemote s r.req).2 r.port (some [])))
      else .next (keepCounts s (sendReply (logError s c p.1 255 true) r.port none))
    | none => .next (keepCounts s (sendReply (serveRemote s r.req).2 r.port (some (serveRemote s r.req).1)))

/-- R477 VL_HOLD: a hop hold on a virtual lane of a port begins or ends; as one on VL 1 ends, the replies that it kept go out. -/
def execVlHold (port : Nat) (vl : Nat) (hold : Bool) (s : State) : Host.Outcome State Fault Refusal :=
  .next (if Config.ports ≤ port ∨ 4 ≤ vl then s
    else
      let t := { s with heldVls := s.heldVls.filter (fun h => h ≠ (port, vl)) ++ (if hold then [(port, vl)] else []) }
      if hold ∨ vl ≠ 1 then t
      else { t with replies := t.replies.filter (fun m => !m.viaPort port), out := t.out ++ t.replies.filter (Message.viaPort port) })

/-- R436, R452 QP_QUANTUM_EXPIRY: a quantum ends; the VF has another while its weight gives one, else the next VF in order with a runnable context is served. A CTXSW in progress ends, or is rolled back, before the VF gives way. -/
def execQpQuantumExpiry (qp : Nat) (s : State) : Host.Outcome State Fault Refusal :=
  let vf := tabGet s.qpVf qp 0
  let next := ((List.range (hostVf + 1)).map (fun i => (vf + 1 + i) % (hostVf + 1))).find? (fun v => decide (v ≠ vf) && vfRunnable s v)
  let asked := s.qpAsked.filter (· ≠ qp)
  if 8 ≤ qp then .next s
  else if !s.qpAsked.contains qp && vfRunnable s vf && decide (tabGet s.qpQuanta qp 0 + 1 < turnWeight s vf) then .next { s with qpQuanta := tabPut s.qpQuanta qp (tabGet s.qpQuanta qp 0 + 1) }
  else match next with
    | none => .next { s with qpQuanta := tabErase s.qpQuanta qp, qpAsked := asked }
    | some v =>
      if swapping s vf then .next { s with qpAsked := qp :: asked }
      else .next (unserved { s with qpVf := tabPut s.qpVf qp v, qpQuanta := tabErase s.qpQuanta qp, qpAsked := asked } vf)

/-- R468, R465, R466 PATROL_SCRUB: the scrubber reads a line; an error is logged, and one that cannot be corrected marks the line: class 0x03 where the L2 holds it, else 0x05. -/
def execPatrolScrub (line : Nat) (err : ScrubError) (s : State) : Host.Outcome State Fault Refusal :=
  let dirty := (tabFind s.lpddr line).isSome
  let cls := if dirty || (tabFind s.l2 line).isSome then 0x03 else 0x05
  if !atWork s ∨ !isLocal s (line * lineSize) ∨ Config.capacity s.memCode ≤ line * lineSize % 2 ^ 48 then .next s
  else match err with
    | .clean => .next s
    | .corrected => .next (logError s cls (line * lineSize) 255 false)
    | .uncorrectable =>
      .next (logError (strike (if cls = 0x03 then .l2 line else .low line) s) cls (line * lineSize) 255 true)

/-- R470 THROTTLE_DEEPER: the draw has reached the module's cap, or a VF's, and throttling goes one step deeper, never past T2, where a draw above the cap is an overrun. -/
def execThrottleDeeper (vf : Option Nat) (draw : BitVec 16) (s : State) : Host.Outcome State Fault Refusal :=
  match vf with
  | none =>
    if s.pwrcap.toNat ≤ draw.toNat ∧ s.throttle < 3 then .next (observeDraw s draw.toNat) else .next s
  | some v =>
    let c := getVf s v
    if v < Config.vfs ∧ c.vfpcap ≠ 0 ∧ c.vfpcap.toNat ≤ draw.toNat then .next (observeVf s v draw.toNat) else .next s

/-- R470 THROTTLE_BACK: the draw has stayed below 90 % of the cap for 10 ms, and throttling goes one step back towards T0. -/
def execThrottleBack (vf : Option Nat) (draw : BitVec 16) (s : State) : Host.Outcome State Fault Refusal :=
  match vf with
  | none =>
    if draw.toNat * 10 < s.pwrcap.toNat * 9 ∧ 0 < s.throttle ∧ s.throttle < 3 ∧ s.lowSince.any (fun t => decide (t + 20000000 ≤ s.time)) then
      .next { s with throttle := s.throttle - 1, throttledAt := s.time, lowSince := some s.time, draw := draw, overrun := false }
    else .next s
  | some v =>
    let c := getVf s v
    if v < Config.vfs ∧ 0 < c.throttled ∧ (c.vfpcap = 0 ∨ (draw.toNat * 10 < c.vfpcap.toNat * 9 ∧ c.lowSince.any (fun t => decide (t + 20000000 ≤ s.time)))) then
      .next (setVf s v { c with throttled := c.throttled - 1, throttledAt := s.time, lowSince := some s.time })
    else .next s

/-- R441 RESOURCE_RETIREMENT: a cluster or a channel is retired; minima whose sum exceeds what is left are rescaled, with OVERCOMMIT. -/
def execResourceRetirement (channel : Bool) (n : Nat) (s : State) : Host.Outcome State Fault Refusal :=
  if channel then
    if Config.channels ≤ n ∨ s.retiredChannels.contains n then .next s
    else .next (scaleBandwidth { s with retiredChannels := insertNat s.retiredChannels n })
  else if Config.clusters ≤ n ∨ (getCluster s n).retired then .next s
  else .next (scaleClusters (setCluster s n { getCluster s n with retired := true }))

/-- R480 PORT_RETIREMENT: a port that fails retraining reaches nothing any more. Every request already sent on it has completed or ended with INTEGRITY when its lines go to other ports; what has not been sent goes through those. -/
def execPortRetirement (port : Nat) (s : State) : Host.Outcome State Fault Refusal :=
  let t := s.cores.foldl (fun s c => c.2.out.foldl (failOut port c.1) s) s
  let t := t.pending.foldl (failPending port) t
  let t := t.works.foldl (failWorkVia port) t
  .next { t with routes := t.routes.filter (fun r => decide (r / 512 ≠ port)) }

/-- R368, R481 UCIE_LINK_RETRAIN: a flit failed twice: the work whose request it carried ends with INTEGRITY, array work once the lines that it wrote have landed, the error is logged and the link is retrained; the next such event of the die ends the retraining. The die is an array die, or 16 more than a Ridge die. -/
def execUcieLinkRetrain (die : Nat) (work : Option Nat) (s : State) : Host.Outcome State Fault Refusal :=
  if s.retraining.contains die then .next { s with retraining := s.retraining.filter (· ≠ die) }
  else
    let t := { s with retraining := s.retraining ++ [die] }
    match work.bind (getWork s) with
    | none => .next (logError t 0x06 (Config.linkId 0x06 die) 255 true)
    | some w =>
      let layer := match w.kind with | .layerf => true | .layert => true | .layerd => true | _ => false
      let arr := layer || (match w.kind with | .almrun => true | _ => false)
      if w.ended then .next s
      else if !arr then .next (failWork (logError t 0x06 (Config.linkId 0x06 die) w.vf true) w 0x06)
      else
        let t := logError t 0x06 (Config.linkId 0x06 die) w.vf true
        if layer then
          .next (lySettle t (w.note 0x0C (((List.range (lyNvec w)).find? (fun v => !(List.range (lyPerVec w)).all (fun j => w.pieces.contains (v * lyPerVec w + j)))).getD 0)))
        else .next (setWork (dropClaims t w.id) (w.failed 0x0C 0x06))

/-- R309 L2_LINE_EVICTION: once no claim holds it, the L1 copies of a line are invalidated, its partials combined, and a dirty line is written to LPDDR-6. -/
def execL2LineEviction (line : Nat) (s : State) : Host.Outcome State Fault Refusal :=
  .next (if !isLocal s (line * lineSize) ∨ claimed s (.glob (line * lineSize)) then s
    else l2Leave s line)

/-- R460 POWER_FAILURE: at any instant volatile state is lost; the journal, the tiles' weights and the cairns written survive, and the newest cairn may be torn. -/
def execPowerFailure (s : State) : Host.Outcome State Fault Refusal :=
  .next (if s.stage = .off then s else tearJournal (restarted s []))

/-- R428 VF_OPEN: host space, QTAB, weight, minima and AGTLEN, then HVCTX, then slot 0, then the endpoint. -/
def execVfOpen (vf : Nat) (cfg : VfConfig) (s : State) : Host.Outcome State Fault Refusal :=
  if vfBad s vf cfg then .next s
  else
    let old := getVf s vf
    let t := setVf s vf {
      agt := old.agt, chhalt := old.chhalt, htrt := hostRoot cfg.htrt, hrdt := hostRange cfg.hrdt, msetc := BitVec.ofNat 32 (min cfg.logn 4),
      mset := (List.range 8).foldl (fun m i => tabPut m i (BitVec.ofNat 32 (cfg.mset.getD (2 * i) 0 % 512 + cfg.mset.getD (2 * i + 1) 0 % 512 * 65536))) [],
      qtab := cfg.qtab, weight := max 1 (min 15 cfg.weight), mincl := cfg.mincl, mintile := cfg.mintile, minbw := cfg.minbw, agtlen := min 65536 cfg.agtlen }
    let t := loadSlot (writeHvctx t vf cfg.hvctx) vf 0 cfg.slot0 (fun _ => [])
    .next (setVf t vf { getVf t vf with isOpen := true, endpoint := true })

/-- Array work of a VF that passed R342 and has not filled its token (11_die_analogue R343). -/
def arrayInFlight (s : State) (vf : Nat) : Bool :=
  s.works.any (fun w => decide (w.vf = vf) &&
    (match w.kind with | .layerf => true | .layert => true | .layerd => true | .calrd => true | .almrun => true | _ => false))

/-- R428 VF_CLOSE: queue contexts stop, grids end, tasks end with LEASE_REVOKED, grants are revoked, granules are cleared and slots emptied; the endpoint discards frames from then on. A revocation completes after the array work that passed its check (11_die_analogue R343): while there is such work the event goes as far as the tasks, and another one goes on. The cause with which the grids end is one of R12's, which is free (log 7). -/
def execVfClose (vf : Nat) (s : State) : Host.Outcome State Fault Refusal :=
  if Config.vfs ≤ vf ∨ !(getVf s vf).isOpen then .next s
  else
    let t := stopQueues s vf
    let f := freeNat t
    let t := (f.2.grids.filter (fun g => g.2.vf = vf)).foldl (fun s g => endGrid s g.1 (1 + f.1 % 0x18)) f.2
    let t := (List.range Config.packages).foldl (fun s p => endTasks p vf (getRing s p vf).tasks.length s) t
    if arrayInFlight t vf then .next t else
    let t := clearGranules (revokeAll t vf) vf
    let t := ((getVf t vf).slots.map (·.1)).foldl (fun s n => unloadSlot s vf n none) t
    let t := { t with pending := t.pending.filter (fun p => match p.agent with | .queue q => decide (q / 64 ≠ vf) | _ => true) }
    .next (setVf t vf { getVf t vf with isOpen := false, endpoint := false, slots := [], runSlots := [] })

/-- R262, R263 GRANULE_ASSIGNMENT: a granule goes to a VF, or to none; it is cleared when the VF is not the one that had it last. -/
def execGranuleAssignment (cluster : Nat) (granule : Nat) (vf : Option Nat) (s : State) : Host.Outcome State Fault Refusal :=
  if !atWork s ∨ Config.clusters ≤ cluster ∨ 64 ≤ granule then .next s
  else
    let k := getCluster s cluster
    match vf with
    | none => .next (setCluster s cluster { k with owner := tabErase k.owner granule })
    | some v =>
      if Config.vfs ≤ v then .next s
      else
        let c := if tabGet k.last granule (v + 1) = v + 1 then k else clearGranule k granule
        .next (setCluster s cluster { c with owner := tabPut c.owner granule (v + 1), last := tabPut c.last granule (v + 1) })

end Sys2Proof.Machine
end

