-- ==== Sys2Proof/Machine/CollOp.lean ====
section
/-! DEFINITION. COLL (16_fabric R493-R500): blocks, instances and their members, Combine and Reduce, the lines of a member. -/

namespace Sys2Proof.Machine

/-! ## The block (R493, R494) -/

def collOp (w : Work) : Nat := w.mods % 4
def collTy (w : Work) : Nat := w.mods / 4 % 4
def collFix (w : Work) : Bool := decide (w.mods / 16 % 2 = 1)
def collE (w : Work) : Nat := if collTy w = 0 then 4 else if collTy w = 1 then 2 else 8
def collN (w : Work) : Nat := w.word 4
def collCnt (w : Work) : Nat := bits (w.word 5) 27 16 + 1
def collRank (w : Work) : Nat := bits (w.word 5) 11 0
def collRoot (w : Work) : Nat := bits (w.word 6) 27 16
def collTag (w : Work) : Nat := bits (w.word 6) 15 0
def collSrcLen (w : Work) : Nat := collN w * collE w * (if collOp w = 2 then collCnt w else 1)
def collDstLen (w : Work) : Nat := collN w * collE w * (if collOp w = 1 then collCnt w else 1)

/-- The lowest bad word and its cause (R494, R495, R499). -/
def collBad (s : State) (w : Work) : Option (Nat × Nat) :=
  let src := w.pair 0
  let dst := w.pair 2
  let same := (decide (collOp w = 0) || decide (collOp w = 3)) && decide (src = dst)
  let badN := decide (collN w = 0) || decide (2 ^ 28 < collN w)
  let badM := decide (bits (w.word 5) 31 28 ≠ 0) || decide (bits (w.word 5) 15 12 ≠ 0) || decide (collCnt w ≤ collRank w)
  let badT := decide (bits (w.word 6) 31 28 ≠ 0) || (if collOp w = 3 then decide (collCnt w ≤ collRoot w) else decide (collRoot w ≠ 0))
  if winOf src ≠ .glob then some (0x06, 0)
  else if src % collE w ≠ 0 then some (0x01, 0)
  else if winOf dst ≠ .glob then some (0x06, 2)
  else if dst % collE w ≠ 0 then some (0x01, 2)
  else if !badN && !badM && !same && decide (src < dst + collDstLen w) && decide (dst < src + collSrcLen w) then some (0x01, 2)
  else if badN then some (0x01, 4)
  else if badM then some (0x01, 5)
  else if badT then some (0x01, 6)
  else match barLocator s (w.word 7) with
    | .error c => some (c, 7)
    | .ok _ => none

/-! ## Instances (R495, R498) -/

def setColl (s : State) (c : Coll) : State := { s with colls := s.colls.map (fun d => if d.id = c.id then c else d) }
def collOf (s : State) (work : Nat) : Option Coll := s.colls.find? (fun c => c.works.contains work)

/-- The works of an instance's members; what has been read of a member stays after its token has filled (R498). -/
def membersIn (s : State) (c : Coll) : List Work :=
  c.works.filterMap (fun id => match getWork s id with
    | some w => some w
    | none => c.past.find? (fun w => w.id = id))

/-- Claims every member's destination lines, or waits for room in the claim tables. -/
def claimColl (s : State) (c : Coll) : State :=
  let one (s : State) (id : Nat) : Except Stop State :=
    match getWork s id with
    | none => .ok s
    | some w =>
      let (keys, w, s) := segKeys s w [(w.pair 2, collDstLen w)]
      claimLines (setWork s w) w.id keys
  match c.works.foldlM one s with
  | .ok t => setColl t { c with claimed := true }
  | .error _ => s

/-- The instance has its members, here and, in a grid of several modules, elsewhere: free values are set aside for the order of Combines and for what those elsewhere bring (log 55). -/
def startColl (s : State) (c : Coll) (w : Work) : State :=
  let c := { c with full := true, base := s.fresh }
  let s := { s with fresh := s.fresh + collCnt w * (2 ^ 40 + 2 * collN w * collCnt w) }
  claimColl (setColl s c) c

/-- What all members of an instance must name (R495). -/
def collParams (w : Work) : List Nat := [w.mods, collN w, collCnt w, collRoot w]

/-- The instance has n members, here and on other modules: they agree and start, or each reports that they do not (R499). -/
def gathered (s : State) (c : Coll) : State :=
  let ws := membersIn s c
  let ranks := ws.map collRank ++ c.away.map (·.1)
  match ws.map collParams ++ c.away.map (·.2.1) with
  | [] => s
  | p :: ps =>
    if ranks.length < p.getD 2 0 then s
    else
      let endAll (i : Nat) : State := setColl (c.works.foldl (fun s id => endWork s id 0x01 i) s) { c with full := true }
      if ps.any (fun x => decide (x ≠ p)) then endAll 0x100
      else if ranks.eraseDups.length < ranks.length then endAll 0x101
      else match ws with
        | w :: _ => startColl s c w
        | [] => setColl s { c with full := true }

/-- The k-th instance of a tag in a grid. -/
def findColl (s : State) (grid tag k : Nat) : Option Coll :=
  s.colls.find? (fun c => decide (c.grid = grid) && decide (c.tag = tag) && decide (c.k = k))

/-- The instance that a member's COLL belongs to: the rank's next one (R495); but while the rank's last instance still gathers, a COLL of another group that names the rank is one more member of it (R499; log 97). -/
def collIndex (s : State) (w : Work) (count : Nat) : Nat :=
  match findColl s w.grid (collTag w) count with
  | some c =>
    if !c.full && !c.closed && (membersIn s c).all (fun m => decide (collRank m ≠ collRank w) || decide (m.agent ≠ w.agent))
      && (membersIn s c).any (fun m => decide (collRank m = collRank w)) then count else count + 1
  | none => count + 1

/-- A member joins the k-th instance of its tag. -/
def joinColl (s : State) (w : Work) (k : Nat) : State :=
  match findColl s w.grid (collTag w) k with
  | none =>
    let c : Coll := { id := w.id, grid := w.grid, tag := collTag w, k := k, works := [w.id], opened := s.time }
    gathered { issueWork s w with colls := s.colls ++ [c] } c
  | some c =>
    if c.closed then issueWork s (w.failed 0x14 0)
    else if c.full then issueWork s (w.failed 0x01 0x101)
    else
      let c := { c with works := c.works ++ [w.id] }
      gathered (setColl (issueWork s w) c) c

/-- A member on another module joins the k-th instance of a tag (R495). -/
def joinAway (s : State) (grid tag k rank : Nat) (params : List Nat) : State :=
  let m := (rank, params, false)
  match findColl s grid tag k with
  | none =>
    let c : Coll := { id := s.nextId, grid := grid, tag := tag, k := k, opened := s.time, away := [m] }
    gathered { s with nextId := s.nextId + 1, colls := s.colls ++ [c] } c
  | some c => if c.closed || c.full then s else gathered (setColl s { c with away := c.away ++ [m] }) { c with away := c.away ++ [m] }

/-! ## Combine and Reduce (R496) -/

def collCombine (ty a b : Nat) : Nat :=
  let f := if ty = 2 then fa36 else fp32
  (roundFP (exactSum [f.decode a, f.decode b]).1 f .rne false).1

def elemLoad (ty : Nat) (bs : List Byte) : Nat := if ty = 0 then leNat bs else if ty = 1 then leNat bs * 65536 else leNat bs % 2 ^ 36

def elemStore (ty v : Nat) : List Byte :=
  if ty = 0 then leBytes 4 v else if ty = 1 then leBytes 2 (roundFP (fp32.decode v) bf16 .rne false).1 else leBytes 8 v

/-- Pairwise combination in a free order. -/
def reduceFree (ty : Nat) : Nat → Nat → List Nat → Nat
  | 0, _, l => l.headD 0
  | n + 1, base, l =>
    if l.length ≤ 1 then l.headD 0
    else
      let i := Config.freeNat base % l.length
      let rest := l.eraseIdx i
      let j := Config.freeNat (base + 1) % rest.length
      reduceFree ty n (base + 2) (collCombine ty (l.getD i 0) (rest.getD j 0) :: rest.eraseIdx j)

/-- A value with the one NaN code that a reduction writes (R496; 02_numbers R61, R66). -/
def canonical (ty v : Nat) : Nat :=
  let f := if ty = 2 then fa36 else fp32
  if f.isNaN v then f.canonNaN else v

/-- Element i of the reduction: the same at every member (R496, R500). -/
def reduceElem (c : Coll) (w : Work) (i : Nat) (vs : List Nat) : Nat :=
  match vs with
  | [] => 0
  | v :: r => canonical (collTy w) <| if collFix w then r.foldl (collCombine (collTy w)) v else reduceFree (collTy w) vs.length (c.base + collCnt w * 2 ^ 40 + i * (2 * collCnt w)) vs

/-! ## One destination line of a member -/

inductive CollEnd where
  | later
  | fail (cause index : Nat) (err : Nat × Nat)
  deriving DecidableEq, Repr

/-- Runs of source bytes, by rank and offset, that n bytes of a destination from o on need. -/
def collNeeds (w : Work) (o n : Nat) : List (Nat × Nat × Nat) :=
  let size := collN w * collE w
  match collOp w with
  | 0 => (List.range (collCnt w)).map (fun r => (r, o, n))
  | 1 => (List.range (collCnt w)).filterMap (fun r =>
      let a := max o (r * size)
      let b := min (o + n) ((r + 1) * size)
      if a < b then some (r, a - r * size, b - a) else none)
  | 2 => (List.range (collCnt w)).map (fun r => (r, collRank w * size + o, n))
  | _ => [(collRoot w, o, n)]

/-- Source bytes of a rank: by strong relaxed reads at the homes, each line once; those of a member elsewhere are free. -/
def collRead (s : State) (c : Coll) (w : Work) (need : Nat × Nat × Nat) : Except CollEnd (List Byte × State) :=
  let (r, o, n) := need
  match (membersIn s c).find? (fun m => collRank m = r) with
  | none => .ok ((List.range n).map (fun i => Config.freeByte (c.base + r * 2 ^ 40 + o + i)), s)
  | some m =>
    let idx := o / collE w / 32
    match workLocs s m (m.pair 0 + o) n .read notPriv with
    | .error (.wait _) => .error .later
    | .error (.trap t) => .error (.fail t.cause idx (t.aux.toNat % 256, t.pa))
    | .ok (ls, m, s) =>
      match transferBad s ls [] with
      | some e => .error (.fail 0x0C idx e)
      | none =>
        let busy (l : Loc) : Bool := (tabFind m.srcLines l.key).isNone &&
          (s.claims.any (fun x => decide (x.1 = l.key) && !c.works.contains x.2) || vlHeld s 2 (l.key * lineSize))
        if ls.any busy then .error .later
        else
          let (m, s) := keepLines s m ls
          .ok (ls.map (keptByte m), setWork s m)

def collReads (s : State) (c : Coll) (w : Work) : List (Nat × Nat × Nat) → Except CollEnd (List (List Byte) × State)
  | [] => .ok ([], s)
  | x :: r => do
    let (b, s) ← collRead s c w x
    let (l, s) ← collReads s c w r
    return (b :: l, s)

/-- The bytes of a member's destination from o on, given its sources. -/
def collBytes (c : Coll) (w : Work) (o n : Nat) (srcs : List (List Byte)) : List Byte :=
  let e := collE w
  if collOp w = 1 ∨ collOp w = 3 then srcs.flatten
  else (List.range (n / e)).flatMap (fun j =>
    let i := (if collOp w = 2 then collRank w * collN w else 0) + o / e + j
    elemStore (collTy w) (reduceElem c w i (srcs.map (fun b => elemLoad (collTy w) ((b.drop (j * e)).take e)))))

/-- Piece k of a run of n bytes from d: offset and length within one line. -/
def linePiece (d n k : Nat) : Nat × Nat :=
  let start := max d ((d / lineSize + k) * lineSize)
  let stop := min (d + n) ((d / lineSize + k + 1) * lineSize)
  (start - d, stop - start)

/-- Has a member written every line below its failing one? -/
def collWritten (w : Work) : Bool :=
  (List.range (lineCount (w.pair 2) (collDstLen w))).all (fun k =>
    w.pieces.contains k || (decide (w.status ≠ 0) && decide (w.index ≤ (linePiece (w.pair 2) (collDstLen w) k).1 / collE w / 32)))

/-- Have the source lines of a run of bytes of a member been read? -/
def collKept (s : State) (m : Work) (o n : Nat) : Bool :=
  match workLocs s m (m.pair 0 + o) n .read notPriv with
  | .ok (ls, _, _) => ls.all (fun l => (tabFind m.srcLines l.key).isSome)
  | .error _ => false

/-- Will no member read this member's source again? Each line that a member has yet to write needs only source lines that have been read, and those on other modules have done reading. -/
def sourceRead (s : State) (c : Coll) (m : Work) : Bool :=
  ((decide (collOp m = 3) && decide (collRank m ≠ collRoot m)) || c.away.all (·.2.2)) &&
  (membersIn s c).all (fun x => x.ended || (List.range (lineCount (x.pair 2) (collDstLen x))).all (fun k =>
    let (o, n) := linePiece (x.pair 2) (collDstLen x) k
    x.pieces.contains k || (decide (x.status ≠ 0) && decide (x.index ≤ o / collE x / 32))
    || (collNeeds x o n).all (fun d => decide (d.1 ≠ collRank m) || collKept s m d.2.1 d.2.2)))

/-- Members that have written their own and are read end (R498). -/
def settleColl (s : State) (c : Coll) : State :=
  (membersIn s c).foldl (fun s w => if !w.ended && collWritten w && sourceRead s c w then setWork s { w with ended := true } else s) s

/-- A status of one member, or of all where a source fails. -/
def noteColl (s : State) (c : Coll) (ids : List Nat) (cause index : Nat) (err : Nat × Nat) (vf : Nat) : State :=
  let s := if cause = 0x0C then logError s err.1 err.2 vf true else s
  settleColl (ids.foldl (fun s id => match getWork s id with | some m => if m.ended then s else setWork s (m.note cause index) | none => s) s) c

/-- ENGINE_LINE_WRITE for COLL: line k of a member's destination, once the instance has all its members. -/
def collLine (s : State) (w : Work) (k : Nat) : State :=
  match collOf s w.id with
  | none => s
  | some c =>
    let d := w.pair 2
    let (o, n) := linePiece d (collDstLen w) k
    let idx := o / collE w / 32
    if w.ended ∨ c.closed ∨ !c.full then s
    else if !c.claimed then claimColl s c
    else if w.pieces.contains k ∨ lineCount d (collDstLen w) ≤ k then s
    else match collReads s c w (collNeeds w o n) with
      | .error .later => s
      | .error (.fail cause i e) => noteColl s c c.works cause i e w.vf
      | .ok (srcs, t) =>
        let w := (getWork t w.id).getD w
        match workLocs t w (d + o) n .write notPriv with
        | .error (.wait x) => workWaits s w x
        | .error (.trap x) => noteColl t c [w.id] x.cause idx (x.aux.toNat % 256, x.pa) w.vf
        | .ok (dst, w, t) =>
          match transferBad t [] dst with
          | some e => noteColl t c [w.id] 0x0C idx e w.vf
          | none =>
            if !(dst.all (fun l => firstClaimOn 2 t w.id l.key)) then s
            else
              let (t, w) := writeLine t w (dst.zip (collBytes c w o n srcs))
              settleColl (setWork t { w with pieces := k :: w.pieces }) c

/-- R496 COLL: Join a collective instance across grid members. -/
def execColl (d : BitVec 7) (a : BitVec 7) (o : BitVec 2) (y : BitVec 2) (x : BitVec 1) (s : State) : Host.Outcome State Fault Refusal :=
  run s 0x350 (BitVec.ofNat 7 (o.toNat + 4 * y.toNat + 16 * x.toNat)) (Uses.coll d a y) (do
      if gridIsDet s && decide (x = 0) then throw (trapOf 0x0D)
      engineGate s
      let w := newWork s .coll d (o.toNat + 4 * y.toNat + 16 * x.toNat) (readBlock s a 8)
      let key := collTag w * 4096 + collRank w
      let g := getGrid s w.grid
      let n := collIndex s w (tabGet g.collCount key 0)
      let t := setGrid s w.grid { g with collCount := tabPut g.collCount key n }
      match collBad s w with
      | some (c, i) => return finish (Uses.coll d a y) 4 (issueWork t (w.failed c i))
      | none =>
        let w := { w with bar := match barLocator s (w.word 7) with | .ok b => b | .error _ => none }
        return finish (Uses.coll d a y) 4 (joinColl t w n))

/-- R499 COLL_GATHER_TIMEOUT: an instance without all its members 1 s after its first member's issue closes, and its members' tokens report 0x14. -/
def execCollGatherTimeout (inst : Nat) (s : State) : Host.Outcome State Fault Refusal :=
  match s.colls.find? (fun c => c.id = inst) with
  | none => .next s
  | some c =>
    if c.full ∨ c.closed ∨ s.time < c.opened + 2000000000 then .next s
    else .next (c.works.foldl (fun s id => endWork s id 0x14 0) (setColl s { c with closed := true }))

/-! ## What other modules of a grid do (R490-R499) -/

/-- A grid as it comes to a module that has accepted it: nothing of it is placed here. -/
def guestGrid (home : Nat) (g : Grid) : Grid :=
  { g with
    home := some home, waiting := true, mods := [], offered := [], abroad := [], sat := [], adapters := [], pin := none, placed := 0, taken := [], retired := 0, residentSum := 0,
    ended := none, collCount := [], leases := g.leases.map (fun l => { l with ranges := [], gpas := [], revoked := false, pending := none }) }

/-- A team placed on another module takes its index from those still to be placed; in a .det grid it is the next (07_core_sched_traps R231). -/
def mayPlaceAway (s : State) (g : Grid) (modn i : Nat) : Bool :=
  !g.waiting && g.ended.isNone && decide (modn ≠ s.modn.toNat) && g.mods.contains modn && decide (i < gridTeams g)
  && !(g.taken ++ g.abroad.map (·.1)).contains i && (!g.det || decide (i = placedAll g))

/-- What happens on another module to grid n (R490-R492, R495, R498). -/
def abroad (n : Nat) (what : Abroad) (s : State) : State :=
  let g := getGrid s n
  let guest := (tabFind s.grids n).isSome && g.home.isSome
  match what with
  | .offered home g' =>
    if (tabFind s.grids n).isSome ∨ n < s.nextId ∨ home = s.modn.toNat ∨ !atWork s ∨ !(getVf s g'.vf).isOpen then s
    else setGrid { s with nextId := n + 1 } n (guestGrid home g')
  | .started ms => if guest && g.waiting && ms.contains s.modn.toNat then startGrid (setGrid s n { g with mods := ms.foldl addModule [] }) n else s
  | .released =>
    if !guest then s
    else if s.teams.any (fun p => decide (p.2.grid = n)) then endGrid s n 0
    else { s with grids := tabErase s.grids n, colls := s.colls.filter (fun c => decide (c.grid ≠ n)) }
  | .placed m i => if (tabFind s.grids n).isSome && mayPlaceAway s g m i then repeatGang (startGang (setGrid s n { g with abroad := tabPut g.abroad i (m, false) }) n) n else s
  | .retired i => (match tabFind g.abroad i with
    | some a => tryStep (tryGbar (setGrid s n { g with abroad := tabPut g.abroad i (a.1, true) }) n) n
    | none => s)
  | .notice nt => if (tabFind s.grids n).isSome && g.home.isNone && decide (1 < g.maxMods) then noticeIssuer s g nt else s
  | .coll tag k rank ps => if (tabFind s.grids n).isSome && decide (1 < gridMods g) then joinAway s n tag k rank ps else s
  | .read tag k rank => (match findColl s n tag k with
    | some c =>
      let c := { c with away := c.away.map (fun m => if m.1 = rank then (m.1, m.2.1, true) else m) }
      settleColl (setColl s c) c
    | none => s)

end Sys2Proof.Machine
end

