-- ==== Sys2Proof/Machine/Happen.lean ====
section
/-! DEFINITION. What goes on after issue: loads that return (03_group R88), stores that perform (05_core_memory R163), engine work line by line (R182) and its tokens (R184), matrix operations (06_core_matrix R199). -/

namespace Sys2Proof.Machine

/-- Memory and engines do nothing before Camp 1 and after HALT has ended (15_platform R461, R474). -/
def whileRunning (s t : State) : Host.Outcome State Fault Refusal := .next (if atWork s then t else s)

/-- One piece of a work, by what started it. -/
def engineLine (s : State) (w : Work) (k : Nat) : State :=
  match w.kind with
  | .cpy => cpyLine s w k
  | .gather => gsLine s w k
  | .scatter => gsLine s w k
  | .ldslot _ => ldslotRow s w k
  | .cbload _ => cbloadStep s w
  | .accst => accstLine s w k
  | .layerf => layerLine s w k
  | .layert => layerLine s w k
  | .layerd => layerLine s w k
  | .arxq => arxqLine s w k
  | .adpset => adpsetStep s w
  | .calset => calsetStep s w
  | .calrd => calrdLine s w k
  | .almrun => almrunLine s w k
  | .almfit => almfitLine s w k
  | .compact => compactPiece s w k
  | .chlaunch => chePiece s w k
  | .migrate _ _ => migStep s w k
  | .launch => startGrid s w.id
  | .arprog => arprogStep s w
  | .arcommit => arcommitStep s w
  | .arstat => writeSegs (arstatSegs s w) s w k
  | .coll => collLine s w k
  -- operations of the matrix unit and of the SQE are not written line by line here
  | .mma _ => s
  | .accz => s
  | .accrd => s
  | .accwr => s
  | .confw => s
  | .scacc => s
  | .scrd => s
  | .scclr => s
  | .topk => s
  | .surv => s
  | .pxfind => s
  | .pxins => s
  | .pxrel => s
  | .unmask => s
  | .dirty => s

/-- R88 LOAD_DATA_RETURN: a part of an access performs, or all that remain and the access returns: its result is written and its register is full. -/
def execLoadDataReturn (gid : Nat) (id : Nat) (part : Option Nat) (s : State) : Host.Outcome State Fault Refusal :=
  whileRunning s (match s.pending.find? (fun p => p.id = id) with
      | some p => if p.agent = .group gid ∨ p.agent = .axp gid then loadReturn s id part else s
      | none => s)

/-- R163, R310 STORE_PERFORM: the oldest entry of a store queue performs at core scope, or an entry on its way performs at its home. -/
def execStorePerform (st : StoreStage) (s : State) : Host.Outcome State Fault Refusal :=
  whileRunning s (match st with
      | .core gid => performCore s gid
      | .home core index => performHome s core index)

/-- R182 ENGINE_LINE_WRITE: engine work writes one destination line and subtracts its bytes from the barrier, or takes its next step. -/
def execEngineLineWrite (work : Nat) (piece : Nat) (s : State) : Host.Outcome State Fault Refusal :=
  whileRunning s (match getWork s work with
      | some w => engineLine s w piece
      | none => s)

/-- R184 ENGINE_TOKEN_FILL: work that has ended fills its token with its status. -/
def execEngineTokenFill (work : Nat) (s : State) : Host.Outcome State Fault Refusal :=
  whileRunning s (match getWork s work with
      | some w => if w.ended then fillToken s w else s
      | none => s)

/-- R199 MATRIX_UNIT_OPERATION: the matrix unit of a core performs the oldest operation of its queue. -/
def execMatrixUnitOperation (core : Nat) (s : State) : Host.Outcome State Fault Refusal :=
  whileRunning s (matrixStep s core)

end Sys2Proof.Machine
end

