-- ==== Sys2Proof/Machine/LaneFp.lean ====
section
/-! DEFINITION. Floating-point operations of the lanes (04_lane_ops R127-R137) and their 16-bit forms (01_encoding R20). -/

namespace Sys2Proof.Machine

/-- The 16-bit two-address form of an FP32 operation. -/
def halfFp (s : State) (us : List Use) (d : BitVec 6) (a : BitVec 5) (f : FpCtl → Nat → Nat → Nat × Flags) : Host.Outcome State Fault Refusal :=
  fp2 s 1024 us 2 (d.setWidth 7) (d.setWidth 7) (a.setWidth 7) f

/-- FCPYS, FABS and FNEG: DAZ, then the bits with another sign; no flag (R129). -/
def fsign (c : FpCtl) (a : Nat) (neg : Bool → Bool) : Nat × Flags :=
  let x := fp32.daz c.daz a
  (fp32.signed (neg (fp32.isNeg x)) (fp32.mag x), 0)

/-- An approximation (R134). -/
def approx1 (s : State) (opn : Nat) (us : List Use) (d a : BitVec 7) (op : ApproxOp) : Host.Outcome State Fault Refusal :=
  fp1 s opn 0 us d a (fun c x => fpApprox op c x)

/-- Packed pairs (R137). -/
def packed2 (s : State) (opn : Nat) (us : List Use) (d a b : BitVec 7) (f : FpCtl → Nat → Nat → Nat × Flags) : Host.Outcome State Fault Refusal :=
  fp2 s opn us 4 d a b (fun c x y => packed (fun x y _ => f c x y) x y 0)

def packed3 (s : State) (opn : Nat) (us : List Use) (d a b : BitVec 7) (f : FpCtl → Nat → Nat → Nat → Nat × Flags) : Host.Outcome State Fault Refusal :=
  fp3 s opn us d a b (fun c x y z => packed (f c) x y z)

/-- R20 FADD_16: 16-bit two-address FP32 add. -/
def execFadd16 (d : BitVec 6) (a : BitVec 5) (s : State) : Host.Outcome State Fault Refusal :=
  halfFp s (Uses.half true d a) d a (fpAdd fp32)

/-- R20 FSUB_16: 16-bit two-address FP32 subtract. -/
def execFsub16 (d : BitVec 6) (a : BitVec 5) (s : State) : Host.Outcome State Fault Refusal :=
  halfFp s (Uses.half true d a) d a (fpSub fp32)

/-- R20 FMUL_16: 16-bit two-address FP32 multiply. -/
def execFmul16 (d : BitVec 6) (a : BitVec 5) (s : State) : Host.Outcome State Fault Refusal :=
  halfFp s (Uses.half true d a) d a (fpMul fp32)

/-- R20 FMAX_16: 16-bit two-address FP32 maximum. -/
def execFmax16 (d : BitVec 6) (a : BitVec 5) (s : State) : Host.Outcome State Fault Refusal :=
  halfFp s (Uses.half true d a) d a (fun c => fpMinMax fp32 c true)

/-- R127 FADD: FP32 add, rounded once under FCSR. -/
def execFadd (d : BitVec 7) (a : BitVec 7) (b : BitVec 7) (s : State) : Host.Outcome State Fault Refusal :=
  fp2 s 0x080 (Uses.add d a b) 4 d a b (fpAdd fp32)

/-- R127 FSUB: FP32 subtract. -/
def execFsub (d : BitVec 7) (a : BitVec 7) (b : BitVec 7) (s : State) : Host.Outcome State Fault Refusal :=
  fp2 s 0x081 (Uses.add d a b) 4 d a b (fpSub fp32)

/-- R127 FMUL: FP32 multiply. -/
def execFmul (d : BitVec 7) (a : BitVec 7) (b : BitVec 7) (s : State) : Host.Outcome State Fault Refusal :=
  fp2 s 0x082 (Uses.add d a b) 4 d a b (fpMul fp32)

/-- R127 FFMA: FP32 fused multiply-add a x b + d. -/
def execFfma (d : BitVec 7) (a : BitVec 7) (b : BitVec 7) (s : State) : Host.Outcome State Fault Refusal :=
  fp3 s 0x083 (Uses.mad d a b) d a b (fpFma fp32)

/-- R127 FDIV: FP32 correctly rounded divide. -/
def execFdiv (d : BitVec 7) (a : BitVec 7) (b : BitVec 7) (s : State) : Host.Outcome State Fault Refusal :=
  fp2 s 0x084 (Uses.add d a b) 4 d a b (fpDiv fp32)

/-- R129 FMIN: FP32 minimum. -/
def execFmin (d : BitVec 7) (a : BitVec 7) (b : BitVec 7) (s : State) : Host.Outcome State Fault Refusal :=
  fp2 s 0x085 (Uses.add d a b) 4 d a b (fun c => fpMinMax fp32 c false)

/-- R129 FMAX: FP32 maximum. -/
def execFmax (d : BitVec 7) (a : BitVec 7) (b : BitVec 7) (s : State) : Host.Outcome State Fault Refusal :=
  fp2 s 0x086 (Uses.add d a b) 4 d a b (fun c => fpMinMax fp32 c true)

/-- R129 FCPYS: Copy sign of b onto a. -/
def execFcpys (d : BitVec 7) (a : BitVec 7) (b : BitVec 7) (s : State) : Host.Outcome State Fault Refusal :=
  fp2 s 0x087 (Uses.add d a b) 4 d a b (fun c x y => fsign c x (fun _ => fp32.isNeg y))

/-- R127 FSQRT: FP32 correctly rounded square root with optional static mode. -/
def execFsqrt (d : BitVec 7) (a : BitVec 7) (r : BitVec 3) (s : State) : Host.Outcome State Fault Refusal :=
  fp1 s 0x088 (r.setWidth 7) (Uses.fsqrt d a r) d a (fun c x => fpSqrt fp32 (staticRm r c) x)

/-- R129 FABS: Clear the sign bit. -/
def execFabs (d : BitVec 7) (a : BitVec 7) (s : State) : Host.Outcome State Fault Refusal :=
  fp1 s 0x089 0 (Uses.abs d a) d a (fun c x => fsign c x (fun _ => false))

/-- R129 FNEG: Invert the sign bit. -/
def execFneg (d : BitVec 7) (a : BitVec 7) (s : State) : Host.Outcome State Fault Refusal :=
  fp1 s 0x08A 0 (Uses.abs d a) d a (fun c x => fsign c x not)

/-- R130 FCLASS: Classify a into a one-hot integer. -/
def execFclass (d : BitVec 7) (a : BitVec 7) (s : State) : Host.Outcome State Fault Refusal :=
  fp1 s 0x08B 0 (Uses.abs d a) d a (fun c x => (fpClass fp32 c x, 0))

/-- R132 FRINT: Round to an integral FP32 value. -/
def execFrint (d : BitVec 7) (a : BitVec 7) (r : BitVec 3) (s : State) : Host.Outcome State Fault Refusal :=
  fp1 s 0x08C (r.setWidth 7) (Uses.fsqrt d a r) d a (fun c x => fpRint fp32 (staticRm r c) x)

/-- R134 FRCP: Approximate reciprocal. -/
def execFrcp (d : BitVec 7) (a : BitVec 7) (s : State) : Host.Outcome State Fault Refusal :=
  approx1 s 0x090 (Uses.abs d a) d a .rcp

/-- R134 FRSQ: Approximate reciprocal square root. -/
def execFrsq (d : BitVec 7) (a : BitVec 7) (s : State) : Host.Outcome State Fault Refusal :=
  approx1 s 0x091 (Uses.abs d a) d a .rsq

/-- R134 FEX2: Approximate 2^a. -/
def execFex2 (d : BitVec 7) (a : BitVec 7) (s : State) : Host.Outcome State Fault Refusal :=
  approx1 s 0x092 (Uses.abs d a) d a .ex2

/-- R134 FLG2: Approximate log2 a. -/
def execFlg2 (d : BitVec 7) (a : BitVec 7) (s : State) : Host.Outcome State Fault Refusal :=
  approx1 s 0x093 (Uses.abs d a) d a .lg2

/-- R134 FSIN: Approximate sine. -/
def execFsin (d : BitVec 7) (a : BitVec 7) (s : State) : Host.Outcome State Fault Refusal :=
  approx1 s 0x094 (Uses.abs d a) d a .sin

/-- R134 FCOS: Approximate cosine. -/
def execFcos (d : BitVec 7) (a : BitVec 7) (s : State) : Host.Outcome State Fault Refusal :=
  approx1 s 0x095 (Uses.abs d a) d a .cos

/-- R133 FCMP_EQ: FP32 compare equal into a predicate. -/
def execFcmpEq (p : BitVec 7) (a : BitVec 7) (b : BitVec 7) (s : State) : Host.Outcome State Fault Refusal :=
  fcmp s 0x098 (Uses.cmpEq p a b) p a b .eq

/-- R133 FCMP_NE: FP32 compare not equal. -/
def execFcmpNe (p : BitVec 7) (a : BitVec 7) (b : BitVec 7) (s : State) : Host.Outcome State Fault Refusal :=
  fcmp s 0x099 (Uses.cmpEq p a b) p a b .ne

/-- R133 FCMP_LT: FP32 compare less than. -/
def execFcmpLt (p : BitVec 7) (a : BitVec 7) (b : BitVec 7) (s : State) : Host.Outcome State Fault Refusal :=
  fcmp s 0x09A (Uses.cmpEq p a b) p a b .lt

/-- R133 FCMP_LE: FP32 compare less or equal. -/
def execFcmpLe (p : BitVec 7) (a : BitVec 7) (b : BitVec 7) (s : State) : Host.Outcome State Fault Refusal :=
  fcmp s 0x09B (Uses.cmpEq p a b) p a b .le

/-- R133 FCMP_GT: FP32 compare greater than. -/
def execFcmpGt (p : BitVec 7) (a : BitVec 7) (b : BitVec 7) (s : State) : Host.Outcome State Fault Refusal :=
  fcmp s 0x09C (Uses.cmpEq p a b) p a b .gt

/-- R133 FCMP_GE: FP32 compare greater or equal. -/
def execFcmpGe (p : BitVec 7) (a : BitVec 7) (b : BitVec 7) (s : State) : Host.Outcome State Fault Refusal :=
  fcmp s 0x09D (Uses.cmpEq p a b) p a b .ge

/-- R133 FCMP_UN: FP32 compare unordered. -/
def execFcmpUn (p : BitVec 7) (a : BitVec 7) (b : BitVec 7) (s : State) : Host.Outcome State Fault Refusal :=
  fcmp s 0x09E (Uses.cmpEq p a b) p a b .un

/-- R136 DADD: FP64 add on pairs. -/
def execDadd (d : BitVec 7) (a : BitVec 7) (b : BitVec 7) (s : State) : Host.Outcome State Fault Refusal :=
  dp2 s 0x0A0 (Uses.add64 d a b) d a b (fpAdd fp64)

/-- R136 DSUB: FP64 subtract. -/
def execDsub (d : BitVec 7) (a : BitVec 7) (b : BitVec 7) (s : State) : Host.Outcome State Fault Refusal :=
  dp2 s 0x0A1 (Uses.add64 d a b) d a b (fpSub fp64)

/-- R136 DMUL: FP64 multiply. -/
def execDmul (d : BitVec 7) (a : BitVec 7) (b : BitVec 7) (s : State) : Host.Outcome State Fault Refusal :=
  dp2 s 0x0A2 (Uses.add64 d a b) d a b (fpMul fp64)

/-- R136 DFMA: FP64 fused multiply-add. -/
def execDfma (d : BitVec 7) (a : BitVec 7) (b : BitVec 7) (s : State) : Host.Outcome State Fault Refusal :=
  dp3 s 0x0A3 (Uses.dfma d a b) d a b (fpFma fp64)

/-- R136 DDIV: FP64 divide. -/
def execDdiv (d : BitVec 7) (a : BitVec 7) (b : BitVec 7) (s : State) : Host.Outcome State Fault Refusal :=
  dp2 s 0x0A4 (Uses.add64 d a b) d a b (fpDiv fp64)

/-- R136 DSQRT: FP64 square root. -/
def execDsqrt (d : BitVec 7) (a : BitVec 7) (r : BitVec 3) (s : State) : Host.Outcome State Fault Refusal :=
  dp1 s 0x0A5 (r.setWidth 7) (Uses.dsqrt d a r) d a (fun c x => fpSqrt fp64 (staticRm r c) x)

/-- R133 DCMP_EQ: FP64 compare equal. -/
def execDcmpEq (p : BitVec 7) (a : BitVec 7) (b : BitVec 7) (s : State) : Host.Outcome State Fault Refusal :=
  dcmp s 0x0A8 (Uses.cmp64Eq p a b) p a b .eq

/-- R133 DCMP_NE: FP64 compare not equal. -/
def execDcmpNe (p : BitVec 7) (a : BitVec 7) (b : BitVec 7) (s : State) : Host.Outcome State Fault Refusal :=
  dcmp s 0x0A9 (Uses.cmp64Eq p a b) p a b .ne

/-- R133 DCMP_LT: FP64 compare less than. -/
def execDcmpLt (p : BitVec 7) (a : BitVec 7) (b : BitVec 7) (s : State) : Host.Outcome State Fault Refusal :=
  dcmp s 0x0AA (Uses.cmp64Eq p a b) p a b .lt

/-- R133 DCMP_LE: FP64 compare less or equal. -/
def execDcmpLe (p : BitVec 7) (a : BitVec 7) (b : BitVec 7) (s : State) : Host.Outcome State Fault Refusal :=
  dcmp s 0x0AB (Uses.cmp64Eq p a b) p a b .le

/-- R133 DCMP_GT: FP64 compare greater than. -/
def execDcmpGt (p : BitVec 7) (a : BitVec 7) (b : BitVec 7) (s : State) : Host.Outcome State Fault Refusal :=
  dcmp s 0x0AC (Uses.cmp64Eq p a b) p a b .gt

/-- R133 DCMP_GE: FP64 compare greater or equal. -/
def execDcmpGe (p : BitVec 7) (a : BitVec 7) (b : BitVec 7) (s : State) : Host.Outcome State Fault Refusal :=
  dcmp s 0x0AD (Uses.cmp64Eq p a b) p a b .ge

/-- R133 DCMP_UN: FP64 compare unordered. -/
def execDcmpUn (p : BitVec 7) (a : BitVec 7) (b : BitVec 7) (s : State) : Host.Outcome State Fault Refusal :=
  dcmp s 0x0AE (Uses.cmp64Eq p a b) p a b .un

/-- R137 HADD2_BF16: Packed BF16 pair add. -/
def execHadd2Bf16 (d : BitVec 7) (a : BitVec 7) (b : BitVec 7) (s : State) : Host.Outcome State Fault Refusal :=
  packed2 s 0x0B0 (Uses.add d a b) d a b (fpAdd bf16)

/-- R137 HADD2_FP16: Packed FP16 pair add. -/
def execHadd2Fp16 (d : BitVec 7) (a : BitVec 7) (b : BitVec 7) (s : State) : Host.Outcome State Fault Refusal :=
  packed2 s 0x0B1 (Uses.add d a b) d a b (fpAdd fp16)

/-- R137 HMUL2_BF16: Packed BF16 pair multiply. -/
def execHmul2Bf16 (d : BitVec 7) (a : BitVec 7) (b : BitVec 7) (s : State) : Host.Outcome State Fault Refusal :=
  packed2 s 0x0B2 (Uses.add d a b) d a b (fpMul bf16)

/-- R137 HMUL2_FP16: Packed FP16 pair multiply. -/
def execHmul2Fp16 (d : BitVec 7) (a : BitVec 7) (b : BitVec 7) (s : State) : Host.Outcome State Fault Refusal :=
  packed2 s 0x0B3 (Uses.add d a b) d a b (fpMul fp16)

/-- R137 HFMA2_BF16: Packed BF16 pair fused multiply-add. -/
def execHfma2Bf16 (d : BitVec 7) (a : BitVec 7) (b : BitVec 7) (s : State) : Host.Outcome State Fault Refusal :=
  packed3 s 0x0B4 (Uses.mad d a b) d a b (fpFma bf16)

/-- R137 HFMA2_FP16: Packed FP16 pair fused multiply-add. -/
def execHfma2Fp16 (d : BitVec 7) (a : BitVec 7) (b : BitVec 7) (s : State) : Host.Outcome State Fault Refusal :=
  packed3 s 0x0B5 (Uses.mad d a b) d a b (fpFma fp16)

end Sys2Proof.Machine
end

