-- ==== Sys2Proof/Machine/LaneInt.lean ====
section
/-! DEFINITION. Integer and logic operations and 64-bit pairs (04_lane_ops R117-R126), their 16-bit forms (01_encoding R19-R22), and the same operations on a channel engine's address thread (12_die_channel R379). -/

namespace Sys2Proof.Machine

/-- The 16-bit two-address form of an operation (R19, R20). -/
def half2 (s : State) (us : List Use) (d : BitVec 6) (a : BitVec 5) (f : Word → Word → Word) : Host.Outcome State Fault Refusal :=
  lane2 s 1024 us 2 (d.setWidth 7) (d.setWidth 7) (a.setWidth 7) f

/-- Shift counts of an address thread reach 63, elsewhere 31 (R122, R379): beyond, the address thread rejects the word. -/
def shiftI (s : State) (opn : Nat) (us : List Use) (d a i : BitVec 7) (f : (w : Nat) → BitVec w → BitVec w) : Host.Outcome State Fault Refusal :=
  if onCheA s && decide (63 < i.toNat) then done s (.error illegal) else lane1w s opn i us d a f

/-- R20, R21 MOV_16: D := A; with D = A it is the 16-bit NOP, which an access slice also takes as 0x0000 (R186). -/
def execMov16 (d : BitVec 6) (a : BitVec 5) (s : State) : Host.Outcome State Fault Refusal :=
  if d = a.setWidth 6 then
    match s.cur with
    | .axp _ => if d = 0 then .next (advance 2 s) else done s (.error illegal)
    | _ => run s 1024 0 [.field .v (d.setWidth 7) false false] (.ok (advance 2 s))
  else lane1 s 1024 (Uses.half false d a) 2 (d.setWidth 7) (a.setWidth 7) (fun x => x)

/-- R20 ADD_16: 16-bit two-address ADD, D := D + A on V registers. -/
def execAdd16 (d : BitVec 6) (a : BitVec 5) (s : State) : Host.Outcome State Fault Refusal :=
  half2 s (Uses.half true d a) d a (fun x y => x + y)

/-- R20 SUB_16: 16-bit two-address SUB, D := D - A. -/
def execSub16 (d : BitVec 6) (a : BitVec 5) (s : State) : Host.Outcome State Fault Refusal :=
  half2 s (Uses.half true d a) d a (fun x y => x - y)

/-- R20 MUL_LO_16: 16-bit two-address MUL.LO. -/
def execMulLo16 (d : BitVec 6) (a : BitVec 5) (s : State) : Host.Outcome State Fault Refusal :=
  half2 s (Uses.half true d a) d a (fun x y => x * y)

/-- R20 AND_16: 16-bit two-address AND. -/
def execAnd16 (d : BitVec 6) (a : BitVec 5) (s : State) : Host.Outcome State Fault Refusal :=
  half2 s (Uses.half true d a) d a (fun x y => x &&& y)

/-- R20 OR_16: 16-bit two-address OR. -/
def execOr16 (d : BitVec 6) (a : BitVec 5) (s : State) : Host.Outcome State Fault Refusal :=
  half2 s (Uses.half true d a) d a (fun x y => x ||| y)

/-- R20 XOR_16: 16-bit two-address XOR. -/
def execXor16 (d : BitVec 6) (a : BitVec 5) (s : State) : Host.Outcome State Fault Refusal :=
  half2 s (Uses.half true d a) d a (fun x y => x ^^^ y)

/-- R20 SHL_16: 16-bit two-address SHL. -/
def execShl16 (d : BitVec 6) (a : BitVec 5) (s : State) : Host.Outcome State Fault Refusal :=
  half2 s (Uses.half true d a) d a (fun x y => shlBy x y.toNat)

/-- R20 SHR_16: 16-bit two-address SHR. -/
def execShr16 (d : BitVec 6) (a : BitVec 5) (s : State) : Host.Outcome State Fault Refusal :=
  half2 s (Uses.half true d a) d a (fun x y => shrBy x y.toNat)

/-- R20 SAR_16: 16-bit two-address SAR. -/
def execSar16 (d : BitVec 6) (a : BitVec 5) (s : State) : Host.Outcome State Fault Refusal :=
  half2 s (Uses.half true d a) d a (fun x y => sarBy x y.toNat)

/-- R20 MIN_S_16: 16-bit two-address signed MIN. -/
def execMinS16 (d : BitVec 6) (a : BitVec 5) (s : State) : Host.Outcome State Fault Refusal :=
  half2 s (Uses.half true d a) d a minS

/-- R20 MAX_S_16: 16-bit two-address signed MAX. -/
def execMaxS16 (d : BitVec 6) (a : BitVec 5) (s : State) : Host.Outcome State Fault Refusal :=
  half2 s (Uses.half true d a) d a maxS

/-- R117 ADD: 32-bit integer add modulo 2^32. -/
def execAdd (d : BitVec 7) (a : BitVec 7) (b : BitVec 7) (s : State) : Host.Outcome State Fault Refusal :=
  lane2w s 0x000 (Uses.add d a b) d a b (fun _ x y => x + y)

/-- R117 SUB: 32-bit integer subtract. -/
def execSub (d : BitVec 7) (a : BitVec 7) (b : BitVec 7) (s : State) : Host.Outcome State Fault Refusal :=
  lane2w s 0x001 (Uses.add d a b) d a b (fun _ x y => x - y)

/-- R117 MUL_LO: Low 32 bits of the product. -/
def execMulLo (d : BitVec 7) (a : BitVec 7) (b : BitVec 7) (s : State) : Host.Outcome State Fault Refusal :=
  lane2w s 0x002 (Uses.add d a b) d a b (fun _ x y => x * y)

/-- R117 MUL_HI_S: High 32 bits of the signed product. -/
def execMulHiS (d : BitVec 7) (a : BitVec 7) (b : BitVec 7) (s : State) : Host.Outcome State Fault Refusal :=
  lane2 s 0x003 (Uses.add d a b) 4 d a b (fun x y => (mulWide true x y).extractLsb' 32 32)

/-- R117 MUL_HI_U: High 32 bits of the unsigned product. -/
def execMulHiU (d : BitVec 7) (a : BitVec 7) (b : BitVec 7) (s : State) : Host.Outcome State Fault Refusal :=
  lane2 s 0x004 (Uses.add d a b) 4 d a b (fun x y => (mulWide false x y).extractLsb' 32 32)

/-- R117 MULW_S: Full 64-bit signed product into an even pair. -/
def execMulwS (d : BitVec 7) (a : BitVec 7) (b : BitVec 7) (s : State) : Host.Outcome State Fault Refusal :=
  pair0 s 0x005 b (Uses.mulwS d a b) d (fun l => mulWide true (readField s a.toNat l) (readField s b.toNat l))

/-- R117 MULW_U: Full 64-bit unsigned product into an even pair. -/
def execMulwU (d : BitVec 7) (a : BitVec 7) (b : BitVec 7) (s : State) : Host.Outcome State Fault Refusal :=
  pair0 s 0x006 b (Uses.mulwS d a b) d (fun l => mulWide false (readField s a.toNat l) (readField s b.toNat l))

/-- R117 MAD: Read-modify-write multiply-add d := a x b + d. -/
def execMad (d : BitVec 7) (a : BitVec 7) (b : BitVec 7) (s : State) : Host.Outcome State Fault Refusal :=
  lane3 s 0x007 (Uses.mad d a b) d a b (fun x y z => x * y + z)

/-- R117 AND: Bitwise AND. -/
def execAnd (d : BitVec 7) (a : BitVec 7) (b : BitVec 7) (s : State) : Host.Outcome State Fault Refusal :=
  lane2w s 0x008 (Uses.add d a b) d a b (fun _ x y => x &&& y)

/-- R117 OR: Bitwise OR. -/
def execOr (d : BitVec 7) (a : BitVec 7) (b : BitVec 7) (s : State) : Host.Outcome State Fault Refusal :=
  lane2w s 0x009 (Uses.add d a b) d a b (fun _ x y => x ||| y)

/-- R117 XOR: Bitwise XOR. -/
def execXor (d : BitVec 7) (a : BitVec 7) (b : BitVec 7) (s : State) : Host.Outcome State Fault Refusal :=
  lane2w s 0x00A (Uses.add d a b) d a b (fun _ x y => x ^^^ y)

/-- R117 ANDN: Bitwise a AND NOT b. -/
def execAndn (d : BitVec 7) (a : BitVec 7) (b : BitVec 7) (s : State) : Host.Outcome State Fault Refusal :=
  lane2w s 0x00B (Uses.add d a b) d a b (fun _ x y => x &&& ~~~y)

/-- R118 SHL: Shift left by the whole of b; counts of 32 or more give 0. -/
def execShl (d : BitVec 7) (a : BitVec 7) (b : BitVec 7) (s : State) : Host.Outcome State Fault Refusal :=
  lane2w s 0x00C (Uses.add d a b) d a b (fun _ x y => shlBy x y.toNat)

/-- R118 SHR: Logical shift right by the whole of b. -/
def execShr (d : BitVec 7) (a : BitVec 7) (b : BitVec 7) (s : State) : Host.Outcome State Fault Refusal :=
  lane2w s 0x00D (Uses.add d a b) d a b (fun _ x y => shrBy x y.toNat)

/-- R118 SAR: Arithmetic shift right by the whole of b. -/
def execSar (d : BitVec 7) (a : BitVec 7) (b : BitVec 7) (s : State) : Host.Outcome State Fault Refusal :=
  lane2w s 0x00E (Uses.add d a b) d a b (fun _ x y => sarBy x y.toNat)

/-- R118 ROTL: Rotate left by b[4:0]. -/
def execRotl (d : BitVec 7) (a : BitVec 7) (b : BitVec 7) (s : State) : Host.Outcome State Fault Refusal :=
  lane2 s 0x00F (Uses.add d a b) 4 d a b (fun x y => x.rotateLeft (y.toNat % 32))

/-- R117 MIN_S: Signed minimum. -/
def execMinS (d : BitVec 7) (a : BitVec 7) (b : BitVec 7) (s : State) : Host.Outcome State Fault Refusal :=
  lane2 s 0x010 (Uses.add d a b) 4 d a b Sys2Proof.Machine.minS

/-- R117 MIN_U: Unsigned minimum. -/
def execMinU (d : BitVec 7) (a : BitVec 7) (b : BitVec 7) (s : State) : Host.Outcome State Fault Refusal :=
  lane2w s 0x011 (Uses.add d a b) d a b (fun _ x y => Sys2Proof.Machine.minU x y)

/-- R117 MAX_S: Signed maximum. -/
def execMaxS (d : BitVec 7) (a : BitVec 7) (b : BitVec 7) (s : State) : Host.Outcome State Fault Refusal :=
  lane2 s 0x012 (Uses.add d a b) 4 d a b Sys2Proof.Machine.maxS

/-- R117 MAX_U: Unsigned maximum. -/
def execMaxU (d : BitVec 7) (a : BitVec 7) (b : BitVec 7) (s : State) : Host.Outcome State Fault Refusal :=
  lane2w s 0x013 (Uses.add d a b) d a b (fun _ x y => Sys2Proof.Machine.maxU x y)

/-- R119 PERM: Byte permute from a and old d under the nibbles of b. -/
def execPerm (d : BitVec 7) (a : BitVec 7) (b : BitVec 7) (s : State) : Host.Outcome State Fault Refusal :=
  lane3 s 0x014 (Uses.mad d a b) d a b permBytes

/-- R120 BFX: Bit-field extract under the descriptor in b. -/
def execBfx (d : BitVec 7) (a : BitVec 7) (b : BitVec 7) (s : State) : Host.Outcome State Fault Refusal :=
  lane2 s 0x015 (Uses.add d a b) 4 d a b bfxOp

/-- R120 BFI: Bit-field insert into old d under the descriptor in b. -/
def execBfi (d : BitVec 7) (a : BitVec 7) (b : BitVec 7) (s : State) : Host.Outcome State Fault Refusal :=
  lane3 s 0x016 (Uses.mad d a b) d a b bfiOp

/-- R121 ABS: Integer absolute value. -/
def execAbs (d : BitVec 7) (a : BitVec 7) (s : State) : Host.Outcome State Fault Refusal :=
  lane1 s 0x018 (Uses.abs d a) 4 d a absOp

/-- R121 NEG: Integer negate. -/
def execNeg (d : BitVec 7) (a : BitVec 7) (s : State) : Host.Outcome State Fault Refusal :=
  lane1 s 0x019 (Uses.abs d a) 4 d a (fun x => 0 - x)

/-- R121 CLZ: Count leading zeros. -/
def execClz (d : BitVec 7) (a : BitVec 7) (s : State) : Host.Outcome State Fault Refusal :=
  lane1 s 0x01A (Uses.abs d a) 4 d a clzOp

/-- R121 POPC: Population count. -/
def execPopc (d : BitVec 7) (a : BitVec 7) (s : State) : Host.Outcome State Fault Refusal :=
  lane1 s 0x01B (Uses.abs d a) 4 d a popcOp

/-- R121 BREV: Bit reverse. -/
def execBrev (d : BitVec 7) (a : BitVec 7) (s : State) : Host.Outcome State Fault Refusal :=
  lane1 s 0x01C (Uses.abs d a) 4 d a brevOp

/-- R121 MOV: 32-bit register move. -/
def execMov (d : BitVec 7) (a : BitVec 7) (s : State) : Host.Outcome State Fault Refusal :=
  lane1w s 0x01D 0 (Uses.abs d a) d a (fun _ x => x)

/-- R122 ADDI: Add a sign-extended 7-bit immediate. -/
def execAddi (d : BitVec 7) (a : BitVec 7) (i : BitVec 7) (s : State) : Host.Outcome State Fault Refusal :=
  lane1w s 0x020 i (Uses.abs d a) d a (fun w x => x + i.signExtend w)

/-- R122 ANDI: AND with a sign-extended immediate. -/
def execAndi (d : BitVec 7) (a : BitVec 7) (i : BitVec 7) (s : State) : Host.Outcome State Fault Refusal :=
  lane1w s 0x021 i (Uses.abs d a) d a (fun w x => x &&& i.signExtend w)

/-- R122 ORI: OR with a sign-extended immediate. -/
def execOri (d : BitVec 7) (a : BitVec 7) (i : BitVec 7) (s : State) : Host.Outcome State Fault Refusal :=
  lane1w s 0x022 i (Uses.abs d a) d a (fun w x => x ||| i.signExtend w)

/-- R122 XORI: XOR with a sign-extended immediate. -/
def execXori (d : BitVec 7) (a : BitVec 7) (i : BitVec 7) (s : State) : Host.Outcome State Fault Refusal :=
  lane1w s 0x023 i (Uses.abs d a) d a (fun w x => x ^^^ i.signExtend w)

/-- R122 SHLI: Shift left by an immediate 0-31. -/
def execShli (d : BitVec 7) (a : BitVec 7) (i : BitVec 7) (s : State) : Host.Outcome State Fault Refusal :=
  shiftI s 0x024 (Uses.shli d a i) d a i (fun _ x => shlBy x i.toNat)

/-- R122 SHRI: Logical shift right by an immediate. -/
def execShri (d : BitVec 7) (a : BitVec 7) (i : BitVec 7) (s : State) : Host.Outcome State Fault Refusal :=
  shiftI s 0x025 (Uses.shli d a i) d a i (fun _ x => shrBy x i.toNat)

/-- R122 SARI: Arithmetic shift right by an immediate. -/
def execSari (d : BitVec 7) (a : BitVec 7) (i : BitVec 7) (s : State) : Host.Outcome State Fault Refusal :=
  shiftI s 0x026 (Uses.shli d a i) d a i (fun _ x => sarBy x i.toNat)

/-- R123 LI: Load a sign-extended 14-bit immediate. -/
def execLi (d : BitVec 7) (i : BitVec 14) (s : State) : Host.Outcome State Fault Refusal :=
  if onCheA s then runOp s 0x028 0 (Uses.li d) 4 (writeA s d (i.signExtend 64))
  else lane0 s 0x028 0 (Uses.li d) 4 d (fun _ => i.signExtend 32)

/-- R123 LUI: Shift d left 14 and OR in a 14-bit immediate. -/
def execLui (d : BitVec 7) (i : BitVec 14) (s : State) : Host.Outcome State Fault Refusal :=
  if onCheA s then runOp s 0x029 0 (Uses.lui d) 4 (writeA s d ((readA s d <<< 14) ||| i.setWidth 64))
  else lane0 s 0x029 0 (Uses.lui d) 4 d (fun l => (readField s d.toNat l <<< 14) ||| i.setWidth 32)

/-- R124 CMP_EQ: Integer compare equal into a predicate. -/
def execCmpEq (p : BitVec 7) (a : BitVec 7) (b : BitVec 7) (s : State) : Host.Outcome State Fault Refusal :=
  predCmp s 0x030 (Uses.cmpEq p a b) p a b .eq

/-- R124 CMP_NE: Integer compare not equal. -/
def execCmpNe (p : BitVec 7) (a : BitVec 7) (b : BitVec 7) (s : State) : Host.Outcome State Fault Refusal :=
  predCmp s 0x031 (Uses.cmpEq p a b) p a b .ne

/-- R124 CMP_LT_S: Signed less than. -/
def execCmpLtS (p : BitVec 7) (a : BitVec 7) (b : BitVec 7) (s : State) : Host.Outcome State Fault Refusal :=
  predCmp s 0x032 (Uses.cmpEq p a b) p a b .ltS

/-- R124 CMP_LE_S: Signed less or equal. -/
def execCmpLeS (p : BitVec 7) (a : BitVec 7) (b : BitVec 7) (s : State) : Host.Outcome State Fault Refusal :=
  predCmp s 0x033 (Uses.cmpEq p a b) p a b .leS

/-- R124 CMP_GT_S: Signed greater than. -/
def execCmpGtS (p : BitVec 7) (a : BitVec 7) (b : BitVec 7) (s : State) : Host.Outcome State Fault Refusal :=
  predCmp s 0x034 (Uses.cmpEq p a b) p a b .gtS

/-- R124 CMP_GE_S: Signed greater or equal. -/
def execCmpGeS (p : BitVec 7) (a : BitVec 7) (b : BitVec 7) (s : State) : Host.Outcome State Fault Refusal :=
  predCmp s 0x035 (Uses.cmpEq p a b) p a b .geS

/-- R124 CMP_LT_U: Unsigned less than. -/
def execCmpLtU (p : BitVec 7) (a : BitVec 7) (b : BitVec 7) (s : State) : Host.Outcome State Fault Refusal :=
  predCmp s 0x036 (Uses.cmpEq p a b) p a b .ltU

/-- R124 CMP_LE_U: Unsigned less or equal. -/
def execCmpLeU (p : BitVec 7) (a : BitVec 7) (b : BitVec 7) (s : State) : Host.Outcome State Fault Refusal :=
  predCmp s 0x037 (Uses.cmpEq p a b) p a b .leU

/-- R124 CMP_GT_U: Unsigned greater than. -/
def execCmpGtU (p : BitVec 7) (a : BitVec 7) (b : BitVec 7) (s : State) : Host.Outcome State Fault Refusal :=
  predCmp s 0x038 (Uses.cmpEq p a b) p a b .gtU

/-- R124 CMP_GE_U: Unsigned greater or equal. -/
def execCmpGeU (p : BitVec 7) (a : BitVec 7) (b : BitVec 7) (s : State) : Host.Outcome State Fault Refusal :=
  predCmp s 0x039 (Uses.cmpEq p a b) p a b .geU

/-- R126 ADD64: 64-bit pair add. -/
def execAdd64 (d : BitVec 7) (a : BitVec 7) (b : BitVec 7) (s : State) : Host.Outcome State Fault Refusal :=
  pair0 s 0x040 b (Uses.add64 d a b) d (fun l => readPair s a.toNat l + readPair s b.toNat l)

/-- R126 SUB64: 64-bit pair subtract. -/
def execSub64 (d : BitVec 7) (a : BitVec 7) (b : BitVec 7) (s : State) : Host.Outcome State Fault Refusal :=
  pair0 s 0x041 b (Uses.add64 d a b) d (fun l => readPair s a.toNat l - readPair s b.toNat l)

/-- R126 SHL64: 64-bit pair shift left. -/
def execShl64 (d : BitVec 7) (a : BitVec 7) (b : BitVec 7) (s : State) : Host.Outcome State Fault Refusal :=
  pair0 s 0x042 b (Uses.shl64 d a b) d (fun l => shlBy (readPair s a.toNat l) (readField s b.toNat l).toNat)

/-- R126 SHR64: 64-bit pair logical shift right. -/
def execShr64 (d : BitVec 7) (a : BitVec 7) (b : BitVec 7) (s : State) : Host.Outcome State Fault Refusal :=
  pair0 s 0x043 b (Uses.shl64 d a b) d (fun l => shrBy (readPair s a.toNat l) (readField s b.toNat l).toNat)

/-- R124 CMP64_EQ: 64-bit compare equal. -/
def execCmp64Eq (p : BitVec 7) (a : BitVec 7) (b : BitVec 7) (s : State) : Host.Outcome State Fault Refusal :=
  predCmp64 s 0x048 (Uses.cmp64Eq p a b) p a b .eq

/-- R124 CMP64_NE: 64-bit compare not equal. -/
def execCmp64Ne (p : BitVec 7) (a : BitVec 7) (b : BitVec 7) (s : State) : Host.Outcome State Fault Refusal :=
  predCmp64 s 0x049 (Uses.cmp64Eq p a b) p a b .ne

/-- R124 CMP64_LT_S: 64-bit signed less than. -/
def execCmp64LtS (p : BitVec 7) (a : BitVec 7) (b : BitVec 7) (s : State) : Host.Outcome State Fault Refusal :=
  predCmp64 s 0x04A (Uses.cmp64Eq p a b) p a b .ltS

/-- R124 CMP64_LE_S: 64-bit signed less or equal. -/
def execCmp64LeS (p : BitVec 7) (a : BitVec 7) (b : BitVec 7) (s : State) : Host.Outcome State Fault Refusal :=
  predCmp64 s 0x04B (Uses.cmp64Eq p a b) p a b .leS

/-- R124 CMP64_GT_S: 64-bit signed greater than. -/
def execCmp64GtS (p : BitVec 7) (a : BitVec 7) (b : BitVec 7) (s : State) : Host.Outcome State Fault Refusal :=
  predCmp64 s 0x04C (Uses.cmp64Eq p a b) p a b .gtS

/-- R124 CMP64_GE_S: 64-bit signed greater or equal. -/
def execCmp64GeS (p : BitVec 7) (a : BitVec 7) (b : BitVec 7) (s : State) : Host.Outcome State Fault Refusal :=
  predCmp64 s 0x04D (Uses.cmp64Eq p a b) p a b .geS

/-- R124 CMP64_LT_U: 64-bit unsigned less than. -/
def execCmp64LtU (p : BitVec 7) (a : BitVec 7) (b : BitVec 7) (s : State) : Host.Outcome State Fault Refusal :=
  predCmp64 s 0x04E (Uses.cmp64Eq p a b) p a b .ltU

/-- R124 CMP64_LE_U: 64-bit unsigned less or equal. -/
def execCmp64LeU (p : BitVec 7) (a : BitVec 7) (b : BitVec 7) (s : State) : Host.Outcome State Fault Refusal :=
  predCmp64 s 0x04F (Uses.cmp64Eq p a b) p a b .leU

/-- R124 CMP64_GT_U: 64-bit unsigned greater than. -/
def execCmp64GtU (p : BitVec 7) (a : BitVec 7) (b : BitVec 7) (s : State) : Host.Outcome State Fault Refusal :=
  predCmp64 s 0x050 (Uses.cmp64Eq p a b) p a b .gtU

/-- R124 CMP64_GE_U: 64-bit unsigned greater or equal. -/
def execCmp64GeU (p : BitVec 7) (a : BitVec 7) (b : BitVec 7) (s : State) : Host.Outcome State Fault Refusal :=
  predCmp64 s 0x051 (Uses.cmp64Eq p a b) p a b .geU

/-- R125 SEL: Per-lane select of a or b by the predicate named in the low opcode bits. -/
def execSel (p : BitVec 3) (d : BitVec 7) (a : BitVec 7) (b : BitVec 7) (s : State) : Host.Outcome State Fault Refusal :=
  lane0 s (0x070 + p.toNat) b (Uses.sel d a b) 4 d (fun l => if readPred s p.toNat l then readField s a.toNat l else readField s b.toNat l)

end Sys2Proof.Machine
end

