-- ==== Sys2Proof/Machine/Dispatch.lean ====
section
/-! DEFINITION. The meaning of each instruction, one arm per constructor. -/

namespace Sys2Proof.Machine

def exec (i : Instr) (s : State) : Host.Outcome State Fault Refusal :=
  match i with
  | .mov16 d a => Sys2Proof.Machine.execMov16 d a s
  | .add16 d a => Sys2Proof.Machine.execAdd16 d a s
  | .sub16 d a => Sys2Proof.Machine.execSub16 d a s
  | .mulLo16 d a => Sys2Proof.Machine.execMulLo16 d a s
  | .and16 d a => Sys2Proof.Machine.execAnd16 d a s
  | .or16 d a => Sys2Proof.Machine.execOr16 d a s
  | .xor16 d a => Sys2Proof.Machine.execXor16 d a s
  | .shl16 d a => Sys2Proof.Machine.execShl16 d a s
  | .shr16 d a => Sys2Proof.Machine.execShr16 d a s
  | .sar16 d a => Sys2Proof.Machine.execSar16 d a s
  | .minS16 d a => Sys2Proof.Machine.execMinS16 d a s
  | .maxS16 d a => Sys2Proof.Machine.execMaxS16 d a s
  | .fadd16 d a => Sys2Proof.Machine.execFadd16 d a s
  | .fsub16 d a => Sys2Proof.Machine.execFsub16 d a s
  | .fmul16 d a => Sys2Proof.Machine.execFmul16 d a s
  | .fmax16 d a => Sys2Proof.Machine.execFmax16 d a s
  | .add d a b => Sys2Proof.Machine.execAdd d a b s
  | .sub d a b => Sys2Proof.Machine.execSub d a b s
  | .mulLo d a b => Sys2Proof.Machine.execMulLo d a b s
  | .mulHiS d a b => Sys2Proof.Machine.execMulHiS d a b s
  | .mulHiU d a b => Sys2Proof.Machine.execMulHiU d a b s
  | .mulwS d a b => Sys2Proof.Machine.execMulwS d a b s
  | .mulwU d a b => Sys2Proof.Machine.execMulwU d a b s
  | .mad d a b => Sys2Proof.Machine.execMad d a b s
  | .and d a b => Sys2Proof.Machine.execAnd d a b s
  | .or d a b => Sys2Proof.Machine.execOr d a b s
  | .xor d a b => Sys2Proof.Machine.execXor d a b s
  | .andn d a b => Sys2Proof.Machine.execAndn d a b s
  | .shl d a b => Sys2Proof.Machine.execShl d a b s
  | .shr d a b => Sys2Proof.Machine.execShr d a b s
  | .sar d a b => Sys2Proof.Machine.execSar d a b s
  | .rotl d a b => Sys2Proof.Machine.execRotl d a b s
  | .minS d a b => Sys2Proof.Machine.execMinS d a b s
  | .minU d a b => Sys2Proof.Machine.execMinU d a b s
  | .maxS d a b => Sys2Proof.Machine.execMaxS d a b s
  | .maxU d a b => Sys2Proof.Machine.execMaxU d a b s
  | .perm d a b => Sys2Proof.Machine.execPerm d a b s
  | .bfx d a b => Sys2Proof.Machine.execBfx d a b s
  | .bfi d a b => Sys2Proof.Machine.execBfi d a b s
  | .abs d a => Sys2Proof.Machine.execAbs d a s
  | .neg d a => Sys2Proof.Machine.execNeg d a s
  | .clz d a => Sys2Proof.Machine.execClz d a s
  | .popc d a => Sys2Proof.Machine.execPopc d a s
  | .brev d a => Sys2Proof.Machine.execBrev d a s
  | .mov d a => Sys2Proof.Machine.execMov d a s
  | .addi d a im => Sys2Proof.Machine.execAddi d a im s
  | .andi d a im => Sys2Proof.Machine.execAndi d a im s
  | .ori d a im => Sys2Proof.Machine.execOri d a im s
  | .xori d a im => Sys2Proof.Machine.execXori d a im s
  | .shli d a im => Sys2Proof.Machine.execShli d a im s
  | .shri d a im => Sys2Proof.Machine.execShri d a im s
  | .sari d a im => Sys2Proof.Machine.execSari d a im s
  | .li d im => Sys2Proof.Machine.execLi d im s
  | .lui d im => Sys2Proof.Machine.execLui d im s
  | .cmpEq p a b => Sys2Proof.Machine.execCmpEq p a b s
  | .cmpNe p a b => Sys2Proof.Machine.execCmpNe p a b s
  | .cmpLtS p a b => Sys2Proof.Machine.execCmpLtS p a b s
  | .cmpLeS p a b => Sys2Proof.Machine.execCmpLeS p a b s
  | .cmpGtS p a b => Sys2Proof.Machine.execCmpGtS p a b s
  | .cmpGeS p a b => Sys2Proof.Machine.execCmpGeS p a b s
  | .cmpLtU p a b => Sys2Proof.Machine.execCmpLtU p a b s
  | .cmpLeU p a b => Sys2Proof.Machine.execCmpLeU p a b s
  | .cmpGtU p a b => Sys2Proof.Machine.execCmpGtU p a b s
  | .cmpGeU p a b => Sys2Proof.Machine.execCmpGeU p a b s
  | .add64 d a b => Sys2Proof.Machine.execAdd64 d a b s
  | .sub64 d a b => Sys2Proof.Machine.execSub64 d a b s
  | .shl64 d a b => Sys2Proof.Machine.execShl64 d a b s
  | .shr64 d a b => Sys2Proof.Machine.execShr64 d a b s
  | .cmp64Eq p a b => Sys2Proof.Machine.execCmp64Eq p a b s
  | .cmp64Ne p a b => Sys2Proof.Machine.execCmp64Ne p a b s
  | .cmp64LtS p a b => Sys2Proof.Machine.execCmp64LtS p a b s
  | .cmp64LeS p a b => Sys2Proof.Machine.execCmp64LeS p a b s
  | .cmp64GtS p a b => Sys2Proof.Machine.execCmp64GtS p a b s
  | .cmp64GeS p a b => Sys2Proof.Machine.execCmp64GeS p a b s
  | .cmp64LtU p a b => Sys2Proof.Machine.execCmp64LtU p a b s
  | .cmp64LeU p a b => Sys2Proof.Machine.execCmp64LeU p a b s
  | .cmp64GtU p a b => Sys2Proof.Machine.execCmp64GtU p a b s
  | .cmp64GeU p a b => Sys2Proof.Machine.execCmp64GeU p a b s
  | .sel p d a b => Sys2Proof.Machine.execSel p d a b s
  | .fadd d a b => Sys2Proof.Machine.execFadd d a b s
  | .fsub d a b => Sys2Proof.Machine.execFsub d a b s
  | .fmul d a b => Sys2Proof.Machine.execFmul d a b s
  | .ffma d a b => Sys2Proof.Machine.execFfma d a b s
  | .fdiv d a b => Sys2Proof.Machine.execFdiv d a b s
  | .fmin d a b => Sys2Proof.Machine.execFmin d a b s
  | .fmax d a b => Sys2Proof.Machine.execFmax d a b s
  | .fcpys d a b => Sys2Proof.Machine.execFcpys d a b s
  | .fsqrt d a r => Sys2Proof.Machine.execFsqrt d a r s
  | .fabs d a => Sys2Proof.Machine.execFabs d a s
  | .fneg d a => Sys2Proof.Machine.execFneg d a s
  | .fclass d a => Sys2Proof.Machine.execFclass d a s
  | .frint d a r => Sys2Proof.Machine.execFrint d a r s
  | .frcp d a => Sys2Proof.Machine.execFrcp d a s
  | .frsq d a => Sys2Proof.Machine.execFrsq d a s
  | .fex2 d a => Sys2Proof.Machine.execFex2 d a s
  | .flg2 d a => Sys2Proof.Machine.execFlg2 d a s
  | .fsin d a => Sys2Proof.Machine.execFsin d a s
  | .fcos d a => Sys2Proof.Machine.execFcos d a s
  | .fcmpEq p a b => Sys2Proof.Machine.execFcmpEq p a b s
  | .fcmpNe p a b => Sys2Proof.Machine.execFcmpNe p a b s
  | .fcmpLt p a b => Sys2Proof.Machine.execFcmpLt p a b s
  | .fcmpLe p a b => Sys2Proof.Machine.execFcmpLe p a b s
  | .fcmpGt p a b => Sys2Proof.Machine.execFcmpGt p a b s
  | .fcmpGe p a b => Sys2Proof.Machine.execFcmpGe p a b s
  | .fcmpUn p a b => Sys2Proof.Machine.execFcmpUn p a b s
  | .dadd d a b => Sys2Proof.Machine.execDadd d a b s
  | .dsub d a b => Sys2Proof.Machine.execDsub d a b s
  | .dmul d a b => Sys2Proof.Machine.execDmul d a b s
  | .dfma d a b => Sys2Proof.Machine.execDfma d a b s
  | .ddiv d a b => Sys2Proof.Machine.execDdiv d a b s
  | .dsqrt d a r => Sys2Proof.Machine.execDsqrt d a r s
  | .dcmpEq p a b => Sys2Proof.Machine.execDcmpEq p a b s
  | .dcmpNe p a b => Sys2Proof.Machine.execDcmpNe p a b s
  | .dcmpLt p a b => Sys2Proof.Machine.execDcmpLt p a b s
  | .dcmpLe p a b => Sys2Proof.Machine.execDcmpLe p a b s
  | .dcmpGt p a b => Sys2Proof.Machine.execDcmpGt p a b s
  | .dcmpGe p a b => Sys2Proof.Machine.execDcmpGe p a b s
  | .dcmpUn p a b => Sys2Proof.Machine.execDcmpUn p a b s
  | .hadd2Bf16 d a b => Sys2Proof.Machine.execHadd2Bf16 d a b s
  | .hadd2Fp16 d a b => Sys2Proof.Machine.execHadd2Fp16 d a b s
  | .hmul2Bf16 d a b => Sys2Proof.Machine.execHmul2Bf16 d a b s
  | .hmul2Fp16 d a b => Sys2Proof.Machine.execHmul2Fp16 d a b s
  | .hfma2Bf16 d a b => Sys2Proof.Machine.execHfma2Bf16 d a b s
  | .hfma2Fp16 d a b => Sys2Proof.Machine.execHfma2Fp16 d a b s
  | .cvt d a c o => Sys2Proof.Machine.execCvt d a c o s
  | .cvtbPack d a f => Sys2Proof.Machine.execCvtbPack d a f s
  | .cvtbUnpack d a f => Sys2Proof.Machine.execCvtbUnpack d a f s
  | .cblook d a b => Sys2Proof.Machine.execCblook d a b s
  | .shflIdx d a b => Sys2Proof.Machine.execShflIdx d a b s
  | .shflUp d a b => Sys2Proof.Machine.execShflUp d a b s
  | .shflDn d a b => Sys2Proof.Machine.execShflDn d a b s
  | .shflXor d a b => Sys2Proof.Machine.execShflXor d a b s
  | .voteAny p q n => Sys2Proof.Machine.execVoteAny p q n s
  | .voteAll p q n => Sys2Proof.Machine.execVoteAll p q n s
  | .voteBal d q n => Sys2Proof.Machine.execVoteBal d q n s
  | .redx d a o => Sys2Proof.Machine.execRedx d a o s
  | .scan d a o e => Sys2Proof.Machine.execScan d a o e s
  | .matchOp d a l w => Sys2Proof.Machine.execMatchOp d a l w s
  | .jmp o => Sys2Proof.Machine.execJmp o s
  | .call o => Sys2Proof.Machine.execCall o s
  | .jmpuZ d im => Sys2Proof.Machine.execJmpuZ d im s
  | .jmpuNz d im => Sys2Proof.Machine.execJmpuNz d im s
  | .ret a => Sys2Proof.Machine.execRet a s
  | .ifp p im => Sys2Proof.Machine.execIfp p im s
  | .elseOp im => Sys2Proof.Machine.execElseOp im s
  | .fi => Sys2Proof.Machine.execFi s
  | .loop im => Sys2Proof.Machine.execLoop im s
  | .endl im => Sys2Proof.Machine.execEndl im s
  | .brkp p n => Sys2Proof.Machine.execBrkp p n s
  | .contp p n => Sys2Proof.Machine.execContp p n s
  | .exit => Sys2Proof.Machine.execExit s
  | .yield => Sys2Proof.Machine.execYield s
  | .nop => Sys2Proof.Machine.execNop s
  | .region => Sys2Proof.Machine.execRegion s
  | .step => Sys2Proof.Machine.execStep s
  | .srd d im => Sys2Proof.Machine.execSrd d im s
  | .swr d im => Sys2Proof.Machine.execSwr d im s
  | .trap im => Sys2Proof.Machine.execTrap im s
  | .ldB8 d b o => Sys2Proof.Machine.execLdB8 d b o s
  | .ldB8S d b o => Sys2Proof.Machine.execLdB8S d b o s
  | .ldB16 d b o => Sys2Proof.Machine.execLdB16 d b o s
  | .ldB16S d b o => Sys2Proof.Machine.execLdB16S d b o s
  | .ldB32 d b o => Sys2Proof.Machine.execLdB32 d b o s
  | .ldB64 d b o => Sys2Proof.Machine.execLdB64 d b o s
  | .ldB128 d b o => Sys2Proof.Machine.execLdB128 d b o s
  | .stB8 d b o => Sys2Proof.Machine.execStB8 d b o s
  | .stB16 d b o => Sys2Proof.Machine.execStB16 d b o s
  | .stB32 d b o => Sys2Proof.Machine.execStB32 d b o s
  | .stB64 d b o => Sys2Proof.Machine.execStB64 d b o s
  | .stB128 d b o => Sys2Proof.Machine.execStB128 d b o s
  | .ldStrong d a z sc o => Sys2Proof.Machine.execLdStrong d a z sc o s
  | .stStrong d a z sc o => Sys2Proof.Machine.execStStrong d a z sc o s
  | .ldfe d b o => Sys2Proof.Machine.execLdfe d b o s
  | .stfe d b o => Sys2Proof.Machine.execStfe d b o s
  | .feset a f => Sys2Proof.Machine.execFeset a f s
  | .fetest p a => Sys2Proof.Machine.execFetest p a s
  | .sptest d a => Sys2Proof.Machine.execSptest d a s
  | .spcast d a sc g => Sys2Proof.Machine.execSpcast d a sc g s
  | .pref a l => Sys2Proof.Machine.execPref a l s
  | .cctlInv1 a => Sys2Proof.Machine.execCctlInv1 a s
  | .cctlWb2 a => Sys2Proof.Machine.execCctlWb2 a s
  | .cctlEvf a => Sys2Proof.Machine.execCctlEvf a s
  | .cctlInv1all => Sys2Proof.Machine.execCctlInv1all s
  | .fence sc k => Sys2Proof.Machine.execFence sc k s
  | .atom d a o w c => Sys2Proof.Machine.execAtom d a o w c s
  | .cas d a b => Sys2Proof.Machine.execCas d a b s
  | .red d a o w c => Sys2Proof.Machine.execRed d a o w c s
  | .ifenceLocal => Sys2Proof.Machine.execIfenceLocal s
  | .ifenceDie d a => Sys2Proof.Machine.execIfenceDie d a s
  | .cpy d a => Sys2Proof.Machine.execCpy d a s
  | .gather d a r => Sys2Proof.Machine.execGather d a r s
  | .scatter d a r => Sys2Proof.Machine.execScatter d a r s
  | .toktest p a => Sys2Proof.Machine.execToktest p a s
  | .axbind a => Sys2Proof.Machine.execAxbind a s
  | .astrm a q => Sys2Proof.Machine.execAstrm a q s
  | .qpushS a q => Sys2Proof.Machine.execQpushS a q s
  | .qpushM a q => Sys2Proof.Machine.execQpushM a q s
  | .barinit d a => Sys2Proof.Machine.execBarinit d a s
  | .bararr d a => Sys2Proof.Machine.execBararr d a s
  | .bartx d a => Sys2Proof.Machine.execBartx d a s
  | .barwait d a t => Sys2Proof.Machine.execBarwait d a t s
  | .tbar => Sys2Proof.Machine.execTbar s
  | .gbar => Sys2Proof.Machine.execGbar s
  | .shape d c => Sys2Proof.Machine.execShape d c s
  | .slclaim d a => Sys2Proof.Machine.execSlclaim d a s
  | .slrel a => Sys2Proof.Machine.execSlrel a s
  | .ldslot d a => Sys2Proof.Machine.execLdslot d a s
  | .cbload d a => Sys2Proof.Machine.execCbload d a s
  | .mma sc a b t => Sys2Proof.Machine.execMma sc a b t s
  | .mmas sc a b t => Sys2Proof.Machine.execMmas sc a b t s
  | .accz t m => Sys2Proof.Machine.execAccz t m s
  | .accrd d a t f => Sys2Proof.Machine.execAccrd d a t f s
  | .accwr d a t f => Sys2Proof.Machine.execAccwr d a t f s
  | .accst d a t z o => Sys2Proof.Machine.execAccst d a t z o s
  | .layerf d a f l sc => Sys2Proof.Machine.execLayerf d a f l sc s
  | .layert d a f l sc => Sys2Proof.Machine.execLayert d a f l sc s
  | .layerd d a sc => Sys2Proof.Machine.execLayerd d a sc s
  | .arxq d a => Sys2Proof.Machine.execArxq d a s
  | .adpset d a => Sys2Proof.Machine.execAdpset d a s
  | .calset d a => Sys2Proof.Machine.execCalset d a s
  | .calrd d a => Sys2Proof.Machine.execCalrd d a s
  | .almrun d a f => Sys2Proof.Machine.execAlmrun d a f s
  | .almfit d a => Sys2Proof.Machine.execAlmfit d a s
  | .confw d a v => Sys2Proof.Machine.execConfw d a v s
  | .scacc d a v => Sys2Proof.Machine.execScacc d a v s
  | .scrd d a => Sys2Proof.Machine.execScrd d a s
  | .scclr d a => Sys2Proof.Machine.execScclr d a s
  | .topk d a => Sys2Proof.Machine.execTopk d a s
  | .posxl d a p m => Sys2Proof.Machine.execPosxl d a p m s
  | .surv d a => Sys2Proof.Machine.execSurv d a s
  | .compact d a => Sys2Proof.Machine.execCompact d a s
  | .pxfind d a => Sys2Proof.Machine.execPxfind d a s
  | .pxins d a => Sys2Proof.Machine.execPxins d a s
  | .pxrel d a => Sys2Proof.Machine.execPxrel d a s
  | .unmask d a => Sys2Proof.Machine.execUnmask d a s
  | .dirty d a => Sys2Proof.Machine.execDirty d a s
  | .dmaprd d a p m => Sys2Proof.Machine.execDmaprd d a p m s
  | .chlaunch d a => Sys2Proof.Machine.execChlaunch d a s
  | .astm b a c k t => Sys2Proof.Machine.execAstm b a c k t s
  | .agat l a k t => Sys2Proof.Machine.execAgat l a k t s
  | .aqp a t => Sys2Proof.Machine.execAqp a t s
  | .astq a t => Sys2Proof.Machine.execAstq a t s
  | .xpop d => Sys2Proof.Machine.execXpop d s
  | .xop d a o y => Sys2Proof.Machine.execXop d a o y s
  | .xpush a => Sys2Proof.Machine.execXpush a s
  | .chend => Sys2Proof.Machine.execChend s
  | .tfencePt sc => Sys2Proof.Machine.execTfencePt sc s
  | .tfenceWalk => Sys2Proof.Machine.execTfenceWalk s
  | .tfenceInv a e sc g => Sys2Proof.Machine.execTfenceInv a e sc g s
  | .migrate d a f h => Sys2Proof.Machine.execMigrate d a f h s
  | .ptq d a k h => Sys2Proof.Machine.execPtq d a k h s
  | .rnginv a sc h => Sys2Proof.Machine.execRnginv a sc h s
  | .leaseq d a => Sys2Proof.Machine.execLeaseq d a s
  | .launch d a => Sys2Proof.Machine.execLaunch d a s
  | .qwait d a c e => Sys2Proof.Machine.execQwait d a c e s
  | .qsig d a sc => Sys2Proof.Machine.execQsig d a sc s
  | .qjmp o => Sys2Proof.Machine.execQjmp o s
  | .qstopStop a => Sys2Proof.Machine.execQstopStop a s
  | .qstopStart a => Sys2Proof.Machine.execQstopStart a s
  | .ctxsw d a => Sys2Proof.Machine.execCtxsw d a s
  | .ctxsv d a f => Sys2Proof.Machine.execCtxsv d a f s
  | .ctxld d a => Sys2Proof.Machine.execCtxld d a s
  | .arprog d a => Sys2Proof.Machine.execArprog d a s
  | .arcommitTile d a => Sys2Proof.Machine.execArcommitTile d a s
  | .arcommitGrant d a => Sys2Proof.Machine.execArcommitGrant d a s
  | .arcommitRevoke d a => Sys2Proof.Machine.execArcommitRevoke d a s
  | .arstat d a => Sys2Proof.Machine.execArstat d a s
  | .dectabLoad d a => Sys2Proof.Machine.execDectabLoad d a s
  | .dectabClr d a => Sys2Proof.Machine.execDectabClr d a s
  | .hvcall im => Sys2Proof.Machine.execHvcall im s
  | .qosset d a => Sys2Proof.Machine.execQosset d a s
  | .eretResume d a => Sys2Proof.Machine.execEretResume d a s
  | .eretSkip d a => Sys2Proof.Machine.execEretSkip d a s
  | .eretRegion d a => Sys2Proof.Machine.execEretRegion d a s
  | .eretAbort d a => Sys2Proof.Machine.execEretAbort d a s
  | .eretSelf => Sys2Proof.Machine.execEretSelf s
  | .starfix d => Sys2Proof.Machine.execStarfix d s
  | .halt => Sys2Proof.Machine.execHalt s
  | .coll d a o y x => Sys2Proof.Machine.execColl d a o y x s
  | .gtcmpWrite gid v => Sys2Proof.Machine.execGtcmpWrite gid v s
  | .wdlWrite gid v => Sys2Proof.Machine.execWdlWrite gid v s
  | .mfrAccess gid v => Sys2Proof.Machine.execMfrAccess gid v s
  | .chrctlRestart vf pkg => Sys2Proof.Machine.execChrctlRestart vf pkg s
  | .passgh vf gh => Sys2Proof.Machine.execPassgh vf gh s
  | .hvctxWrite vf v => Sys2Proof.Machine.execHvctxWrite vf v s
  | .queueDoorbell qid tail => Sys2Proof.Machine.execQueueDoorbell qid tail s
  | .powerGood => Sys2Proof.Machine.execPowerGood s
  | .camp1 modn mem routes => Sys2Proof.Machine.execCamp1 modn mem routes s
  | .journalBackgroundRow die tile => Sys2Proof.Machine.execJournalBackgroundRow die tile s
  | .summit => Sys2Proof.Machine.execSummit s
  | .managementReset => Sys2Proof.Machine.execManagementReset s
  | .starfixTriggerPin => Sys2Proof.Machine.execStarfixTriggerPin s
  | .managementStarfix => Sys2Proof.Machine.execManagementStarfix s
  | .snapshotRead seq => Sys2Proof.Machine.execSnapshotRead seq s
  | .attestationRequest vf nonce => Sys2Proof.Machine.execAttestationRequest vf nonce s
  | .healthRequest => Sys2Proof.Machine.execHealthRequest s
  | .uetWriteReceived hdr va bytes => Sys2Proof.Machine.execUetWriteReceived hdr va bytes s
  | .uetReadReceived mac va len => Sys2Proof.Machine.execUetReadReceived mac va len s
  | .remoteRequestReceived r => Sys2Proof.Machine.execRemoteRequestReceived r s
  | .vlHold port vl hold => Sys2Proof.Machine.execVlHold port vl hold s
  | .gtcmpFire gid => Sys2Proof.Machine.execGtcmpFire gid s
  | .wdlFire gid => Sys2Proof.Machine.execWdlFire gid s
  | .hangWatchdog who => Sys2Proof.Machine.execHangWatchdog who s
  | .detTeamTimeCap tag => Sys2Proof.Machine.execDetTeamTimeCap tag s
  | .cheTaskWatchdog pkg vf => Sys2Proof.Machine.execCheTaskWatchdog pkg vf s
  | .leaseTimeout grid n => Sys2Proof.Machine.execLeaseTimeout grid n s
  | .migrationLimit who => Sys2Proof.Machine.execMigrationLimit who s
  | .placementLimit grid => Sys2Proof.Machine.execPlacementLimit grid s
  | .collGatherTimeout inst => Sys2Proof.Machine.execCollGatherTimeout inst s
  | .ctxswRollback qid => Sys2Proof.Machine.execCtxswRollback qid s
  | .preemptionRequest tag => Sys2Proof.Machine.execPreemptionRequest tag s
  | .saveAtTbar tag => Sys2Proof.Machine.execSaveAtTbar tag s
  | .forcedSave tag => Sys2Proof.Machine.execForcedSave tag s
  | .teamPlacement grid core p0 tag => Sys2Proof.Machine.execTeamPlacement grid core p0 tag s
  | .teamRestore tag core p0 => Sys2Proof.Machine.execTeamRestore tag core p0 s
  | .victimEviction tag => Sys2Proof.Machine.execVictimEviction tag s
  | .groupRetirement gid => Sys2Proof.Machine.execGroupRetirement gid s
  | .gridRetirement grid => Sys2Proof.Machine.execGridRetirement grid s
  | .stepBarrierComplete grid change => Sys2Proof.Machine.execStepBarrierComplete grid change s
  | .teamBarrierComplete b => Sys2Proof.Machine.execTeamBarrierComplete b s
  | .qpQuantumExpiry qp => Sys2Proof.Machine.execQpQuantumExpiry qp s
  | .cheQuantumExpiry pkg => Sys2Proof.Machine.execCheQuantumExpiry pkg s
  | .cheTaskStart pkg vf => Sys2Proof.Machine.execCheTaskStart pkg vf s
  | .cheTaskEnd pkg vf => Sys2Proof.Machine.execCheTaskEnd pkg vf s
  | .almanacPublication sets => Sys2Proof.Machine.execAlmanacPublication sets s
  | .patrolScrub line err => Sys2Proof.Machine.execPatrolScrub line err s
  | .throttleDeeper vf draw => Sys2Proof.Machine.execThrottleDeeper vf draw s
  | .throttleBack vf draw => Sys2Proof.Machine.execThrottleBack vf draw s
  | .resourceRetirement channel n => Sys2Proof.Machine.execResourceRetirement channel n s
  | .portRetirement port => Sys2Proof.Machine.execPortRetirement port s
  | .ucieLinkRetrain die work => Sys2Proof.Machine.execUcieLinkRetrain die work s
  | .loadDataReturn gid id part => Sys2Proof.Machine.execLoadDataReturn gid id part s
  | .storePerform st => Sys2Proof.Machine.execStorePerform st s
  | .engineLineWrite work piece => Sys2Proof.Machine.execEngineLineWrite work piece s
  | .engineTokenFill work => Sys2Proof.Machine.execEngineTokenFill work s
  | .matrixUnitOperation core => Sys2Proof.Machine.execMatrixUnitOperation core s
  | .sqeOperation cluster => Sys2Proof.Machine.execSqeOperation cluster s
  | .pxBucketUpdate work => Sys2Proof.Machine.execPxBucketUpdate work s
  | .tfenceInvComplete id => Sys2Proof.Machine.execTfenceInvComplete id s
  | .l2LineEviction line => Sys2Proof.Machine.execL2LineEviction line s
  | .trapNotice gid => Sys2Proof.Machine.execTrapNotice gid s
  | .powerFailure => Sys2Proof.Machine.execPowerFailure s
  | .vfOpen vf cfg => Sys2Proof.Machine.execVfOpen vf cfg s
  | .vfClose vf => Sys2Proof.Machine.execVfClose vf s
  | .granuleAssignment cluster granule vf => Sys2Proof.Machine.execGranuleAssignment cluster granule vf s
  | .gridOfferReceived grid modn accept => Sys2Proof.Machine.execGridOfferReceived grid modn accept s

end Sys2Proof.Machine
end

