-- ==== Sys2Proof/Machine/Run.lean ====
section
/-! DEFINITION. Running the fetched word (01_encoding R38), and the dispatch that the compiler runs in place of decoding followed by exec: Lean's compiler cannot build the constructors of so long an inductive, so decoded instructions and events go to their meanings directly; each lemma says that this is exec of the decoded instruction. -/

namespace Sys2Proof.Machine

/-- An error in the queue tables or in a decode table stops the instruction that goes through it (15_platform R465). -/
def tableStruck (s : State) (map op : Nat) : Bool :=
  isStruck s (.decode map op) || (match s.cur with | .queue q => isStruck s (.queue q) | _ => false)

/-- R38 for a fetched instruction: steps 2 and 3 come before the reserved bits of step 4. `ex` runs a word by its operation and fields, `hx` a halfword. -/
def runCode (ex : Nat → BitVec 7 → BitVec 7 → BitVec 7 → State → Option Out) (hx : BitVec 16 → State → Option Out) (c : Code) (s : State) : Out :=
  match c with
  | .half h => (hx h s).getD (done s (.error illegal))
  | .word w =>
    if tableStruck s (mapOf s) (wordOp w) then done (match s.cur with | .queue q => unstrike s (.queue q) | _ => s) (.error (trapOf 0x0C 0x02))
    else match mapOp s (mapOf s) (wordOp w) with
    | none => done s (.error illegal)
    | some op =>
      if !ctxAllows s.cur.ctx op then done s (.error illegal)
      else if levelOf s < lowestLevel op (wordB w) then done s (.error (trapOf 0x03))
      else (ex op (wordD w) (wordA w) (wordB w) s).getD (done s (.error illegal))

/-- Fetches and runs the next instruction of the executing context. -/
def runFetched (ex : Nat → BitVec 7 → BitVec 7 → BitVec 7 → State → Option Out) (hx : BitVec 16 → State → Option Out) (s : State) : Out :=
  match fetch s with
  | .error stop => done s (.error stop)
  | .ok (c, s) => runCode ex hx c s

/-- The next instruction of the executing context, or what comes before it at the boundary. -/
def runNext (ex : Nat → BitVec 7 → BitVec 7 → BitVec 7 → State → Option Out) (hx : BitVec 16 → State → Option Out) (s : State) : Out :=
  match s.cur with
  | .group gid =>
    match atBoundary s gid with
    | some s' => .next s'
    | none => runFetched ex hx s
  | _ => runFetched ex hx s

/-- Operations of decodeGroup0. -/
def execGroup0 (op : Nat) (d a b : BitVec 7) (s : State) : Option Out :=
  match op with
  | 0 => some (Sys2Proof.Machine.execAdd d a b s)
  | 1 => some (Sys2Proof.Machine.execSub d a b s)
  | 2 => some (Sys2Proof.Machine.execMulLo d a b s)
  | 3 => some (Sys2Proof.Machine.execMulHiS d a b s)
  | 4 => some (Sys2Proof.Machine.execMulHiU d a b s)
  | 5 => some (Sys2Proof.Machine.execMulwS d a b s)
  | 6 => some (Sys2Proof.Machine.execMulwU d a b s)
  | 7 => some (Sys2Proof.Machine.execMad d a b s)
  | 8 => some (Sys2Proof.Machine.execAnd d a b s)
  | 9 => some (Sys2Proof.Machine.execOr d a b s)
  | 10 => some (Sys2Proof.Machine.execXor d a b s)
  | 11 => some (Sys2Proof.Machine.execAndn d a b s)
  | 12 => some (Sys2Proof.Machine.execShl d a b s)
  | 13 => some (Sys2Proof.Machine.execShr d a b s)
  | 14 => some (Sys2Proof.Machine.execSar d a b s)
  | 15 => some (Sys2Proof.Machine.execRotl d a b s)
  | _ => none

theorem execGroup0_eq (op : Nat) (d a b : BitVec 7) (s : State) :
    execGroup0 op d a b s = (decodeGroup0 op d a b).map (fun i => exec i s) := by
  unfold execGroup0 decodeGroup0
  split <;> simp only [Option.map_some, Option.map_none] <;> rfl

/-- Operations of decodeGroup1. -/
def execGroup1 (op : Nat) (d a b : BitVec 7) (s : State) : Option Out :=
  match op with
  | 16 => some (Sys2Proof.Machine.execMinS d a b s)
  | 17 => some (Sys2Proof.Machine.execMinU d a b s)
  | 18 => some (Sys2Proof.Machine.execMaxS d a b s)
  | 19 => some (Sys2Proof.Machine.execMaxU d a b s)
  | 20 => some (Sys2Proof.Machine.execPerm d a b s)
  | 21 => some (Sys2Proof.Machine.execBfx d a b s)
  | 22 => some (Sys2Proof.Machine.execBfi d a b s)
  | 24 => if b = 0 then some (Sys2Proof.Machine.execAbs d a s) else none
  | 25 => if b = 0 then some (Sys2Proof.Machine.execNeg d a s) else none
  | 26 => if b = 0 then some (Sys2Proof.Machine.execClz d a s) else none
  | 27 => if b = 0 then some (Sys2Proof.Machine.execPopc d a s) else none
  | 28 => if b = 0 then some (Sys2Proof.Machine.execBrev d a s) else none
  | 29 => if b = 0 then some (Sys2Proof.Machine.execMov d a s) else none
  | _ => none

theorem execGroup1_eq (op : Nat) (d a b : BitVec 7) (s : State) :
    execGroup1 op d a b s = (decodeGroup1 op d a b).map (fun i => exec i s) := by
  unfold execGroup1 decodeGroup1
  split <;> simp only [apply_ite (Option.map _), Option.map_some, Option.map_none] <;> rfl

/-- Operations of decodeGroup2. -/
def execGroup2 (op : Nat) (d a b : BitVec 7) (s : State) : Option Out :=
  match op with
  | 32 => some (Sys2Proof.Machine.execAddi d a b s)
  | 33 => some (Sys2Proof.Machine.execAndi d a b s)
  | 34 => some (Sys2Proof.Machine.execOri d a b s)
  | 35 => some (Sys2Proof.Machine.execXori d a b s)
  | 36 => some (Sys2Proof.Machine.execShli d a b s)
  | 37 => some (Sys2Proof.Machine.execShri d a b s)
  | 38 => some (Sys2Proof.Machine.execSari d a b s)
  | 40 => some (Sys2Proof.Machine.execLi d ((b) ++ (a)) s)
  | 41 => some (Sys2Proof.Machine.execLui d ((b) ++ (a)) s)
  | _ => none

theorem execGroup2_eq (op : Nat) (d a b : BitVec 7) (s : State) :
    execGroup2 op d a b s = (decodeGroup2 op d a b).map (fun i => exec i s) := by
  unfold execGroup2 decodeGroup2
  split <;> simp only [Option.map_some, Option.map_none] <;> rfl

/-- Operations of decodeGroup3. -/
def execGroup3 (op : Nat) (d a b : BitVec 7) (s : State) : Option Out :=
  match op with
  | 48 => some (Sys2Proof.Machine.execCmpEq d a b s)
  | 49 => some (Sys2Proof.Machine.execCmpNe d a b s)
  | 50 => some (Sys2Proof.Machine.execCmpLtS d a b s)
  | 51 => some (Sys2Proof.Machine.execCmpLeS d a b s)
  | 52 => some (Sys2Proof.Machine.execCmpGtS d a b s)
  | 53 => some (Sys2Proof.Machine.execCmpGeS d a b s)
  | 54 => some (Sys2Proof.Machine.execCmpLtU d a b s)
  | 55 => some (Sys2Proof.Machine.execCmpLeU d a b s)
  | 56 => some (Sys2Proof.Machine.execCmpGtU d a b s)
  | 57 => some (Sys2Proof.Machine.execCmpGeU d a b s)
  | _ => none

theorem execGroup3_eq (op : Nat) (d a b : BitVec 7) (s : State) :
    execGroup3 op d a b s = (decodeGroup3 op d a b).map (fun i => exec i s) := by
  unfold execGroup3 decodeGroup3
  split <;> simp only [Option.map_some, Option.map_none] <;> rfl

/-- Operations of decodeGroup4. -/
def execGroup4 (op : Nat) (d a b : BitVec 7) (s : State) : Option Out :=
  match op with
  | 64 => some (Sys2Proof.Machine.execAdd64 d a b s)
  | 65 => some (Sys2Proof.Machine.execSub64 d a b s)
  | 66 => some (Sys2Proof.Machine.execShl64 d a b s)
  | 67 => some (Sys2Proof.Machine.execShr64 d a b s)
  | 72 => some (Sys2Proof.Machine.execCmp64Eq d a b s)
  | 73 => some (Sys2Proof.Machine.execCmp64Ne d a b s)
  | 74 => some (Sys2Proof.Machine.execCmp64LtS d a b s)
  | 75 => some (Sys2Proof.Machine.execCmp64LeS d a b s)
  | 76 => some (Sys2Proof.Machine.execCmp64GtS d a b s)
  | 77 => some (Sys2Proof.Machine.execCmp64GeS d a b s)
  | 78 => some (Sys2Proof.Machine.execCmp64LtU d a b s)
  | 79 => some (Sys2Proof.Machine.execCmp64LeU d a b s)
  | _ => none

theorem execGroup4_eq (op : Nat) (d a b : BitVec 7) (s : State) :
    execGroup4 op d a b s = (decodeGroup4 op d a b).map (fun i => exec i s) := by
  unfold execGroup4 decodeGroup4
  split <;> simp only [Option.map_some, Option.map_none] <;> rfl

/-- Operations of decodeGroup5. -/
def execGroup5 (op : Nat) (d a b : BitVec 7) (s : State) : Option Out :=
  match op with
  | 80 => some (Sys2Proof.Machine.execCmp64GtU d a b s)
  | 81 => some (Sys2Proof.Machine.execCmp64GeU d a b s)
  | _ => none

theorem execGroup5_eq (op : Nat) (d a b : BitVec 7) (s : State) :
    execGroup5 op d a b s = (decodeGroup5 op d a b).map (fun i => exec i s) := by
  unfold execGroup5 decodeGroup5
  split <;> simp only [Option.map_some, Option.map_none] <;> rfl

/-- Operations of decodeGroup7. -/
def execGroup7 (op : Nat) (d a b : BitVec 7) (s : State) : Option Out :=
  match op with
  | 112 => some (Sys2Proof.Machine.execSel 0 d a b s)
  | 113 => some (Sys2Proof.Machine.execSel 1 d a b s)
  | 114 => some (Sys2Proof.Machine.execSel 2 d a b s)
  | 115 => some (Sys2Proof.Machine.execSel 3 d a b s)
  | 116 => some (Sys2Proof.Machine.execSel 4 d a b s)
  | 117 => some (Sys2Proof.Machine.execSel 5 d a b s)
  | 118 => some (Sys2Proof.Machine.execSel 6 d a b s)
  | 119 => some (Sys2Proof.Machine.execSel 7 d a b s)
  | _ => none

theorem execGroup7_eq (op : Nat) (d a b : BitVec 7) (s : State) :
    execGroup7 op d a b s = (decodeGroup7 op d a b).map (fun i => exec i s) := by
  unfold execGroup7 decodeGroup7
  split <;> simp only [Option.map_some, Option.map_none] <;> rfl

/-- Operations of decodeGroup8. -/
def execGroup8 (op : Nat) (d a b : BitVec 7) (s : State) : Option Out :=
  match op with
  | 128 => some (Sys2Proof.Machine.execFadd d a b s)
  | 129 => some (Sys2Proof.Machine.execFsub d a b s)
  | 130 => some (Sys2Proof.Machine.execFmul d a b s)
  | 131 => some (Sys2Proof.Machine.execFfma d a b s)
  | 132 => some (Sys2Proof.Machine.execFdiv d a b s)
  | 133 => some (Sys2Proof.Machine.execFmin d a b s)
  | 134 => some (Sys2Proof.Machine.execFmax d a b s)
  | 135 => some (Sys2Proof.Machine.execFcpys d a b s)
  | 136 => if b.extractLsb' 3 4 = 0 then some (Sys2Proof.Machine.execFsqrt d a (b.extractLsb' 0 3) s) else none
  | 137 => if b = 0 then some (Sys2Proof.Machine.execFabs d a s) else none
  | 138 => if b = 0 then some (Sys2Proof.Machine.execFneg d a s) else none
  | 139 => if b = 0 then some (Sys2Proof.Machine.execFclass d a s) else none
  | 140 => if b.extractLsb' 3 4 = 0 then some (Sys2Proof.Machine.execFrint d a (b.extractLsb' 0 3) s) else none
  | _ => none

theorem execGroup8_eq (op : Nat) (d a b : BitVec 7) (s : State) :
    execGroup8 op d a b s = (decodeGroup8 op d a b).map (fun i => exec i s) := by
  unfold execGroup8 decodeGroup8
  split <;> simp only [apply_ite (Option.map _), Option.map_some, Option.map_none] <;> rfl

/-- Operations of decodeGroup9. -/
def execGroup9 (op : Nat) (d a b : BitVec 7) (s : State) : Option Out :=
  match op with
  | 144 => if b = 0 then some (Sys2Proof.Machine.execFrcp d a s) else none
  | 145 => if b = 0 then some (Sys2Proof.Machine.execFrsq d a s) else none
  | 146 => if b = 0 then some (Sys2Proof.Machine.execFex2 d a s) else none
  | 147 => if b = 0 then some (Sys2Proof.Machine.execFlg2 d a s) else none
  | 148 => if b = 0 then some (Sys2Proof.Machine.execFsin d a s) else none
  | 149 => if b = 0 then some (Sys2Proof.Machine.execFcos d a s) else none
  | 152 => some (Sys2Proof.Machine.execFcmpEq d a b s)
  | 153 => some (Sys2Proof.Machine.execFcmpNe d a b s)
  | 154 => some (Sys2Proof.Machine.execFcmpLt d a b s)
  | 155 => some (Sys2Proof.Machine.execFcmpLe d a b s)
  | 156 => some (Sys2Proof.Machine.execFcmpGt d a b s)
  | 157 => some (Sys2Proof.Machine.execFcmpGe d a b s)
  | 158 => some (Sys2Proof.Machine.execFcmpUn d a b s)
  | _ => none

theorem execGroup9_eq (op : Nat) (d a b : BitVec 7) (s : State) :
    execGroup9 op d a b s = (decodeGroup9 op d a b).map (fun i => exec i s) := by
  unfold execGroup9 decodeGroup9
  split <;> simp only [apply_ite (Option.map _), Option.map_some, Option.map_none] <;> rfl

/-- Operations of decodeGroup10. -/
def execGroup10 (op : Nat) (d a b : BitVec 7) (s : State) : Option Out :=
  match op with
  | 160 => some (Sys2Proof.Machine.execDadd d a b s)
  | 161 => some (Sys2Proof.Machine.execDsub d a b s)
  | 162 => some (Sys2Proof.Machine.execDmul d a b s)
  | 163 => some (Sys2Proof.Machine.execDfma d a b s)
  | 164 => some (Sys2Proof.Machine.execDdiv d a b s)
  | 165 => if b.extractLsb' 3 4 = 0 then some (Sys2Proof.Machine.execDsqrt d a (b.extractLsb' 0 3) s) else none
  | 168 => some (Sys2Proof.Machine.execDcmpEq d a b s)
  | 169 => some (Sys2Proof.Machine.execDcmpNe d a b s)
  | 170 => some (Sys2Proof.Machine.execDcmpLt d a b s)
  | 171 => some (Sys2Proof.Machine.execDcmpLe d a b s)
  | 172 => some (Sys2Proof.Machine.execDcmpGt d a b s)
  | 173 => some (Sys2Proof.Machine.execDcmpGe d a b s)
  | 174 => some (Sys2Proof.Machine.execDcmpUn d a b s)
  | _ => none

theorem execGroup10_eq (op : Nat) (d a b : BitVec 7) (s : State) :
    execGroup10 op d a b s = (decodeGroup10 op d a b).map (fun i => exec i s) := by
  unfold execGroup10 decodeGroup10
  split <;> simp only [apply_ite (Option.map _), Option.map_some, Option.map_none] <;> rfl

/-- Operations of decodeGroup11. -/
def execGroup11 (op : Nat) (d a b : BitVec 7) (s : State) : Option Out :=
  match op with
  | 176 => some (Sys2Proof.Machine.execHadd2Bf16 d a b s)
  | 177 => some (Sys2Proof.Machine.execHadd2Fp16 d a b s)
  | 178 => some (Sys2Proof.Machine.execHmul2Bf16 d a b s)
  | 179 => some (Sys2Proof.Machine.execHmul2Fp16 d a b s)
  | 180 => some (Sys2Proof.Machine.execHfma2Bf16 d a b s)
  | 181 => some (Sys2Proof.Machine.execHfma2Fp16 d a b s)
  | _ => none

theorem execGroup11_eq (op : Nat) (d a b : BitVec 7) (s : State) :
    execGroup11 op d a b s = (decodeGroup11 op d a b).map (fun i => exec i s) := by
  unfold execGroup11 decodeGroup11
  split <;> simp only [Option.map_some, Option.map_none] <;> rfl

/-- Operations of decodeGroup12. -/
def execGroup12 (op : Nat) (d a b : BitVec 7) (s : State) : Option Out :=
  match op with
  | 192 => some (Sys2Proof.Machine.execCvt d a (b.extractLsb' 0 6) (b.extractLsb' 6 1) s)
  | 193 => if b.extractLsb' 3 4 = 0 then some (Sys2Proof.Machine.execCvtbPack d a (b.extractLsb' 0 3) s) else if b.extractLsb' 3 4 = 8 then some (Sys2Proof.Machine.execCvtbUnpack d a (b.extractLsb' 0 3) s) else none
  | 194 => some (Sys2Proof.Machine.execCblook d a b s)
  | _ => none

theorem execGroup12_eq (op : Nat) (d a b : BitVec 7) (s : State) :
    execGroup12 op d a b s = (decodeGroup12 op d a b).map (fun i => exec i s) := by
  unfold execGroup12 decodeGroup12
  split <;> simp only [apply_ite (Option.map _), Option.map_some, Option.map_none] <;> rfl

/-- Operations of decodeGroup16. -/
def execGroup16 (op : Nat) (d a b : BitVec 7) (s : State) : Option Out :=
  match op with
  | 256 => some (Sys2Proof.Machine.execShflIdx d a b s)
  | 257 => some (Sys2Proof.Machine.execShflUp d a b s)
  | 258 => some (Sys2Proof.Machine.execShflDn d a b s)
  | 259 => some (Sys2Proof.Machine.execShflXor d a b s)
  | 260 => if b.extractLsb' 4 3 = 0 ∧ a = 0 then some (Sys2Proof.Machine.execVoteAny d (b.extractLsb' 0 3) (b.extractLsb' 3 1) s) else none
  | 261 => if b.extractLsb' 4 3 = 0 ∧ a = 0 then some (Sys2Proof.Machine.execVoteAll d (b.extractLsb' 0 3) (b.extractLsb' 3 1) s) else none
  | 262 => if b.extractLsb' 4 3 = 0 ∧ a = 0 then some (Sys2Proof.Machine.execVoteBal d (b.extractLsb' 0 3) (b.extractLsb' 3 1) s) else none
  | 263 => if b.extractLsb' 4 3 = 0 then some (Sys2Proof.Machine.execRedx d a (b.extractLsb' 0 4) s) else none
  | 264 => if b.extractLsb' 5 2 = 0 then some (Sys2Proof.Machine.execScan d a (b.extractLsb' 0 4) (b.extractLsb' 4 1) s) else none
  | 265 => if b.extractLsb' 2 5 = 0 then some (Sys2Proof.Machine.execMatchOp d a (b.extractLsb' 0 1) (b.extractLsb' 1 1) s) else none
  | _ => none

theorem execGroup16_eq (op : Nat) (d a b : BitVec 7) (s : State) :
    execGroup16 op d a b s = (decodeGroup16 op d a b).map (fun i => exec i s) := by
  unfold execGroup16 decodeGroup16
  split <;> simp only [apply_ite (Option.map _), Option.map_some, Option.map_none] <;> rfl

/-- Operations of decodeGroup17. -/
def execGroup17 (op : Nat) (d a b : BitVec 7) (s : State) : Option Out :=
  match op with
  | 272 => if d.extractLsb' 0 1 = 0 then some (Sys2Proof.Machine.execJmp ((b) ++ (a) ++ (d.extractLsb' 1 6)) s) else none
  | 273 => if d.extractLsb' 0 1 = 0 then some (Sys2Proof.Machine.execCall ((b) ++ (a) ++ (d.extractLsb' 1 6)) s) else none
  | 274 => some (Sys2Proof.Machine.execJmpuZ d ((b) ++ (a)) s)
  | 275 => some (Sys2Proof.Machine.execJmpuNz d ((b) ++ (a)) s)
  | 276 => if b = 0 ∧ d = 0 then some (Sys2Proof.Machine.execRet a s) else none
  | 280 => some (Sys2Proof.Machine.execIfp d ((b) ++ (a)) s)
  | 281 => if d = 0 then some (Sys2Proof.Machine.execElseOp ((b) ++ (a)) s) else none
  | 282 => if d = 0 ∧ a = 0 ∧ b = 0 then some (Sys2Proof.Machine.execFi s) else none
  | 283 => if d = 0 then some (Sys2Proof.Machine.execLoop ((b) ++ (a)) s) else none
  | 284 => if d = 0 then some (Sys2Proof.Machine.execEndl ((b) ++ (a)) s) else none
  | 285 => if b.extractLsb' 6 1 = 0 ∧ a = 0 then some (Sys2Proof.Machine.execBrkp d (b.extractLsb' 0 6) s) else none
  | 286 => if b.extractLsb' 6 1 = 0 ∧ a = 0 then some (Sys2Proof.Machine.execContp d (b.extractLsb' 0 6) s) else none
  | _ => none

theorem execGroup17_eq (op : Nat) (d a b : BitVec 7) (s : State) :
    execGroup17 op d a b s = (decodeGroup17 op d a b).map (fun i => exec i s) := by
  unfold execGroup17 decodeGroup17
  split <;> simp only [apply_ite (Option.map _), Option.map_some, Option.map_none] <;> rfl

/-- Operations of decodeGroup18. -/
def execGroup18 (op : Nat) (d a b : BitVec 7) (s : State) : Option Out :=
  match op with
  | 288 => if d = 0 ∧ a = 0 ∧ b = 0 then some (Sys2Proof.Machine.execExit s) else none
  | 289 => if d = 0 ∧ a = 0 ∧ b = 0 then some (Sys2Proof.Machine.execYield s) else none
  | 290 => if d = 0 ∧ a = 0 ∧ b = 0 then some (Sys2Proof.Machine.execNop s) else none
  | 291 => if d = 0 ∧ a = 0 ∧ b = 0 then some (Sys2Proof.Machine.execRegion s) else none
  | 292 => if d = 0 ∧ a = 0 ∧ b = 0 then some (Sys2Proof.Machine.execStep s) else none
  | 296 => some (Sys2Proof.Machine.execSrd d ((b) ++ (a)) s)
  | 297 => some (Sys2Proof.Machine.execSwr d ((b) ++ (a)) s)
  | 298 => if d = 0 then some (Sys2Proof.Machine.execTrap ((b) ++ (a)) s) else none
  | _ => none

theorem execGroup18_eq (op : Nat) (d a b : BitVec 7) (s : State) :
    execGroup18 op d a b s = (decodeGroup18 op d a b).map (fun i => exec i s) := by
  unfold execGroup18 decodeGroup18
  split <;> simp only [apply_ite (Option.map _), Option.map_some, Option.map_none] <;> rfl

/-- Operations of decodeGroup20. -/
def execGroup20 (op : Nat) (d a b : BitVec 7) (s : State) : Option Out :=
  match op with
  | 320 => some (Sys2Proof.Machine.execLdB8 d a b s)
  | 321 => some (Sys2Proof.Machine.execLdB8S d a b s)
  | 322 => some (Sys2Proof.Machine.execLdB16 d a b s)
  | 323 => some (Sys2Proof.Machine.execLdB16S d a b s)
  | 324 => some (Sys2Proof.Machine.execLdB32 d a b s)
  | 325 => some (Sys2Proof.Machine.execLdB64 d a b s)
  | 326 => some (Sys2Proof.Machine.execLdB128 d a b s)
  | 328 => some (Sys2Proof.Machine.execStB8 d a b s)
  | 329 => some (Sys2Proof.Machine.execStB16 d a b s)
  | 330 => some (Sys2Proof.Machine.execStB32 d a b s)
  | 331 => some (Sys2Proof.Machine.execStB64 d a b s)
  | 332 => some (Sys2Proof.Machine.execStB128 d a b s)
  | _ => none

theorem execGroup20_eq (op : Nat) (d a b : BitVec 7) (s : State) :
    execGroup20 op d a b s = (decodeGroup20 op d a b).map (fun i => exec i s) := by
  unfold execGroup20 decodeGroup20
  split <;> simp only [Option.map_some, Option.map_none] <;> rfl

/-- Operations of decodeGroup21. -/
def execGroup21 (op : Nat) (d a b : BitVec 7) (s : State) : Option Out :=
  match op with
  | 336 => some (Sys2Proof.Machine.execLdStrong d a (b.extractLsb' 0 3) (b.extractLsb' 3 2) (b.extractLsb' 5 2) s)
  | 337 => some (Sys2Proof.Machine.execStStrong d a (b.extractLsb' 0 3) (b.extractLsb' 3 2) (b.extractLsb' 5 2) s)
  | 340 => some (Sys2Proof.Machine.execLdfe d a b s)
  | 341 => some (Sys2Proof.Machine.execStfe d a b s)
  | 342 => if b.extractLsb' 1 6 = 0 ∧ d = 0 then some (Sys2Proof.Machine.execFeset a (b.extractLsb' 0 1) s) else none
  | 343 => if b = 0 then some (Sys2Proof.Machine.execFetest d a s) else none
  | 344 => if b = 0 then some (Sys2Proof.Machine.execSptest d a s) else none
  | 345 => if b.extractLsb' 3 4 = 0 then some (Sys2Proof.Machine.execSpcast d a (b.extractLsb' 0 2) (b.extractLsb' 2 1) s) else none
  | 348 => if b.extractLsb' 2 5 = 0 ∧ d = 0 then some (Sys2Proof.Machine.execPref a (b.extractLsb' 0 2) s) else none
  | 349 => if b = 0 ∧ d = 0 then some (Sys2Proof.Machine.execCctlInv1 a s) else if b = 1 ∧ d = 0 then some (Sys2Proof.Machine.execCctlWb2 a s) else if b = 2 ∧ d = 0 then some (Sys2Proof.Machine.execCctlEvf a s) else if d = 0 ∧ a = 0 ∧ b = 3 then some (Sys2Proof.Machine.execCctlInv1all s) else none
  | 350 => if d = 0 ∧ a = 0 ∧ b.extractLsb' 0 3 = 0 then some (Sys2Proof.Machine.execFence (b.extractLsb' 3 2) (b.extractLsb' 5 2) s) else none
  | _ => none

theorem execGroup21_eq (op : Nat) (d a b : BitVec 7) (s : State) :
    execGroup21 op d a b s = (decodeGroup21 op d a b).map (fun i => exec i s) := by
  unfold execGroup21 decodeGroup21
  split <;> simp only [apply_ite (Option.map _), Option.map_some, Option.map_none] <;> rfl

/-- Operations of decodeGroup22. -/
def execGroup22 (op : Nat) (d a b : BitVec 7) (s : State) : Option Out :=
  match op with
  | 352 => some (Sys2Proof.Machine.execAtom d a (b.extractLsb' 0 2) (b.extractLsb' 2 1) (b.extractLsb' 3 4) s)
  | 353 => some (Sys2Proof.Machine.execCas d a b s)
  | 354 => some (Sys2Proof.Machine.execRed d a (b.extractLsb' 0 2) (b.extractLsb' 2 1) (b.extractLsb' 3 4) s)
  | 355 => if d = 0 ∧ a = 0 ∧ b = 0 then some (Sys2Proof.Machine.execIfenceLocal s) else if b = 1 then some (Sys2Proof.Machine.execIfenceDie d a s) else none
  | _ => none

theorem execGroup22_eq (op : Nat) (d a b : BitVec 7) (s : State) :
    execGroup22 op d a b s = (decodeGroup22 op d a b).map (fun i => exec i s) := by
  unfold execGroup22 decodeGroup22
  split <;> simp only [apply_ite (Option.map _), Option.map_some, Option.map_none] <;> rfl

/-- Operations of decodeGroup28. -/
def execGroup28 (op : Nat) (d a b : BitVec 7) (s : State) : Option Out :=
  match op with
  | 448 => if b = 0 then some (Sys2Proof.Machine.execCpy d a s) else none
  | 449 => some (Sys2Proof.Machine.execGather d a b s)
  | 450 => some (Sys2Proof.Machine.execScatter d a b s)
  | 451 => if b = 0 then some (Sys2Proof.Machine.execToktest d a s) else none
  | 456 => if b = 0 ∧ d = 0 then some (Sys2Proof.Machine.execAxbind a s) else none
  | 457 => if b.extractLsb' 3 4 = 0 ∧ d = 0 then some (Sys2Proof.Machine.execAstrm a (b.extractLsb' 0 3) s) else none
  | 458 => if b.extractLsb' 3 4 = 0 ∧ d = 0 then some (Sys2Proof.Machine.execQpushS a (b.extractLsb' 0 3) s) else if b.extractLsb' 3 4 = 1 ∧ d = 0 then some (Sys2Proof.Machine.execQpushM a (b.extractLsb' 0 3) s) else none
  | _ => none

theorem execGroup28_eq (op : Nat) (d a b : BitVec 7) (s : State) :
    execGroup28 op d a b s = (decodeGroup28 op d a b).map (fun i => exec i s) := by
  unfold execGroup28 decodeGroup28
  split <;> simp only [apply_ite (Option.map _), Option.map_some, Option.map_none] <;> rfl

/-- Operations of decodeGroup29. -/
def execGroup29 (op : Nat) (d a b : BitVec 7) (s : State) : Option Out :=
  match op with
  | 464 => if b = 0 then some (Sys2Proof.Machine.execBarinit d a s) else none
  | 465 => if b = 0 then some (Sys2Proof.Machine.execBararr d a s) else none
  | 466 => if b = 0 then some (Sys2Proof.Machine.execBartx d a s) else none
  | 467 => some (Sys2Proof.Machine.execBarwait d a b s)
  | 468 => if d = 0 ∧ a = 0 ∧ b = 0 then some (Sys2Proof.Machine.execTbar s) else none
  | 469 => if d = 0 ∧ a = 0 ∧ b = 0 then some (Sys2Proof.Machine.execGbar s) else none
  | _ => none

theorem execGroup29_eq (op : Nat) (d a b : BitVec 7) (s : State) :
    execGroup29 op d a b s = (decodeGroup29 op d a b).map (fun i => exec i s) := by
  unfold execGroup29 decodeGroup29
  split <;> simp only [apply_ite (Option.map _), Option.map_some, Option.map_none] <;> rfl

/-- Operations of decodeGroup32. -/
def execGroup32 (op : Nat) (d a b : BitVec 7) (s : State) : Option Out :=
  match op with
  | 512 => if b.extractLsb' 3 4 = 0 ∧ a = 0 then some (Sys2Proof.Machine.execShape d (b.extractLsb' 0 3) s) else none
  | 513 => if b = 0 then some (Sys2Proof.Machine.execSlclaim d a s) else none
  | 514 => if b = 0 ∧ d = 0 then some (Sys2Proof.Machine.execSlrel a s) else none
  | 515 => if b = 0 then some (Sys2Proof.Machine.execLdslot d a s) else none
  | 516 => if b = 0 then some (Sys2Proof.Machine.execCbload d a s) else none
  | 520 => if b.extractLsb' 6 1 = 0 ∧ d.extractLsb' 4 3 = 0 then some (Sys2Proof.Machine.execMma (d.extractLsb' 0 4) a (b.extractLsb' 0 4) (b.extractLsb' 4 2) s) else none
  | 521 => if b.extractLsb' 6 1 = 0 ∧ d.extractLsb' 4 3 = 0 then some (Sys2Proof.Machine.execMmas (d.extractLsb' 0 4) a (b.extractLsb' 0 4) (b.extractLsb' 4 2) s) else none
  | _ => none

theorem execGroup32_eq (op : Nat) (d a b : BitVec 7) (s : State) :
    execGroup32 op d a b s = (decodeGroup32 op d a b).map (fun i => exec i s) := by
  unfold execGroup32 decodeGroup32
  split <;> simp only [apply_ite (Option.map _), Option.map_some, Option.map_none] <;> rfl

/-- Operations of decodeGroup33. -/
def execGroup33 (op : Nat) (d a b : BitVec 7) (s : State) : Option Out :=
  match op with
  | 528 => if b.extractLsb' 3 4 = 0 ∧ d = 0 ∧ a = 0 then some (Sys2Proof.Machine.execAccz (b.extractLsb' 0 2) (b.extractLsb' 2 1) s) else none
  | 529 => if b.extractLsb' 3 4 = 0 then some (Sys2Proof.Machine.execAccrd d a (b.extractLsb' 0 2) (b.extractLsb' 2 1) s) else none
  | 530 => if b.extractLsb' 3 4 = 0 then some (Sys2Proof.Machine.execAccwr d a (b.extractLsb' 0 2) (b.extractLsb' 2 1) s) else none
  | 531 => some (Sys2Proof.Machine.execAccst d a (b.extractLsb' 0 2) (b.extractLsb' 2 1) (b.extractLsb' 3 4) s)
  | _ => none

theorem execGroup33_eq (op : Nat) (d a b : BitVec 7) (s : State) :
    execGroup33 op d a b s = (decodeGroup33 op d a b).map (fun i => exec i s) := by
  unfold execGroup33 decodeGroup33
  split <;> simp only [apply_ite (Option.map _), Option.map_some, Option.map_none] <;> rfl

/-- Operations of decodeGroup36. -/
def execGroup36 (op : Nat) (d a b : BitVec 7) (s : State) : Option Out :=
  match op with
  | 576 => if b.extractLsb' 3 4 = 0 then some (Sys2Proof.Machine.execLayerf d a (b.extractLsb' 0 1) (b.extractLsb' 1 1) (b.extractLsb' 2 1) s) else none
  | 577 => if b.extractLsb' 3 4 = 0 then some (Sys2Proof.Machine.execLayert d a (b.extractLsb' 0 1) (b.extractLsb' 1 1) (b.extractLsb' 2 1) s) else none
  | 578 => if b.extractLsb' 3 4 = 0 ∧ b.extractLsb' 0 2 = 0 then some (Sys2Proof.Machine.execLayerd d a (b.extractLsb' 2 1) s) else none
  | 584 => if b = 0 then some (Sys2Proof.Machine.execArxq d a s) else none
  | 585 => if b = 0 then some (Sys2Proof.Machine.execAdpset d a s) else none
  | 586 => if b = 0 then some (Sys2Proof.Machine.execCalset d a s) else none
  | 587 => if b = 0 then some (Sys2Proof.Machine.execCalrd d a s) else none
  | _ => none

theorem execGroup36_eq (op : Nat) (d a b : BitVec 7) (s : State) :
    execGroup36 op d a b s = (decodeGroup36 op d a b).map (fun i => exec i s) := by
  unfold execGroup36 decodeGroup36
  split <;> simp only [apply_ite (Option.map _), Option.map_some, Option.map_none] <;> rfl

/-- Operations of decodeGroup37. -/
def execGroup37 (op : Nat) (d a b : BitVec 7) (s : State) : Option Out :=
  match op with
  | 592 => if b.extractLsb' 1 6 = 0 then some (Sys2Proof.Machine.execAlmrun d a (b.extractLsb' 0 1) s) else none
  | 593 => if b = 0 then some (Sys2Proof.Machine.execAlmfit d a s) else none
  | _ => none

theorem execGroup37_eq (op : Nat) (d a b : BitVec 7) (s : State) :
    execGroup37 op d a b s = (decodeGroup37 op d a b).map (fun i => exec i s) := by
  unfold execGroup37 decodeGroup37
  split <;> simp only [apply_ite (Option.map _), Option.map_some, Option.map_none] <;> rfl

/-- Operations of decodeGroup40. -/
def execGroup40 (op : Nat) (d a b : BitVec 7) (s : State) : Option Out :=
  match op with
  | 640 => some (Sys2Proof.Machine.execConfw d a b s)
  | 641 => some (Sys2Proof.Machine.execScacc d a b s)
  | 642 => if b = 0 then some (Sys2Proof.Machine.execScrd d a s) else none
  | 643 => if b = 0 then some (Sys2Proof.Machine.execScclr d a s) else none
  | 644 => if b = 0 then some (Sys2Proof.Machine.execTopk d a s) else none
  | 645 => if b.extractLsb' 3 1 = 0 then some (Sys2Proof.Machine.execPosxl d a (b.extractLsb' 0 3) (b.extractLsb' 4 3) s) else none
  | 646 => if b = 0 then some (Sys2Proof.Machine.execSurv d a s) else none
  | 647 => if b = 0 then some (Sys2Proof.Machine.execCompact d a s) else none
  | 648 => if b = 0 then some (Sys2Proof.Machine.execPxfind d a s) else none
  | 649 => if b = 0 then some (Sys2Proof.Machine.execPxins d a s) else none
  | 650 => if b = 0 then some (Sys2Proof.Machine.execPxrel d a s) else none
  | 651 => if b = 0 then some (Sys2Proof.Machine.execUnmask d a s) else none
  | 652 => if b = 0 then some (Sys2Proof.Machine.execDirty d a s) else none
  | 653 => if b.extractLsb' 3 1 = 0 then some (Sys2Proof.Machine.execDmaprd d a (b.extractLsb' 0 3) (b.extractLsb' 4 3) s) else none
  | _ => none

theorem execGroup40_eq (op : Nat) (d a b : BitVec 7) (s : State) :
    execGroup40 op d a b s = (decodeGroup40 op d a b).map (fun i => exec i s) := by
  unfold execGroup40 decodeGroup40
  split <;> simp only [apply_ite (Option.map _), Option.map_some, Option.map_none] <;> rfl

/-- Operations of decodeGroup44. -/
def execGroup44 (op : Nat) (d a b : BitVec 7) (s : State) : Option Out :=
  match op with
  | 704 => if b = 0 then some (Sys2Proof.Machine.execChlaunch d a s) else none
  | 712 => if b.extractLsb' 6 1 = 0 then some (Sys2Proof.Machine.execAstm d a (b.extractLsb' 0 4) (b.extractLsb' 4 1) (b.extractLsb' 5 1) s) else none
  | 713 => if b.extractLsb' 6 1 = 0 ∧ b.extractLsb' 0 4 = 0 then some (Sys2Proof.Machine.execAgat d a (b.extractLsb' 4 1) (b.extractLsb' 5 1) s) else none
  | 714 => if b.extractLsb' 6 1 = 0 ∧ b.extractLsb' 0 5 = 0 ∧ d = 0 then some (Sys2Proof.Machine.execAqp a (b.extractLsb' 5 1) s) else none
  | 715 => if b.extractLsb' 6 1 = 0 ∧ b.extractLsb' 0 5 = 0 ∧ d = 0 then some (Sys2Proof.Machine.execAstq a (b.extractLsb' 5 1) s) else none
  | _ => none

theorem execGroup44_eq (op : Nat) (d a b : BitVec 7) (s : State) :
    execGroup44 op d a b s = (decodeGroup44 op d a b).map (fun i => exec i s) := by
  unfold execGroup44 decodeGroup44
  split <;> simp only [apply_ite (Option.map _), Option.map_some, Option.map_none] <;> rfl

/-- Operations of decodeGroup45. -/
def execGroup45 (op : Nat) (d a b : BitVec 7) (s : State) : Option Out :=
  match op with
  | 720 => if a = 0 ∧ b = 0 then some (Sys2Proof.Machine.execXpop d s) else none
  | 721 => if b.extractLsb' 5 2 = 0 then some (Sys2Proof.Machine.execXop d a (b.extractLsb' 0 3) (b.extractLsb' 3 2) s) else none
  | 722 => if b = 0 ∧ d = 0 then some (Sys2Proof.Machine.execXpush a s) else none
  | 728 => if d = 0 ∧ a = 0 ∧ b = 0 then some (Sys2Proof.Machine.execChend s) else none
  | _ => none

theorem execGroup45_eq (op : Nat) (d a b : BitVec 7) (s : State) :
    execGroup45 op d a b s = (decodeGroup45 op d a b).map (fun i => exec i s) := by
  unfold execGroup45 decodeGroup45
  split <;> simp only [apply_ite (Option.map _), Option.map_some, Option.map_none] <;> rfl

/-- Operations of decodeGroup46. -/
def execGroup46 (op : Nat) (d a b : BitVec 7) (s : State) : Option Out :=
  match op with
  | 736 => if b.extractLsb' 5 2 = 0 ∧ d = 0 ∧ a = 0 ∧ b.extractLsb' 0 3 = 0 then some (Sys2Proof.Machine.execTfencePt (b.extractLsb' 3 2) s) else if d = 0 ∧ a = 0 ∧ b = 2 then some (Sys2Proof.Machine.execTfenceWalk s) else if b.extractLsb' 6 1 = 0 ∧ b.extractLsb' 0 2 = 1 ∧ d = 0 then some (Sys2Proof.Machine.execTfenceInv a (b.extractLsb' 2 1) (b.extractLsb' 3 2) (b.extractLsb' 5 1) s) else none
  | 737 => if b.extractLsb' 2 5 = 0 then some (Sys2Proof.Machine.execMigrate d a (b.extractLsb' 0 1) (b.extractLsb' 1 1) s) else none
  | 738 => if b.extractLsb' 3 4 = 0 then some (Sys2Proof.Machine.execPtq d a (b.extractLsb' 0 2) (b.extractLsb' 2 1) s) else none
  | 739 => if b.extractLsb' 6 1 = 0 ∧ b.extractLsb' 0 3 = 0 ∧ d = 0 then some (Sys2Proof.Machine.execRnginv a (b.extractLsb' 3 2) (b.extractLsb' 5 1) s) else none
  | 740 => if b = 0 then some (Sys2Proof.Machine.execLeaseq d a s) else none
  | _ => none

theorem execGroup46_eq (op : Nat) (d a b : BitVec 7) (s : State) :
    execGroup46 op d a b s = (decodeGroup46 op d a b).map (fun i => exec i s) := by
  unfold execGroup46 decodeGroup46
  split <;> simp only [apply_ite (Option.map _), Option.map_some, Option.map_none] <;> rfl

/-- Operations of decodeGroup48. -/
def execGroup48 (op : Nat) (d a b : BitVec 7) (s : State) : Option Out :=
  match op with
  | 768 => if b = 0 then some (Sys2Proof.Machine.execLaunch d a s) else none
  | 769 => if b.extractLsb' 3 4 = 0 then some (Sys2Proof.Machine.execQwait d a (b.extractLsb' 0 2) (b.extractLsb' 2 1) s) else none
  | 770 => if b.extractLsb' 1 6 = 0 then some (Sys2Proof.Machine.execQsig d a (b.extractLsb' 0 1) s) else none
  | 771 => if d.extractLsb' 0 1 = 0 then some (Sys2Proof.Machine.execQjmp ((b) ++ (a) ++ (d.extractLsb' 1 6)) s) else none
  | 772 => if b = 0 ∧ d = 0 then some (Sys2Proof.Machine.execQstopStop a s) else if b = 1 ∧ d = 0 then some (Sys2Proof.Machine.execQstopStart a s) else none
  | 776 => if b = 0 then some (Sys2Proof.Machine.execCtxsw d a s) else none
  | 777 => if b.extractLsb' 1 6 = 0 then some (Sys2Proof.Machine.execCtxsv d a (b.extractLsb' 0 1) s) else none
  | 778 => if b = 0 then some (Sys2Proof.Machine.execCtxld d a s) else none
  | _ => none

theorem execGroup48_eq (op : Nat) (d a b : BitVec 7) (s : State) :
    execGroup48 op d a b s = (decodeGroup48 op d a b).map (fun i => exec i s) := by
  unfold execGroup48 decodeGroup48
  split <;> simp only [apply_ite (Option.map _), Option.map_some, Option.map_none] <;> rfl

/-- Operations of decodeGroup49. -/
def execGroup49 (op : Nat) (d a b : BitVec 7) (s : State) : Option Out :=
  match op with
  | 784 => if b = 0 then some (Sys2Proof.Machine.execArprog d a s) else none
  | 785 => if b = 0 then some (Sys2Proof.Machine.execArcommitTile d a s) else if b = 1 then some (Sys2Proof.Machine.execArcommitGrant d a s) else if b = 2 then some (Sys2Proof.Machine.execArcommitRevoke d a s) else none
  | 786 => if b = 0 then some (Sys2Proof.Machine.execArstat d a s) else none
  | 792 => if b = 0 then some (Sys2Proof.Machine.execDectabLoad d a s) else if b = 1 then some (Sys2Proof.Machine.execDectabClr d a s) else none
  | 793 => if d = 0 then some (Sys2Proof.Machine.execHvcall ((b) ++ (a)) s) else none
  | 794 => if b = 0 then some (Sys2Proof.Machine.execQosset d a s) else none
  | _ => none

theorem execGroup49_eq (op : Nat) (d a b : BitVec 7) (s : State) :
    execGroup49 op d a b s = (decodeGroup49 op d a b).map (fun i => exec i s) := by
  unfold execGroup49 decodeGroup49
  split <;> simp only [apply_ite (Option.map _), Option.map_some, Option.map_none] <;> rfl

/-- Operations of decodeGroup52. -/
def execGroup52 (op : Nat) (d a b : BitVec 7) (s : State) : Option Out :=
  match op with
  | 832 => if b = 0 then some (Sys2Proof.Machine.execEretResume d a s) else if b = 1 then some (Sys2Proof.Machine.execEretSkip d a s) else if b = 2 then some (Sys2Proof.Machine.execEretRegion d a s) else if b = 3 then some (Sys2Proof.Machine.execEretAbort d a s) else if d = 0 ∧ a = 0 ∧ b = 4 then some (Sys2Proof.Machine.execEretSelf s) else none
  | 840 => if a = 0 ∧ b = 0 then some (Sys2Proof.Machine.execStarfix d s) else none
  | 841 => if d = 0 ∧ a = 0 ∧ b = 0 then some (Sys2Proof.Machine.execHalt s) else none
  | _ => none

theorem execGroup52_eq (op : Nat) (d a b : BitVec 7) (s : State) :
    execGroup52 op d a b s = (decodeGroup52 op d a b).map (fun i => exec i s) := by
  unfold execGroup52 decodeGroup52
  split <;> simp only [apply_ite (Option.map _), Option.map_some, Option.map_none] <;> rfl

/-- Operations of decodeGroup53. -/
def execGroup53 (op : Nat) (d a b : BitVec 7) (s : State) : Option Out :=
  match op with
  | 848 => if b.extractLsb' 5 2 = 0 then some (Sys2Proof.Machine.execColl d a (b.extractLsb' 0 2) (b.extractLsb' 2 2) (b.extractLsb' 4 1) s) else none
  | _ => none

theorem execGroup53_eq (op : Nat) (d a b : BitVec 7) (s : State) :
    execGroup53 op d a b s = (decodeGroup53 op d a b).map (fun i => exec i s) := by
  unfold execGroup53 decodeGroup53
  split <;> simp only [apply_ite (Option.map _), Option.map_some, Option.map_none] <;> rfl

/-- Dispatch by operation and fields. -/
def execFields (op : Nat) (d a b : BitVec 7) (s : State) : Option Out :=
  match op / 16 with
  | 0 => execGroup0 op d a b s
  | 1 => execGroup1 op d a b s
  | 2 => execGroup2 op d a b s
  | 3 => execGroup3 op d a b s
  | 4 => execGroup4 op d a b s
  | 5 => execGroup5 op d a b s
  | 7 => execGroup7 op d a b s
  | 8 => execGroup8 op d a b s
  | 9 => execGroup9 op d a b s
  | 10 => execGroup10 op d a b s
  | 11 => execGroup11 op d a b s
  | 12 => execGroup12 op d a b s
  | 16 => execGroup16 op d a b s
  | 17 => execGroup17 op d a b s
  | 18 => execGroup18 op d a b s
  | 20 => execGroup20 op d a b s
  | 21 => execGroup21 op d a b s
  | 22 => execGroup22 op d a b s
  | 28 => execGroup28 op d a b s
  | 29 => execGroup29 op d a b s
  | 32 => execGroup32 op d a b s
  | 33 => execGroup33 op d a b s
  | 36 => execGroup36 op d a b s
  | 37 => execGroup37 op d a b s
  | 40 => execGroup40 op d a b s
  | 44 => execGroup44 op d a b s
  | 45 => execGroup45 op d a b s
  | 46 => execGroup46 op d a b s
  | 48 => execGroup48 op d a b s
  | 49 => execGroup49 op d a b s
  | 52 => execGroup52 op d a b s
  | 53 => execGroup53 op d a b s
  | _ => none

theorem execFields_eq (op : Nat) (d a b : BitVec 7) (s : State) :
    execFields op d a b s = (decodeFields op d a b).map (fun i => exec i s) := by
  unfold execFields decodeFields
  generalize op / 16 = g
  split <;> simp_all [execGroup0_eq, execGroup1_eq, execGroup2_eq, execGroup3_eq, execGroup4_eq, execGroup5_eq, execGroup7_eq, execGroup8_eq, execGroup9_eq, execGroup10_eq, execGroup11_eq, execGroup12_eq, execGroup16_eq, execGroup17_eq, execGroup18_eq, execGroup20_eq, execGroup21_eq, execGroup22_eq, execGroup28_eq, execGroup29_eq, execGroup32_eq, execGroup33_eq, execGroup36_eq, execGroup37_eq, execGroup40_eq, execGroup44_eq, execGroup45_eq, execGroup46_eq, execGroup48_eq, execGroup49_eq, execGroup52_eq, execGroup53_eq]

/-- The meaning of an event. -/
def execEvent (e : Event) (s : State) : Out :=
  match e with
  | .gtcmpWrite gid v => Sys2Proof.Machine.execGtcmpWrite gid v s
  | .wdlWrite gid v => Sys2Proof.Machine.execWdlWrite gid v s
  | .mfrAccess gid v => Sys2Proof.Machine.execMfrAccess gid v s
  | .chrctlRestart vf pkg => Sys2Proof.Machine.execChrctlRestart vf pkg s
  | .passgh vf gh => Sys2Proof.Machine.execPassgh vf gh s
  | .hvctxWrite vf v => Sys2Proof.Machine.execHvctxWrite vf v s
  | .queueDoorbell qid tail => Sys2Proof.Machine.execQueueDoorbell qid tail s
  | .powerGood => Sys2Proof.Machine.execPowerGood s
  | .camp1 modn mem routes => Sys2Proof.Machine.execCamp1 modn mem routes s
  | .journalBackgroundRow die tile => Sys2Proof.Machine.execJournalBackgroundRow die tile s
  | .summit => Sys2Proof.Machine.execSummit s
  | .managementReset => Sys2Proof.Machine.execManagementReset s
  | .starfixTriggerPin => Sys2Proof.Machine.execStarfixTriggerPin s
  | .managementStarfix => Sys2Proof.Machine.execManagementStarfix s
  | .snapshotRead seq => Sys2Proof.Machine.execSnapshotRead seq s
  | .attestationRequest vf nonce => Sys2Proof.Machine.execAttestationRequest vf nonce s
  | .healthRequest => Sys2Proof.Machine.execHealthRequest s
  | .uetWriteReceived hdr va bytes => Sys2Proof.Machine.execUetWriteReceived hdr va bytes s
  | .uetReadReceived mac va len => Sys2Proof.Machine.execUetReadReceived mac va len s
  | .remoteRequestReceived r => Sys2Proof.Machine.execRemoteRequestReceived r s
  | .vlHold port vl hold => Sys2Proof.Machine.execVlHold port vl hold s
  | .gtcmpFire gid => Sys2Proof.Machine.execGtcmpFire gid s
  | .wdlFire gid => Sys2Proof.Machine.execWdlFire gid s
  | .hangWatchdog who => Sys2Proof.Machine.execHangWatchdog who s
  | .detTeamTimeCap tag => Sys2Proof.Machine.execDetTeamTimeCap tag s
  | .cheTaskWatchdog pkg vf => Sys2Proof.Machine.execCheTaskWatchdog pkg vf s
  | .leaseTimeout grid n => Sys2Proof.Machine.execLeaseTimeout grid n s
  | .migrationLimit who => Sys2Proof.Machine.execMigrationLimit who s
  | .placementLimit grid => Sys2Proof.Machine.execPlacementLimit grid s
  | .collGatherTimeout inst => Sys2Proof.Machine.execCollGatherTimeout inst s
  | .ctxswRollback qid => Sys2Proof.Machine.execCtxswRollback qid s
  | .preemptionRequest tag => Sys2Proof.Machine.execPreemptionRequest tag s
  | .saveAtTbar tag => Sys2Proof.Machine.execSaveAtTbar tag s
  | .forcedSave tag => Sys2Proof.Machine.execForcedSave tag s
  | .teamPlacement grid core p0 tag => Sys2Proof.Machine.execTeamPlacement grid core p0 tag s
  | .teamRestore tag core p0 => Sys2Proof.Machine.execTeamRestore tag core p0 s
  | .victimEviction tag => Sys2Proof.Machine.execVictimEviction tag s
  | .groupRetirement gid => Sys2Proof.Machine.execGroupRetirement gid s
  | .gridRetirement grid => Sys2Proof.Machine.execGridRetirement grid s
  | .stepBarrierComplete grid change => Sys2Proof.Machine.execStepBarrierComplete grid change s
  | .teamBarrierComplete b => Sys2Proof.Machine.execTeamBarrierComplete b s
  | .qpQuantumExpiry qp => Sys2Proof.Machine.execQpQuantumExpiry qp s
  | .cheQuantumExpiry pkg => Sys2Proof.Machine.execCheQuantumExpiry pkg s
  | .cheTaskStart pkg vf => Sys2Proof.Machine.execCheTaskStart pkg vf s
  | .cheTaskEnd pkg vf => Sys2Proof.Machine.execCheTaskEnd pkg vf s
  | .almanacPublication sets => Sys2Proof.Machine.execAlmanacPublication sets s
  | .patrolScrub line err => Sys2Proof.Machine.execPatrolScrub line err s
  | .throttleDeeper vf draw => Sys2Proof.Machine.execThrottleDeeper vf draw s
  | .throttleBack vf draw => Sys2Proof.Machine.execThrottleBack vf draw s
  | .resourceRetirement channel n => Sys2Proof.Machine.execResourceRetirement channel n s
  | .portRetirement port => Sys2Proof.Machine.execPortRetirement port s
  | .ucieLinkRetrain die work => Sys2Proof.Machine.execUcieLinkRetrain die work s
  | .loadDataReturn gid id part => Sys2Proof.Machine.execLoadDataReturn gid id part s
  | .storePerform st => Sys2Proof.Machine.execStorePerform st s
  | .engineLineWrite work piece => Sys2Proof.Machine.execEngineLineWrite work piece s
  | .engineTokenFill work => Sys2Proof.Machine.execEngineTokenFill work s
  | .matrixUnitOperation core => Sys2Proof.Machine.execMatrixUnitOperation core s
  | .sqeOperation cluster => Sys2Proof.Machine.execSqeOperation cluster s
  | .pxBucketUpdate work => Sys2Proof.Machine.execPxBucketUpdate work s
  | .tfenceInvComplete id => Sys2Proof.Machine.execTfenceInvComplete id s
  | .l2LineEviction line => Sys2Proof.Machine.execL2LineEviction line s
  | .trapNotice gid => Sys2Proof.Machine.execTrapNotice gid s
  | .powerFailure => Sys2Proof.Machine.execPowerFailure s
  | .vfOpen vf cfg => Sys2Proof.Machine.execVfOpen vf cfg s
  | .vfClose vf => Sys2Proof.Machine.execVfClose vf s
  | .granuleAssignment cluster granule vf => Sys2Proof.Machine.execGranuleAssignment cluster granule vf s
  | .gridOfferReceived grid modn accept => Sys2Proof.Machine.execGridOfferReceived grid modn accept s

theorem execEvent_eq (e : Event) (s : State) : execEvent e s = exec e.toInstr s := by
  cases e <;> rfl

end Sys2Proof.Machine
end

