-- ==== Sys2Proof/Machine/Step.lean ====
section
/-! DEFINITION. One step: the next choice of the agenda, or an issue opportunity at `turn` (log 4). -/

namespace Sys2Proof.Machine

/-- A step, given how a word (by operation and fields), a halfword and an event are executed. -/
def stepWith (ex : Nat → BitVec 7 → BitVec 7 → BitVec 7 → State → Option Out) (hx : BitVec 16 → State → Option Out)
    (ev : Event → State → Out) (s : State) : Out :=
  let s := settleWalks { s with steps := s.steps + 1 }
  match s.agenda with
  | .event e :: rest => renewOut (runNext ex hx) (ev e { s with agenda := rest })
  | .issue p :: rest => issueAt (runNext ex hx) p { s with agenda := rest }
  | .elapse n :: rest => renewOut (runNext ex hx) (.next (elapse n { s with agenda := rest }))
  | .evict core line :: rest => .next (dropL1 { s with agenda := rest } core line)
  | .strike x :: rest => .next (strike x { s with agenda := rest })
  | .module m up :: rest => .next (moduleChange m up { s with agenda := rest })
  | .outside x :: rest => .next (outside x { s with agenda := rest })
  | .abroad n what :: rest => renewOut (runNext ex hx) (.next (abroad n what { s with agenda := rest }))
  | [] => issueAt (runNext ex hx) s.turn s

/-- A word decodes under OP10's operation, then exec gives its meaning. -/
noncomputable def execWord (op : Nat) (d a b : BitVec 7) (s : State) : Option Out := (decodeFields op d a b).map (fun i => exec i s)

def execHalf (h : BitVec 16) (s : State) : Option Out := (decodeHalf h).map (fun i => exec i s)

noncomputable def step (s : State) : Host.Outcome State Fault Refusal :=
  stepWith execWord execHalf (fun e s => exec e.toInstr s) s

/-- What the compiler runs for `step`. -/
def stepFast (s : State) : Host.Outcome State Fault Refusal := stepWith execFields execHalf execEvent s

@[csimp] theorem step_eq_stepFast : @step = @stepFast := by
  funext s
  have hw : execFields = execWord := by
    funext op d a b s
    exact execFields_eq op d a b s
  have he : execEvent = fun e s => exec e.toInstr s := by
    funext e s
    exact execEvent_eq e s
  simp only [step, stepFast, hw, he]

/-- The state with one instruction placed where the next step fetches it (log 3). -/
def State.withFetchWord (s : State) (nbits w : Nat) : State := placeMemory (placeContext s nbits w) w

end Sys2Proof.Machine
end

