-- ==== Sys2Proof/Safety.lean ====
section
/-! DEFINITION. Safe runs: no step faults or is refused; and the terms in which the statements say when an instruction issues and what it changes. -/

namespace Sys2Proof

open Machine

/-- A step that answers a next state. -/
def stepsOn (s : State) : Prop := ∃ t, Machine.step s = .next t

/-- n steps from s all answer next states. -/
def safeFor : Nat → State → Prop
  | 0, _ => True
  | n + 1, s => ∃ t, Machine.step s = .next t ∧ safeFor n t

end Sys2Proof

namespace Sys2Proof.Claim

open Machine

/-! ## When an instruction issues, and what it may change -/

/-- Field [31:25] of an instruction's word. -/
def mod7 (i : Instr) : BitVec 7 :=
  match encodeFields i with
  | some f => f.b
  | none => 0

/-- Bytes of an instruction (R16). -/
def ilen (i : Instr) : Nat := if i.opn = 1024 then 2 else 4

/-- The checks of R38 and R86 pass, every register it reads is full and every register that it only writes has no producer outstanding (R87, R31), and no deferred trap stops run-on before it (R248). -/
def canIssue (i : Instr) (s : State) : Prop :=
  runOnStops s i.opn = false ∧ ready s i.opn (mod7 i) (uses i) = .ok ()

/-- The executing context holds V and S registers or S registers: a group, an access slice or a queue context. -/
def onRegisters (s : State) : Prop :=
  match s.cur with
  | .cheA _ _ => False
  | .cheX _ _ => False
  | _ => True

/-- The tables of a register file are in order (an invariant: EveryStepKeepsCanonicalForm). -/
def regsRising (r : RegFile) : Prop := tabRising r.v = true ∧ tabRising r.s = true ∧ tabRising r.p = true

/-- The hypotheses under which a register operation runs. -/
def runs (i : Instr) (s : State) : Prop := onRegisters s ∧ regsRising (regsOf s) ∧ canIssue i s

/-- Where the next instruction lies (R16; R433 for a ring). -/
def nextPc (s : State) (len : Nat) : DWord :=
  match s.cur with
  | .queue q => queueNext (getQueue s q) len
  | _ => pcOf s + BitVec.ofNat 64 len

/-- Does the instruction name a Q register as a source (R30)? -/
def readsQ (i : Instr) : Bool := i.sources.any (fun f => decide (88 ≤ f) && decide (f < 96))

/-- Nothing outside the executing context changes: no memory, no other agent, no other register or table of the module. Inside it only the registers, the popped queue registers, the PC and, where `flags`, FCSR change, and the group goes on as after any instruction. -/
def contextOnly (i : Instr) (flags : Bool) (s t : State) : Prop :=
  t = { s with groups := t.groups, queues := t.queues } ∧
  (∀ g, s.cur ≠ .group g → s.cur ≠ .axp g → tabFind t.groups g = tabFind s.groups g) ∧
  (∀ q, s.cur ≠ .queue q → tabFind t.queues q = tabFind s.queues q) ∧
  (match s.cur with
   | .group gid =>
     let g := getGroup s gid
     let g' := getGroup t gid
     g' = { groupDone g g'.pc with regs := g'.regs, q := g'.q, axp := g'.axp, fcsr := g'.fcsr } ∧
     (readsQ i = false → g'.q = (groupDone g g'.pc).q ∧ g'.axp = g.axp) ∧ (flags = false → g'.fcsr = g.fcsr)
   | .axp gid =>
     getGroup t gid = { getGroup s gid with axp := some { getAxp s gid with regs := (getAxp t gid).regs, pc := (getAxp t gid).pc, mlimit := false, mwait := none } }
   | .queue qid =>
     let q' := getQueue t qid
     q' = { getQueue s qid with regs := q'.regs, pc := q'.pc, head := q'.head, away := q'.away, state := .running, wait := none, wdog := 0, mlimit := false, mwait := none }
   | _ => True)

/-- Of the registers, only those that `w` names change, and no register becomes empty or full. -/
def writesOnly (w : Nat → Nat → Prop) (s t : State) : Prop :=
  (∀ n l, l < 64 → n < 128 → ¬(88 ≤ n ∧ n < 96) → ¬ w n l → readField t n l = readField s n l) ∧
  (∀ n, n < 128 → ¬(88 ≤ n ∧ n < 96) → isEmptyField t n = isEmptyField s n) ∧
  (regsOf t).erm = (regsOf s).erm

/-- The registers that a destination of n registers from d covers, in the lanes in which the operation computes. -/
def covers (s : State) (d : BitVec 7) (n : Nat) (r l : Nat) : Prop :=
  d.toNat ≤ r ∧ r < d.toNat + n ∧ (isS d = true ∨ l ∈ opLanes s d)

/-- Writing S31 is discarded, and it reads 0 (R27). -/
def kept (d : Nat) (w : Word) : Word := if d = 127 then 0 else w

/-- i completes: its destination holds f in each lane in which it computes, the PC moves past it and nothing else changes. -/
def wordResult (i : Instr) (d : BitVec 7) (f : Nat → Word) (s : State) : Prop :=
  ∃ t, exec i s = .next t ∧
    (∀ l ∈ opLanes s d, readField t d.toNat l = kept d.toNat (f l)) ∧
    writesOnly (covers s d 1) s t ∧ (regsOf t).p = (regsOf s).p ∧
    pcOf t = nextPc s (ilen i) ∧ contextOnly i false s t

/-- The same for a pair, whose even register holds bits [31:0] (R28). -/
def pairResult (i : Instr) (d : BitVec 7) (f : Nat → DWord) (s : State) : Prop :=
  ∃ t, exec i s = .next t ∧
    (∀ l ∈ opLanes s d, readField t d.toNat l = (f l).extractLsb' 0 32 ∧
      readField t (d.toNat + 1) l = kept (d.toNat + 1) ((f l).extractLsb' 32 32)) ∧
    writesOnly (covers s d 2) s t ∧ (regsOf t).p = (regsOf s).p ∧
    pcOf t = nextPc s (ilen i) ∧ contextOnly i false s t

/-- Only predicate p changes, and only in the active lanes; P7 reads true (R32). -/
def predsAre (p : Nat) (f : Nat → Bool) (s t : State) : Prop :=
  (∀ l ∈ laneList s, (regsOf t).readP p l = (decide (p = 7) || f l)) ∧
  (∀ k l, k < 8 → l < 64 → ¬(k = p ∧ l ∈ laneList s) → (regsOf t).readP k l = (regsOf s).readP k l)

def predResult (i : Instr) (p : BitVec 7) (f : Nat → Bool) (s : State) : Prop :=
  ∃ t, exec i s = .next t ∧ predsAre p.toNat f s t ∧ writesOnly (fun _ _ => False) s t ∧
    pcOf t = nextPc s (ilen i) ∧ contextOnly i false s t

/-! ## Floating-point results -/

/-- The FCSR table of the executing group is in order (an invariant: EveryStepKeepsCanonicalForm). -/
def fcsrRising (s : State) : Prop :=
  match s.cur with
  | .group gid => tabRising (getGroup s gid).fcsr = true
  | _ => True

/-- FCSR after flags were ORed in: no flag leaves it as it was; reserved bits read 0 (R72, R73). -/
def withFlags (w : Word) (f : Flags) : Word := if f = 0 then w else (w ||| f.setWidth 32) &&& fcsrMask

/-- Flags reach FCSR: of each lane that computed its own; of a uniform operation every active lane, or lane 0 (R114). -/
def flagsRaised (s t : State) (uniform : Bool) (lanes : List Nat) (f : Nat → Flags) : Prop :=
  ∀ k, k < 64 → fcsrOf t k = withFlags (fcsrOf s k)
    (if uniform then (if k ∈ flagLanes s then f 0 else 0) else if k ∈ lanes then f k else 0)

/-- i completes with a word in d in each lane in which it computes, and flags. -/
def fpWord (i : Instr) (d : BitVec 7) (f : Nat → Nat × Flags) (s : State) : Prop :=
  ∃ t, exec i s = .next t ∧
    (∀ l ∈ opLanes s d, readField t d.toNat l = kept d.toNat (BitVec.ofNat 32 (f l).1)) ∧
    flagsRaised s t (isS d) (opLanes s d) (fun l => (f l).2) ∧
    writesOnly (covers s d 1) s t ∧ (regsOf t).p = (regsOf s).p ∧
    pcOf t = nextPc s (ilen i) ∧ contextOnly i true s t

/-- The same with a pair. -/
def fpPair (i : Instr) (d : BitVec 7) (f : Nat → Nat × Flags) (s : State) : Prop :=
  ∃ t, exec i s = .next t ∧
    (∀ l ∈ opLanes s d, readField t d.toNat l = (BitVec.ofNat 64 (f l).1).extractLsb' 0 32 ∧
      readField t (d.toNat + 1) l = kept (d.toNat + 1) ((BitVec.ofNat 64 (f l).1).extractLsb' 32 32)) ∧
    flagsRaised s t (isS d) (opLanes s d) (fun l => (f l).2) ∧
    writesOnly (covers s d 2) s t ∧ (regsOf t).p = (regsOf s).p ∧
    pcOf t = nextPc s (ilen i) ∧ contextOnly i true s t

/-- A floating-point comparison: a predicate and flags in each active lane. -/
def fpPred (i : Instr) (p : BitVec 7) (f : Nat → Bool × Flags) (s : State) : Prop :=
  ∃ t, exec i s = .next t ∧ predsAre p.toNat (fun l => (f l).1) s t ∧
    flagsRaised s t false (laneList s) (fun l => (f l).2) ∧
    writesOnly (fun _ _ => False) s t ∧ pcOf t = nextPc s (ilen i) ∧ contextOnly i true s t

def runsFp (i : Instr) (s : State) : Prop := runs i s ∧ fcsrRising s

/-! ## Control -/

/-- A transfer to an address with no register or predicate but those in `w` changed. -/
def transfersTo (i : Instr) (target : DWord) (w : Nat → Nat → Prop) (s t : State) : Prop :=
  pcOf t = target ∧ writesOnly w s t ∧ (regsOf t).p = (regsOf s).p ∧ contextOnly i false s t

/-- The address 2 x off bytes from the instruction (R102). -/
def relative (s : State) (off : Int) : DWord := BitVec.ofInt 64 ((pcOf s).toNat + 2 * off)

/-- A group's instruction changes nothing but this group. -/
def groupOnly (gid : Nat) (s t : State) : Prop :=
  t = { s with groups := t.groups } ∧ ∀ g, g ≠ gid → tabFind t.groups g = tabFind s.groups g

/-- ICNT of a group is a table without zeros, below 65,536 (an invariant: EveryStepKeepsCanonicalForm). -/
def icntCanon (g : Group) : Prop := tabCanon g.icnt 0 = true ∧ ∀ p ∈ g.icnt, p.2 ≤ 65535

def icntAt (g : Group) (l : Nat) : Nat := tabGet g.icnt l 0
def doneAt (g : Group) (l : Nat) : Bool := g.done.getLsbD l
def activeAt (g : Group) (l : Nat) : Bool := (activeMask g).getLsbD l

/-- Would a lane be active with ICNT 0 (R86, R253)? -/
def eligibleAt (g : Group) (l : Nat) : Bool :=
  !doneAt g l && (match g.only with | some m => m.getLsbD l | none => !g.parked.getLsbD l)

/-- The ICNT values after a structured instruction that gives lane l, if it has not exited, `new l` (R95). -/
def icntAfter (g : Group) (new : Nat → Nat) (l : Nat) : Nat := if doneAt g l then icntAt g l else new l

/-- Is a lane active under those values? -/
def someActive (g : Group) (new : Nat → Nat) : Prop := ∃ l, l < 64 ∧ eligibleAt g l = true ∧ new l = 0

/-- A structured instruction of a group: its ICNT and PC, and nothing else of the module. -/
def structuredTo (gid : Nat) (new : Nat → Nat) (target : DWord) (s t : State) : Prop :=
  groupOnly gid s t ∧ (∀ l, l < 64 → icntAt (getGroup t gid) l = icntAfter (getGroup s gid) new l) ∧
  getGroup t gid = { groupDone (getGroup s gid) target with icnt := (getGroup t gid).icnt }

/-- The instruction traps for the whole group, queue context or slice before it changes anything (R38, R246). -/
def trapsWith (i : Instr) (t : Trap) (s : State) : Prop := exec i s = .next (takeTrap t s)

/-- A fault record of a group can be written: its 64 bytes lie in a writable fault area (R249). -/
def recordWritable (s : State) (gid : Nat) : Prop :=
  ∀ bs : List Byte, bs.length = 64 →
    ∃ r, writeVirt s { (gridOf s gid).space with pl := 1 } (recordVa s gid) bs = .ok r

/-! ## Engine work -/

/-- No work has an identity that is still to be given (an invariant: EveryStepKeepsCanonicalForm). -/
def freshWorks (s : State) : Prop := ∀ v ∈ s.works, v.id < s.nextId

/-- Every home slice has room for the next work's claims on up to n lines (R313). -/
def claimsFit (s : State) (n : Nat) : Prop := ∀ keys : List Nat, keys.length ≤ n → claimRoom s s.nextId keys = true

/-- The work of this instruction is in the module with its kind, its agent, its token and its copied block (R37); the token register is empty, no other register changes, and the context goes on. -/
def issuedWork (kind : WorkKind) (d : BitVec 7) (blk : List Word) (s t : State) : Prop :=
  (∃ w ∈ t.works, w.id = s.nextId ∧ w.kind = kind ∧ w.agent = s.cur ∧ w.token = d.toNat ∧ w.blk = blk) ∧
  isEmptyField t d.toNat = true ∧ pcOf t = nextPc s 4 ∧ (regsOf t).p = (regsOf s).p ∧
  (∀ n l, l < 64 → n < 128 → ¬(88 ≤ n ∧ n < 96) → readField t n l = readField s n l) ∧
  (∀ n, n < 128 → n ≠ d.toNat → ¬(88 ≤ n ∧ n < 96) → isEmptyField t n = isEmptyField s n)

/-- The same, and no work of another issue changes. -/
def issued (kind : WorkKind) (d : BitVec 7) (blk : List Word) (s t : State) : Prop :=
  issuedWork kind d blk s t ∧ ∀ v ∈ s.works, v ∈ t.works

/-- The hypotheses under which engine work issues: the checks pass, the stores of the group have performed where engines read (R166), identities are fresh, and a queue context that executes waits for no semaphore (R447). -/
def issues (i : Instr) (s : State) : Prop :=
  onRegisters s ∧ canIssue i s ∧ engineGate s = .ok () ∧ freshWorks s ∧
  ∀ q w, s.cur = .queue q → (getQueue s q).wait ≠ some (.semaphore w)

/-- A matrix operation of a group enters the queue of its core, and the group goes on with its registers as they were (R199). -/
def matrixQueued (kind : MatrixKind) (gid : Nat) (s t : State) : Prop :=
  let c := coreOfGroup s gid
  (getCore t c).matrix = (getCore s c).matrix ++ [{ gid := gid, kind := kind }] ∧
  (∀ k, k ≠ c → tabFind t.cores k = tabFind s.cores k) ∧ t.teams = s.teams ∧ t.mem = s.mem ∧
  (getGroup t gid).pc = (getGroup s gid).pc + 4 ∧ (regsOf t).p = (regsOf s).p ∧
  (∀ n l, l < 64 → n < 128 → ¬(88 ≤ n ∧ n < 96) → readField t n l = readField s n l)

/-- An address thread of a channel engine completes: one A register changes, the thread goes on, and nothing else of the module changes (R378, R379). -/
def addressResult (i : Instr) (d : BitVec 7) (v : DWord) (s : State) (pkg vf : Nat) (task : ChTask) : Prop :=
  ∃ t u, exec i s = .next t ∧ getTask t pkg vf = some u ∧ tabGet u.a d.toNat 0 = v ∧
    (∀ k, k ≠ d.toNat → tabGet u.a k 0 = tabGet task.a k 0) ∧
    u = { task with a := u.a, apc := task.apc + 1, stalled := 0 } ∧
    t = { s with rings := t.rings } ∧ ∀ k, k ≠ ringKey pkg vf → tabFind t.rings k = tabFind s.rings k

/-- A channel engine's thread goes on with its task changed, and nothing else of the module changes. -/
def taskResult (i : Instr) (s : State) (pkg vf : Nat) (u : ChTask) : Prop :=
  ∃ t, exec i s = .next t ∧ getTask t pkg vf = some u ∧ t = { s with rings := t.rings } ∧
    ∀ k, k ≠ ringKey pkg vf → tabFind t.rings k = tabFind s.rings k

/-! ## Canonical form -/

/-- The registers of a context hold no entry that reads as an unlisted one does, in order. -/
def regsCanon (r : RegFile) : Prop := tabCanon r.v 0 = true ∧ tabCanon r.s 0 = true ∧ tabCanon r.p 0 = true

/-- What every step keeps: memories, registers and per-lane tables in canonical form, reserved bits of FCSR and MFR 0, ICNT at most 65,535, and identities of works in the past. -/
def canonical (s : State) : Prop :=
  Memory.wf s.mem = true ∧ freshWorks s ∧
  (∀ p ∈ s.groups, let g := p.2
    regsCanon g.regs ∧ tabCanon g.fcsr 0 = true ∧ (∀ x ∈ g.fcsr, x.2 &&& fcsrMask = x.2) ∧ g.mfr &&& mfrMask = g.mfr ∧ icntCanon g ∧
    ∀ a, g.axp = some a → regsCanon a.regs) ∧
  (∀ p ∈ s.queues, regsCanon p.2.regs ∧ p.2.level ≤ 3) ∧
  (∀ p ∈ s.teams, tabCanon p.2.spad 0 = true ∧ tabRising p.2.slots = true ∧ tabRising p.2.tiles = true) ∧
  (∀ p ∈ s.clusters, tabCanon p.2.mem 0 = true)

end Sys2Proof.Claim
end

