-- ==== Sys2Proof/WellFormed.lean ====
section
/-! DEFINITION. Which instructions are well formed: the static checks of 01_encoding R38 step 5 (R28, R32, R35, R36 and the illegal combinations of each entry), without the V-register budget of R29, which belongs to a group. -/

namespace Sys2Proof

/-- Every field names what its entry allows, and every static condition of the entry holds. -/
def wf (i : Instr) : Bool := (uses i).all Use.ok

end Sys2Proof
end

