-- ==== Sys2Proof/Certificates/Slice0/Obligations.lean ====
section
/-! DEFINITION. The statements for the provers: what decoding, each instruction, each event, a step and reset do, by the numbered rules of spec/. -/

namespace Sys2Proof.Claim

open Machine

/-! ## Integer operations as chapter 04 writes them -/

/-- R117, R118: the operations d := f(a, b), on integers and bits. -/
def integerBinary (d a b : BitVec 7) : List (Instr × (Word → Word → Word)) :=
  [(.add d a b, fun x y => BitVec.ofNat 32 (x.toNat + y.toNat)),
   (.sub d a b, fun x y => BitVec.ofInt 32 ((x.toNat : Int) - y.toNat)),
   (.mulLo d a b, fun x y => BitVec.ofNat 32 (x.toNat * y.toNat)),
   (.mulHiS d a b, fun x y => BitVec.ofInt 32 (x.toInt * y.toInt / 2 ^ 32)),
   (.mulHiU d a b, fun x y => BitVec.ofNat 32 (x.toNat * y.toNat / 2 ^ 32)),
   (.and d a b, fun x y => x &&& y),
   (.or d a b, fun x y => x ||| y),
   (.xor d a b, fun x y => x ^^^ y),
   (.andn d a b, fun x y => x &&& ~~~y),
   (.shl d a b, fun x y => if 32 ≤ y.toNat then 0 else x <<< y.toNat),
   (.shr d a b, fun x y => BitVec.ofNat 32 (x.toNat / 2 ^ y.toNat)),
   (.sar d a b, fun x y => BitVec.ofInt 32 (x.toInt / 2 ^ y.toNat)),
   (.rotl d a b, fun x y => x.rotateLeft (y.toNat % 32)),
   (.minS d a b, fun x y => if x.toInt ≤ y.toInt then x else y),
   (.minU d a b, fun x y => if x.toNat ≤ y.toNat then x else y),
   (.maxS d a b, fun x y => if x.toInt ≤ y.toInt then y else x),
   (.maxU d a b, fun x y => if x.toNat ≤ y.toNat then y else x)]

/-- R121: the operations of one source but for CLZ, POPC and BREV. -/
def integerUnary (d a : BitVec 7) : List (Instr × (Word → Word)) :=
  [(.abs d a, fun x => BitVec.ofNat 32 x.toInt.natAbs),
   (.neg d a, fun x => BitVec.ofInt 32 (-(x.toNat : Int))),
   (.mov d a, fun x => x),
   (.popc d a, fun x => BitVec.ofNat 32 ((List.range 32).map (fun k => (x.getLsbD k).toNat)).sum)]

/-- R122: the immediate forms. -/
def integerImmediate (d a i : BitVec 7) : List (Instr × (Word → Word)) :=
  [(.addi d a i, fun x => BitVec.ofInt 32 (x.toNat + i.toInt)),
   (.andi d a i, fun x => x &&& BitVec.ofInt 32 i.toInt),
   (.ori d a i, fun x => x ||| BitVec.ofInt 32 i.toInt),
   (.xori d a i, fun x => x ^^^ BitVec.ofInt 32 i.toInt),
   (.shli d a i, fun x => BitVec.ofNat 32 (x.toNat * 2 ^ i.toNat)),
   (.shri d a i, fun x => BitVec.ofNat 32 (x.toNat / 2 ^ i.toNat)),
   (.sari d a i, fun x => BitVec.ofInt 32 (x.toInt / 2 ^ i.toNat))]

/-- R20: the two-address forms D := f(D, A) of the integer operations. -/
def integerHalf (d : BitVec 6) (a : BitVec 5) : List (Instr × (Word → Word → Word)) :=
  [(.mov16 d a, fun _ y => y),
   (.add16 d a, fun x y => BitVec.ofNat 32 (x.toNat + y.toNat)),
   (.sub16 d a, fun x y => BitVec.ofInt 32 ((x.toNat : Int) - y.toNat)),
   (.mulLo16 d a, fun x y => BitVec.ofNat 32 (x.toNat * y.toNat)),
   (.and16 d a, fun x y => x &&& y),
   (.or16 d a, fun x y => x ||| y),
   (.xor16 d a, fun x y => x ^^^ y),
   (.shl16 d a, fun x y => if 32 ≤ y.toNat then 0 else x <<< y.toNat),
   (.shr16 d a, fun x y => BitVec.ofNat 32 (x.toNat / 2 ^ y.toNat)),
   (.sar16 d a, fun x y => BitVec.ofInt 32 (x.toInt / 2 ^ y.toNat)),
   (.minS16 d a, fun x y => if x.toInt ≤ y.toInt then x else y),
   (.maxS16 d a, fun x y => if x.toInt ≤ y.toInt then y else x)]

/-- R117, R126: the operations whose result is a pair, from their sources in a lane. -/
def integerPair (d a b : BitVec 7) (s : State) (l : Nat) : List (Instr × DWord) :=
  [(.mulwS d a b, BitVec.ofInt 64 ((readField s a.toNat l).toInt * (readField s b.toNat l).toInt)),
   (.mulwU d a b, BitVec.ofNat 64 ((readField s a.toNat l).toNat * (readField s b.toNat l).toNat)),
   (.add64 d a b, BitVec.ofNat 64 ((readPair s a.toNat l).toNat + (readPair s b.toNat l).toNat)),
   (.sub64 d a b, BitVec.ofInt 64 (((readPair s a.toNat l).toNat : Int) - (readPair s b.toNat l).toNat)),
   (.shl64 d a b, if 64 ≤ (readField s b.toNat l).toNat then 0 else readPair s a.toNat l <<< (readField s b.toNat l).toNat),
   (.shr64 d a b, BitVec.ofNat 64 ((readPair s a.toNat l).toNat / 2 ^ (readField s b.toNat l).toNat))]

/-- R124: the conditions of CMP on 32 bits and of CMP64 on 64 bits, in opcode order. -/
def integerCompare (p a b : BitVec 7) {w : Nat} (x y : BitVec w) : List (Instr × Instr × Bool) :=
  [(.cmpEq p a b, .cmp64Eq p a b, decide (x.toNat = y.toNat)),
   (.cmpNe p a b, .cmp64Ne p a b, decide (x.toNat ≠ y.toNat)),
   (.cmpLtS p a b, .cmp64LtS p a b, decide (x.toInt < y.toInt)),
   (.cmpLeS p a b, .cmp64LeS p a b, decide (x.toInt ≤ y.toInt)),
   (.cmpGtS p a b, .cmp64GtS p a b, decide (y.toInt < x.toInt)),
   (.cmpGeS p a b, .cmp64GeS p a b, decide (y.toInt ≤ x.toInt)),
   (.cmpLtU p a b, .cmp64LtU p a b, decide (x.toNat < y.toNat)),
   (.cmpLeU p a b, .cmp64LeU p a b, decide (x.toNat ≤ y.toNat)),
   (.cmpGtU p a b, .cmp64GtU p a b, decide (y.toNat < x.toNat)),
   (.cmpGeU p a b, .cmp64GeU p a b, decide (y.toNat ≤ x.toNat))]

/-- Byte k of PERM's result under nibble n (R119). -/
def permRule (a d : Word) (n : Nat) : Byte :=
  if n ≤ 3 then a.extractLsb' (8 * n) 8
  else if n ≤ 7 then d.extractLsb' (8 * (n - 4)) 8
  else if n ≤ 11 then (if a.getLsbD (8 * (n - 8) + 7) then 0xFF else 0)
  else 0

/-- Position and length of a field descriptor (R120). -/
def pos (b : Word) : Nat := b.toNat % 32
def len (b : Word) : Nat := min (b.toNat / 256 % 64) (32 - pos b)

end Sys2Proof.Claim

open Sys2Proof Sys2Proof.Machine Sys2Proof.Claim

/-! ## Integer lanes -/

/-- R117, R118: each register-register integer operation writes its result to d in each lane in which it computes, from the operands as they were before; results wrap, and nothing else changes. -/
def Obligations.IntegerBinaryResults : Prop :=
  ∀ (d a b : BitVec 7) (s : State), ∀ p ∈ integerBinary d a b, runs p.1 s →
    wordResult p.1 d (fun l => p.2 (readField s a.toNat l) (readField s b.toNat l)) s

/-- R112, R117, R119, R120: MAD, PERM, BFX and BFI, bit by bit as their rules write them. -/
def Obligations.MadPermAndBitFieldResults : Prop :=
  ∀ (d a b : BitVec 7) (s : State),
    (runs (.mad d a b) s → wordResult (.mad d a b) d (fun l => BitVec.ofNat 32
      ((readField s a.toNat l).toNat * (readField s b.toNat l).toNat + (readField s d.toNat l).toNat)) s) ∧
    (runs (.perm d a b) s → ∃ f : Nat → Word, wordResult (.perm d a b) d f s ∧ ∀ l k, k < 4 →
      (f l).extractLsb' (8 * k) 8 =
        permRule (readField s a.toNat l) (readField s d.toNat l) ((readField s b.toNat l).toNat / 16 ^ k % 16)) ∧
    (runs (.bfx d a b) s → ∃ f : Nat → Word, wordResult (.bfx d a b) d f s ∧ ∀ l j, j < 32 →
      let x := readField s a.toNat l
      let y := readField s b.toNat l
      (f l).getLsbD j = if j < len y then x.getLsbD (pos y + j)
        else y.getLsbD 15 && decide (0 < len y) && x.getLsbD (pos y + len y - 1)) ∧
    (runs (.bfi d a b) s → ∃ f : Nat → Word, wordResult (.bfi d a b) d f s ∧ ∀ l j, j < 32 →
      let y := readField s b.toNat l
      (f l).getLsbD j = if pos y ≤ j ∧ j < pos y + len y then (readField s a.toNat l).getLsbD (j - pos y)
        else (readField s d.toNat l).getLsbD j)

/-- R121: the operations of one source: ABS, NEG, MOV and POPC by value, CLZ and BREV by their bits; every mod7 bit is reserved. -/
def Obligations.IntegerUnaryResults : Prop :=
  ∀ (d a : BitVec 7) (s : State),
    (∀ p ∈ integerUnary d a, runs p.1 s → wordResult p.1 d (fun l => p.2 (readField s a.toNat l)) s) ∧
    (runs (.clz d a) s → ∃ f : Nat → Nat, wordResult (.clz d a) d (fun l => BitVec.ofNat 32 (f l)) s ∧ ∀ l,
      f l ≤ 32 ∧ (readField s a.toNat l).toNat < 2 ^ (32 - f l) ∧
      (f l < 32 → 2 ^ (31 - f l) ≤ (readField s a.toNat l).toNat)) ∧
    (runs (.brev d a) s → ∃ f : Nat → Word, wordResult (.brev d a) d f s ∧ ∀ l k, k < 32 →
      (f l).getLsbD k = (readField s a.toNat l).getLsbD (31 - k)) ∧
    (integerUnary d a).map (fun p => p.1.opn) = [0x018, 0x019, 0x01D, 0x01B] ∧ (Instr.clz d a).opn = 0x01A ∧ (Instr.brev d a).opn = 0x01C ∧
    (∀ op b, 0x018 ≤ op → op ≤ 0x01D → b ≠ 0 → decodeFields op d a b = none)

/-- R122, R123: the immediate forms, LI and LUI; a shift count above 31 is no legal instruction. -/
def Obligations.ImmediateResults : Prop :=
  ∀ (d a i : BitVec 7) (n : BitVec 14) (s : State),
    (∀ p ∈ integerImmediate d a i, runs p.1 s → wordResult p.1 d (fun l => p.2 (readField s a.toNat l)) s) ∧
    (runs (.li d n) s → wordResult (.li d n) d (fun _ => BitVec.ofInt 32 n.toInt) s) ∧
    (runs (.lui d n) s → wordResult (.lui d n) d
      (fun l => BitVec.ofNat 32 ((readField s d.toNat l).toNat * 2 ^ 14 + n.toNat)) s) ∧
    (integerImmediate d a i).map (fun p => p.1.opn) = [0x020, 0x021, 0x022, 0x023, 0x024, 0x025, 0x026] ∧
    (Instr.li d n).opn = 0x028 ∧ (Instr.lui d n).opn = 0x029 ∧
    (∀ j ∈ [Instr.shli d a i, .shri d a i, .sari d a i], 31 < i.toNat → wf j = false)

/-- R20, R21: the 16-bit integer operations compute as their 32-bit forms on V registers D and A, and move the PC by 2. -/
def Obligations.HalfwordIntegerResults : Prop :=
  ∀ (d : BitVec 6) (a : BitVec 5) (s : State), ∀ p ∈ integerHalf d a, runs p.1 s →
    wordResult p.1 (d.setWidth 7) (fun l => p.2 (readField s d.toNat l) (readField s a.toNat l)) s

/-- R117, R126: products of 64 bits and the operations on 64-bit pairs, whose fields name even pairs. -/
def Obligations.PairResults : Prop :=
  (∀ (d a b : BitVec 7) (s : State) (k : Nat), k < 6 →
    ∀ i, (integerPair d a b s 0)[k]?.map (·.1) = some i → runs i s →
      pairResult i d (fun l => ((integerPair d a b s l)[k]?.map (·.2)).getD 0) s) ∧
  (∀ d a b : BitVec 7, d.toNat % 2 = 1 ∨ a.toNat % 2 = 1 → ∀ i ∈ [Instr.add64 d a b, .sub64 d a b, .shl64 d a b, .shr64 d a b], wf i = false) ∧
  (∀ d a b : BitVec 7, b.toNat % 2 = 1 → wf (.add64 d a b) = false ∧ wf (.sub64 d a b) = false) ∧
  (∀ d a b : BitVec 7, [Instr.add64 d a b, .sub64 d a b, .shl64 d a b, .shr64 d a b].map Instr.opn = [0x040, 0x041, 0x042, 0x043])

/-- R124, R32: CMP and CMP64 write P(d) in each active lane by their condition; a write to P7 is discarded. R125, R33: SEL takes a where the predicate that its opcode names is true, and b elsewhere, in each active lane; D must name a V register, and CMP64's sources even pairs. -/
def Obligations.ComparesAndSelects : Prop :=
  (∀ (p a b : BitVec 7) (s : State) (k : Nat), k < 10 → ∀ (i j : Instr),
    (integerCompare p a b (0#32) (0#32))[k]?.map (fun x => (x.1, x.2.1)) = some (i, j) →
    (runs i s → predResult i p (fun l =>
      ((integerCompare p a b (readField s a.toNat l) (readField s b.toNat l))[k]?.map (·.2.2)).getD false) s) ∧
    (runs j s → predResult j p (fun l =>
      ((integerCompare p a b (readPair s a.toNat l) (readPair s b.toNat l))[k]?.map (·.2.2)).getD false) s)) ∧
  (∀ (p : BitVec 3) (d a b : BitVec 7) (s : State), runs (.sel p d a b) s →
    wordResult (.sel p d a b) d (fun l => if (regsOf s).readP p.toNat l then readField s a.toNat l else readField s b.toNat l) s) ∧
  (∀ (p : BitVec 3) (d a b : BitVec 7), (Instr.sel p d a b).opn = 0x070 + p.toNat ∧ (88 ≤ d.toNat → wf (.sel p d a b) = false)) ∧
  (∀ p a b : BitVec 7, (integerCompare p a b (0#32) (0#32)).map (fun x => (x.1.opn, x.2.1.opn)) =
    (List.range 10).map (fun k => (0x030 + k, 0x048 + k))) ∧
  (∀ (p a b : BitVec 7), ∀ x ∈ integerCompare p a b (0#32) (0#32),
    (8 ≤ p.toNat → wf x.1 = false ∧ wf x.2.1 = false) ∧ (a.toNat % 2 = 1 ∨ b.toNat % 2 = 1 → wf x.2.1 = false))

/-! ## Floating-point lanes -/

/-- R127-R132, R114, R20: each FP32 operation writes the exact result rounded once under the lane's controls, and ORs its flags into FCSR. R20: the 16-bit FP32 operations D := f(D, A) under each lane's own FCSR. -/
def Obligations.Fp32Results : Prop :=
  (∀ (d a b : BitVec 7) (r : BitVec 3) (s : State),
    let x (l : Nat) := (readField s a.toNat l).toNat
    let y (l : Nat) := (readField s b.toNat l).toNat
    let z (l : Nat) := (readField s d.toNat l).toNat
    let c (l : Nat) := fpCtl s d l
    (∀ p ∈ [(Instr.fadd d a b, fpAdd fp32), (.fsub d a b, fpSub fp32), (.fmul d a b, fpMul fp32), (.fdiv d a b, fpDiv fp32),
        (.fmin d a b, fun k => fpMinMax fp32 k false), (.fmax d a b, fun k => fpMinMax fp32 k true)],
      runsFp p.1 s → fpWord p.1 d (fun l => p.2 (c l) (x l) (y l)) s) ∧
    (runsFp (.ffma d a b) s → fpWord (.ffma d a b) d (fun l => fpFma fp32 (c l) (x l) (y l) (z l)) s) ∧
    (runsFp (.fsqrt d a r) s → fpWord (.fsqrt d a r) d (fun l => fpSqrt fp32 (staticRm r (c l)) (x l)) s) ∧
    (runsFp (.frint d a r) s → fpWord (.frint d a r) d (fun l => fpRint fp32 (staticRm r (c l)) (x l)) s) ∧
    (runsFp (.fclass d a) s → fpWord (.fclass d a) d (fun l => (fpClass fp32 (c l) (x l), 0)) s)) ∧
  (∀ (d : BitVec 6) (a : BitVec 5) (s : State),
    ∀ p ∈ [(Instr.fadd16 d a, fpAdd fp32), (.fsub16 d a, fpSub fp32), (.fmul16 d a, fpMul fp32), (.fmax16 d a, fun k => fpMinMax fp32 k true)],
      runsFp p.1 s → fpWord p.1 (d.setWidth 7)
        (fun l => p.2 (laneCtl s l) (readField s d.toNat l).toNat (readField s a.toNat l).toNat) s)

/-- R129, R74: FCPYS, FABS and FNEG apply DAZ to a, change its sign bit alone and raise no flag. -/
def Obligations.SignOperationsChangeOnlyTheSign : Prop :=
  ∀ (d a b : BitVec 7) (s : State),
    let v (l : Nat) : Word := BitVec.ofNat 32 (fp32.daz (fpCtl s d l).daz (readField s a.toNat l).toNat)
    (runsFp (.fcpys d a b) s → ∃ f : Nat → Nat, fpWord (.fcpys d a b) d (fun l => (f l, 0)) s ∧ ∀ l,
      BitVec.ofNat 32 (f l) = (readField s b.toNat l).extractLsb' 31 1 ++ (v l).extractLsb' 0 31) ∧
    (runsFp (.fabs d a) s → ∃ f : Nat → Nat, fpWord (.fabs d a) d (fun l => (f l, 0)) s ∧ ∀ l,
      BitVec.ofNat 32 (f l) = 0#1 ++ (v l).extractLsb' 0 31) ∧
    (runsFp (.fneg d a) s → ∃ f : Nat → Nat, fpWord (.fneg d a) d (fun l => (f l, 0)) s ∧ ∀ l,
      BitVec.ofNat 32 (f l) = ~~~((v l).extractLsb' 31 1) ++ (v l).extractLsb' 0 31)

/-- R136, R137: FP64 on pairs, and packed BF16 and FP16 pairs, element by element with the flags of both. -/
def Obligations.Fp64AndPackedResults : Prop :=
  ∀ (d a b : BitVec 7) (r : BitVec 3) (s : State),
    let c (l : Nat) := fpCtl s d l
    let x (l : Nat) := (readPair s a.toNat l).toNat
    let y (l : Nat) := (readPair s b.toNat l).toNat
    let e (n h l : Nat) := (readField s n l).toNat / 65536 ^ h % 65536
    (∀ p ∈ [(Instr.dadd d a b, fpAdd fp64), (.dsub d a b, fpSub fp64), (.dmul d a b, fpMul fp64), (.ddiv d a b, fpDiv fp64)],
      runsFp p.1 s → fpPair p.1 d (fun l => p.2 (c l) (x l) (y l)) s) ∧
    (runsFp (.dfma d a b) s → fpPair (.dfma d a b) d (fun l => fpFma fp64 (c l) (x l) (y l) (readPair s d.toNat l).toNat) s) ∧
    (runsFp (.dsqrt d a r) s → fpPair (.dsqrt d a r) d (fun l => fpSqrt fp64 (staticRm r (c l)) (x l)) s) ∧
    (∀ p ∈ [(Instr.hadd2Bf16 d a b, fpAdd bf16), (.hadd2Fp16 d a b, fpAdd fp16), (.hmul2Bf16 d a b, fpMul bf16), (.hmul2Fp16 d a b, fpMul fp16)],
      let g (l h : Nat) := p.2 (c l) (e a.toNat h l) (e b.toNat h l)
      runsFp p.1 s → fpWord p.1 d (fun l => ((g l 1).1 * 65536 + (g l 0).1, (g l 1).2 ||| (g l 0).2)) s) ∧
    (∀ p ∈ [(Instr.hfma2Bf16 d a b, bf16), (.hfma2Fp16 d a b, fp16)],
      let g (l h : Nat) := fpFma p.2 (c l) (e a.toNat h l) (e b.toNat h l) (e d.toNat h l)
      runsFp p.1 s → fpWord p.1 d (fun l => ((g l 1).1 * 65536 + (g l 0).1, (g l 1).2 ||| (g l 0).2)) s)

/-- R133: FCMP and DCMP compare after DAZ; a NaN makes .ne and .un true and every other condition false; equal values of either zero are equal. -/
def Obligations.FloatCompareWritesPredicate : Prop :=
  ∀ (p a b : BitVec 7) (s : State),
    ∀ k ∈ [(FCond.eq, Instr.fcmpEq p a b, Instr.dcmpEq p a b), (.ne, .fcmpNe p a b, .dcmpNe p a b), (.lt, .fcmpLt p a b, .dcmpLt p a b),
        (.le, .fcmpLe p a b, .dcmpLe p a b), (.gt, .fcmpGt p a b, .dcmpGt p a b), (.ge, .fcmpGe p a b, .dcmpGe p a b), (.un, .fcmpUn p a b, .dcmpUn p a b)],
      (runsFp k.2.1 s → fpPred k.2.1 p
        (fun l => fpCmp fp32 (laneCtl s l) k.1 (readField s a.toNat l).toNat (readField s b.toNat l).toNat) s) ∧
      (runsFp k.2.2 s → fpPred k.2.2 p
        (fun l => fpCmp fp64 (laneCtl s l) k.1 (readPair s a.toNat l).toNat (readPair s b.toNat l).toNat) s) ∧
      (∀ (f : Fmt) (c : FpCtl) (x y : Nat), f = fp32 ∨ f = fp64 →
        (f.isNaN x = true ∨ f.isNaN y = true → (fpCmp f c k.1 x y).1 = (decide (k.1 = .ne) || decide (k.1 = .un))) ∧
        (f.mag x = 0 → f.mag y = 0 → (fpCmp f c k.1 x y).1 = (decide (k.1 = .eq) || decide (k.1 = .le) || decide (k.1 = .ge))))

/-- R134, R135: FRCP, FRSQ, FEX2, FLG2, FSIN and FCOS write a result in each lane and raise no flag but NV: a NaN gives the canonical NaN, operands outside the ordinary range give the results and the flag of R135's table, the exact cases of R134's table hold, and under FTZ no result is subnormal. The operand is taken after DAZ. Any other result is a free value within R134's bound (log 9), of which this states nothing. -/
def Obligations.ApproximationsComplete : Prop :=
  (∀ (d a : BitVec 7) (s : State),
    ∀ k ∈ [(ApproxOp.rcp, Instr.frcp d a), (.rsq, .frsq d a), (.ex2, .fex2 d a), (.lg2, .flg2 d a), (.sin, .fsin d a), (.cos, .fcos d a)],
      runsFp k.2 s → fpWord k.2 d (fun l => fpApprox k.1 (fpCtl s d l) (readField s a.toNat l).toNat) s) ∧
  ∀ (c : FpCtl) (x : Nat), x < 2 ^ 32 →
    let y := fp32.daz c.daz x
    let inf := fp32.infCode
    let nan := (fp32.canonNaN, flagNV)
    let neg := fp32.isNeg x
    (∀ op : ApproxOp, ((fpApprox op c x).2 = 0 ∨ (fpApprox op c x).2 = flagNV) ∧
      (fp32.isNaN x = true → fpApprox op c x = (fp32.canonNaN, if fp32.isSNaN x then flagNV else 0)) ∧
      (c.ftz = true → fp32.isSub (fpApprox op c x).1 = false)) ∧
    (fp32.mag y = 0 → fpApprox .rcp c x = (fp32.signed neg inf, 0) ∧ fpApprox .rsq c x = (fp32.signed neg inf, 0) ∧ fpApprox .ex2 c x = (0x3F800000, 0) ∧
      fpApprox .lg2 c x = (fp32.signed true inf, 0) ∧ fpApprox .sin c x = (y, 0) ∧ fpApprox .cos c x = (0x3F800000, 0)) ∧
    (y = inf → fpApprox .rsq c x = (0, 0) ∧ fpApprox .ex2 c x = (inf, 0) ∧ fpApprox .lg2 c x = (inf, 0)) ∧
    (fp32.mag y = inf → fpApprox .rcp c x = (fp32.signed neg 0, 0) ∧ (neg = true → fpApprox .ex2 c x = (0, 0))) ∧
    (neg = true → 0 < fp32.mag y → fp32.mag y ≤ inf → fpApprox .rsq c x = nan ∧ fpApprox .lg2 c x = nan) ∧
    (0x43000000 ≤ y → y ≤ inf → fpApprox .ex2 c x = (inf, 0)) ∧
    (0x46800000 < fp32.mag y → fp32.mag y ≤ inf → fpApprox .sin c x = nan ∧ fpApprox .cos c x = nan) ∧
    (∀ e : Nat, 1 ≤ e → e ≤ 254 →
      (fp32.mag x = e * 2 ^ 23 → e ≤ 253 → fpApprox .rcp c x = (fp32.signed neg ((254 - e) * 2 ^ 23), 0)) ∧
      (x = e * 2 ^ 23 → e % 2 = 1 → fpApprox .rsq c x = ((381 - e) / 2 * 2 ^ 23, 0)) ∧
      (x = e * 2 ^ 23 → fpApprox .lg2 c x = (roundF32 (XR.ofInt ((e : Int) - 127) 1 false), 0))) ∧
    (c.daz = false → ∀ j : Nat, j < 23 →
      (fp32.mag x = 2 ^ 22 → fpApprox .rcp c x = (fp32.signed neg (254 * 2 ^ 23), 0)) ∧
      (x = 2 ^ j → j % 2 = 1 → fpApprox .rsq c x = ((127 + (149 - j) / 2) * 2 ^ 23, 0)) ∧
      (x = 2 ^ j → fpApprox .lg2 c x = (roundF32 (XR.ofInt ((j : Int) - 149) 1 false), 0))) ∧
    (∀ i : Int, -126 ≤ i → i ≤ 127 → x = roundF32 (XR.ofInt i 1 neg) → fpApprox .ex2 c x = ((127 + i).toNat * 2 ^ 23, 0))

/-- R70, R75: rounding a positive or negative rational to a format of infinities: towards zero it is the largest magnitude that does not exceed the value; to nearest, when it stays finite, no finite code lies nearer. -/
def Obligations.RoundingIsCorrect : Prop :=
  ∀ f ∈ [fp64, fp32, fp16, bf16], ∀ (neg : Bool) (num den : Nat), 0 < num → 0 < den →
    (let r := (roundFP (.fin neg num den) f .rtz false).1
     f.isNeg r = neg ∧ ∃ a b : Nat, f.decode (f.mag r) = .fin false a b ∧ 0 < b ∧ a * den ≤ num * b ∧
       ∀ m a' b' : Nat, m ≤ f.maxCode → f.decode m = .fin false a' b' → a' * den ≤ num * b' → a' * b ≤ a * b') ∧
    (let r := (roundFP (.fin neg num den) f .rne false).1
     f.isNeg r = neg ∧ (f.mag r ≤ f.maxCode → ∃ a b : Nat, f.decode (f.mag r) = .fin false a b ∧ 0 < b ∧
       ∀ m a' b' : Nat, m ≤ f.maxCode → f.decode m = .fin false a' b' →
         ((num * b : Int) - a * den).natAbs * b' ≤ ((num * b' : Int) - a' * den).natAbs * b))

/-! ## Conversions and cross-lane operations -/

/-- R138-R145: CVT, CBLOOK and CVTB write their conversions with their flags. -/
def Obligations.ConversionResults : Prop :=
  ∀ (d a b : BitVec 7) (c : BitVec 6) (o : BitVec 1) (m : BitVec 3) (s : State),
    let src (l : Nat) : DWord := if cvtSrc c = .pair then readPair s a.toNat l else (readField s a.toNat l).setWidth 64
    let r (l : Nat) := convert c.toNat (o = 1) (fpCtl s d l) (src l)
    (runsFp (.cvt d a c o) s →
      (cvtDst c = .pair → fpPair (.cvt d a c o) d (fun l => ((r l).1.toNat, (r l).2)) s) ∧
      (cvtDst c ≠ .pair → fpWord (.cvt d a c o) d (fun l => ((r l).1.toNat, (r l).2)) s)) ∧
    (runs (.cblook d a b) s → wordResult (.cblook d a b) d (fun l =>
      let code := (readField s a.toNat l).toNat % 16
      let entry := (readField s (b.toNat + code / 2) 0).toNat / 65536 ^ (code % 2) % 65536
      BitVec.ofNat 32 (bf16.daz (fpCtl s d l).daz entry * 65536)) s) ∧
    (runsFp (.cvtbPack d a m) s →
      let rec' (h : Nat) := packRecord m.toNat ((List.range 32).map (fun j => fp32.daz (laneCtl s (32 * h + j)).daz (readField s a.toNat (32 * h + j)).toNat))
      fpWord (.cvtbPack d a m) d (fun l => (((rec' (l / 32)).1.getD (l % 32) 0).toNat, (rec' (l / 32)).2.getD (l % 32) 0)) s) ∧
    (runsFp (.cvtbUnpack d a m) s →
      let words (h : Nat) : List Word := (List.range 32).map (fun j => readField s a.toNat (32 * h + j))
      fpWord (.cvtbUnpack d a m) d (fun l =>
        unpackElem m.toNat ((readField s a.toNat (32 * (l / 32))).toNat / 256 % 256) (imageElem m.toNat (words (l / 32)) (l % 32)) (laneCtl s l)) s)

/-- R146: SHFL takes a from the source lane, active or not; a lane whose source would lie outside the group takes its own. R147, R151: VOTE and MATCH over the active lanes. Each with the kinds of register that its fields must name. That a vote which fails writes 0 to its predicate is the model's choice (log 63). -/
def Obligations.CrossLaneMoves : Prop :=
  (∀ (d a b : BitVec 7) (s : State),
    ∀ p ∈ [(Instr.shflIdx d a b, fun (_ : Nat) (n : Nat) => n % 64), (.shflUp d a b, fun l n => if n ≤ l then l - n else l),
        (.shflDn d a b, fun l n => if l + n ≤ 63 then l + n else l), (.shflXor d a b, fun l n => l ^^^ (n % 64))],
      runs p.1 s → wordResult p.1 d (fun l => readField s a.toNat (p.2 l (readField s b.toNat l).toNat)) s) ∧
  (∀ (d a : BitVec 7) (q : BitVec 3) (n w : BitVec 1) (s : State),
    let vote (l : Nat) : Prop := (regsOf s).readP q.toNat l = decide (n = 0)
    let same (k l : Nat) : Prop := if w = 1 then readPair s a.toNat k = readPair s a.toNat l else readField s a.toNat k = readField s a.toNat l
    (runs (.voteAny d q n) s → ∃ v : Bool, predResult (.voteAny d q n) d (fun _ => v) s ∧ (v = true ↔ ∃ l ∈ laneList s, vote l)) ∧
    (runs (.voteAll d q n) s → ∃ v : Bool, predResult (.voteAll d q n) d (fun _ => v) s ∧ (v = true ↔ ∀ l ∈ laneList s, vote l)) ∧
    (runs (.voteBal d q n) s → ∃ m : DWord, pairResult (.voteBal d q n) d (fun _ => m) s ∧ ∀ l, l < 64 → (m.getLsbD l = true ↔ l ∈ laneList s ∧ vote l)) ∧
    (runs (.matchOp d a 0 w) s → ∃ m : Nat → DWord, pairResult (.matchOp d a 0 w) d m s ∧
      ∀ l ∈ laneList s, ∀ k, k < 64 → ((m l).getLsbD k = true ↔ k ∈ laneList s ∧ same k l)) ∧
    (runs (.matchOp d a 1 w) s → ∃ m : DWord, pairResult (.matchOp d a 1 w) d (fun _ => m) s ∧
      ((∀ k ∈ laneList s, ∀ l ∈ laneList s, same k l) → m = activeOf s) ∧
      (¬(∀ k ∈ laneList s, ∀ l ∈ laneList s, same k l) → m = 0))) ∧
  (∀ (d a b : BitVec 7) (q : BitVec 3) (n w : BitVec 1),
    (88 ≤ d.toNat → ∀ i ∈ [Instr.shflIdx d a b, .shflUp d a b, .shflDn d a b, .shflXor d a b], wf i = false) ∧
    (8 ≤ d.toNat → wf (.voteAny d q n) = false ∧ wf (.voteAll d q n) = false) ∧
    (d.toNat < 96 ∨ d.toNat % 2 = 1 → wf (.voteBal d q n) = false ∧ wf (.matchOp d a 1 w) = false) ∧
    (88 ≤ d.toNat ∨ d.toNat % 2 = 1 → wf (.matchOp d a 0 w) = false) ∧
    (96 ≤ a.toNat → ∀ m, wf (.matchOp d a m w) = false) ∧ (88 ≤ a.toNat ∨ a.toNat % 2 = 1 → ∀ m, wf (.matchOp d a m 1) = false) ∧
    [Instr.shflIdx d a b, .shflUp d a b, .shflDn d a b, .shflXor d a b].map Instr.opn = [0x100, 0x101, 0x102, 0x103] ∧
    (let vote (v : BitVec 7 → BitVec 3 → BitVec 1 → Instr) : Option Instr :=
       if a = 0 ∧ b.toNat < 16 then some (v d (b.extractLsb' 0 3) (b.extractLsb' 3 1)) else none
     decodeFields 0x104 d a b = vote .voteAny ∧ decodeFields 0x105 d a b = vote .voteAll ∧ decodeFields 0x106 d a b = vote .voteBal) ∧
    decodeFields 0x109 d a b = if b.toNat < 4 then some (.matchOp d a (b.extractLsb' 0 1) (b.extractLsb' 1 1)) else none)

/-- Node m of a level of REDX's tree (R149): level 0 is the lanes. -/
def Sys2Proof.Claim.redxNode (op : Nat) (v : Nat → Option Word) : Nat → Nat → Option Word
  | 0, m => v m
  | k + 1, m => (combineOpt op (Claim.redxNode op v k (2 * m)) (Claim.redxNode op v k (2 * m + 1))).1

/-- Lane i after the strides below 2^k of SCAN (R150). -/
def Sys2Proof.Claim.scanNode (op : Nat) (v : Nat → Option Word) : Nat → Nat → Option Word
  | 0, i => v i
  | k + 1, i => if 2 ^ k ≤ i then (combineOpt op (Claim.scanNode op v k (i - 2 ^ k)) (Claim.scanNode op v k i)).1 else Claim.scanNode op v k i

/-- The flags of the combines below node m of a level of REDX's tree (R148, R149). -/
def Sys2Proof.Claim.redxFlags (op : Nat) (v : Nat → Option Word) : Nat → Nat → Flags
  | 0, _ => 0
  | k + 1, m => Claim.redxFlags op v k (2 * m) ||| Claim.redxFlags op v k (2 * m + 1) |||
      (combineOpt op (Claim.redxNode op v k (2 * m)) (Claim.redxNode op v k (2 * m + 1))).2

/-- The flags of the combines of the strides below 2^k of SCAN (R148, R150). -/
def Sys2Proof.Claim.scanFlags (op : Nat) (v : Nat → Option Word) : Nat → Flags
  | 0 => 0
  | k + 1 => ((List.range 64).filter (fun i => decide (2 ^ k ≤ i))).foldl
      (fun f i => f ||| (combineOpt op (Claim.scanNode op v k (i - 2 ^ k)) (Claim.scanNode op v k i)).2) (Claim.scanFlags op v k)

/-- R148: the combines of REDX and SCAN in the order of their codes, each with its flags and its result for no value. -/
def Sys2Proof.Claim.combines (x y : Word) : List ((Word × Flags) × Word) :=
  let fp (r : Nat × Flags) : Word × Flags := (BitVec.ofNat 32 r.1, r.2)
  [((BitVec.ofNat 32 (x.toNat + y.toNat), 0), 0), ((if x.toInt ≤ y.toInt then x else y, 0), 0x7FFFFFFF), ((if x.toInt ≤ y.toInt then y else x, 0), 0x80000000),
   ((if x.toNat ≤ y.toNat then x else y, 0), 0xFFFFFFFF), ((if x.toNat ≤ y.toNat then y else x, 0), 0), ((x &&& y, 0), 0xFFFFFFFF), ((x ||| y, 0), 0), ((x ^^^ y, 0), 0),
   (fp (fpAdd fp32 .plain x.toNat y.toNat), 0x80000000), (fp (fpMinMax fp32 .plain false x.toNat y.toNat), 0x7FC00000), (fp (fpMinMax fp32 .plain true x.toNat y.toNat), 0x7FC00000)]

/-- R148-R150: REDX reduces the active lanes by the fixed tree, SCAN combines by rising strides, and a lane without a value gives the operation's result for no value; every flag that a combine raises reaches the FCSR of every active lane. The combines are R148's, and one with no value on a side passes the other through and raises nothing. -/
def Obligations.ReductionAndScanResults : Prop :=
  (∀ (x y : Word) (o : Nat) (z : Option Word), o < 11 →
    (combines x y)[o]? = some (combine o x y, combineNone o) ∧
    combineOpt o (some x) (some y) = (some (combine o x y).1, (combine o x y).2) ∧ combineOpt o z none = (z, 0) ∧ combineOpt o none z = (z, 0)) ∧
  (∀ (d a : BitVec 7) (o : BitVec 4) (e : BitVec 1) (s : State),
    let v (l : Nat) : Option Word := if l < 64 ∧ (activeOf s).getLsbD l = true then some (readField s a.toNat l) else none
    (runsFp (.redx d a o) s → ∃ t, exec (.redx d a o) s = .next t ∧
      readField t d.toNat 0 = kept d.toNat ((redxNode o.toNat v 6 0).getD (combineNone o.toNat)) ∧
      flagsRaised s t false (laneList s) (fun _ => redxFlags o.toNat v 6 0) ∧
      writesOnly (covers s d 1) s t ∧ (regsOf t).p = (regsOf s).p ∧ pcOf t = nextPc s 4 ∧
      contextOnly (.redx d a o) (decide (8 ≤ o.toNat)) s t) ∧
    (runsFp (.scan d a o e) s → ∃ t, exec (.scan d a o e) s = .next t ∧
      (∀ l ∈ laneList s, readField t d.toNat l = (if e = 1 then (if l = 0 then none else scanNode o.toNat v 6 (l - 1))
        else scanNode o.toNat v 6 l).getD (combineNone o.toNat)) ∧
      flagsRaised s t false (laneList s) (fun _ => scanFlags o.toNat v 6) ∧
      writesOnly (covers s d 1) s t ∧ (regsOf t).p = (regsOf s).p ∧ pcOf t = nextPc s 4 ∧
      contextOnly (.scan d a o e) (decide (8 ≤ o.toNat)) s t)) ∧
  (∀ (d a : BitVec 7) (o : BitVec 4) (e : BitVec 1), 96 ≤ a.toNat → wf (.redx d a o) = false ∧ wf (.scan d a o e) = false) ∧
  (∀ (d a : BitVec 7) (o : BitVec 4) (e : BitVec 1), (d.toNat < 96 → wf (.redx d a o) = false) ∧ (88 ≤ d.toNat → wf (.scan d a o e) = false) ∧
    (11 ≤ o.toNat → wf (.redx d a o) = false ∧ wf (.scan d a o e) = false)) ∧
  (∀ d a b : BitVec 7,
    decodeFields 0x107 d a b = (if b.toNat < 16 then some (.redx d a (b.extractLsb' 0 4)) else none) ∧
    decodeFields 0x108 d a b = (if b.toNat < 32 then some (.scan d a (b.extractLsb' 0 4) (b.extractLsb' 4 1)) else none))

/-! ## Control -/

/-- R102: RET goes to the address in the S pair, and an odd target is an ALIGN trap instead, which in an access slice names the RET itself; JMP, CALL and a taken JMPU move the PC by twice the offset from the instruction, CALL keeps PC + 4 in S28:S29, a JMPU not taken goes on. -/
def Obligations.JumpsTransferTheContext : Prop :=
  (∀ (o : BitVec 20) (d : BitVec 7) (i : BitVec 14) (s : State),
    (runs (.jmp o) s → ∃ t, exec (.jmp o) s = .next t ∧ transfersTo (.jmp o) (relative s o.toInt) (fun _ _ => False) s t) ∧
    (runs (.call o) s → ∃ t, exec (.call o) s = .next t ∧
      readField t 124 0 = (pcOf s + 4).extractLsb' 0 32 ∧ readField t 125 0 = (pcOf s + 4).extractLsb' 32 32 ∧
      transfersTo (.call o) (relative s o.toInt) (fun r _ => r = 124 ∨ r = 125) s t) ∧
    (runs (.jmpuZ d i) s → ∃ t, exec (.jmpuZ d i) s = .next t ∧
      transfersTo (.jmpuZ d i) (if readField s d.toNat 0 = 0 then relative s i.toInt else nextPc s 4) (fun _ _ => False) s t) ∧
    (runs (.jmpuNz d i) s → ∃ t, exec (.jmpuNz d i) s = .next t ∧
      transfersTo (.jmpuNz d i) (if readField s d.toNat 0 = 0 then nextPc s 4 else relative s i.toInt) (fun _ _ => False) s t)) ∧
  (∀ (a : BitVec 7) (s : State), runs (.ret a) s →
    ((readPair s a.toNat 0).getLsbD 0 = false → ∃ t, exec (.ret a) s = .next t ∧
      transfersTo (.ret a) (readPair s a.toNat 0) (fun _ _ => False) s t) ∧
    ((readPair s a.toNat 0).getLsbD 0 = true → trapsWith (.ret a) { cause := 0x05, va := match s.cur with | .axp _ => pcOf s | _ => 0 } s))

/-- R95: the seven structured instructions give each lane that has not exited its new ICNT and choose the next PC. R96: an IFP or LOOP that would raise a lane's ICNT above 65,535 raises ILLEGAL_CONVERGENCE with auxiliary word 1 and changes nothing else. -/
def Obligations.StructuredControlChangesIcnt : Prop :=
  (∀ (p : BitVec 7) (i : BitVec 14) (n : BitVec 6) (s : State) (gid : Nat), s.cur = .group gid →
    let g := getGroup s gid
    let old := icntAt g
    let act := activeAt g
    let onP (l : Nat) : Bool := act l && (regsOf s).readP p.toNat l
    let next := g.pc + 4
    let ifp (l : Nat) : Nat := if act l then (if (regsOf s).readP p.toNat l then 0 else 1) else old l + 1
    let els (l : Nat) : Nat := if act l then 1 else if old l = 1 then 0 else old l
    let endl (l : Nat) : Nat := if act l then old l else if old l = 1 then 0 else old l
    icntCanon g →
    (canIssue (.ifp p i) s → (∀ l, l < 64 → doneAt g l = false → ifp l ≤ 65535) → ∃ t, exec (.ifp p i) s = .next t ∧
      (someActive g ifp → structuredTo gid ifp next s t) ∧ (¬someActive g ifp → structuredTo gid ifp (relative s i.toInt) s t)) ∧
    (canIssue (.elseOp i) s → ∃ t, exec (.elseOp i) s = .next t ∧
      (someActive g els → structuredTo gid els next s t) ∧ (¬someActive g els → structuredTo gid els (relative s i.toInt) s t)) ∧
    (canIssue .fi s → ∃ t, exec .fi s = .next t ∧ structuredTo gid (fun l => if act l then old l else old l - 1) next s t) ∧
    (canIssue (.loop i) s → (∀ l, l < 64 → doneAt g l = false → act l = false → old l + 2 ≤ 65535) → ∃ t, exec (.loop i) s = .next t ∧
      ((∃ l, l < 64 ∧ act l = true) → structuredTo gid (fun l => if act l then old l else old l + 2) next s t) ∧
      ((¬∃ l, l < 64 ∧ act l = true) → structuredTo gid old (relative s i.toInt) s t)) ∧
    (canIssue (.endl i) s → ∃ t, exec (.endl i) s = .next t ∧
      (someActive g endl → structuredTo gid endl (relative s i.toInt) s t) ∧
      (¬someActive g endl → structuredTo gid (fun l => if 2 ≤ endl l then endl l - 2 else endl l) next s t)) ∧
    (canIssue (.brkp p n) s → ∃ t, exec (.brkp p n) s = .next t ∧
      structuredTo gid (fun l => if onP l then n.toNat + 2 else old l) next s t) ∧
    (canIssue (.contp p n) s → ∃ t, exec (.contp p n) s = .next t ∧
      structuredTo gid (fun l => if onP l then n.toNat + 1 else old l) next s t)) ∧
  (∀ (p : BitVec 7) (i : BitVec 14) (s : State) (gid : Nat), s.cur = .group gid → icntCanon (getGroup s gid) →
    (canIssue (.ifp p i) s → (∃ l, l < 64 ∧ doneAt (getGroup s gid) l = false ∧ activeAt (getGroup s gid) l = false ∧
        65535 < icntAt (getGroup s gid) l + 1) → trapsWith (.ifp p i) { cause := 0x02, aux := 1 } s) ∧
    (canIssue (.loop i) s → (∃ l, l < 64 ∧ activeAt (getGroup s gid) l = true) →
      (∃ l, l < 64 ∧ doneAt (getGroup s gid) l = false ∧ activeAt (getGroup s gid) l = false ∧
        65535 < icntAt (getGroup s gid) l + 2) → trapsWith (.loop i) { cause := 0x02, aux := 1 } s))

/-- R104, R188: EXIT ends the region, sets DONE in every active lane and moves on; a group whose lanes are all done stops issuing; with no active lane only the PC changes; an access slice stops. That an EXIT without an active lane does not end the region is the model's choice (log 64). -/
def Obligations.ExitSetsDone : Prop :=
  ∀ (s : State) (gid : Nat), canIssue .exit s →
    (s.cur = .group gid →
      let g := getGroup s gid
      (activeMask g ≠ 0 → g.done ||| activeMask g ≠ allLanes → ∃ t, exec .exit s = .next t ∧ groupOnly gid s t ∧
        getGroup t gid = { groupDone g (g.pc + 4) with
          done := g.done ||| activeMask g, regv := false, q := (getGroup t gid).q, axp := (getGroup t gid).axp }) ∧
      (activeMask g = 0 → g.done ≠ allLanes → ∃ t, exec .exit s = .next t ∧ groupOnly gid s t ∧ getGroup t gid = groupDone g (g.pc + 4)) ∧
      (activeMask g ≠ 0 → g.done ||| activeMask g = allLanes → ∃ u, exec .exit s = .next (tryBarriers u (tagOf gid)) ∧ groupOnly gid s u ∧
        getGroup u gid = { groupDone g (g.pc + 4) with
          done := allLanes, run := .done, regv := false, q := (getGroup u gid).q, axp := (getGroup u gid).axp })) ∧
    (s.cur = .axp gid → ∃ t, exec .exit s = .next t ∧ groupOnly gid s t ∧
      getGroup t gid = { getGroup s gid with axp := some { getAxp s gid with running := false, pc := (getAxp s gid).pc + 4, mlimit := false, mwait := none } })

/-- R105, R21: NOP and, in a group and in an access slice, the 16-bit NOP move the PC on and change nothing else; YIELD moves the PC on, and on a core that runs a .det grid it gives the core up, and nothing else changes. R98: REGION sets REGPC to its own address, increments REGCNT modulo 2^16, sets REGV, and ends the region before it. -/
def Obligations.NopYieldAndRegion : Prop :=
  (∀ s : State,
    (runs .nop s → ∃ t, exec .nop s = .next t ∧ transfersTo .nop (nextPc s 4) (fun _ _ => False) s t) ∧
    (∀ gid, s.cur = .axp gid ∨ (s.cur = .group gid ∧ canIssue (.mov16 0 0) s) → regsRising (regsOf s) → ∃ t, exec (.mov16 0 0) s = .next t ∧
      transfersTo (.mov16 0 0) (pcOf s + 2) (fun _ _ => False) s t) ∧
    (∀ gid, s.cur = .group gid → canIssue .yield s → ∃ t, exec .yield s = .next t ∧
      t = { s with groups := t.groups, cores := t.cores } ∧
      getGroup t gid = groupDone (getGroup s gid) ((getGroup s gid).pc + 4) ∧
      (∀ g, g ≠ gid → tabFind t.groups g = tabFind s.groups g) ∧
      (∀ c, c ≠ coreOfGroup s gid → tabFind t.cores c = tabFind s.cores c) ∧
      getCore t (coreOfGroup s gid) = { getCore s (coreOfGroup s gid) with yielded := (coreGroups s (coreOfGroup s gid)).any (fun k => (gridOf s k).det) })) ∧
  (∀ (s : State) (gid : Nat), s.cur = .group gid → canIssue .region s →
    let g := getGroup s gid
    ∃ t, exec .region s = .next t ∧ groupOnly gid s t ∧
      getGroup t gid = { groupDone g (g.pc + 4) with
        regpc := g.pc, regcnt := g.regcnt + 1, regv := true, q := (getGroup t gid).q, axp := (getGroup t gid).axp } ∧
      (g.regv = false → (getGroup t gid).q = g.q ∧ (getGroup t gid).axp = g.axp))

/-- R110, R246, R249, R250: TRAP ends the region and takes USER_TRAP with its immediate; the group is TRAPPED at the TRAP instruction, its record names the active lanes, and its registers, the rest of its state and the other groups stay as they were. -/
def Obligations.TrapTakesUserTrap : Prop :=
  ∀ (i : BitVec 14) (s : State) (gid : Nat), s.cur = .group gid → canIssue (.trap i) s → recordWritable (endRegion s) gid →
    (getGroup s gid).recDue = none →
    let g := getGroup s gid
    ∃ t r, exec (.trap i) s = .next t ∧ (getGroup t gid).run = .trapped ∧ (getGroup t gid).pc = g.pc ∧
      (getGroup t gid).trap = some r ∧ (getGroup t gid).noticeDue = true ∧ (getGroup t gid).deferred = none ∧
      (getGroup t gid).regs = g.regs ∧ (getGroup t gid).fcsr = g.fcsr ∧ (getGroup t gid).mfr = g.mfr ∧ (getGroup t gid).icnt = g.icnt ∧ (getGroup t gid).done = g.done ∧
      getGroup t gid = { getGroup (endRegion s) gid with
        run := .trapped, trap := some r, deferred := none, recDue := none, noticeDue := true, wdog := 0, mlimit := false, mwait := none } ∧
      (∀ k, k ≠ gid → tabFind t.groups k = tabFind s.groups k) ∧ r.deferred = false ∧
      r.trap.cause = 0x15 ∧ r.trap.aux = i.setWidth 32 ∧ r.trap.lanes = none ∧ r.lmask = activeMask g ∧ r.pc = g.pc ∧
      r.regpc = g.regpc ∧ r.regcnt = g.regcnt ∧ r.rgv = false ∧ r.addr = BitVec.ofNat 64 (recordVa s gid)

/-! ## Special registers -/

/-- R109, R90: SRD places the register's value in D: per active lane in a V register, or once in an S register or pair; a register that is only written reads as 0. -/
def Obligations.SrdReadsSpecialRegister : Prop :=
  ∀ (d : BitVec 7) (n : BitVec 14) (s : State) (k : SrInfo), runs (.srd d n) s →
    srCheck s n.toNat d false = .ok k → readCheck s [] (k.kind.fields d) = .ok () → srWait s n.toNat = .ok () →
    ∃ t, exec (.srd d n) s = .next t ∧ pcOf t = nextPc s 4 ∧ (regsOf t).p = (regsOf s).p ∧
      (k.kind = .lane → (∀ l ∈ laneList s, readField t d.toNat l = srLane s n.toNat l) ∧ writesOnly (covers s d 1) s t) ∧
      (k.kind = .word → readField t d.toNat 0 = kept d.toNat (if k.acc = .wo then 0 else srWord s n.toNat) ∧ writesOnly (covers s d 1) s t) ∧
      (k.kind = .pair → readField t d.toNat 0 = (srPair s n.toNat).extractLsb' 0 32 ∧
        readField t (d.toNat + 1) 0 = kept (d.toNat + 1) ((srPair s n.toNat).extractLsb' 32 32) ∧ writesOnly (covers s d 2) s t) ∧
      contextOnly (.srd d n) false s t

/-- R90, R91, R86, R11: what the special registers of a group hold: lane number, FCSR, PRED with bit 7 set, ICNT with DONE, CYCLE in nanoseconds, the active mask, the timers, the region registers, MODID. -/
def Obligations.SpecialRegisterValues : Prop :=
  ∀ (s : State) (gid l : Nat), s.cur = .group gid → l < 64 →
    let g := getGroup s gid
    srLane s 0x001 l = BitVec.ofNat 32 l ∧ srLane s 0x010 l = fcsrOf s l ∧
    (∀ k, k < 7 → (srLane s 0x012 l).getLsbD k = (regsOf s).readP k l) ∧ (srLane s 0x012 l).toNat / 128 = 1 ∧
    (icntAt g l ≤ 65535 → (srLane s 0x013 l).toNat = icntAt g l + (if doneAt g l then 65536 else 0)) ∧
    srPair s 0x020 = BitVec.ofNat 64 (s.time / 2) ∧ srPair s 0x018 = activeMask g ∧
    srPair s 0x022 = g.gtime ∧ srPair s 0x024 = g.gtcmp ∧ srPair s 0x026 = g.wdl ∧ srPair s 0x028 = g.regpc ∧
    srWord s 0x011 = g.mfr ∧ (srWord s 0x02A).toNat = g.regcnt.toNat + (if g.regv then 65536 else 0) ∧
    srWord s 0x002 = BitVec.ofNat 32 (gid % 16) ∧ srWord s 0x00D = 0 ∧ (srWord s 0x000).toNat / 2 ^ 16 = 0x0101

/-- R109, R73, R78, R89, R93, R94: SWR writes FCSR and PRED in the active lanes, MFR, an ERM register, GTIME, GTCMP or WDL of the group, and leaves reserved bits 0. R231: writing GTIME of the team's group 0 moves the team's count against its time cap by as much. -/
def Obligations.SwrWritesGroupRegister : Prop :=
  ∀ (d : BitVec 7) (n : BitVec 14) (s : State) (gid : Nat) (k : SrInfo), s.cur = .group gid → runsFp (.swr d n) s →
    srCheck s n.toNat d true = .ok k → readCheck s (k.kind.fields d) [] = .ok () → srWait s n.toNat = .ok () →
    ∃ t, exec (.swr d n) s = .next t ∧ pcOf t = pcOf s + 4 ∧
      t = { s with groups := t.groups, teams := t.teams } ∧ (∀ g, g ≠ gid → tabFind t.groups g = tabFind s.groups g) ∧
      (n.toNat ≠ 0x022 ∨ gid % 16 ≠ 0 → t.teams = s.teams) ∧
      (n.toNat = 0x022 → gid % 16 = 0 → (∀ tag, tag ≠ gid / 16 → tabFind t.teams tag = tabFind s.teams tag) ∧
        (getTeam t (gid / 16)).capCount = (teamOf s gid).capCount + ((readPair s d.toNat 0).toNat : Int) - (getGroup s gid).gtime.toNat) ∧
      (∀ f l, l < 64 → f < 128 → readField t f l = readField s f l) ∧
      (let g := getGroup s gid
       let g' := getGroup t gid
       let w := readField s d.toNat 0
       let p := readPair s d.toNat 0
       g' = { groupDone g g'.pc with regs := g'.regs, fcsr := g'.fcsr, mfr := g'.mfr, gtime := g'.gtime, gtcmp := g'.gtcmp, wdl := g'.wdl } ∧
       (∀ l, l < 64 → fcsrOf t l = if n.toNat = 0x010 ∧ l ∈ laneList s then readField s d.toNat l &&& 0x3DF else fcsrOf s l) ∧
       (∀ l q, l < 64 → q < 7 → g'.regs.readP q l = if n.toNat = 0x012 ∧ l ∈ laneList s then (readField s d.toNat l).getLsbD q else g.regs.readP q l) ∧
       g'.mfr = (if n.toNat = 0x011 then w &&& 0x1F else g.mfr) ∧
       (∀ b, b < 127 → g'.regs.erm.getLsbD b = if n.toNat = 0x014 + b / 32 then w.getLsbD (b % 32) else g.regs.erm.getLsbD b) ∧
       g'.gtime = (if n.toNat = 0x022 then p else g.gtime) ∧ g'.gtcmp = (if n.toNat = 0x024 then p else g.gtcmp) ∧
       g'.wdl = (if n.toNat = 0x026 then p else g.wdl))

/-- R109, R435, R469: SWR in a queue context hands the S register or pair to the register that its number names and moves on. R388, R435, R469: a queue or platform register reads back what was written, with its reserved bits 0 and its fields within their limits; CHRCTL and PASSGH read 0, RESTART clears the halt of the ring that it names, and PASSGH passes a group on. -/
def Obligations.SwrWritesQueueRegister : Prop :=
  (∀ (d : BitVec 7) (n : BitVec 14) (s : State) (qid : Nat) (k : SrInfo), s.cur = .queue qid → canIssue (.swr d n) s →
    srCheck s n.toNat d true = .ok k → readCheck s (k.kind.fields d) [] = .ok () →
    exec (.swr d n) s = .next (advance 4 (if k.kind = .pair then setSrPair s n.toNat (readPair s d.toNat 0) else setSrWord s n.toNat (readField s d.toNat 0)))) ∧
  (∀ (s : State) (qid : Nat) (w : Word) (v : DWord), s.cur = .queue qid →
    (∀ p ∈ [(0x100, 0x3FFFFFFFFFFFFFFF#64), (0x102, 0x01FFFFFFFFFFE1FF#64), (0x104, BitVec.allOnes 64), (0x106, BitVec.allOnes 64),
        (0x110, 0xFFFFFFFFFFFFF000#64), (0x118, BitVec.allOnes 64), (0x248, 0xFFFFFFFFFFFFF00F#64)],
      srPair (setSrPair s p.1 v) p.1 = v &&& p.2) ∧
    (∀ p ∈ [(0x108, 0x33FF#32), (0x200, 0x1F#32), (0x212, BitVec.allOnes 32), (0x240, BitVec.allOnes 32), (0x211, BitVec.allOnes 32)],
      srWord (setSrWord s p.1 w) p.1 = w &&& p.2) ∧
    (∀ p ∈ [(0x206, 8, 0, 4), (0x210, 16, 1, 15), (0x241, 2 ^ 32, 1, 600), (0x242, 2 ^ 32, 1, 1000000), (0x243, 2 ^ 32, 1, 10000), (0x244, 2 ^ 32, 600, 2400)],
      (srWord (setSrWord s p.1 w) p.1).toNat = max p.2.2.1 (min p.2.2.2 (w.toNat % p.2.1))) ∧
    (srPair (setSrPair s 0x202 v) 0x202).toNat = min 18 (v.toNat / 2 ^ 57 % 32) * 2 ^ 57 + v.toNat / 4096 % 2 ^ 45 * 4096 ∧
    (srPair (setSrPair s 0x204 v) 0x204).toNat = v.toNat / 8192 % 2 ^ 44 * 8192 + min 256 (v.toNat % 512) ∧
    (srWord (setSrWord s 0x214 w) 0x214).toNat = min 65536 (w.toNat % 131072) ∧
    (∀ k, k < 8 → srWord (setSrWord s (0x208 + k) w) (0x208 + k) = w &&& 0x01FF01FF ∧ srWord (setSrWord s (0x218 + k) w) (0x218 + k) = w &&& 0xFFFF) ∧
    (∀ k, k < 32 → (srWord (setSrWord s (0x220 + k) w) (0x220 + k)).toNat = max 1 (w.toNat / 256 % 256) * 256 + w.toNat % 16) ∧
    (∀ k, k < 192 → (srWord (setSrWord s (0x300 + k) w) (0x300 + k)).toNat = max 1 (w.toNat / 256 % 256) * 256 + w.toNat % 256) ∧
    srWord (setSrWord s 0x11C w) 0x11C = w &&& 0x80000F3F ∧ srWord s 0x114 = 0 ∧ srWord s 0x11A = 0 ∧
    setSrWord s 0x11A w = passGh s (regVf s) w ∧
    setSrWord s 0x114 w = (if w.getLsbD 8 = true then restartRing s (regVf s) (w.toNat % 64) else s) ∧
    (∀ pkg, pkg < Config.packages → (getRing (restartRing s (regVf s) pkg) pkg (regVf s)).halted = false))

/-- R109, R90, R435: the checks of SRD and SWR in their order: an unassigned number, a register field of the wrong kind or a write of a read-only register is ILLEGAL_INSTRUCTION, then a level that is too low is PRIVILEGE. -/
def Obligations.SpecialRegisterTraps : Prop :=
  ∀ (d : BitVec 7) (n : BitVec 14) (s : State),
    (canIssue (.srd d n) s →
      (srInfo n.toNat = none → trapsWith (.srd d n) { cause := 0x01 } s) ∧
      (∀ k, srInfo n.toNat = some k → srReach s n.toNat = false ∨ k.kind.fits d = false → trapsWith (.srd d n) { cause := 0x01 } s) ∧
      (∀ k, srInfo n.toNat = some k → srReach s n.toNat = true → k.kind.fits d = true → levelOf s < k.pl → trapsWith (.srd d n) { cause := 0x03 } s)) ∧
    (canIssue (.swr d n) s →
      (srInfo n.toNat = none → trapsWith (.swr d n) { cause := 0x01 } s) ∧
      (∀ k, srInfo n.toNat = some k → srReach s n.toNat = false ∨ k.kind.fits d = false → trapsWith (.swr d n) { cause := 0x01 } s) ∧
      (∀ k, srInfo n.toNat = some k → k.acc = .ro → trapsWith (.swr d n) { cause := 0x01 } s) ∧
      (∀ k, srInfo n.toNat = some k → srReach s n.toNat = true → k.kind.fits d = true → k.acc ≠ .ro → levelOf s < k.pl →
        trapsWith (.swr d n) { cause := 0x03 } s))

/-! ## Barriers and return from traps -/

/-- R232-R236, R238: writing a barrier object and reading it gives the object, in scratchpad and cluster memory. -/
def Obligations.BarrierObjectReadsBack : Prop :=
  ∀ (s : State) (b : Bar) (off : Nat), b.rsv = false → -(2 ^ 31) ≤ b.pbytes → b.pbytes < 2 ^ 31 →
    (∀ tag t, tabFind s.teams tag = some t → tabRising t.spad = true →
      readBar (writeBar (locWrites s none ((objLocs (.spad tag off)).map (fun l => (l, 0)))) (.spad tag off) b) (.spad tag off) = b) ∧
    (∀ c, tabRising (getCluster s c).mem = true →
      readBar (writeBar (locWrites s none ((objLocs (.clu c off)).map (fun l => (l, 0)))) (.clu c off) b) (.clu c off) = b)

/-- R238-R241, R234, R235: the barrier instructions on a resolved, initialised object: BARINIT writes a fresh object, BARARR returns the phase and takes one arrival, BARTX adds its bytes, BARWAIT blocks on the current phase and otherwise returns the status. Each raises BAR_RANGE of an object that is not initialised or has a reserved bit set (2), that is broken (3), or, BARARR, that expects no arrival (1). R234: a phase of an initialised, unbroken object with no pending arrival and no pending bytes completes: the phase advances modulo 2^16 and the arrivals are expected anew; otherwise the object is written as it stands. R235: bytes are added, whether by BARTX or by an engine, while the sum stays in 32 bits, and break the object otherwise. -/
def Obligations.BarrierInstructionsAct : Prop :=
  (∀ (d a t : BitVec 7) (s : State) (gid : Nat) (obj : Loc), s.cur = .group gid → barObject s a = .ok obj → barGate s obj = .ok () →
    let r := readBar s obj
    let n := (readField s d.toNat 0).toNat
    let fin (u : State) : State := finish (uses (.barinit d a)) 4 u
    (canIssue (.barinit d a) s → 1 ≤ n → n ≤ 65535 →
      exec (.barinit d a) s = .next (fin (recheckWaits (writeBar (locWrites s none ((objLocs obj).map (fun l => (l, 0)))) obj
        { phase := 0, expect := BitVec.ofNat 16 n, parr := BitVec.ofNat 16 n, pbytes := 0, v := true, br := false, rsv := false }) obj))) ∧
    (canIssue (.barinit d a) s → n = 0 ∨ 65535 < n → trapsWith (.barinit d a) { cause := 0x01, aux := 1 } s) ∧
    (∀ i ∈ [Instr.bararr d a, .bartx d a, .barwait d a t], canIssue i s → (i = .bararr d a → releaseDone s gid (objScope obj) = true) →
      (r.v = false ∨ r.rsv = true → trapsWith i { cause := 0x12, aux := 2 } s) ∧
      (r.v = true → r.rsv = false → r.br = true → trapsWith i { cause := 0x12, aux := 3 } s)) ∧
    (canIssue (.bararr d a) s → releaseDone s gid (objScope obj) = true → r.v = true → r.rsv = false → r.br = false → r.parr = 0 →
      trapsWith (.bararr d a) { cause := 0x12, aux := 1 } s) ∧
    (canIssue (.bararr d a) s → releaseDone s gid (objScope obj) = true → r.v = true → r.rsv = false → r.br = false → r.parr ≠ 0 →
      exec (.bararr d a) s = .next (finish (uses (.bararr d a)) 4
        (completePhase (writeField (endRegion s) d.toNat 0 (r.phase.setWidth 32)) obj { r with parr := r.parr - 1 }))) ∧
    (canIssue (.bartx d a) s → r.v = true → r.rsv = false → r.br = false →
      let sum := r.pbytes + (readField s d.toNat 0).toInt
      (-(2 ^ 31) ≤ sum → sum < 2 ^ 31 → exec (.bartx d a) s = .next (fin (completePhase s obj { r with pbytes := sum }))) ∧
      (sum < -(2 ^ 31) ∨ 2 ^ 31 ≤ sum →
        exec (.bartx d a) s = .next (takeTrap { cause := 0x12 } (recheckWaits (writeBar s obj { r with br := true }) obj)))) ∧
    (canIssue (.barwait d a t) s → loadsOpen s (objScope obj) = false → r.v = true → r.rsv = false → r.br = false → (getGroup s gid).deferred = none →
      (r.phase = (readField s t.toNat 0).setWidth 16 → ∃ u w e, exec (.barwait d a t) s = .next u ∧ groupOnly gid s u ∧
        getGroup u gid = { getGroup s gid with run := .blocked (.barwait obj w d.toNat e) } ∧ BitVec.ofNat 16 w = r.phase) ∧
      (r.phase ≠ (readField s t.toNat 0).setWidth 16 → exec (.barwait d a t) s = .next (finish (uses (.barwait d a t)) 4
        (barAcquire (writeField s d.toNat 0 (waitStatus r.phase ((readField s t.toNat 0).toNat % 65536))) obj))))) ∧
  (∀ (s : State) (obj : Loc) (b : Bar),
    (b.v = true → b.br = false → b.parr = 0 → b.pbytes = 0 →
      completePhase s obj b = recheckWaits (writeBar s obj { b with phase := b.phase + 1, parr := b.expect }) obj) ∧
    (b.v = false ∨ b.br = true ∨ b.parr ≠ 0 ∨ b.pbytes ≠ 0 → completePhase s obj b = writeBar s obj b)) ∧
  (∀ (s : State) (obj : Loc) (n : Int),
    let b := readBar s obj
    (-(2 ^ 31) ≤ b.pbytes + n → b.pbytes + n < 2 ^ 31 → addBytes s obj n = (completePhase s obj { b with pbytes := b.pbytes + n }, true)) ∧
    (b.pbytes + n < -(2 ^ 31) ∨ 2 ^ 31 ≤ b.pbytes + n → addBytes s obj n = (recheckWaits (writeBar s obj { b with br := true }) obj, false)))

/-- R107, R242, R243: a group whose tokens are full and whose stores have performed arrives at TBAR, GBAR or STEP: its region ends, it blocks there, and a barrier whose last arrival it is releases its groups. R242: a team barrier at which a group is still missing releases nobody, and one at which all have arrived sends every blocked group of the team on to its next instruction. -/
def Obligations.TeamAndGridBarriers : Prop :=
  (∀ (s : State) (gid : Nat), s.cur = .group gid → tokensFull s gid = true →
    let arrive (b : Block) : State := modGroup (endRegion s) gid (fun g => { g with run := .blocked b, wdog := 0 })
    (canIssue .tbar s → releaseDone s gid .core = true →
      exec .tbar s = .next (tryBarriers (arrive .tbar) (tagOf gid))) ∧
    (canIssue .gbar s → (gridOf s gid).gang = true → (getGroup s gid).failed = [] → sqOf s gid = [] → releaseDone s gid (gbarScope (gridOf s gid)) = true →
      exec .gbar s = .next (tryBarriers (arrive .gbar) (tagOf gid))) ∧
    (canIssue .gbar s → (gridOf s gid).gang = false → trapsWith .gbar { cause := 0x01 } s) ∧
    (canIssue .step s → releaseDone s gid .fab = true → (getGroup s gid).failed = [] →
      exec .step s = .next (tryBarriers (arrive .step) (tagOf gid)))) ∧
  (∀ (s : State) (tag : Nat), isSaving (getTeam s tag) = false →
    ((∃ g ∈ teamGids s tag, isAt (getGroup s g) .tbar = false) → tryTbar s tag = s) ∧
    ((∀ g ∈ teamGids s tag, isAt (getGroup s g) .tbar = true) → tabRising s.groups = true →
      ∀ g ∈ teamGids s tag, (getGroup s g).run = .blocked .tbar →
        getGroup (tryTbar s tag) g = groupDone (getGroup s g) ((getGroup s g).pc + 4)))

/-- R252, R253: ERET of a TRAPPED group by its handle: .resume goes to the trapping instruction, or past a TRAP; .region replays after REGION when REGV is 1; .abort ends the group; each answers 0 in D, once the group's notice has gone out and its core sees what the handler stored. The group that resumes has no trap, no region and, after a lane-masked fault, only the lanes of that fault; a group that a whole-group trap stopped before it kept that confinement (log 65), and which queue entries it takes again is log 25. .resume and .skip answer 3 for a deferred trap, and .skip 4 where the trapping instruction cannot be fetched. A handle that names no trapped group answers 1 and changes nothing else. R253, R434, R18: ERET.self leaves the handler: the queue context is no longer trapped, goes on at TRPC, and its level is the one in TRINFO, never above its own; an odd TRPC is an ALIGN trap. That ERET.self never raises the level above the context's own is the model's choice (log 40). -/
def Obligations.ReturnFromTraps : Prop :=
  (∀ (d a : BitVec 7) (s : State),
    let us := uses (.eretResume d a)
    let fin (u : State) (w : Word) : State := finish us 4 (writeField u d.toNat 0 w)
    (eretTarget s (readField s a.toNat 0) = none →
      ∀ i ∈ [Instr.eretResume d a, .eretSkip d a, .eretRegion d a, .eretAbort d a], canIssue i s → exec i s = .next (fin s 1)) ∧
    (∀ gid r, eretTarget s (readField s a.toNat 0) = some (gid, r) →
      let u := handlerSeen (deliverNotice s gid) gid
      (canIssue (.eretResume d a) s → r.deferred = false →
        exec (.eretResume d a) s = .next (fin (modGroup u gid (fun g =>
          resumeAgain g (if r.trap.cause = 0x15 then r.pc + 4 else r.pc) (if r.trap.lanes.isSome then some g.parked else g.only))) 0)) ∧
      (canIssue (.eretResume d a) s → r.deferred = true → exec (.eretResume d a) s = .next (fin s 3)) ∧
      (canIssue (.eretRegion d a) s → (getGroup u gid).regv = true →
        exec (.eretRegion d a) s = .next (fin (modGroup u gid (fun g =>
          { resumeGroup g (g.regpc + 4) with q := g.q.map (fun p => (p.1, { p.2 with consumed := 0, again := none })), regv := true })) 0)) ∧
      (canIssue (.eretRegion d a) s → (getGroup u gid).regv = false → exec (.eretRegion d a) s = .next (fin s 2)) ∧
      (canIssue (.eretAbort d a) s →
        exec (.eretAbort d a) s = .next (fin (tryBarriers (modGroup u gid endGroup) (tagOf gid)) 0)) ∧
      (canIssue (.eretSkip d a) s → r.deferred = true → exec (.eretSkip d a) s = .next (fin s 3)) ∧
      (∀ x, canIssue (.eretSkip d a) s → r.deferred = false → fetchHalfword { u with cur := .group gid } r.pc.toNat = .error (.trap x) →
        exec (.eretSkip d a) s = .next (fin s 4)) ∧
      (∀ h v, canIssue (.eretSkip d a) s → r.deferred = false → fetchHalfword { u with cur := .group gid } r.pc.toNat = .ok (h, v) →
        exec (.eretSkip d a) s = .next (fin (modGroup { v with cur := u.cur } gid
          (fun g => endRegionG (resumeGroup g (r.pc + (if h.getLsbD 0 then 4 else 2))))) 0)))) ∧
  (∀ (g : Group) (pc : DWord) (o : Option Mask), let h := resumeAgain g pc o
    h.pc = pc ∧ h.run = .eligible ∧ h.trap = none ∧ h.deferred = none ∧ h.parked = 0 ∧ h.only = o ∧ h.regv = false ∧ h.regs = g.regs) ∧
  (∀ (s : State) (qid : Nat), s.cur = .queue qid → canIssue .eretSelf s →
    let q := getQueue s qid
    (q.trpc.getLsbD 0 = true → trapsWith .eretSelf { cause := 0x05 } s) ∧
    (q.trpc.getLsbD 0 = false → ∃ t, exec .eretSelf s = .next t ∧ t = { s with queues := t.queues } ∧
      (∀ k, k ≠ qid → tabFind t.queues k = tabFind s.queues k) ∧
      pcOf t = q.trpc ∧ (getQueue t qid).trapped = false ∧ (getQueue t qid).state = .running ∧
      (getQueue t qid).level = min (q.trinfo.toNat / 4096 % 4) q.level ∧ (getQueue t qid).regs = q.regs))

/-! ## Memory -/

/-- What a weak or strong load asks: bytes, offset, sign extension, strength, acquire scope (R168, R170). -/
structure Sys2Proof.Claim.LoadForm where
  i : Instr
  n : Nat
  off : Int
  signed : Bool := false
  strong : Bool := false
  acq : Option Scope := none

/-- The loads of chapter 05: the weak ones scale their offset by the width; a strong one has none, and orders as an acquire only with .acq. -/
def Sys2Proof.Claim.loadForms (d b o : BitVec 7) (z : BitVec 3) (sc od : BitVec 2) : List Claim.LoadForm :=
  [{ i := .ldB8 d b o, n := 1, off := o.toInt }, { i := .ldB8S d b o, n := 1, off := o.toInt, signed := true },
   { i := .ldB16 d b o, n := 2, off := o.toInt * 2 }, { i := .ldB16S d b o, n := 2, off := o.toInt * 2, signed := true },
   { i := .ldB32 d b o, n := 4, off := o.toInt * 4 }, { i := .ldB64 d b o, n := 8, off := o.toInt * 8 },
   { i := .ldB128 d b o, n := 16, off := o.toInt * 16 },
   { i := .ldStrong d b z sc od, n := sizeBytes z, off := 0, signed := decide (z = 1) || decide (z = 3), strong := true,
     acq := if od = 2 then some (scopeOf sc) else none }]

/-- R168, R170: a load whose lanes all resolve issues: it takes its bytes at base + offset and the group goes on, with the result written or pending. -/
def Obligations.LoadsIssue : Prop :=
  ∀ (d b o : BitVec 7) (z : BitVec 3) (sc od : BitVec 2) (s u v : State) (es : List Elem),
    ∀ f ∈ loadForms d b o z sc od, canIssue f.i s → accessGate s = .ok () →
      elements s { n := f.n, k := .read, align := f.n, weak := !f.strong } (isS d) (fun l => (readPair s b.toNat l + BitVec.ofInt 64 f.off).toNat) = .ok ((es, []), u) →
      (∀ gid, u.cur = .group gid → (getGroup u gid).failed = []) →
      issueLoad u d.toNat f.n f.signed f.strong (f.acq.map (narrowScope es)) (isS d) es = .ok v →
      exec f.i s = .next (finish (uses f.i) 4 v)

/-- R88, R164, R168: what an issued load of a core does: when the store queue, the L1 or the scratchpad serves every byte its words are in the destination at once; else one access pends whose destination is empty. -/
def Obligations.LoadWritesOrPends : Prop :=
  ∀ (s : State) (core dst n : Nat) (signed strong uniform : Bool) (l : Nat) (locs : List Loc), coreOf s = some core →
    n ∈ [1, 2, 4, 8] → locs.length = n → l < 64 → dst + n / 4 < 88 → regsRising (regsOf s) →
    (∀ m ∈ locs, ∀ tag off, m = .spad tag off → claimed s m = false) →
    queueHas s (fun q => q.isRed && locs.any (fun m => q.locs.contains m)) = false →
    let src := locs.map (loadSrc s core strong)
    let e : Elem := { lane := l, ea := 0, locs := locs, pages := [] }
    (src.all Src.known = true → uniform = false →
      ∃ v, issueLoad s dst n signed strong none uniform [e] = .ok v ∧
        ∀ k, k < max 1 (n / 4) → readField v (dst + k) l = (loadWords signed (srcBytes src)).getD k 0) ∧
    (src.all Src.known = false →
      ∃ v p, issueLoad s dst n signed strong none uniform [e] = .ok v ∧ v.pending = s.pending ++ [p] ∧
        p.agent = s.cur ∧ p.dst = dst ∧ p.width = n ∧ p.parts.map (·.src) = [src] ∧ v.mem = s.mem ∧
        ∀ k, k < max 1 (n / 4) → isEmptyField v (dst + k) = true)

/-- What a store puts into the store queue of a group (R163, R168, R170, R174, R175, R333). -/
structure Sys2Proof.Claim.StoreForm where
  i : Instr
  n : Nat
  off : Int
  kind : StoreKind := .plain
  strong : Bool := false
  rel : Option Scope := none

def Sys2Proof.Claim.storeForms (d b o : BitVec 7) (z : BitVec 3) (sc od : BitVec 2) : List Claim.StoreForm :=
  [{ i := .stB8 d b o, n := 1, off := o.toInt }, { i := .stB16 d b o, n := 2, off := o.toInt * 2 },
   { i := .stB32 d b o, n := 4, off := o.toInt * 4 }, { i := .stB64 d b o, n := 8, off := o.toInt * 8 },
   { i := .stB128 d b o, n := 16, off := o.toInt * 16 },
   { i := .stStrong d b z sc od, n := sizeBytes z, off := 0, strong := true, rel := if od = 3 then some (scopeOf sc) else none }]

/-- R163, R168: a store of a group whose lanes all resolve enters the group's store queue, one part for each lane with its bytes at base + offset; memory does not change yet. -/
def Obligations.StoresEnterStoreQueue : Prop :=
  ∀ (d b o : BitVec 7) (z : BitVec 3) (sc od : BitVec 2) (s u : State) (gid : Nat) (e : Elem) (es : List Elem), s.cur = .group gid →
    s.badLines = [] → s.badLow = [] → s.struck = [] → (getGroup s gid).failed = [] → (getGroup s gid).sq.length < 32 →
    ∀ f ∈ storeForms d b o z sc od, canIssue f.i s → storeGate s = .ok () →
      elements s { n := f.n, k := .write, align := f.n, skip := storeSkip [] } (isS d) (fun l => (readPair s b.toNat l + BitVec.ofInt 64 f.off).toNat) = .ok ((e :: es, []), u) →
      u.groups = s.groups → u.cur = s.cur → u.grids = s.grids →
      ∃ t x, exec f.i s = .next t ∧ t.mem = u.mem ∧ (getGroup t gid).sq = (getGroup s gid).sq ++ [x] ∧ (getGroup t gid).pc = (getGroup s gid).pc + 4 ∧
        (getGroup t gid).regs = (getGroup s gid).regs ∧
        x.kind = f.kind ∧ x.strong = f.strong ∧ x.rel = f.rel.map (narrowScope (e :: es)) ∧ x.gid = gid ∧
        x.parts = storeParts (activeMask (getGroup s gid)) (isS d) f.strong (e :: es) (valueBytes s d f.n)

/-- R8, R309: a write at a home changes exactly its bytes of memory, and reading any byte gives what was written there or what was there before, also by way of the L2 when no core holds a partial; where a QWAIT of the line would subtract as it completes (R447), that is a write of its own, of which this says nothing. That a byte nothing has written reads 0 is the model's choice (log 1). -/
def Obligations.HomeWriteChangesItsBytes : Prop :=
  ∀ (s : State) (by' : Option Nat) (pa : Nat) (bs : List Byte) (a : Nat), Memory.wf s.mem = true → (∀ p ∈ waitersAt s (lineOf pa), p.2.dec = false) →
    memRead (homeWriteRaw s by' pa bs).mem a = (if pa ≤ a ∧ a < pa + bs.length then bs.getD (a - pa) 0 else memRead s.mem a) ∧
    Memory.wf (homeWriteRaw s by' pa bs).mem = true ∧
    ((∀ c ∈ s.cores, c.2.u = []) → (homeWrite s by' pa bs).mem = (homeWriteRaw s by' pa bs).mem)

/-- R331, R332, R334: ATOM and CAS whose lanes all resolve, of a group with an empty store queue or of a context that has none, end the region, and one access pends with each lane's address, operand and replacement; the destination is empty until it returns. -/
def Obligations.AtomicsPend : Prop :=
  ∀ (d a b : BitVec 7) (o : BitVec 2) (w : BitVec 1) (c : BitVec 4) (s u : State) (e : Elem) (es : List Elem),
    queueHas s (fun _ => true) = false → accessGate s = .ok () → (∀ g, (getGroup u g).failed = []) →
    let ls := e :: es
    let core := (coreOf s).getD noCore
    let ea (l : Nat) : Nat := (readPair s a.toNat l).toNat
    let part (n : Nat) (swap : Nat → DWord) (x : Elem) : AccPart :=
      { lane := if isS d then none else some x.lane, src := x.locs.map .at, operand := valueOf s d n x.lane, swap := swap x.lane }
    let sc := some (atomScope s ls)
    (canIssue (.atom d a o w c) s → elements (endRegion s) { n := wideOf w, k := .write, align := wideOf w, det := true } (isS d) (eaOf s a 0) = .ok ((ls, []), u) →
      exec (.atom d a o w c) s = .next (finish (uses (.atom d a o w c)) 4
        (addPending u (.atom c.toNat) core d.toNat (wideOf w) (ls.map (part (wideOf w) (fun _ => 0))) true
          (if o = 1 ∨ o = 3 then sc else none) (if o = 2 ∨ o = 3 then sc else none) (ls.flatMap (·.pages))))) ∧
    (canIssue (.cas d a b) s → elements (endRegion s) { n := 8, k := .write, align := 8, det := true } (isS d) (eaOf s a 0) = .ok ((ls, []), u) →
      exec (.cas d a b) s = .next (finish (uses (.cas d a b)) 4
        (addPending u .cas core d.toNat 8 (ls.map (part 8 (readPair s b.toNat))) true sc sc (ls.flatMap (·.pages))))) ∧
    (∀ l, ea l = eaOf s a 0 l)

/-- R331: the operations at memory but .fadd32, in the order of their codes. -/
def Sys2Proof.Claim.memoryOps {w : Nat} (old d : BitVec w) : List (BitVec w) :=
  [BitVec.ofNat w (old.toNat + d.toNat), old &&& d, old ||| d, old ^^^ d, if old.toInt ≤ d.toInt then old else d, if old.toInt ≤ d.toInt then d else old,
   if old.toNat ≤ d.toNat then old else d, if old.toNat ≤ d.toNat then d else old, d]

/-- n bytes from a place on, of a scratchpad, of cluster memory or, aligned, of global memory, and the state u in which an atomic of a core performs on them: at a home, once its U copies are recalled (R331). -/
def Sys2Proof.Claim.atomPlace (s u : State) (core n : Nat) (place : Nat → Loc) : Prop :=
  (∃ tag off t, tabFind s.teams tag = some t ∧ tabRising t.spad = true ∧ u = s ∧ ∀ i, place i = .spad tag (off + i)) ∨
  (∃ c off, tabRising (getCluster s c).mem = true ∧ u = s ∧ ∀ i, place i = .clu c (off + i)) ∨
  (∃ pa, pa % n = 0 ∧ u = serveLine (dropLine s core (lineOf pa)) (lineOf pa) ∧ Memory.wf u.mem = true ∧
    (∀ q ∈ waitersAt u (lineOf pa), q.2.dec = false) ∧ ∀ i, place i = .glob (pa + i))

/-- R330-R332: an atomic performs in one step, in a scratchpad, in cluster memory or at a home: it keeps the old bytes for its result and leaves the operation's result on 32 or 64 bits, or for CAS the replacement if the comparison holds, in memory. The operations are R331's. -/
def Obligations.AtomicIsIndivisible : Prop :=
  (∀ (s u : State) (p : Pending) (x : AccPart) (n : Nat) (place : Nat → Loc), n = 4 ∨ n = 8 → Claim.atomPlace s u p.core n place →
    x.src = (List.range n).map (fun i => .at (place i)) →
    let read (t : State) : List Byte := (List.range n).map (fun i => locRead t (place i))
    let old := leNat (read u)
    let r := sampleAtomic s p x
    (∀ op, p.kind = .atom op → r.1.src = (read u).map .byte ∧ r.1.done = true ∧
      read r.2 = if n = 4 then leBytes 4 (memOp op (BitVec.ofNat 32 old) (x.operand.setWidth 32)).toNat else leBytes 8 (memOp op (BitVec.ofNat 64 old) x.operand).toNat) ∧
    (p.kind = .cas → n = 8 → r.1.src = (read u).map .byte ∧ r.1.done = true ∧
      read r.2 = if old = x.operand.toNat then leBytes 8 x.swap.toNat else read u)) ∧
  (∀ (op : Nat) (x y : Word) (v w : DWord),
    (op < 9 → (Claim.memoryOps x y)[op]? = some (memOp op x y) ∧ (Claim.memoryOps v w)[op]? = some (memOp op v w)) ∧
    memOp 9 x y = BitVec.ofNat 32 (roundF32 (exactSum [fp32.decode x.toNat, fp32.decode y.toNat]).1))

/-- R173-R177, R333: the tagged words, REDs and space queries of a group whose lanes all resolve: RED, FESET and, outside .det grids, STFE enter the store queue; LDFE and STFE of a .det grid take the steps of the lanes that are left, and go on when all are done; FETEST, SPTEST and SPCAST answer at once. -/
def Obligations.TaggedWordsAndSpaceQueries : Prop :=
  ∀ (d b o : BitVec 7) (f w : BitVec 1) (od g : BitVec 2) (c : BitVec 4) (q : BitVec 1) (s u v : State) (gid : Nat) (es : List Elem), s.cur = .group gid →
    let r := endRegion s
    let fe (k : Acc) : Want := { n := 4, k := k, align := 4, perm := spadOnly }
    let at' := eaOf s b (o.toInt * 4)
    let left := (accessLanes r (isS d)).filter (fun l => !(getGroup r gid).feDone.getLsbD l)
    (canIssue (.red d b od w c) s → storeGate s = .ok () → (od = 2 → ∀ g, (getGroup u g).failed = []) →
      elements r { n := wideOf w, k := .write, align := wideOf w, det := true, skip := fun x _ => decide (x = 0x07) } (isS d) (eaOf s b 0) = .ok ((es, []), u) →
      issueStore u (.red c.toNat (wideOf w)) false (if od = 2 then some (atomScope s es) else none) (isS d) es (valueBytes s d (wideOf w)) = .ok v →
      exec (.red d b od w c) s = .next (finish (uses (.red d b od w c)) 4 v)) ∧
    (canIssue (.feset b f) s → storeGate s = .ok () → elements s (fe .write) (isS b) (eaOf s b 0) = .ok ((es, []), u) →
      issueStore u (.feset (f = 1)) false none (isS b) es (fun _ => [0, 0, 0, 0]) = .ok v →
      exec (.feset b f) s = .next (finish (uses (.feset b f)) 4 v)) ∧
    (canIssue (.stfe d b o) s → storeGate s = .ok () → gridIsDet s = false → elements r (fe .write) (isS d) at' = .ok ((es, []), u) →
      issueStore u .stfe false (some .core) (isS d) es (valueBytes s d 4) = .ok v →
      exec (.stfe d b o) s = .next (finish (uses (.stfe d b o)) 4 v)) ∧
    (canIssue (.stfe d b o) s → accessGate s = .ok () → gridIsDet s = true → elementsIn r (fe .write) (isS d) left (eaOf r b (o.toInt * 4)) = .ok ((es, []), u) →
      sqOf r gid = [] → pendingOf r (.group gid) r.seq = [] →
      exec (.stfe d b o) s = .next (let x := feSteps gid true d (valueBytes r d 4) es u
        if x.2 then finish (uses (.stfe d b o)) 4 (modGroup x.1 gid (fun g => { g with feDone := 0 }))
        else modGroup x.1 gid (fun g => { g with run := .waiting (.tag false) }))) ∧
    (canIssue (.ldfe d b o) s → accessGate s = .ok () → elementsIn r (fe .read) (isS d) left (eaOf r b (o.toInt * 4)) = .ok ((es, []), u) → sqOf r gid = [] →
      exec (.ldfe d b o) s = .next (let x := feSteps gid false d (valueBytes r d 4) es u
        if x.2 then finish (uses (.ldfe d b o)) 4 (modGroup x.1 gid (fun g => { g with feDone := 0 }))
        else modGroup x.1 gid (fun g => { g with run := .waiting (.tag true) }))) ∧
    (canIssue (.fetest d b) s → accessGate s = .ok () → elements s (fe .read) false (eaOf s b 0) = .ok ((es, []), u) →
      exec (.fetest d b) s = .next (finish (uses (.fetest d b)) 4 (es.foldl (fun t e => match wordOf e with
        | some (tag, off) => putPreds t d.toNat [e.lane] (fun _ => tagSeen s tag off)
        | none => t) u))) ∧
    (runs (.sptest d b) s → wordResult (.sptest d b) d (fun l =>
      let ea := (readPair s b.toNat l).toNat
      if ea < 2 ^ 57 then 0 else if ea / 2 ^ 56 = 0xFE then 1
      else if ea / 2 ^ 56 = 0xFD then (if ea / 2 ^ 19 % 2 ^ 21 = 0 then 2 else 4)
      else if ea / 2 ^ 56 = 0xFC then (if ea / 2 ^ 44 % 2 ^ 12 = 0 ∧ ea / 2 ^ 22 % 2 ^ 18 = 0 ∧ ea / 2 ^ 40 % 16 < 12 then 3 else 4)
      else 4) s) ∧
    (runs (.spcast d b g q) s →
      let cast (l : Nat) : Except Stop Nat :=
        if q = 1 then castRel s g.toNat l (readPair s b.toNat l).toNat else castGen s g.toNat (readPair s b.toNat l).toNat
      (∀ l ∈ opLanes s d, ∃ x, cast l = .ok x) →
      pairResult (.spcast d b g q) d (fun l => match cast l with | .ok x => BitVec.ofNat 64 x | .error _ => 0) s)

/-- R178, R179, R335: PREF brings in the lines of its lanes and never faults; the CCTL forms act on the lines of their lanes, CCTL.inv1all on every line of the core's L1, once the group's stores have performed: a dropped line is gone from L1, its partials with it; FENCE goes on when the loads that it orders have performed, and .sc when the stores have too; a .sc or .rel fence that stores are still to follow enters the store queue behind them; IFENCE discards code, the core's own and, by range, that of every cache. -/
def Obligations.CacheControlAndFencesComplete : Prop :=
  (∀ (d a : BitVec 7) (l k sc : BitVec 2) (s u : State) (gid : Nat) (es : List Elem), s.cur = .group gid →
    let core := coreOfGroup s gid
    let lineAt (f : State → Nat → State) (i : Instr) : Prop := canIssue i s → accessGate s = .ok () → storesDone s gid = true →
      elements s { n := 1, k := .read, align := 1, perm := globOrPriv } (isS a) (eaOf s a 0) = .ok ((es, []), u) →
      exec i s = .next (finish (uses i) 4 ((linesOf es).foldl f u))
    lineAt (fun t n => dropL1 t core n) (.cctlInv1 a) ∧
    lineAt (fun t n => { t with lpddr := tabErase t.lpddr n }) (.cctlWb2 a) ∧
    lineAt (fun t n => { t with evictFirst := insertNat t.evictFirst n }) (.cctlEvf a) ∧
    (canIssue .cctlInv1all s → accessGate s = .ok () → storesDone s gid = true →
      let lines := ((getCore s core).s.map (·.1) ++ (getCore s core).u.map (fun q => lineOf q.1)).eraseDups
      exec .cctlInv1all s = .next (finish [] 4 (lines.foldl (fun t n => dropL1 t core n) s)) ∧
      ∃ t, exec .cctlInv1all s = .next t ∧ (getGroup t gid).pc = (getGroup s gid).pc + 4 ∧ (getGroup t gid).regs = (getGroup s gid).regs) ∧
    (canIssue (.pref a l) s → walkHeld s = false → ∃ t, exec (.pref a l) s = .next t ∧ (getGroup t gid).pc = (getGroup s gid).pc + 4 ∧ (getGroup t gid).run = .eligible ∧
      t = finish (uses (.pref a l)) 4 ((accessLanes s (isS a)).foldl (fun v n => prefLane v a (decide (l = 0)) n) s)) ∧
    (canIssue (.fence sc k) s → k ≠ 0 → (k ≠ 3 → loadsOpen s (scopeOf sc) = false) → (k = 1 → storesAt s gid (scopeOf sc) = true) →
      (scopeOf sc = .fab → (getGroup s gid).failed = []) →
      let acquired (t : State) : State := if k = 3 then t else acquireCur t (scopeOf sc)
      (k = 2 ∨ (storesDone s gid = true ∧ loadsOpen s .fab = false) → exec (.fence sc k) s = .next (finish (uses (.fence sc k)) 4 (acquired s))) ∧
      (k ≠ 2 → storesDone s gid = false ∨ loadsOpen s .fab = true → (getGroup s gid).sq.length < 32 → ∃ t x, exec (.fence sc k) s = .next t ∧
        x.kind = .fence (scopeOf sc) ∧ x.gid = gid ∧ x.seq = s.seq ∧
        t = finish (uses (.fence sc k)) 4 (acquired (modGroup { s with seq := s.seq + 1 } gid (fun g => { g with sq := g.sq ++ [x] }))))) ∧
    (canIssue (.ifenceDie d a) s → 2 ^ 57 < (readPair s a.toNat 0).toNat + (readField s d.toNat 0).toNat → readField s d.toNat 0 ≠ 0 → (readPair s a.toNat 0).toNat < 2 ^ 57 →
      codeFencing s = false → exec (.ifenceDie d a) s = .next (laneFault s gid
        { cause := 0x06, aux := 2, va := readPair s a.toNat 0, lanes := some (activeMask (getGroup s gid)) } (activeMask (getGroup s gid)) 4))) ∧
  (∀ (t : State) (core n : Nat),
    (∀ q ∈ (getCore (dropL1 t core n) core).u, lineOf q.1 ≠ n) ∧
    ((∀ q ∈ (getCore t core).u, lineOf q.1 ≠ n) → getCore (dropL1 t core n) core = { getCore t core with s := tabErase (getCore t core).s n } ∧
      dropL1 t core n = { t with cores := (dropL1 t core n).cores } ∧ ∀ k, k ≠ core → tabFind (dropL1 t core n).cores k = tabFind t.cores k)) ∧
  (∀ (d a : BitVec 7) (k sc : BitVec 2) (s : State),
    (canIssue (.fence sc k) s → k ≠ 0 → (∀ gid, s.cur ≠ .group gid) → loadsOpen s .fab = false → exec (.fence sc k) s = .next (finish (uses (.fence sc k)) 4 s)) ∧
    (canIssue .ifenceLocal s → exec .ifenceLocal s = .next (finish [] 4 (discardCode s))) ∧
    (canIssue (.ifenceDie d a) s → codeFencing s = false →
      (readField s d.toNat 0 = 0 → exec (.ifenceDie d a) s = .next (finish (uses (.ifenceDie d a)) 4 (discardCode s))) ∧
      (readField s d.toNat 0 ≠ 0 → (readPair s a.toNat 0).toNat + (readField s d.toNat 0).toNat ≤ 2 ^ 57 →
        exec (.ifenceDie d a) s = .next (finish (uses (.ifenceDie d a)) 4
          (discardCode (dropCode s (readPair s a.toNat 0).toNat (readField s d.toNat 0).toNat))))) ∧
    (∀ core, coreOf s = some core → (getCore (discardCode s) core).code = [] ∧ (getCore (discardCode s) core).fetchFrom = s.seq + 1))

/-! ## Engine work -/

/-- R37, R182, R184, R185: CPY, GATHER and SCATTER whose parameters are good issue their work, for GATHER and SCATTER with the index register read per lane; TOKTEST reads whether a token is full without waiting. R215, R216, R199, R223: so do LDSLOT, whose slot is LOADING, CBLOAD, whose codebook is not valid meanwhile, and ACCST, which enters the queue of the matrix unit, on a claimed slot or a held tile. How a work that needs more claims than a table holds waits is the model's choice (log 26). -/
def Obligations.CopyEngineWorkIssues : Prop :=
  ∀ (d a r p : BitVec 7) (tl : BitVec 2) (z : BitVec 1) (o : BitVec 4) (s : State),
    let blk := readBlock s a 8
    (issues (.cpy d a) s → claimsFit s (lineCount (readPair s (a.toNat + 2) 0).toNat (readField s (a.toNat + 4) 0).toNat) → cpyParam s (newWork s .cpy d 0 blk) = none →
      ∃ t, exec (.cpy d a) s = .next t ∧ issued .cpy d blk s t) ∧
    (∀ k ∈ [(Instr.gather d a r, WorkKind.gather, false), (.scatter d a r, .scatter, true)], issues k.1 s →
      let w := { newWork s k.2.1 d 0 blk with vals := (laneList s).map (fun l => (l, readField s r.toNat l)) }
      ∀ es u v, gsParam s w = none →
        elements s { n := w.word 4, k := if k.2.2 then .write else .read, align := 1, perm := notPriv } false (gsG w) = .ok ((es, []), u) →
        gsBody s k.2.1 (uses k.1) d a r = .ok v → exec k.1 s = .next v ∧ issued k.2.1 d blk s v) ∧
    (runs (.toktest p a) s → predResult (.toktest p a) p (fun _ => !isEmptyField s a.toNat) s) ∧
    (∀ gid tm, s.cur = .group gid → tabFind s.teams (tagOf gid) = some tm →
      (∀ sl, issues (.ldslot d a) s → teamSlot tm (ldSlotNo (newWork s (.ldslot 0) d 0 blk)) = some sl → sl.state ≠ .loading →
        ldslotParam s (newWork s (.ldslot 0) d 0 blk) = none → ∃ t, exec (.ldslot d a) s = .next t ∧
          issued (.ldslot (ldSlotNo (newWork s (.ldslot 0) d 0 blk))) d blk s t ∧
          teamSlot (getTeam t (tagOf gid)) (ldSlotNo (newWork s (.ldslot 0) d 0 blk)) = some { sl with state := .loading }) ∧
      (∀ sl, issues (.cbload d a) s →
        let n := (readField s (a.toNat + 2) 0).toNat
        n < 16 → teamSlot tm n = some sl → cbloadParam s (newWork s (.cbload n) d 0 (readBlock s a 4)) = none →
        ∃ t, exec (.cbload d a) s = .next t ∧ issued (.cbload n) d (readBlock s a 4) s t ∧
          teamSlot (getTeam t (tagOf gid)) n = some { sl with cbv := false }) ∧
      (issues (.accst d a tl z o) s → tl.toNat < tm.held → (getCore s (coreOfGroup s gid)).matrix.length < 8 →
        let w := newWork s .accst d (tl.toNat + 4 * z.toNat + 8 * o.toNat) blk
        accstParam s w = none → claimsFit s ((accstStarts w).map (·.2)).sum →
        ∃ t, exec (.accst d a tl z o) s = .next t ∧ issued .accst d blk s t ∧
          (getCore t (coreOfGroup s gid)).matrix = (getCore s (coreOfGroup s gid)).matrix ++ [{ gid := gid, kind := .accst tl.toNat s.nextId }]))

/-- R342-R351, R359-R367: an array instruction whose handle, tiles and parameters pass its checks issues its work. -/
def Obligations.ArrayWorkIssues : Prop :=
  ∀ (d a : BitVec 7) (f l m : BitVec 1) (s : State) (g : List Word),
    let blk := readBlock s a 8
    let blk4 := readBlock s a 4
    let x := windowOf g
    let handle (need : List Nat) : Prop := checkHandle s (readField s a.toNat 0) (readField s (a.toNat + 1) 0) need = .ok g
    let window (w : Work) : Work :=
      w.putDatum 0 [x.img, x.row0, x.rows, x.col0, x.cols, x.tfirst, x.tcount, imageCols s x.img, (imageOf s x.img).golden]
    (∀ k ∈ [(Instr.layerf d a f l m, WorkKind.layerf, 33), (.layert d a f l m, .layert, 34)],
      issues k.1 s → gridIsDet s = false → handle [k.2.2] → arrayTraps s x true (decide (l = 1)) = .ok () → linkGate s x.img (x.tiles s) = .ok () →
      layerBad s (window (newWork s k.2.1 d (f.toNat + 2 * l.toNat + 4 * m.toNat) blk)) = none →
      ∃ t, exec k.1 s = .next t ∧ issued k.2.1 d blk s t) ∧
    (issues (.layerd d a m) s → handle [35] → arrayTraps s x false false = .ok () → linkGate s x.img (x.tiles s) = .ok () →
      layerBad s (window (newWork s .layerd d (4 * m.toNat) blk)) = none →
      ∃ t, exec (.layerd d a m) s = .next t ∧ issued .layerd d blk s t) ∧
    (issues (.arxq d a) s → claimsFit s 1 → addrBad (newWork s .arxq d 0 blk4) 2 64 = none →
      ∃ t, exec (.arxq d a) s = .next t ∧ issued .arxq d blk4 s t) ∧
    (issues (.adpset d a) s → adpsetBad (newWork s .adpset d 0 blk) = none →
      ∃ t, exec (.adpset d a) s = .next t ∧ issued .adpset d blk s t) ∧
    (issues (.calset d a) s → calsetBad s (newWork s .calset d 0 blk4) = none →
      ∃ t, exec (.calset d a) s = .next t ∧ issued .calset d blk4 s t) ∧
    (issues (.calrd d a) s → claimsFit s 321 → handle [36] → calrdBad s x (newWork s .calrd d 0 blk) = none →
      ∃ t, exec (.calrd d a) s = .next t ∧ issued .calrd d blk s t) ∧
    (issues (.almrun d a f) s → claimsFit s (8 * (readField s (a.toNat + 6) 0).toNat * x.cols) → gridIsDet s = false → handle [33, 35] → arrayTraps s x false true = .ok () →
      (∀ t ∈ x.tiles s, tileStateOf s x.img t ≠ .safe) → linkGate s x.img (x.tiles s) = .ok () →
      almrunBad s x (newWork s .almrun d f.toNat blk) = none →
      ∃ t, exec (.almrun d a f) s = .next t ∧ issued .almrun d blk s t) ∧
    (issues (.almfit d a) s → claimsFit s 321 → almfitBad (newWork s .almfit d 0 blk) = none →
      ∃ t, exec (.almfit d a) s = .next t ∧ issued .almfit d blk s t)

/-- R457-R459: ARPROG makes its tile REPROG at issue; ARCOMMIT.tile makes a tile whose rows are all committed UNCAL with its new image and counts the reprogramming, .grant and .revoke issue, and a revocation clears V and raises GEN at once; ARSTAT issues its report. What ARSTAT reports of a tile in REPROG is the model's choice (log 45). -/
def Obligations.ReprogrammingWorkIssues : Prop :=
  ∀ (d a : BitVec 7) (s : State),
    let blk := readBlock s a 8
    let prog := newWork s .arprog d 0 blk
    let n := tileNo (progDie prog) (progTile prog)
    (issues (.arprog d a) s → arprogBad s prog = none → ∃ t, exec (.arprog d a) s = .next t ∧ issued .arprog d blk s t ∧
      (arrTile t n).state = .reprogramming ∧ (arrTile t n).newImage = prog.word 3 % 2 ^ 16 ∧ (arrTile t n).newTile = prog.word 4) ∧
    (∀ k ∈ [(Instr.arcommitTile d a, 0), (.arcommitGrant d a, 1), (.arcommitRevoke d a, 2)], issues k.1 s →
      arcommitBad s (newWork s .arcommit d k.2 blk) = none → ∃ t, exec k.1 s = .next t ∧ issued .arcommit d blk s t) ∧
    (∀ sc, issues (.arcommitTile d a) s → arcommitBad s (newWork s .arcommit d 0 blk) = none →
      let tile := arrTile s n
      tile.state = .reprogramming → tile.err = 0 → (∀ r, r < 1024 → rowHas s (progDie prog) (progTile prog) 4 r = true) →
      stagedRow s (progDie prog) (progTile prog) 1024 = some sc →
      ∃ t, exec (.arcommitTile d a) s = .next t ∧ (arrTile t n).state = .uncal ∧ (arrTile t n).programmed = true ∧
        (arrTile t n).rows = 1024 ∧ (arrTile t n).image = tile.newImage ∧ (arrTile t n).imageTile = tile.newTile ∧ (arrTile t n).levels = tile.newLevels ∧
        (arrTile t n).reprogrammings = tile.reprogrammings + 1) ∧
    (issues (.arcommitRevoke d a) s → arcommitBad s (newWork s .arcommit d 2 blk) = none →
      let w := newWork s .arcommit d 2 blk
      let old := getGrant s (w.word 2) (w.word 3)
      ∃ t, exec (.arcommitRevoke d a) s = .next t ∧
        (getGrant t (w.word 2) (w.word 3)).getD 1 0 = (old.getD 1 0 &&& ~~~1) ∧
        ((getGrant t (w.word 2) (w.word 3)).getD 0 0).toNat = (old.getD 0 0).toNat % 65536 + ((old.getD 0 0).toNat / 65536 + 1) % 65536 * 65536) ∧
    (issues (.arstat d a) s → claimsFit s 1 → arstatBad (newWork s .arstat d 0 (readBlock s a 4)) = none →
      ∃ t, exec (.arstat d a) s = .next t ∧ issued .arstat d (readBlock s a 4) s t)

/-- R265: a sequence operation enters the queue of its cluster, behind those issued before it; CONFW and SCACC without an active lane end at once, and PXINS and PXREL are DET_VIOLATION in a .det grid. R373: CHLAUNCH with a good block puts its task last into the ring of its VF. R414: MIGRATE issues its work. R446: LAUNCH that passes its checks makes its grid and hands it to the dispatcher. R495: a COLL with good parameters opens the instance of its grid, tag and occurrence, counted by rank, or joins it; which instance a COLL that repeats a rank belongs to is the model's choice (log 97); after the instance has all its members it reports 0x101, after it closed 0x14; COLL without .fix is DET_VIOLATION in a .det grid. -/
def Obligations.SequenceTaskAndGridWorkIssues : Prop :=
  ∀ (d a v : BitVec 7) (o y : BitVec 2) (x f h : BitVec 1) (s : State),
    let blk := readBlock s a 8
    let blk4 := readBlock s a 4
    let c := clusterOfCore (coreOfCur s)
    let queued (i : Instr) (k : WorkKind) (b : List Word) : Prop :=
      ∃ t, exec i s = .next t ∧ issued k d b s t ∧ (getCluster t c).sqe = (getCluster s c).sqe ++ [s.nextId]
    ((∀ n, claimsFit s n) → (getCluster s c).sqe.length < 64 →
      (∀ i ∈ [(Instr.scrd d a, WorkKind.scrd), (.scclr d a, .scclr), (.unmask d a, .unmask), (.dirty d a, .dirty)], issues i.1 s → queued i.1 i.2 blk4) ∧
      (∀ i ∈ [(Instr.confw d a v, WorkKind.confw), (.scacc d a v, .scacc)], issues i.1 s → activeOf s ≠ 0 → queued i.1 i.2 blk4) ∧
      (∀ i ∈ [(Instr.topk d a, WorkKind.topk), (.surv d a, .surv), (.compact d a, .compact), (.pxfind d a, .pxfind)], issues i.1 s → queued i.1 i.2 blk) ∧
      (∀ i ∈ [(Instr.pxins d a, WorkKind.pxins), (.pxrel d a, .pxrel)], issues i.1 s → gridIsDet s = false → queued i.1 i.2 blk)) ∧
    (∀ i ∈ [(Instr.confw d a v, WorkKind.confw), (.scacc d a v, .scacc)], issues i.1 s → activeOf s = 0 →
      ∃ t, exec i.1 s = .next t ∧ issued i.2 d blk4 s t ∧ (∃ w ∈ t.works, w.id = s.nextId ∧ w.ended = true) ∧ (getCluster t c).sqe = (getCluster s c).sqe) ∧
    (∀ i ∈ [Instr.pxins d a, .pxrel d a], canIssue i s → gridIsDet s = true → trapsWith i { cause := 0x0D } s) ∧
    (issues (.chlaunch d a) s →
      let w := newWork s .chlaunch d 0 blk
      taskBad s w = none → (getRing s (taskPkg w) w.vf).tasks.length < 64 →
      ∃ t task, exec (.chlaunch d a) s = .next t ∧ issued .chlaunch d blk s t ∧
        (getRing t (taskPkg w) w.vf).tasks = (getRing s (taskPkg w) w.vf).tasks ++ [task] ∧ task.work = s.nextId ∧
        task.seqNo = (getRing s (taskPkg w) w.vf).seqNo) ∧
    (∀ w u, issues (.migrate d a f h) s →
      (let w0 := newWork s (.migrate (f = 1) (h = 1)) d 0 blk
       migStart s { w0 with vf := if levelOf s ≤ 1 then vfOf s else w0.word 2 / 65536 % 32 }) = .ok (w, u) → ∃ t, exec (.migrate d a f h) s = .next t ∧ issued (.migrate (f = 1) (h = 1)) d blk s t) ∧
    (∀ g u, issues (.launch d a) s → launchGrid s (newWork s .launch d 0 blk) = .ok (g, u) →
      exec (.launch d a) s = .next (advance 4
        (startGrid (setGrid (issueWork u { newWork s .launch d 0 blk with grid := s.nextId }) s.nextId g) s.nextId))) ∧
    (issues (.coll d a o y x) s → gridIsDet s = false ∨ x = 1 →
      collBad s (newWork s .coll d (o.toNat + 4 * y.toNat + 16 * x.toNat) blk) = none →
      let w := newWork s .coll d (o.toNat + 4 * y.toNat + 16 * x.toNat) blk
      let n := collIndex s w (tabGet (getGrid s w.grid).collCount (collTag w * 4096 + collRank w) 0)
      let mine := findColl s w.grid (collTag w) n
      ∃ t, exec (.coll d a o y x) s = .next t ∧ issuedWork .coll d blk s t ∧
        (mine = none → ∃ c ∈ t.colls, c.id = s.nextId ∧ c.grid = w.grid ∧ c.tag = collTag w ∧ c.k = n ∧ c.works = [s.nextId]) ∧
        (∀ c, mine = some c →
          (c.closed = false → c.full = false → ∃ c' ∈ t.colls, c'.id = c.id ∧ c'.works = c.works ++ [s.nextId]) ∧
          (c.closed = true → t.colls = s.colls ∧ ∃ v ∈ t.works, v.id = s.nextId ∧ v.ended = true ∧ v.status = 0x14) ∧
          (c.closed = false → c.full = true → t.colls = s.colls ∧ ∃ v ∈ t.works, v.id = s.nextId ∧ v.ended = true ∧ v.status = 0x01 ∧ v.index = 0x101))) ∧
    (canIssue (.coll d a o y x) s → gridIsDet s = true → x = 0 → trapsWith (.coll d a o y x) { cause := 0x0D } s)

/-! ## The matrix unit -/

/-- R211, R212: SHAPE holds as many tiles as it asks for if the core has them, and answers the number held; SLCLAIM claims the named slots if enough are free, and answers the slots claimed; SLREL releases the named ones. R206, R209, R219, R221: MMA, MMAS, ACCZ, ACCRD and ACCWR whose checks pass enter the matrix queue of their core. The mode of a tile is the one that the queued operations leave it in (log 28), and an operand with an uncorrectable error traps at issue (log 95). -/
def Obligations.MatrixInstructionsAct : Prop :=
  ∀ (d a : BitVec 7) (n : BitVec 3) (sa b : BitVec 4) (tl : BitVec 2) (f m : BitVec 1) (s : State) (gid : Nat) (tm : Team), s.cur = .group gid →
    let tag := tagOf gid
    let core := coreOfGroup s gid
    let w := (readField s a.toNat 0).toNat
    let pcOn (t : State) : Prop := (getGroup t gid).pc = (getGroup s gid).pc + 4
    tabFind s.teams tag = some tm → tabRising tm.slots = true → tabRising tm.tiles = true → regsRising (regsOf s) →
    (canIssue (.shape d n) s → matrixIdle s core tag = true →
      (n.toNat ≤ tm.held ∨ n.toNat - tm.held ≤ freeTiles s core → ∃ t, exec (.shape d n) s = .next t ∧ pcOn t ∧
        (getTeam t tag).held = n.toNat ∧ readField t d.toNat 0 = kept d.toNat (n.setWidth 32) ∧
        ∀ k, k < n.toNat → getTile (getTeam t tag) k = if k < tm.held then getTile tm k else {}) ∧
      (tm.held < n.toNat → freeTiles s core < n.toNat - tm.held → ∃ t, exec (.shape d n) s = .next t ∧ pcOn t ∧
        getTeam t tag = tm ∧ readField t d.toNat 0 = kept d.toNat (BitVec.ofNat 32 (tm.held + 2 ^ 31)))) ∧
    (canIssue (.slclaim d a) s → w < 65536 → matrixIdle s core tag = true →
      let new := (List.range 16).filter (fun k => decide (w / 2 ^ k % 2 = 1) && (teamSlot tm k).isNone)
      let mask (x : Team) : Nat := (x.slots.map (fun p => 2 ^ p.1)).sum
      (new.length ≤ (freeSlots s core).length → ∃ t, exec (.slclaim d a) s = .next t ∧ pcOn t ∧
        (∀ k, teamSlot (getTeam t tag) k = if k ∈ new then some { state := .claimed } else teamSlot tm k) ∧
        readField t d.toNat 0 = kept d.toNat (BitVec.ofNat 32 (mask (getTeam t tag)))) ∧
      ((freeSlots s core).length < new.length → ∃ t, exec (.slclaim d a) s = .next t ∧ pcOn t ∧ getTeam t tag = tm ∧
        readField t d.toNat 0 = kept d.toNat (BitVec.ofNat 32 (mask tm + 2 ^ 31)))) ∧
    (canIssue (.slrel a) s → w < 65536 → matrixIdle s core tag = true → ∃ t, exec (.slrel a) s = .next t ∧ pcOn t ∧
      ∀ k, teamSlot (getTeam t tag) k = if w / 2 ^ k % 2 = 1 then none else teamSlot tm k) ∧
    ((getCore s core).matrix.length < 8 →
      (∀ k ∈ [(Instr.mma sa a b tl, false), (.mmas sa a b tl, true)], canIssue k.1 s → mmaChecks s k.2 sa.toNat b.toNat tl.toNat w = .ok () →
        matrixMemOk s tag ([sa.toNat, b.toNat] ++ (if k.2 then [sa.toNat + 1] else [])) [tl.toNat] = .ok () →
        ∃ t, exec k.1 s = .next t ∧
          matrixQueued (.mma k.2 sa.toNat b.toNat tl.toNat (w % 128 + 1) (w / 256 % 128 + 1) (w / 65536 % 256 + 1)) gid s t) ∧
      (canIssue (.accz tl m) s → tl.toNat < tm.held → ∃ t, exec (.accz tl m) s = .next t ∧ matrixQueued (.accz tl.toNat (m = 1)) gid s t) ∧
      (canIssue (.accrd d a tl f) s → tl.toNat < tm.held → w < 256 → matrixMemOk s tag [] [tl.toNat] = .ok () → ∃ t, exec (.accrd d a tl f) s = .next t ∧
        matrixQueued (.accrd tl.toNat (crdRow w) (crdHalf w) (f = 1) d.toNat) gid s t ∧
        isEmptyField t d.toNat = true ∧ (f = 0 → isEmptyField t (d.toNat + 1) = true)) ∧
      (canIssue (.accwr d a tl f) s → tl.toNat < tm.held → (f = 0 ∨ tileIsInt s core tag tl.toNat = false) → w < 256 →
        ∃ t, exec (.accwr d a tl f) s = .next t ∧ matrixQueued (.accwr tl.toNat (crdRow w) (crdHalf w) (f = 1)
          ((List.range 64).map (fun l => if f = 1 then (readField s d.toNat l).setWidth 64 else readPair s d.toNat l))) gid s t))

/-! ## The access processor and the channel engine -/

/-- R188-R190: AXBIND starts the slice of its group at .access with S0-S3 from the block; ASTRM pushes the entries of its stream while the queue has room, element l of entry k being start + k x step + l x stride; QPUSH pushes one entry. -/
def Obligations.AccessProcessorActs : Prop :=
  ∀ (a : BitVec 7) (q : BitVec 3) (s : State) (gid : Nat) (x : Axp), (getGroup s gid).axp = some x →
    let ents (t : State) : List QEntry := (tabGet (getGroup t gid).q q.toNat {}).entries
    let word (k : Nat) : Word := readField s (a.toNat + k) 0
    (s.cur = .group gid → canIssue (.axbind a) s → (getGroup s gid).sq = [] → ∃ t y, exec (.axbind a) s = .next t ∧
      (getGroup t gid).axp = some y ∧ (getGroup t gid).pc = (getGroup s gid).pc + 4 ∧ y.num = x.num ∧ y.pc = (gridOf s gid).access ∧
      y.running = true ∧ y.stopped = none ∧ (∀ k, k < 4 → y.regs.readS k = word k) ∧ (∀ k, 4 ≤ k → y.regs.readS k = 0) ∧
      (getGroup t gid).q = (if x.running then [] else (groupDone (getGroup s gid) (getGroup t gid).pc).q)) ∧
    (s.cur = .axp gid → canIssue (.astrm a q) s → x.streams = [] → ∃ t, exec (.astrm a q) s = .next t ∧ pcOf t = pcOf s + 4 ∧
      ∃ new, ents t = ents s ++ new ∧ new.length = min (16 - (ents s).length) (word 3).toNat ∧
        ∀ k l, k < new.length → l < 64 →
          ((new[k]?).map (fun e => e.lane l)) = some (word 0 + BitVec.ofNat 32 k * word 2 + BitVec.ofNat 32 l * word 1)) ∧
    (s.cur = .axp gid → canIssue (.qpushS a q) s → queueBusy s gid q.toNat = false → ∃ t, exec (.qpushS a q) s = .next t ∧
      pcOf t = pcOf s + 4 ∧ ents t = ents s ++ [.scalar (word 0)] ∧ t = { s with groups := t.groups }) ∧
    (∀ ws u, s.cur = .axp gid → canIssue (.qpushM a q) s → queueBusy s gid q.toNat = false →
      loadVector s (readPair s a.toNat 0).toNat = .ok (ws, u) →
      exec (.qpushM a q) s = .next (advance 4 (pushQ u gid q.toNat (.vector ws))))

/-- R379: the operations of the address thread on 64-bit registers. -/
def Sys2Proof.Claim.addressOps (d a b i : BitVec 7) (x y : DWord) : List (Instr × DWord) :=
  [(.add d a b, BitVec.ofNat 64 (x.toNat + y.toNat)), (.sub d a b, BitVec.ofInt 64 ((x.toNat : Int) - y.toNat)),
   (.mulLo d a b, BitVec.ofNat 64 (x.toNat * y.toNat)), (.and d a b, x &&& y), (.or d a b, x ||| y), (.xor d a b, x ^^^ y),
   (.andn d a b, x &&& ~~~y), (.shl d a b, if 64 ≤ y.toNat then 0 else x <<< y.toNat),
   (.shr d a b, BitVec.ofNat 64 (x.toNat / 2 ^ y.toNat)), (.sar d a b, BitVec.ofInt 64 (x.toInt / 2 ^ y.toNat)),
   (.minU d a b, if x.toNat ≤ y.toNat then x else y), (.maxU d a b, if x.toNat ≤ y.toNat then y else x),
   (.mov d a, x), (.addi d a i, BitVec.ofInt 64 (x.toNat + i.toInt)), (.andi d a i, x &&& BitVec.ofInt 64 i.toInt),
   (.ori d a i, x ||| BitVec.ofInt 64 i.toInt), (.xori d a i, x ^^^ BitVec.ofInt 64 i.toInt)]

/-- R379: the immediate shifts by up to 63. -/
def Sys2Proof.Claim.addressShifts (d a i : BitVec 7) (x : DWord) : List (Instr × DWord) :=
  [(.shli d a i, BitVec.ofNat 64 (x.toNat * 2 ^ i.toNat)), (.shri d a i, BitVec.ofNat 64 (x.toNat / 2 ^ i.toNat)),
   (.sari d a i, BitVec.ofInt 64 (x.toInt / 2 ^ i.toNat))]

/-- R379, R381-R385: the address thread computes on 64-bit A registers and starts its streams, one fetch or one store; the X thread pops a landed beat, computes lane by lane and pushes results; CHEND ends a thread or a pass. A register with an uncorrectable error (R465) is not read here. -/
def Obligations.ChannelThreadsAct : Prop :=
  ∀ (d a b i : BitVec 7) (n : BitVec 14) (c : BitVec 4) (k st : BitVec 1) (o : BitVec 3) (y : BitVec 2) (s : State) (pkg vf : Nat) (task : ChTask),
    getTask s pkg vf = some task → task.bad = [] →
    let ra (f : BitVec 7) : DWord := tabGet task.a f.toNat 0
    let count := (ra (c.setWidth 7)).toNat % 2 ^ 32
    (s.cur = .cheA pkg vf →
      (∀ p ∈ addressOps d a b i (ra a) (ra b), canIssue p.1 s → addressResult p.1 d p.2 s pkg vf task) ∧
      (i.toNat ≤ 63 → ∀ p ∈ addressShifts d a i (ra a), canIssue p.1 s → addressResult p.1 d p.2 s pkg vf task) ∧
      (canIssue (.li d n) s → addressResult (.li d n) d (BitVec.ofInt 64 n.toInt) s pkg vf task) ∧
      (canIssue (.lui d n) s → addressResult (.lui d n) d (BitVec.ofNat 64 ((ra d).toNat * 2 ^ 14 + n.toNat)) s pkg vf task) ∧
      (canIssue (.astm b a c k st) s → (if k = 1 then task.sport else task.fport) = none →
        let x : ChStream := { strong := decide (st = 1), gather := false, base := ra b, stride := ra a, left := count, idx := task.apc }
        taskResult (.astm b a c k st) s pkg vf (if count = 0 then { task with apc := task.apc + 1, stalled := 0 }
          else if k = 1 then { task with sport := some x, apc := task.apc + 1, stalled := 0 }
          else { task with fport := some x, apc := task.apc + 1, stalled := 0 })) ∧
      (canIssue (.agat b a k st) s → (if k = 1 then task.sport else task.fport) = none → (ra a).toNat % 2 ^ 32 ≠ 0 →
        let x : ChStream := { strong := decide (st = 1), gather := true, base := ra b, stride := 8, left := (ra a).toNat % 2 ^ 32, idx := task.apc }
        taskResult (.agat b a k st) s pkg vf (if k = 1 then { task with sport := some x, apc := task.apc + 1, stalled := 0 }
          else { task with fport := some x, apc := task.apc + 1, stalled := 0 })) ∧
      (∀ pa, canIssue (.aqp a st) s → task.fport = none → task.fetch.length < 64 → beatPa s task.grid (ra a).toNat false = .ok pa →
        taskResult (.aqp a st) s pkg vf { task with
          fetch := task.fetch ++ [{ va := (ra a).toNat, pa := pa, strong := decide (st = 1), idx := task.apc }], apc := task.apc + 1, stalled := 0 }) ∧
      (∀ pa r rest, canIssue (.astq a st) s → task.sport = none → task.result = r :: rest → beatPa s task.grid (ra a).toNat true = .ok pa →
        taskResult (.astq a st) s pkg vf { task with
          result := rest, stores := task.stores ++ [{ va := (ra a).toNat, pa := pa, strong := decide (st = 1), idx := task.apc, bytes := r }], apc := task.apc + 1, stalled := 0 }) ∧
      (canIssue .chend s → task.fport = none → task.sport = none →
        taskResult .chend s pkg vf { task with aDone := true, stalled := 0 })) ∧
    (s.cur = .cheX pkg vf →
      (∀ f rest bs, canIssue (.xpop d) s → task.fetch = f :: rest → f.data = some bs →
        taskResult (.xpop d) s pkg vf { task with fetch := rest, x := tabPut task.x d.toNat bs, xpc := task.xpc + 1, stalled := 0 }) ∧
      (canIssue (.xop d a o y) s → ∃ bs, bs.length = 64 ∧
        (∀ l, l < 16 → BitVec.ofNat 32 (leNat ((bs.drop (4 * l)).take 4)) =
          xopLane o.toNat y.toNat (task.xLane d.toNat l) (task.xLane a.toNat l) (task.xLane 15 l)) ∧
        taskResult (.xop d a o y) s pkg vf { task with x := tabPut task.x d.toNat bs, xpc := task.xpc + 1, stalled := 0 }) ∧
      (canIssue (.xpush a) s → task.result.length < 32 →
        taskResult (.xpush a) s pkg vf { task with result := task.result ++ [task.xReg a.toNat], xpc := task.xpc + 1, stalled := 0 }) ∧
      (canIssue .chend s →
        let passes := ((getWork s task.work).map (fun w => w.word 5)).getD 0
        taskResult .chend s pkg vf { task with iter := task.iter + 1, xpc := 0, xDone := decide (passes ≤ task.iter + 1), stalled := 0 }))

/-! ## Translation -/

/-- R407-R410, R422-R424: TFENCE.pt goes on once the group's stores have performed, and at die and fabric scope no later walk reads what stood before the context's own stores; TFENCE.walk goes on at once, and walks of later accesses start after the earlier ones have performed; an invalidation starts, waits, and its instruction goes on when it has completed; PTQ and LEASEQ report. R274, R295: POSXL and DMAPRD are loads of their lanes. That a lane load samples its words at issue is the model's choice (log 50). -/
def Obligations.TranslationInstructionsAct : Prop :=
  ∀ (d a : BitVec 7) (k sc : BitVec 2) (e g h : BitVec 1) (p m : BitVec 3) (s : State), onRegisters s →
    let free (f : Nat → Prop) : Prop := ∀ gid, s.cur = .group gid → f gid
    let own := s.invals.find? (fun v => decide (v.agent = some s.cur))
    (canIssue (.tfencePt sc) s → free (fun gid => storesAt s gid .die = true ∧ releaseDone s gid (scopeOf sc) = true) →
      exec (.tfencePt sc) s = .next (finish [] 4 (if sc.toNat = 2 ∨ sc.toNat = 3 then fenceWalks s s.cur else s))) ∧
    (canIssue .tfenceWalk s →
      (∀ gid, s.cur = .group gid → exec .tfenceWalk s = .next (finish [] 4 (modGroup s gid (fun g => { g with walkSeq := s.seq })))) ∧
      ((∀ gid, s.cur ≠ .group gid) → exec .tfenceWalk s = .next (finish [] 4 s))) ∧
    (∀ i ∈ [Instr.tfenceInv a e sc g, .rnginv a sc g], canIssue i s →
      (∃ x, spaceWord s (readField s (a.toNat + (if i = .rnginv a sc g then 1 else 3)) 0).toNat (g = 1) = .ok x) →
      (i = .rnginv a sc g → (readField s a.toNat 0).toNat < 65536) →
      (∀ v, own = some v → v.done = true → exec i s = .next (finish (uses i) 4 (dropInval s v.id))) ∧
      (∀ v, own = some v → v.done = false → exec i s = .next (waitOn (.invalidation v.id) s)) ∧
      (own = none → ∃ v, v.id = s.nextId ∧ v.agent = some s.cur ∧ v.host = decide (g = 1) ∧ v.scope = scopeOf sc ∧
        exec i s = .next (waitOn (.invalidation s.nextId) (startInval { s with nextId := s.nextId + 1 } s.cur none v)))) ∧
    (canIssue (.ptq d a k h) s → (h = 1 → 2 ≤ levelOf s) →
      let r := ptqResult s (if k = 0 then .read else if k = 1 then .write else .exec) (h = 1) (readPair s a.toNat 0).toNat
      exec (.ptq d a k h) s = .next (finish (uses (.ptq d a k h)) 4
        (longValue (match r.2 with | some x => noteXStop s (vfOf s) x | none => s) d.toNat (r.1.flatMap (fun w => leBytes 4 w.toNat))))) ∧
    (canIssue (.leaseq d a) s →
      let w := leaseWords s (readPair s a.toNat 0).toNat
      exec (.leaseq d a) s = .next (finish (uses (.leaseq d a)) 4 (longValue s d.toNat (leBytes 4 w.1.toNat ++ leBytes 4 w.2.toNat))) ∧
      (leaseAt s (spaceOf s) (readPair s a.toNat 0).toNat = none → w = (0, 0xFFFFFFFF))) ∧
    (∀ rs u gid, s.cur = .group gid → accessGate s = .ok () →
      let f := 96 + 4 * m.toNat
      let due (n : Nat) : State := if rs.isEmpty then u
        else addPending u (.lookup p.toNat) (coreOfGroup s gid) d.toNat n (rs.map (fun (r : Nat × List Byte × Bool) =>
          ({ lane := some r.1, src := r.2.1.map .byte, operand := if r.2.2 then 1 else 0 } : AccPart))) false none none []
      (canIssue (.posxl d a p m) s → eachLane (fun t l => do
          let (r, t) ← posLane t (readPair s f 0).toNat (readField s (f + 2) 0).toNat (readField s (f + 3) 0).toNat l (readField s a.toNat l).toNat
          return ((l, leBytes 8 (r.getD 0), r.isNone), t)) (laneList s) s = .ok ((rs, []), u) →
        exec (.posxl d a p m) s = .next (finish (uses (.posxl d a p m)) 4 (due 8))) ∧
      (canIssue (.dmaprd d a p m) s → eachLane (fun t l => do
          let (r, t) ← dmapLane t (readPair s f 0).toNat (readField s (f + 2) 0).toNat l (readField s a.toNat l).toNat
          return ((l, leBytes 4 r.1, r.2), t)) (laneList s) s = .ok ((rs, []), u) →
        exec (.dmaprd d a p m) s = .next (finish (uses (.dmaprd d a p m)) 4 (due 4))))

/-! ## Queues and the platform -/

/-- R447-R449: QWAIT goes on when the semaphore meets its condition, and with .dec takes the operand from it; otherwise it is registered at the word, and a write to its line that makes the condition hold sends it on; QSIG adds or sets once the context's accesses have returned; QJMP moves HEAD by twice its offset modulo the ring, and an odd target is an ALIGN trap; QSTOP stops or starts the named queue. -/
def Obligations.QueueInstructionsAct : Prop :=
  (∀ (s : State) (core : Option Nat) (pa n : Nat) (bs : List Byte) (w : SemWait), waitersAt s (lineOf pa) = [(n, w)] → w.dec = false → (tabFind s.queues n).isSome = true →
    let t := homeWriteRaw s core pa bs
    getQueue t n = if w.holds (BitVec.ofNat 64 (leNat (memReadList t.mem w.pa 8))) then (getQueue s n).goesOn 4 else getQueue s n) ∧
  ∀ (d a : BitVec 7) (c : BitVec 2) (e : BitVec 1) (o : BitVec 20) (s : State) (qid : Nat), s.cur = .queue qid →
    let q := getQueue s qid
    let x := readPair s d.toNat 0
    (∀ ls use u, canIssue (.qwait d a c e) s → semaphore s a (if e = 1 then .write else .read) = .ok ((ls, use), u) →
      let r := readWord64 u ls
      let holds : Prop := if c = 0 then x.toNat ≤ r.1.toNat else if c = 1 then r.1 = x else r.1 ≠ x
      (holds → exec (.qwait d a c e) s = .next (finish (uses (.qwait d a c e)) 4 (if e = 1 then writeWord64 r.2 ls (r.1 - x) else r.2))) ∧
      (¬holds → exec (.qwait d a c e) s = .next (waitOn (.semaphore { pa := firstPa ls, cond := c.toNat, value := x, dec := decide (e = 1), use := use }) r.2))) ∧
    (∀ ls use u, canIssue (.qsig d a e) s → loadsOpen s .fab = false → semaphore s a .write = .ok ((ls, use), u) →
      let r := readWord64 u ls
      exec (.qsig d a e) s = .next (finish (uses (.qsig d a e)) 4 (writeWord64 r.2 ls (if e = 1 then x else r.1 + x)))) ∧
    (canIssue (.qjmp o) s → (queuePc q).getLsbD 0 = true → trapsWith (.qjmp o) { cause := 0x05 } s) ∧
    (canIssue (.qjmp o) s → (queuePc q).getLsbD 0 = false → inRing q (queuePc q) = true → ∃ t, exec (.qjmp o) s = .next t ∧ t = { s with queues := t.queues } ∧
      (getQueue t qid).away = false ∧ ((getQueue t qid).head : Int) = ((queuePc q).toNat - q.base.toNat + 2 * o.toInt) % (2 ^ q.logsz : Nat) ∧
      (∀ k, k ≠ qid → tabFind t.queues k = tabFind s.queues k)) ∧
    (∀ n, (readField s a.toNat 0).toNat = n % 64 → n / 64 = qid / 64 → q.slot = 0 ∨ (getQueue s n).slot = q.slot → (tabFind s.queues n).isSome = true →
      (canIssue (.qstopStop a) s → exec (.qstopStop a) s = .next
        (writeDescriptor (modQueue (abandon (finish [] 4 s) n) n (fun q => { q with state := .stopped, wait := none, mlimit := false, mwait := none })) n)) ∧
      (canIssue (.qstopStart a) s → n ≠ qid → (getQueue s n).state = .stopped → ∃ t, exec (.qstopStart a) s = .next (writeDescriptor t n) ∧
        (getQueue t n).state = if (getQueue s n).away || decide (2 ≤ ringRoom (getQueue s n)) then .running else .idle))

/-- R434, R453: TRAP in a queue context outside its handler enters the handler at TVEC with TRPC past it, cause 0x15 and its immediate; HVCALL enters the PL2 handler of its VF at HVVEC, and an odd HVVEC is an ALIGN trap. R451, R452, R454, R455: the process instructions answer their status in D and do what the status says; CTXSW and CTXSV wait for the loads of the slot's contexts, and a CTXSW that has lasted 20 µs while its VF is to give way is undone. R473, R474: STARFIX answers the number of the snapshot that it triggers, and HALT enters T3 when all work has run to its tokens. The order in which DECTAB looks at its conditions, and the level of a context that is loaded, are the model's choices (log 72, log 71). -/
def Obligations.ProcessAndPlatformInstructionsAct : Prop :=
  ∀ (d a : BitVec 7) (i : BitVec 14) (f : BitVec 1) (s : State) (qid : Nat), s.cur = .queue qid →
    let q := getQueue s qid
    let b := readBlock s a 4
    let b8 := readBlock s a 8
    let slot := (readField s a.toNat 0).toNat
    let vf := qid / 64
    (canIssue (.trap i) s → tvecOf s qid ≠ 0 → q.trapped = false → ∃ t, exec (.trap i) s = .next t ∧ pcOf t = tvecOf s qid ∧
      (getQueue t qid).trpc = queueNext q 4 ∧ (getQueue t qid).trinfo = BitVec.ofNat 32 (0x15 ||| q.level * 4096) ∧
      (getQueue t qid).traux = i.setWidth 32 ∧ (getQueue t qid).trapped = true ∧ (getQueue t qid).level = q.level ∧ (getQueue t qid).regs = q.regs) ∧
    (canIssue (.hvcall i) s → q.level < 2 → (getVf s (regVf s)).hvvec.getLsbD 0 = true → trapsWith (.hvcall i) { cause := 0x05 } s) ∧
    (canIssue (.hvcall i) s → q.level < 2 → (getVf s (regVf s)).hvvec ≠ 0 → (getVf s (regVf s)).hvvec.getLsbD 0 = false → ∃ t, exec (.hvcall i) s = .next t ∧ t = { s with queues := t.queues } ∧
      pcOf t = (getVf s (regVf s)).hvvec ∧ (getQueue t qid).trpc = queueNext q 4 ∧ (getQueue t qid).traux = i.setWidth 32 ∧
      (getQueue t qid).level = 2 ∧ (getQueue t qid).trapped = true ∧ (getQueue t qid).regs = q.regs) ∧
    (∀ img t v, canIssue (.ctxsw d a) s → ctxBlockBad b8 true = false → slotLoaded s vf slot = true → readImage s (pairAt b8 4) = .ok (img, t) →
      imageBad s vf slot img = false →
      (q.swap = none → exec (.ctxsw d a) s = .next (waitOn .work (modQueue t qid (fun x => { x with swap := some slot, swapAt := s.time })))) ∧
      (q.swap ≠ none → swapOverdue s qid = true → exec (.ctxsw d a) s = .next (rollBack s qid slot)) ∧
      (q.swap ≠ none → swapOverdue s qid = false → slotPending s vf slot = true → exec (.ctxsw d a) s = .next (waitOn .work s)) ∧
      (q.swap ≠ none → swapOverdue s qid = false → slotPending s vf slot = false → saveSlot (endStatus (modQueue t qid (fun x => { x with swap := none })) (uses (.ctxsw d a)) d 0) vf slot (pairAt b8 2) = .ok v →
        exec (.ctxsw d a) s = .next (loadSlot (unloadSlot v vf slot (some (pairAt b8 2))) vf slot (parseSlot img) (entryPas s (pairAt b8 4))))) ∧
    (canIssue (.ctxsv d a f) s → ctxBlockBad b false = false → slotLoaded s vf slot = true → slotPending s vf slot = true →
      exec (.ctxsv d a f) s = .next (waitOn .work (modQueue s qid (fun x => { x with saving := some slot })))) ∧
    (∀ t, canIssue (.ctxsv d a f) s → ctxBlockBad b false = false → slotLoaded s vf slot = true → slotPending s vf slot = false →
      saveSlot (endStatus (modQueue s qid (fun x => { x with saving := none })) (uses (.ctxsv d a f)) d 0) vf slot (pairAt b 2) = .ok t →
      (f = 1 → exec (.ctxsv d a f) s = .next (unloadSlot t vf slot (some (pairAt b 2)))) ∧
      (f = 0 → exec (.ctxsv d a f) s = .next ((queuesIn (slotOf t vf slot).qmask).foldl (fun t q => abandon t (vf * 64 + q)) t))) ∧
    (∀ img t, canIssue (.ctxld d a) s → ctxBlockBad b false = false → slotLoaded s vf slot = false → readImage s (pairAt b 2) = .ok (img, t) →
      imageBad s vf slot img = false →
      exec (.ctxld d a) s = .next (loadSlot (endStatus t (uses (.ctxld d a)) d 0) vf slot (parseSlot img) (entryPas s (pairAt b 2)))) ∧
    (∀ k ∈ [(Instr.dectabLoad d a, dectabResult s b false), (.dectabClr d a, dectabResult s b true), (.qosset d a, .ok (qossetResult s b))],
      ∀ st t, canIssue k.1 s → k.2 = .ok (st, t) → exec k.1 s = .next (endStatus t (uses k.1) d st)) ∧
    (canIssue (.starfix d) s →
      (mayTrigger s = true → ∀ n t, trigger s = (some n, t) → exec (.starfix d) s = .next (finish (uses (.starfix d)) 4 (writeField t d.toNat 0 (BitVec.ofNat 32 n)))) ∧
      (mayTrigger s = true → ∀ t, trigger s = (none, t) → exec (.starfix d) s = .next (finish (uses (.starfix d)) 4 (writeField t d.toNat 0 0xFFFFFFFF))) ∧
      (mayTrigger s = false → exec (.starfix d) s = .next (finish (uses (.starfix d)) 4 (writeField s d.toNat 0 0xFFFFFFFE)))) ∧
    (canIssue .halt s →
      let t := { s with stage := .halting, haltBy := qid, haltFrom := stageNow s }
      (haltWaits t = false → exec .halt s = .next (finish [] 4 { flushL2 t with stage := .halted, throttle := 3, throttledAt := s.time })) ∧
      (haltWaits t = true → exec .halt s = .next (waitOn .work t)))

/-! ## What happens between instructions -/

/-- R78, R93, R94, R434, R435, R433: a write of GTCMP, WDL or MFR from outside changes that register of the group and nothing else; CHRCTL's RESTART clears a ring's halt; HVCTX, PASSGH, a doorbell and a notice reach the contexts that they name, PASSGH of a process that is not loaded its saved entry. When each happens is chosen by the agenda (log 4). -/
def Obligations.ControlWritesAct : Prop :=
  ∀ (gid vf pkg qid : Nat) (v : BitVec 64) (w gh : BitVec 32) (s : State),
    ((tabFind s.groups gid).isSome = true →
      (∃ t, exec (.gtcmpWrite gid v) s = .next t ∧ groupOnly gid s t ∧ getGroup t gid = { getGroup s gid with gtcmp := v }) ∧
      (∃ t, exec (.wdlWrite gid v) s = .next t ∧ groupOnly gid s t ∧ getGroup t gid = { getGroup s gid with wdl := v }) ∧
      (matrixBusy s gid = false → ∃ t, exec (.mfrAccess gid (some w)) s = .next t ∧ groupOnly gid s t ∧
        getGroup t gid = { getGroup s gid with mfr := w &&& 0x1F }) ∧
      exec (.mfrAccess gid none) s = .next s ∧
      exec (.trapNotice gid) s = .next (deliverNotice s gid)) ∧
    (pkg < Config.packages → ∃ t, exec (.chrctlRestart vf pkg) s = .next t ∧ t = { s with rings := t.rings, vfs := t.vfs } ∧
      getRing t pkg vf = { getRing s pkg vf with halted := false } ∧
      (getVf t vf).chhalt = (getVf s vf).chhalt &&& ~~~(BitVec.ofNat 48 (2 ^ pkg))) ∧
    (∀ g r, groupOfHandle s gh = some g → (getGroup s g).trap = some r → (gridOf s g).vf = vf → r.hv = true →
      (∀ c, tabFind s.queues (gridOf s g).qid = some c → c.inst = (gridOf s g).inst →
      ∃ t, exec (.passgh vf gh) s = .next t ∧ t = { s with queues := t.queues } ∧
        getQueue t (gridOf s g).qid = { getQueue s (gridOf s g).qid with notices := (getQueue s (gridOf s g).qid).notices ++ [noticeOf g r] }) ∧
      (∀ c, tabFind s.queues (gridOf s g).qid = none → s.saved.find? (fun c => decide (c.vf = vf) && decide (c.inst = (gridOf s g).inst)) = some c →
        exec (.passgh vf gh) s = .next (holdNotice s c (noticeOf g r)))) ∧
    exec (.hvctxWrite vf w) s = .next (deliverHeld (setVf s vf { getVf s vf with hvctx := w &&& hvctxMask }) vf) ∧
    ((tabFind s.queues qid).isSome = true →
      (qid / 64 = hostVf → ∃ t, exec (.queueDoorbell qid w) s = .next t ∧ t = { s with queues := t.queues } ∧
        getQueue t qid = { getQueue s qid with tail := w.toNat }) ∧
      (∀ u, qid / 64 ≠ hostVf → (getVf s (qid / 64)).qtab ≠ 0 →
        (∃ r, writeVirt s (slotSpace s (qid / 64) 0 1) ((getVf s (qid / 64)).qtab.toNat + 64 * (qid % 64) + 12) (leBytes 4 w.toNat) = .ok (r, u)) →
        exec (.queueDoorbell qid w) s = .next (readDescriptor u qid)))

/-- R93, R94, R231, R385, R416, R420, R442, R452, R490, R499: each limit acts when it is reached, and not before: the timers trap the group with TIMER and disarm, the watchdogs trap with WATCHDOG or fault the queue, the time cap of a .det team reaches every group that is not done, a TRAPPED one after its ERET, an access that has waited 10 ms on a migrating page may end, a due lease is revoked, a launch or a collective instance that waited too long fails, and a CTXSW that has lasted 20 µs while its VF is to give way is undone. When each is looked at is chosen by the agenda (log 4). -/
def Obligations.LimitsAct : Prop :=
  ∀ (gid qid tag pkg vf grid n inst : Nat) (s : State),
    (mayTakeTimer s gid = true →
      let g := getGroup s gid
      let aux : Nat := (if gtimeDue g then 1 else 0) + (if wallDue s g then 2 else 0)
      let disarmed := setGroup s gid { g with
        gtcmp := if gtimeDue g then BitVec.allOnes 64 else g.gtcmp, wdl := if wallDue s g then BitVec.allOnes 64 else g.wdl, feDone := 0 }
      (gtimeDue g = true → exec (.gtcmpFire gid) s = .next (trapGroup disarmed gid { cause := 0x13, aux := BitVec.ofNat 32 aux } g.pc)) ∧
      (wallDue s g = true → exec (.wdlFire gid) s = .next (trapGroup disarmed gid { cause := 0x13, aux := BitVec.ofNat 32 aux } g.pc))) ∧
    (gtimeDue (getGroup s gid) = false → exec (.gtcmpFire gid) s = .next s) ∧
    (wallDue s (getGroup s gid) = false → exec (.wdlFire gid) s = .next s) ∧
    (∀ g, tabFind s.groups gid = some g → wdogLimit s ≤ g.wdog →
      let u := modGroup s gid (fun g => { g with feDone := 0 })
      exec (.hangWatchdog (.group gid)) s = .next (trapGroup u gid { cause := 0x14 } g.pc) ∧
      (recordWritable u gid → ∃ t r, exec (.hangWatchdog (.group gid)) s = .next t ∧ (getGroup t gid).run = .trapped ∧ (getGroup t gid).trap = some r ∧
        r.trap.cause = 0x14 ∧ r.trap.aux = 0 ∧ r.pc = g.pc)) ∧
    (∀ g, tabFind s.groups gid = some g → g.wdog < wdogLimit s → exec (.hangWatchdog (.group gid)) s = .next s) ∧
    (∀ q, tabFind s.queues qid = some q → wdogLimit s ≤ q.wdog →
      exec (.hangWatchdog (.queue qid)) s = .next (queueFaulted s qid { cause := 0x14 })) ∧
    (∀ q, tabFind s.queues qid = some q → q.wdog < wdogLimit s → exec (.hangWatchdog (.queue qid)) s = .next s) ∧
    (∀ t, tabFind s.teams tag = some t → (getGrid s t.grid).det = true → t.capFired = false → ((getGrid s t.grid).tcap : Int) ≤ t.capCount →
      let gs := (teamGids s tag).filter (fun g => decide (groupRun s g ≠ .done))
      let u := gs.foldl (fun u g => modGroup u g (fun x => { x with capDue := true })) (modTeam s tag (fun t => { t with capFired := true }))
      exec (.detTeamTimeCap tag) s = .next ((gs.filter (fun g => (getGroup u g).recDue.isNone && decide (groupRun u g ≠ .trapped))).foldl
        (fun u g => trapGroup (setGroup u g { getGroup u g with capDue := false, feDone := 0 }) g { cause := 0x14, aux := 1 } (getGroup u g).pc) u)) ∧
    (∀ t, tabFind s.teams tag = some t → t.capCount < ((getGrid s t.grid).tcap : Int) → exec (.detTeamTimeCap tag) s = .next s) ∧
    (∀ t, getTask s pkg vf = some t → t.started = true → t.compact = false → 2000000 ≤ t.stalled →
      (t.aDone = true → t.xDone = false → exec (.cheTaskWatchdog pkg vf) s = .next (faultTask s pkg vf 0x14 1 t.xpc 0)) ∧
      (t.aDone = false → t.xDone = true → exec (.cheTaskWatchdog pkg vf) s = .next (faultTask s pkg vf 0x14 0 t.apc 0)) ∧
      (t.aDone = t.xDone → ∃ u, exec (.cheTaskWatchdog pkg vf) s = .next (faultTask u pkg vf 0x14 0 t.apc 0) ∨
        exec (.cheTaskWatchdog pkg vf) s = .next (faultTask u pkg vf 0x14 1 t.xpc 0))) ∧
    (∀ t, getTask s pkg vf = some t → t.stalled < 2000000 → exec (.cheTaskWatchdog pkg vf) s = .next s) ∧
    (∀ l d, (getGrid s grid).leases.find? (fun l => l.n = n) = some l → l.pending = some d →
      (l.revoked = false → d ≤ s.time → exec (.leaseTimeout grid n) s = .next (revokeLease s grid l)) ∧
      (s.time < d → exec (.leaseTimeout grid n) s = .next s)) ∧
    (∀ leaf since, (getGroup s gid).mwait = some (leaf, since) → ∃ t, exec (.migrationLimit (.group gid)) s = .next t ∧
      t = { s with groups := t.groups, works := t.works } ∧
      getGroup t gid = { getGroup s gid with mlimit := (getGroup t gid).mlimit, axp := (getGroup t gid).axp } ∧
      (since + 20000000 ≤ s.time → (getGroup t gid).mlimit = true) ∧ (s.time < since + 20000000 → (getGroup t gid).mlimit = (getGroup s gid).mlimit) ∧
      ∀ w ∈ t.works, w.agent = .group gid → ∀ m, w.mwait = some m → m.2 + 20000000 ≤ s.time → w.mlimit = true) ∧
    (∀ g, tabFind s.grids grid = some g → g.waiting = true → g.home = none → g.issuedAt + 2000000000 ≤ s.time →
      exec (.placementLimit grid) s = .next (failLaunch s grid 0x01 (if g.mods.length < g.minMods then 0x43 else 0x44))) ∧
    (∀ g, tabFind s.grids grid = some g → s.time < g.issuedAt + 2000000000 → exec (.placementLimit grid) s = .next s) ∧
    (∀ c, s.colls.find? (fun c => c.id = inst) = some c →
      (c.full = false → c.closed = false → c.opened + 2000000000 ≤ s.time →
        exec (.collGatherTimeout inst) s = .next (c.works.foldl (fun s id => endWork s id 0x14 0) (setColl s { c with closed := true }))) ∧
      (s.time < c.opened + 2000000000 → exec (.collGatherTimeout inst) s = .next s)) ∧
    (∀ slot, (getQueue s qid).swap = some slot →
      (swapOverdue s qid = true → exec (.ctxswRollback qid) s = .next (rollBack s qid slot) ∧
        (getQueue (rollBack s qid slot) qid).swap = none ∧ (getQueue (rollBack s qid slot) qid).wait = none ∧
        (getQueue (rollBack s qid slot) qid).state ≠ .waiting) ∧
      (swapOverdue s qid = false → exec (.ctxswRollback qid) s = .next s))

/-- R104, R108, R155, R242, R255-R260, R374-R376, R436, R446, R452, R490: the scheduler's events act when their conditions hold and change nothing otherwise: requests, saves, placements, restores, evictions, retirements, barrier completions and quanta. When each is looked at is chosen by the agenda (log 4); which unlisted registers a saved team keeps (log 47), that its groups stay stopped while a forced save waits (log 77), when a process slot is in its quantum (log 78), that the groups of a team that is placed again keep their ages (log 86) and the order of a round of rings (log 79) are the model's choices too. -/
def Obligations.SchedulingEventsAct : Prop :=
  ∀ (tag core p0 gid grid m qp pkg vf : Nat) (a : Bool) (s : State),
    (∀ x, tabFind s.teams tag = some x →
      let tags := if (getGrid s x.grid).gang then (s.teams.filter (fun p => decide (p.2.grid = x.grid))).map (·.1) else [tag]
      (mayPreempt s tag = true → exec (.preemptionRequest tag) s = .next (tags.foldl (fun s t => flushTeam (preemptTeam s t) t) s)) ∧
      (x.res = .flushing → exec (.preemptionRequest tag) s = .next (tags.foldl flushTeam s)) ∧
      (mayPreempt s tag = false → x.res ≠ .flushing → exec (.preemptionRequest tag) s = .next s) ∧
      (x.res = .held → x.core = core → s.stage = .summit → seatsFree s core x.p0 x.ngrp = true →
        exec (.teamRestore tag core p0) s = .next (repeatGang (resumeTeam (takeSlots s tag core) tag core) x.grid)) ∧
      (let u := spillUntil (fun u => roomFor u tag core p0) s (heldTags s core)
       x.res = .spilled ∨ evictedReady s tag = true → s.stage = .summit → roomFor u tag core p0 = true →
        exec (.teamRestore tag core p0) s = .next (repeatGang (resumeTeam (seatTeam u tag core p0) tag core) x.grid)) ∧
      (x.res.issues = true → (getGrid s x.grid).gang = false → isVictim s tag = true → teamQuiet s tag = true → placementShort s = true →
        exec (.victimEviction tag) s = .next (leaveCore s tag .evicted)) ∧
      (isSaving x = true → 40000 ≤ savingFor x → (teamGids s tag).all (fun g => isAt (getGroup s g) .tbar) = false →
        let u := modTeam s tag (fun t => { t with res := .saving (savingFor x) true })
        (teamQuiet u tag = true → exec (.forcedSave tag) s = .next (keepTeam u tag).2) ∧
        (teamQuiet u tag = false → exec (.forcedSave tag) s = .next u)) ∧
      (isSaving x = true → savingFor x < 40000 ∨ (teamGids s tag).all (fun g => isAt (getGroup s g) .tbar) = true →
        exec (.forcedSave tag) s = .next s) ∧
      (isSaving x = true → (∀ g ∈ teamGids s tag, isAt (getGroup s g) .tbar = true) → teamQuiet s tag = true →
        exec (.saveAtTbar tag) s = .next (let k := keepTeam s tag
          if k.1 then (if (freeBool k.2).1 then discardDead (freeBool k.2).2 tag else (freeBool k.2).2) else discardDead k.2 tag))) ∧
    (∀ g v, tabFind s.grids grid = some g → wantsCore s g = true → 1 ≤ tag → tag ≤ 65535 → tabFind s.teams tag = none →
      s.stage = .summit → s.teams.any (fun p => evictedReady s p.1 && (List.range 4).any (fun q => roomFor (sansHeld s) p.1 core q)) = false →
      let fits (u : State) : Bool := roomOn u core p0 (gridBudgets g) g.spad (decide (g.access ≠ 0))
      let u := spillUntil fits s (heldTags s core)
      fits u = true → reserved s g.vf core = false → withSat u grid (clusterOfCore core) = some v →
      exec (.teamPlacement grid core p0 tag) s = .next (placeTeam v grid core p0 tag)) ∧
    (∀ g, tabFind s.grids grid = some g → heldHere s g = false → exec (.teamPlacement grid core p0 tag) s = .next s) ∧
    (∀ g, tabFind s.groups gid = some g → g.run = .done → tokensFull s gid = true → g.sq = [] → s.pending = [] →
      (∀ c ∈ s.cores, c.2.matrix = []) → exec (.groupRetirement gid) s = .next (retireGroup s gid)) ∧
    (∀ w, gridDone s grid = true → getWork s grid = some w →
      ∃ t, exec (.gridRetirement grid) s = .next t ∧ t.grids = tabErase s.grids grid ∧ (∀ c ∈ t.colls, c.grid ≠ grid) ∧
        ∀ v ∈ t.works, v.id = grid → v.ended = true ∧ v.status = (getGrid s grid).ended.getD 0) ∧
    (gridDone s grid = false → exec (.gridRetirement grid) s = .next s) ∧
    (stepArrived s grid = true → exec (.stepBarrierComplete grid .keep) s = .next (releaseStep (setGrid s grid (getGrid s grid)) grid)) ∧
    (stepArrived s grid = false → ∀ c, exec (.stepBarrierComplete grid c) s = .next s) ∧
    exec (.teamBarrierComplete (.team tag)) s = .next (tryTbar s tag) ∧
    (gbarArrived s grid = true → exec (.teamBarrierComplete (.grid grid)) s = .next (releaseGbar s grid)) ∧
    (∀ g, tabFind s.grids grid = some g → 1 < g.maxMods → g.home = none → placedAll g = 0 → g.mods.length < g.maxMods → nextOffer s g = some m →
      exec (.gridOfferReceived grid m a) s = .next (startGrid (setGrid s grid { g with
        offered := g.offered ++ [m], mods := if a then addModule g.mods m else g.mods }) grid)) ∧
    (qp < 8 → qp ∉ s.qpAsked → vfRunnable s (tabGet s.qpVf qp 0) = true →
      tabGet s.qpQuanta qp 0 + 1 < turnWeight s (tabGet s.qpVf qp 0) →
      exec (.qpQuantumExpiry qp) s = .next { s with qpQuanta := tabPut s.qpQuanta qp (tabGet s.qpQuanta qp 0 + 1) }) ∧
    (let cur := tabGet s.qpVf qp 0
     ∀ v, qp < 8 → qp ∈ s.qpAsked ∨ vfRunnable s cur = false ∨ turnWeight s cur ≤ tabGet s.qpQuanta qp 0 + 1 →
      ((List.range (hostVf + 1)).map (fun i => (cur + 1 + i) % (hostVf + 1))).find? (fun v => decide (v ≠ cur) && vfRunnable s v) = some v →
      (swapping s cur = true → exec (.qpQuantumExpiry qp) s = .next { s with qpAsked := qp :: s.qpAsked.filter (· ≠ qp) }) ∧
      (swapping s cur = false → exec (.qpQuantumExpiry qp) s = .next (unserved { s with
        qpVf := tabPut s.qpVf qp v, qpQuanta := tabErase s.qpQuanta qp, qpAsked := s.qpAsked.filter (· ≠ qp) } cur))) ∧
    (∀ t v r, tabGet s.cheTurn pkg 0 = vf → getTask s pkg vf = some t → t.started = true → (∀ f ∈ t.fetch, f.data ≠ none) →
      tabGet s.cheSince pkg 0 + cheQuant s vf ≤ s.time →
      ((List.range Config.vfs).map (fun i => (vf + 1 + i) % Config.vfs)).filter (fun u => decide (u ≠ vf) && ringReady s pkg u) = v :: r →
      (tabGet s.cheQuanta pkg 0 + 1 < cheWeight s vf →
        exec (.cheQuantumExpiry pkg) s = .next { s with
          cheTurn := tabPut s.cheTurn pkg vf, cheSince := tabPut s.cheSince pkg s.time, cheQuanta := tabPut s.cheQuanta pkg (tabGet s.cheQuanta pkg 0 + 1) }) ∧
      (cheWeight s vf ≤ tabGet s.cheQuanta pkg 0 + 1 →
        exec (.cheQuantumExpiry pkg) s = .next { s with
          cheTurn := tabPut s.cheTurn pkg v, cheSince := tabPut s.cheSince pkg s.time, cheQuanta := tabErase s.cheQuanta pkg })) ∧
    (s.time < tabGet s.cheSince pkg 0 + cheQuant s (tabGet s.cheTurn pkg 0) → exec (.cheQuantumExpiry pkg) s = .next s) ∧
    (∀ t w, getTask s pkg vf = some t → cheNext s pkg = some vf → cheIdle s pkg = true → t.started = false → t.doomed = false → t.compact = false →
      getWork s t.work = some w → tabGet s.cheTurn pkg 0 ≠ vf →
      exec (.cheTaskStart pkg vf) s = .next (startTask { s with
        cheTurn := tabPut s.cheTurn pkg vf, cheSince := tabPut s.cheSince pkg s.time, cheQuanta := tabErase s.cheQuanta pkg } pkg vf t w)) ∧
    (∀ t, getTask s pkg vf = some t → t.started = true → t.aDone = true → t.xDone = true → t.stores = [] →
      exec (.cheTaskEnd pkg vf) s = .next (endWork (setRing s pkg vf { getRing s pkg vf with tasks := (getRing s pkg vf).tasks.tail }) t.work 0 0))

/-- R261-R263, R368, R428, R441, R456-R477, R480, R482, R501: the platform's events act. Power good, Camp 1, Summit, management reset and power failure move through the stages, with what each leaves of the module; the trigger pin and the management endpoint latch a snapshot, which is read once all its blocks have latched; health and attestation are reported; messages and remote requests write and read at the homes, a message behind the earlier ones of its ordered stream; holds, retirements, retraining, the scrubber and throttling change what they name; Almanac publishes a generation; the journal's next row goes through INTENT, VERIFY and COMMIT; a VF opens and closes; and a granule is assigned. When each happens is chosen by the agenda (log 4); which errors stand and which draws are measured is open (log 95, log 56), and which firmware contexts Camp 1 starts (log 73), the layout of a report (log 12), the MAC addresses and the management endpoint's memory (log 98) and who takes OVERCOMMIT (log 74) are the model's choices. -/
def Obligations.PlatformEventsAct : Prop :=
  ∀ (n vf port vl die : Nat) (modn : BitVec 9) (mem : BitVec 4) (routes : List Nat) (va : BitVec 64) (bytes : List (BitVec 8)) (draw : BitVec 16)
    (nonce : List (BitVec 8)) (sets : List Publication) (pub : Publication) (cfg : VfConfig) (asked : Option Nat) (hdr : UetHeader) (s : State),
    (s.stage = .off → ∃ t, exec .powerGood s = .next t ∧ t.stage = .camp0 ∧ t.time = 0 ∧ t.groups = [] ∧ t.queues = [] ∧ t.works = [] ∧
      t.mem = s.mem ∧ t.journal = s.journal ∧ t.firmware = s.firmware ∧ t.healthCodes = firmwareCodes s ∧ ∀ p ∈ t.tiles, p.2.state = .safe) ∧
    (s.stage ≠ .off → exec .powerGood s = .next s) ∧
    (s.stage = .camp0 → s.healthCodes = [] → s.stageFailed = none → mem.toNat ≤ 1 → exec (.camp1 modn mem routes) s = .next ((List.range Config.arrayDies).foldl replayAll
      (startFirmware (wakeTiles { s with stage := .camp1, modn := modn, memCode := mem, routes := routes })))) ∧
    (s.stage ≠ .camp0 ∨ s.healthCodes ≠ [] ∨ s.stageFailed ≠ none ∨ 1 < mem.toNat → exec (.camp1 modn mem routes) s = .next s) ∧
    (s.stage = .camp1 → s.stageFailed = none → (∀ p ∈ s.tiles, p.2.programmed = true → p.2.state ≠ .uncal) → exec .summit s = .next { s with stage := .summit }) ∧
    (s.stage ≠ .camp1 ∨ s.stageFailed ≠ none → exec .summit s = .next s) ∧
    (s.stage = .halted → ∃ t, exec .managementReset s = .next t ∧ t.stage = .camp0 ∧ t.time = s.time ∧ t.groups = [] ∧ t.queues = [] ∧ t.journal = s.journal ∧
      (t.mem = s.mem ∨ t.mem = [])) ∧
    (s.stage ≠ .halted → exec .managementReset s = .next s) ∧
    (s.stage ≠ .off →
      (∃ t, exec .powerFailure s = .next t ∧ t.stage = .off ∧ t.mem = [] ∧ t.groups = [] ∧ t.queues = [] ∧ t.works = [] ∧ ∀ p ∈ t.tiles, p.2.state = .safe) ∧
      exec .healthRequest s = .next { s with out := s.out ++ [.health s.healthCodes s.overrun s.stageFailed] } ∧
      (nonce.length = 32 → (∀ v, asked = some v → v < Config.vfs ∧ (getVf s v).endpoint = true) → exec (.attestationRequest asked nonce) s =
        .next { s with out := s.out ++ [.attestation (reportBytes s asked nonce) (signatureOf (reportBytes s asked nonce))] })) ∧
    (pastCamp0 s = true →
      (∀ x, s.lastSnap = some x → s.time < x.2 + 8 → exec .starfixTriggerPin s = .next s ∧ exec .managementStarfix s = .next s) ∧
      ((∀ x, s.lastSnap = some x → x.2 + 8 ≤ s.time) →
        (4 ≤ s.snapshots.length → exec .starfixTriggerPin s = .next s ∧ exec .managementStarfix s = .next s) ∧
        (s.snapshots.length < 4 → ∃ t x, exec .starfixTriggerPin s = .next t ∧ exec .managementStarfix s = .next t ∧
          t = { s with fresh := t.fresh, snapshots := s.snapshots ++ [x], snapSeq := (s.snapSeq + 1) % 0xFFFFFFFE, lastSnap := some (s.snapSeq, s.time) } ∧
          x.seq = s.snapSeq ∧ x.trigger = s.time ∧ x.instants.length = 528 ∧ ∀ i ∈ x.instants, s.time ≤ i ∧ i ≤ s.time + 8)) ∧
      (∀ x, s.snapshots.find? (fun x => x.seq = n) = some x →
        ((∀ i ∈ x.instants, i < s.time) →
          exec (.snapshotRead n) s = .next { s with snapshots := s.snapshots.filter (fun y => decide (y.seq ≠ n)), out := s.out ++ [.snapshot x] }) ∧
        ((∃ i ∈ x.instants, s.time ≤ i) → exec (.snapshotRead n) s = .next s))) ∧
    (pastCamp0 s = false → exec .starfixTriggerPin s = .next s ∧ exec .managementStarfix s = .next s ∧ exec (.snapshotRead n) s = .next s) ∧
    (let e := endpointOf hdr.mac
     let m : Arrival := { endpoint := e, stream := hdr.stream, va := va.toNat, bytes := bytes, since := s.time }
     let u := { s with inbox := s.inbox ++ [m] }
     (frameTaken s e bytes.length = false → exec (.uetWriteReceived hdr va bytes) s = .next s) ∧
     (frameTaken s e bytes.length = true →
       (hdr.stream ≠ none → (∃ g ∈ s.inbox, g.endpoint = e ∧ g.stream = hdr.stream) → exec (.uetWriteReceived hdr va bytes) s = .next u) ∧
       (hdr.stream = none ∨ (∀ g ∈ s.inbox, ¬(g.endpoint = e ∧ g.stream = hdr.stream)) →
         (∀ ls t, e ≠ Config.vfs → frameLocs u e va.toNat bytes.length .write = .ok (ls, t) → (∀ l ∈ ls, claimed t l = false) →
           exec (.uetWriteReceived hdr va bytes) s = .next (keepCounts s { locWrites t none (ls.zip bytes) with inbox := s.inbox })) ∧
         (e = Config.vfs → tabRising s.mgmtMem = true → ∃ t, exec (.uetWriteReceived hdr va bytes) s = .next t ∧ t = { s with mgmtMem := t.mgmtMem } ∧
           ∀ i, i < bytes.length → tabGet t.mgmtMem ((va.toNat + i) % 2 ^ 64) 0 = bytes.getD i 0))) ∧
     (endpointUp s e = false → exec (.uetReadReceived hdr.mac va n) s = .next s) ∧
     (∀ ls t, endpointUp s e = true → e ≠ Config.vfs → frameLocs s e va.toNat n .read = .ok (ls, t) → (∀ l ∈ ls, claimed t l = false) →
       exec (.uetReadReceived hdr.mac va n) s = .next (let u := ((ls.map Loc.key).eraseDups).foldl serveLine t
         keepCounts s { u with out := u.out ++ [.uetRead e (some (ls.map (locRead u)))] })) ∧
     (endpointUp s e = true → e = Config.vfs → exec (.uetReadReceived hdr.mac va n) s =
       .next { s with out := s.out ++ [.uetRead e (some ((List.range n).map (fun i => tabGet s.mgmtMem ((va.toNat + i) % 2 ^ 64) 0)))] })) ∧
    (∀ r : PortReq, atWork s = true → isLocal s (remotePlace r.req).1 = true → (remotePlace r.req).2 ≠ 0 →
      lineOf (remotePlace r.req).1 = lineOf ((remotePlace r.req).1 + (remotePlace r.req).2 - 1) → claimed s (.glob (remotePlace r.req).1) = false → badClass s (remotePlace r.req).1 = none →
      let u := serveLine s (lineOf (remotePlace r.req).1)
      let old := memReadList u.mem (remotePlace r.req).1 (remotePlace r.req).2
      let reply : Message := .remoteReply r.port (some (match r.req with | .store _ _ => [] | _ => old))
      (∀ q ∈ waitersAt u (lineOf (remotePlace r.req).1), q.2.dec = false) →
      ∃ t, exec (.remoteRequestReceived r) s = .next t ∧
        (s.heldVls.contains (r.port, 1) = false → t.out = s.out ++ [reply] ∧ t.replies = s.replies) ∧
        (s.heldVls.contains (r.port, 1) = true → t.out = s.out ∧ t.replies = s.replies ++ [reply]) ∧
        (match r.req with
         | .load _ _ => t.mem = u.mem
         | .store pa bs => t.mem = memWriteList u.mem pa bs
         | .atom pa op _ v => t.mem = memWriteList u.mem pa (opBytes op.toNat old (leBytes (remotePlace r.req).2 v.toNat))
         | .cas pa e v => t.mem = if leNat old = e.toNat then memWriteList u.mem pa (leBytes 8 v.toNat) else u.mem)) ∧
    (port < Config.ports → vl < 4 →
      (∃ t, exec (.vlHold port vl true) s = .next t ∧ t = { s with heldVls := t.heldVls } ∧ (port, vl) ∈ t.heldVls) ∧
      (∃ t, exec (.vlHold port vl false) s = .next t ∧ t = { s with heldVls := t.heldVls, replies := t.replies, out := t.out } ∧ (port, vl) ∉ t.heldVls ∧
        (vl ≠ 1 → t.replies = s.replies ∧ t.out = s.out) ∧
        (vl = 1 → t.out = s.out ++ s.replies.filter (Message.viaPort port) ∧ ∀ m ∈ t.replies, m.viaPort port = false))) ∧
    (s.stage = .camp1 ∨ s.stage = .summit ∨ s.stage = .halting →
      exec (.almanacPublication sets) s = .next (sets.foldl (installSet (s.cgen.toNat + 1)) { s with cgen := s.cgen + 1 }) ∧
      (let k := tileNo pub.die pub.tile
       (arrTile s k).programmed = true → (arrTile s k).state ≠ .safe → (arrTile s k).state ≠ .reprogramming →
       ∃ t c, exec (.almanacPublication [pub]) s = .next t ∧ t.cgen = s.cgen + 1 ∧ tabFind t.calCur k = some c ∧
         c.gen = s.cgen.toNat + 1 ∧ c.gain = pub.gain ∧ c.offset = pub.offset ∧ c.rank = min pub.rank 8 ∧
         ((arrTile t k).state = .ready ∨ (arrTile t k).state = .drift))) ∧
    (s.stage = .camp1 ∨ s.stage = .summit → ∀ tile r bs, backgroundRow s die tile = some (r, bs) →
      let k := tileNo die tile
      ∃ t, exec (.journalBackgroundRow die tile) s = .next t ∧ t = rowStep s die tile r bs ∧
        (rowHas s die tile 1 r = false → rowHas t die tile 1 r = true ∧ arrTile t k = arrTile s k) ∧
        (rowHas s die tile 1 r = true → (arrTile s k).verified = some r → rowHas t die tile 4 r = true ∧ arrTile t k = { arrTile s k with verified := none }) ∧
        (rowHas s die tile 1 r = true → (arrTile s k).verified ≠ some r → rowHas t die tile 3 r = true ∧
          (((arrTile t k).err = 1 ∧ (arrTile t k).failRow = r) ∨ (arrTile t k).verified = some r))) ∧
    (atWork s = true → isLocal s (n * 128) = true → n * 128 % 2 ^ 48 < Config.capacity s.memCode →
      let held := (tabFind s.lpddr n).isSome || (tabFind s.l2 n).isSome
      exec (.patrolScrub n .clean) s = .next s ∧
      exec (.patrolScrub n .corrected) s = .next (logError s (if held then 0x03 else 0x05) (n * 128) 255 false) ∧
      ((tabFind s.lpddr n).isSome = true → exec (.patrolScrub n .uncorrectable) s =
        .next (logError { s with badLines := insertNat s.badLines n } 0x03 (n * 128) 255 true)) ∧
      (tabFind s.lpddr n = none → (tabFind s.l2 n).isSome = true → exec (.patrolScrub n .uncorrectable) s =
        .next (logError { s with struck := .l2 n :: s.struck.filter (· ≠ .l2 n) } 0x03 (n * 128) 255 true)) ∧
      (held = false → exec (.patrolScrub n .uncorrectable) s =
        .next (logError { s with badLow := insertNat s.badLow n } 0x05 (n * 128) 255 true))) ∧
    (s.throttle < 2 → s.pwrcap ≠ 0 → (s.pwrcap.toNat ≤ draw.toNat → ∃ t, exec (.throttleDeeper none draw) s = .next t ∧ t.throttle = s.throttle + 1 ∧ t.overrun = false) ∧
      (draw.toNat < s.pwrcap.toNat → exec (.throttleDeeper none draw) s = .next s)) ∧
    (s.throttle = 2 → s.pwrcap.toNat < draw.toNat → ∃ t, exec (.throttleDeeper none draw) s = .next t ∧ t.throttle = 2 ∧ t.overrun = true) ∧
    (0 < s.throttle → s.throttle < 3 → draw.toNat * 10 < s.pwrcap.toNat * 9 → ∀ since, s.lowSince = some since →
      (since + 20000000 ≤ s.time → ∃ t, exec (.throttleBack none draw) s = .next t ∧ t.throttle = s.throttle - 1 ∧ t.overrun = false) ∧
      (s.time < since + 20000000 → exec (.throttleBack none draw) s = .next s)) ∧
    (vf < Config.vfs → (getVf s vf).vfpcap ≠ 0 → (getVf s vf).vfpcap.toNat ≤ draw.toNat → (getVf s vf).throttled ≤ 2 →
      ∃ t, exec (.throttleDeeper (some vf) draw) s = .next t ∧ (getVf t vf).throttled = min 2 ((getVf s vf).throttled + 1)) ∧
    (vf < Config.vfs → draw.toNat * 10 < (getVf s vf).vfpcap.toNat * 9 → 0 < (getVf s vf).throttled → ∀ since, (getVf s vf).lowSince = some since → since + 20000000 ≤ s.time →
      ∃ t, exec (.throttleBack (some vf) draw) s = .next t ∧ (getVf t vf).throttled = (getVf s vf).throttled - 1) ∧
    (n < Config.clusters → (getCluster s n).retired = false →
      exec (.resourceRetirement false n) s = .next (scaleClusters (setCluster s n { getCluster s n with retired := true }))) ∧
    (n < Config.channels → n ∉ s.retiredChannels →
      exec (.resourceRetirement true n) s = .next (scaleBandwidth { s with retiredChannels := insertNat s.retiredChannels n })) ∧
    (∃ t, exec (.portRetirement port) s = .next t ∧ ∀ r ∈ t.routes, r / 512 ≠ port) ∧
    (die ∉ s.retraining → exec (.ucieLinkRetrain die none) s =
      .next (logError { s with retraining := s.retraining ++ [die] } 0x06 (Config.linkId 0x06 die) 255 true)) ∧
    (die ∈ s.retraining → ∃ t, exec (.ucieLinkRetrain die none) s = .next t ∧ t = { s with retraining := t.retraining } ∧ die ∉ t.retraining) ∧
    (vfBad s vf cfg = false → ∃ t, exec (.vfOpen vf cfg) s = .next t ∧ (getVf t vf).isOpen = true ∧ (getVf t vf).endpoint = true ∧ (getVf t vf).chhalt = (getVf s vf).chhalt ∧
      (getVf t vf).qtab = cfg.qtab ∧ (getVf t vf).htrt = hostRoot cfg.htrt ∧ (getVf t vf).hrdt = hostRange cfg.hrdt ∧ (getVf t vf).hvctx = cfg.hvctx &&& hvctxMask) ∧
    (vf < Config.vfs → (getVf s vf).isOpen = true → arrayInFlight s vf = false → ∃ t, exec (.vfClose vf) s = .next t ∧
      (getVf t vf).isOpen = false ∧ (getVf t vf).endpoint = false ∧ (getVf t vf).slots = []) ∧
    (atWork s = true → n < Config.clusters → port < 64 → vf < Config.vfs → tabRising (getCluster s n).mem = true →
      ∃ t, exec (.granuleAssignment n port (some vf)) s = .next t ∧ tabGet (getCluster t n).owner port 0 = vf + 1 ∧
        ∀ o, tabGet (getCluster t n).mem o 0 =
          if o / 65536 = port ∧ tabGet (getCluster s n).last port (vf + 1) ≠ vf + 1 then 0 else tabGet (getCluster s n).mem o 0)

/-- R88, R163, R182-R184, R199, R265, R286, R309, R410: work that instructions left goes on by steps of its own: a part of a load takes its bytes, and a load whose parts all have them returns: its registers hold them and are full; the oldest store of a group leaves its queue for the core's path, and the one that may perform leaves the path for its home; a CPY writes a destination line with the bytes that it read; a token fills with INDEX and STATUS once its work has ended; the matrix unit takes the oldest operation of its queue, and ACCZ zeroes its tile; the sequence engine takes the head of its queue, and SCCLR clears its entries; a prefix operation reads its bucket and writes bucket and result; an invalidation completes when what it waits for has drained; and a line leaves the L2. When each of these happens is chosen by the agenda (log 4). -/
def Obligations.WorkGoesOnByItself : Prop :=
  ∀ (gid id core cluster work piece line : Nat) (part : Option Nat) (s : State), atWork s = true →
    (∀ p, s.pending.find? (fun p => p.id = id) = some p → p.agent = .group gid ∨ p.agent = .axp gid →
      exec (.loadDataReturn gid id part) s = .next (loadReturn s id part) ∧
      (∀ k x, part = some k → p.kind.isLoad = true → p.parts[k]? = some x → x.done = false →
        (mayReturn s p x = false → exec (.loadDataReturn gid id part) s = .next s) ∧
        (mayReturn s p x = true → ∃ t q y, exec (.loadDataReturn gid id part) s = .next t ∧ t.pending.find? (fun p => p.id = id) = some q ∧
          q.parts[k]? = some y ∧ y.done = true ∧ ∀ b ∈ y.src, b.known = true)) ∧
      (∀ sg x, part = none → p.kind = .load sg → p.parts = [x] → x.done = true → x.off = 0 →
        let ws := loadWords sg (srcBytes x.src)
        let l := x.lane.getD 0
        ws ≠ [] → p.width ≤ 4 * ws.length → (p.dst + ws.length ≤ 88 ∧ l < 64) ∨ (96 ≤ p.dst ∧ p.dst + ws.length ≤ 127) →
        p.agent = .group gid → (tabFind s.groups gid).isSome = true → regsRising (getGroup s gid).regs →
        ∃ t, exec (.loadDataReturn gid id part) s = .next t ∧ t.pending = s.pending.filter (fun q => decide (q.id ≠ id)) ∧
          (∀ i, i < ws.length → readField { t with cur := p.agent } (p.dst + i) l = ws.getD i 0) ∧
          ∀ f ∈ dstFields p.dst p.width, isEmptyField { t with cur := p.agent } f = false)) ∧
    (sqOf s gid = [] → exec (.storePerform (.core gid)) s = .next s) ∧
    (∀ e rest, sqOf s gid = e :: rest →
      (mayLeave s (coreOfGroup s gid) gid e = false → exec (.storePerform (.core gid)) s = .next s) ∧
      (mayLeave s (coreOfGroup s gid) gid e = true → e.kind = .plain → s.badLines = [] → s.badLow = [] → s.struck = [] → ∃ t, exec (.storePerform (.core gid)) s = .next t ∧ sqOf t gid = rest ∧
        ∀ p pa b ws, e.parts = [p] → splitLines p.writes [] = [(.glob pa, b) :: ws] →
          (getCore t (coreOfGroup s gid)).out =
            (getCore s (coreOfGroup s gid)).out ++ [{ e with parts := [{ p with writes := (.glob pa, b) :: ws }], left := s.seq }])) ∧
    (∀ e, (getCore s core).out[id]? = some e →
      (mayPerform s core id e = false → exec (.storePerform (.home core id)) s = .next s) ∧
      (mayPerform s core id e = true → e.kind = .plain → remoteFails s e = false → ∃ t, exec (.storePerform (.home core id)) s = .next t ∧
        t = { locWrites { setCore s core { getCore s core with out := (getCore s core).out.eraseIdx id } with cur := .group e.gid } (some core)
          (e.parts.flatMap (·.writes)) with cur := s.cur } ∧
        (getCore t core).out = (getCore s core).out.eraseIdx id)) ∧
    (∀ w, getWork s work = some w →
      exec (.engineLineWrite work piece) s = .next (engineLine s w piece) ∧
      (w.kind = .cpy → w.ended = false → piece ∉ w.pieces → piece < lineCount (w.pair 2) (w.word 4) →
        let (o, k) := cpyPiece w piece
        ∀ src w1 s1 dst w2 s2 s3, workLocs s w (w.pair 0 + o) k .read notPriv = .ok (src, w1, s1) → workLocs s1 w1 (w.pair 2 + o) k .write notPriv = .ok (dst, w2, s2) →
          transferBad s2 src dst = none → claimRest s2 w2 dst = .ok s3 → sourceBusy s3 w2 src = false → (∀ l ∈ dst, firstClaim s3 work l.key = true) →
          ∃ t v, exec (.engineLineWrite work piece) s = .next t ∧ getWork t work = some v ∧ piece ∈ v.pieces ∧ v.status = w2.status ∧
            t = (let (w4, s4) := keepLines s3 w2 src
              let (s5, w5) := writeLine s4 w4 (dst.zip (src.map (keptByte w4)))
              settleCpy s5 { w5 with pieces := piece :: w5.pieces })) ∧
      (w.ended = false → exec (.engineTokenFill work) s = .next s) ∧
      (w.ended = true → freshWorks s → (∀ g, w.agent = .group g → (tabFind s.groups g).isSome = true ∧ 96 ≤ w.token ∧ w.token < 127 ∧ regsRising (getGroup s g).regs →
        ∃ t, exec (.engineTokenFill work) s = .next t ∧ (∀ v ∈ t.works, v.id ≠ work) ∧
          readField { t with cur := .group g } w.token 0 = BitVec.ofNat 32 (w.index % 2 ^ 24 * 256 + w.status) ∧
          isEmptyField { t with cur := .group g } w.token = false)) ∧
      (isPx w.kind = true → w.stage = 1 → w.ended = false → (∀ t, pxOp s w = .ok t → exec (.pxBucketUpdate work) s = .next t) ∧
        (∀ i c, pxBad w = some (c, i) → exec (.pxBucketUpdate work) s = .next (sqeFail s w c (some i) (0, 0))))) ∧
    ((getCore s core).matrix = [] → exec (.matrixUnitOperation core) s = .next s) ∧
    (∀ o rest, (getCore s core).matrix = o :: rest →
      exec (.matrixUnitOperation core) s = .next (matrixStep s core) ∧
      (∀ tile int x, o.kind = .accz tile int → tabFind s.teams (tagOf o.gid) = some x →
        ∃ t, exec (.matrixUnitOperation core) s = .next t ∧ (getCore t core).matrix = rest ∧ tabFind t.teams (tagOf o.gid) = some { x with tiles := tabPut x.tiles tile { int := int } } ∧
          t = { s with cores := t.cores, teams := t.teams })) ∧
    ((getCluster s cluster).sqe = [] → exec (.sqeOperation cluster) s = .next s) ∧
    (∀ rest w, (getCluster s cluster).sqe = work :: rest → getWork s work = some w →
      (∀ u, sqeLocal s w = .ok u → ∃ t, exec (.sqeOperation cluster) s = .next t ∧ t = setCluster u cluster { getCluster u cluster with sqe := rest } ∧
        (getCluster t cluster).sqe = rest) ∧
      (w.kind = .scclr → clusterOfCore w.core = cluster → 1 ≤ w.word 1 → w.word 1 ≤ 65536 → w.word 0 + w.word 1 ≤ (satOf s w).2 → w.word 2 = 0 → w.word 3 = 0 →
        ∃ t, exec (.sqeOperation cluster) s = .next t ∧ (getCluster t cluster).sqe = rest ∧ t.mem = s.mem ∧
          ∀ i, i < w.word 1 → satRead t cluster ((satOf s w).1 + w.word 0 + i) = 0)) ∧
    (∀ v, findInval s id = some v →
      (invalReady s v = false → exec (.tfenceInvComplete id) s = .next s) ∧
      (invalReady s v = true → ∃ t, exec (.tfenceInvComplete id) s = .next t ∧ t = { s with invals := t.invals } ∧
        ∀ x ∈ t.invals, x.id = id → x.done = true)) ∧
    (isLocal s (line * 128) = true → claimed s (.glob (line * 128)) = false →
      ∃ t, exec (.l2LineEviction line) s = .next t ∧ t.l2 = tabErase s.l2 line ∧ line ∉ t.evictFirst ∧
        (partialsOf s line = [] → t.mem = s.mem ∧ t.lpddr = tabErase s.lpddr line)) ∧
    (isLocal s (line * 128) = false ∨ claimed s (.glob (line * 128)) = true → exec (.l2LineEviction line) s = .next s)

/-! ## Encoding -/

/-- R16-R25, R38: words written out from the layouts of chapter 01, one or more of each format and family, decode to the instructions that they stand for, with the bytes after them left; an unmapped opcode and a set reserved bit decode to nothing. -/
def Obligations.DecodeWords : Prop :=
  (∀ p ∈ [(3#7 ++ 2#7 ++ 1#7 ++ 0x000#10 ++ 1#1, Instr.add 1 2 3), (127#7 ++ 6#7 ++ 5#7 ++ 0x020#10 ++ 1#1, .addi 5 6 (-1)),
      (0x3FFE#14 ++ 7#7 ++ 0x028#10 ++ 1#1, .li 7 (-2)), (0x59E32053#32, .lui 100 0x1678), (9#7 ++ 8#7 ++ 2#7 ++ 0x030#10 ++ 1#1, .cmpEq 2 8 9),
      (4#7 ++ 3#7 ++ 1#7 ++ 0x073#10 ++ 1#1, .sel 3 1 3 4), (3#7 ++ 2#7 ++ 1#7 ++ 0x083#10 ++ 1#1, .ffma 1 2 3), (0#7 ++ 2#7 ++ 1#7 ++ 0x094#10 ++ 1#1, .fsin 1 2),
      (1#1 ++ 5#6 ++ 2#7 ++ 1#7 ++ 0x0C0#10 ++ 1#1, .cvt 1 2 5 1), (0x100B320F#32, .redx 102 2 8), (0xFFFFC#20 ++ 0#1 ++ 0x110#10 ++ 1#1, .jmp (-4)),
      (0x00832251#32, .srd 100 0x020), (0x00A80255#32, .trap 0x2A), (0x7F#7 ++ 100#7 ++ 8#7 ++ 0x144#10 ++ 1#1, .ldB32 8 100 (-1)),
      (0#7 ++ 104#7 ++ 97#7 ++ 0x1C0#10 ++ 1#1, .cpy 97 104), (0#1 ++ 2#2 ++ 5#4 ++ 100#7 ++ 0#3 ++ 3#4 ++ 0x208#10 ++ 1#1, .mma 3 100 5 2),
      (5#7 ++ 104#7 ++ 97#7 ++ 0x240#10 ++ 1#1, .layerf 97 104 1 0 1), (0#7 ++ 104#7 ++ 97#7 ++ 0x284#10 ++ 1#1, .topk 97 104),
      (0#1 ++ 1#1 ++ 2#2 ++ 1#1 ++ 1#2 ++ 100#7 ++ 0#7 ++ 0x2E0#10 ++ 1#1, .tfenceInv 100 1 2 1), (0#4 ++ 1#1 ++ 2#2 ++ 98#7 ++ 96#7 ++ 0x301#10 ++ 1#1, .qwait 96 98 2 1),
      (0#7 ++ 98#7 ++ 96#7 ++ 0x340#10 ++ 1#1, .eretResume 96 98), (0#2 ++ 1#1 ++ 2#2 ++ 3#2 ++ 104#7 ++ 97#7 ++ 0x350#10 ++ 1#1, .coll 97 104 3 2 1)],
    decodeCode (.word p.1) = some p.2) ∧
  decodeCode (.half 0x1922) = some (.add16 9 3) ∧ decodeCode (.half 0) = some (.mov16 0 0) ∧
  decodeBytes [0x51, 0x22, 0x83, 0x00, 0xAA] = some (.srd 100 0x020, [0xAA]) ∧ decodeBytes [0x22, 0x19, 0xAA] = some (.add16 9 3, [0xAA]) ∧
  decodeCode (.word (0#7 ++ 0#7 ++ 0#7 ++ 0x3FF#10 ++ 1#1)) = none ∧ decodeCode (.word (1#7 ++ 2#7 ++ 1#7 ++ 0x018#10 ++ 1#1)) = none

/-- R16-R25: every instruction but an event has a code, decoding a code gives back the instruction that it encodes, whatever the values of its fields, and so do its bytes as stored. -/
def Obligations.DecodeEncodeRoundTrip : Prop :=
  ∀ i : Instr, (i.isEvent = false → encode i ≠ none) ∧
    (∀ c, encode i = some c → decodeCode c = some i) ∧
    (∀ (h : BitVec 16) rest, encode i = some (.half h) → decodeBytes (h.extractLsb' 0 8 :: h.extractLsb' 8 8 :: rest) = some (i, rest)) ∧
    (∀ (w : BitVec 32) rest, encode i = some (.word w) →
      decodeBytes (w.extractLsb' 0 8 :: w.extractLsb' 8 8 :: w.extractLsb' 16 8 :: w.extractLsb' 24 8 :: rest) = some (i, rest))

/-! ## Steps, reset and the invariant -/

/-- R38, R227, R433: a step runs the decoded instruction. What is fetched at the PC, if its opcode is mapped, its context may execute it and its level suffices, and the tables it goes through hold no error, runs exec of the decoded instruction; the step of an empty agenda is that, at the context that its turn names, with the steps counted, what walks read kept, the ages of a pipeline or the account of a queue moved on and the holders of deterministic cores chosen anew; an event of the agenda runs exec of its row. Which event or context a step serves is the model's choice: the agenda and the turn of log 4, and on a .det core the switch points of log 76. -/
def Obligations.StepRunsDecodedInstruction : Prop :=
  ∀ (s u : State) (i : Instr),
    let runC := runNext execWord execHalf
    let s1 := settleWalks { s with steps := s.steps + 1 }
    (∀ w op, fetch s = .ok (.word w, u) → tableStruck u (mapOf u) (wordOp w) = false → mapOp u (mapOf u) (wordOp w) = some op → ctxAllows u.cur.ctx op = true → lowestLevel op (wordB w) ≤ levelOf u →
      decodeFields op (wordD w) (wordA w) (wordB w) = some i → runFetched execWord execHalf s = exec i u) ∧
    (∀ w, fetch s = .ok (.word w, u) → tableStruck u (mapOf u) (wordOp w) = false → mapOf u = 1 → opMapped (wordOp w) = true → ctxAllows u.cur.ctx (wordOp w) = true →
      lowestLevel (wordOp w) (wordB w) ≤ levelOf u → decodeCode (.word w) = some i → runFetched execWord execHalf s = exec i u) ∧
    (∀ h, fetch s = .ok (.half h, u) → decodeCode (.half h) = some i → runFetched execWord execHalf s = exec i u) ∧
    ((∀ gid, s.cur = .group gid → atBoundary s gid = none) → runC s = runFetched execWord execHalf s) ∧
    (∀ w gid, fetch s = .ok (.word w, u) → u.cur = .group gid → tableStruck u (mapOf u) (wordOp w) = true →
      runFetched execWord execHalf s = done u (.error (trapOf 0x0C 0x02))) ∧
    (s.agenda = [] → step s = issueAt runC s.turn s1) ∧
    (∀ p rest, s.agenda = .issue p :: rest → step s = issueAt runC p { s1 with agenda := rest }) ∧
    (s.stage = .camp1 ∨ s.stage = .summit →
      (∀ core p g rest v, coreIsDet s core = false → pipeOrder s core p = g :: rest →
        runC { s with cur := .group g } = .next v → stillWaiting s v g = false → issueAt runC (.pipe core p) s = .next (agePipe v core p (some g))) ∧
      (∀ core p g, coreIsDet s core = true → (getCore (renewHolder runC s core) core).holder = some g →
        (getGroup (renewHolder runC s core) g).pipe = p → mayIssue (getGroup (renewHolder runC s core) g) = true →
        issueAt runC (.pipe core p) s = renewOut runC (runC { renewHolder runC s core with cur := .group g })) ∧
      (∀ gid x, (getGroup s gid).axp = some x → x.running = true → x.stopped = none → (teamOf s gid).res.issues = true →
        (getGroup s gid).run ≠ .done → issueAt runC (.axp gid) s = renewOut runC (runC { s with cur := .axp gid })) ∧
      (∀ pkg vf t, cheRing s pkg = some (vf, t) → t.compact = false →
        (t.aDone = false → issueAt runC (.cheA pkg) s = renewOut runC (runC { s with cur := .cheA pkg vf })) ∧
        (t.xDone = false → issueAt runC (.cheX pkg) s = renewOut runC (runC { s with cur := .cheX pkg vf }))) ∧
      (∀ n, issueAt runC (.qp n) s = renewOut runC (issueQp runC n s))) ∧
    (∀ n vf q rest v, takeNotice s q = none → runC { s with cur := .queue q, qpCtx := tabPut s.qpCtx n q } = .next v →
      queueWaits s q = false ∨ (getQueue v q).wait ≠ (getQueue s q).wait →
      tryQueues runC s n vf (q :: rest) = .next (chargeQueue v vf (getQueue s q).slot q)) ∧
    (∀ e rest, s.agenda = .event e :: rest → step s = renewOut runC (exec e.toInstr { s1 with agenda := rest }))

/-- R11, R40, R85, R91, R308, R357, R361, R372, R376, R388, R420, R435, R436, R440, R442, R469, R471: the values that the rules give for reset. MEM = 0 in MODID is the model's choice, for R11 leaves it to firmware (log 2), and so is the number 0 of the first snapshot, snapSeq, which no rule gives (log 2). -/
def Obligations.ResetState : Prop :=
  let r : State := State.reset
  let q : State := { r with cur := .queue (hostVf * 64) }
  r.time = 0 ∧ srPair r 0x020 = 0 ∧ (srWord r 0x000).toNat = 0x01010200 ∧ r.decSlots = [] ∧ r.throttle = 0 ∧ r.snapSeq = 0 ∧ r.works = [] ∧ r.groups = [] ∧
  (∀ k, k < 8 → srWord q (0x218 + k) = 0xFFFF) ∧ (∀ k, k < 32 → srWord q (0x220 + k) = 0x0A01) ∧ (∀ k, k < 192 → srWord q (0x300 + k) = 0x0301) ∧
  srWord q 0x240 = 0x3FC00000 ∧ srWord q 0x241 = 60 ∧ srWord q 0x242 = 1000 ∧ srWord q 0x243 = 500 ∧
  srWord q 0x210 = 1 ∧ srWord q 0x214 = 0 ∧ srPair q 0x202 = 0 ∧ srPair q 0x204 = 0 ∧ srWord q 0x11C = 0 ∧ srWord q 0x115 = 0 ∧ srWord q 0x116 = 0 ∧ srWord q 0x245 = 0

/-- R85: the state of a group as it is placed: its S registers hold the launch arguments and 0, every other register is 0, full and without ERM bits, predicates are false, and the compares are disarmed. -/
def Obligations.GroupPlacementState : Prop :=
  ∀ (g : Grid) (i p0 slot axp : Nat), g.args.length ≤ 16 →
    let x := newGroup g i p0 slot axp
    x.pc = g.entry ∧ (∀ n, n < 31 → x.regs.readS n = g.args.getD n 0) ∧ (∀ n l, n < 88 → l < 64 → x.regs.readV n l = 0) ∧
    (∀ n l, n < 7 → l < 64 → x.regs.readP n l = false) ∧ (∀ n, n < 128 → x.regs.isEmpty n = false) ∧ x.regs.erm = 0 ∧
    (∀ l, icntAt x l = 0) ∧ x.done = 0 ∧ x.parked = 0 ∧ x.mfr = 0 ∧ (∀ l, tabGet x.fcsr l 0 = 0) ∧ x.gtime = 0 ∧ x.regpc = 0 ∧ x.regcnt = 0 ∧ x.regv = false ∧
    x.gtcmp = BitVec.allOnes 64 ∧ x.wdl = BitVec.allOnes 64 ∧ x.run = .eligible

/-- The state after reset is canonical. The form in which tables stand is the model's own. -/
def Obligations.ResetIsCanonical : Prop := canonical State.reset

/-- R72, R78, R95, R27, R32: a step keeps memories, registers and per-lane tables in canonical form, reserved bits of FCSR and MFR 0, ICNT at most 65,535, levels at most PL3, and identities of works in the past. The form in which tables stand is the model's own. -/
def Obligations.EveryStepKeepsCanonicalForm : Prop :=
  ∀ s t : State, canonical s → step s = .next t → canonical t
end

