-- ==== Sys2Proof/Laws/Tab.lean ====
section
/-! SUPPORT. What the tables of State answer after a change, and that each change keeps their canonical form. -/

namespace Sys2Proof.Machine

variable {α : Type}

/-! ## Looking up -/

@[simp] theorem tabFind_nil (k : Nat) : tabFind ([] : Tab α) k = none := rfl

@[simp] theorem tabFind_tabPut_same (t : Tab α) (k : Nat) (a : α) : tabFind (tabPut t k a) k = some a := by
  induction t with
  | nil => simp [tabPut, tabFind]
  | cons p r ih =>
    obtain ⟨j, b⟩ := p
    simp only [tabPut]
    split
    · simp [tabFind]
    · split
      · simp [tabFind]
      · rename_i h1 h2
        simp only [tabFind, if_neg h1, if_neg h2, ih]

theorem tabFind_tabPut_other (t : Tab α) {k n : Nat} (a : α) (h : n ≠ k) : tabFind (tabPut t k a) n = tabFind t n := by
  induction t with
  | nil => simp only [tabPut, tabFind, if_neg (Ne.symm h)]; split <;> rfl
  | cons p r ih =>
    obtain ⟨j, b⟩ := p
    simp only [tabPut]
    split
    · rename_i hj
      subst hj
      simp only [tabFind, if_neg (Ne.symm h)]
    · split
      · rename_i hkj
        simp only [tabFind, if_neg (Ne.symm h)]
        split
        · rw [if_neg (by omega), if_pos (by omega)]
        · rfl
      · simp only [tabFind, ih]

@[simp] theorem tabGet_tabPut_same (t : Tab α) (k : Nat) (a d : α) : tabGet (tabPut t k a) k d = a := by
  simp [tabGet]

theorem tabGet_tabPut_other (t : Tab α) {k n : Nat} (a d : α) (h : n ≠ k) : tabGet (tabPut t k a) n d = tabGet t n d := by
  simp [tabGet, tabFind_tabPut_other t a h]

/-! ## Keys in order -/

/-- Every key of a table is at least n. -/
def tabFrom (n : Nat) (t : Tab α) : Prop := ∀ p ∈ t, n ≤ p.1

theorem tabRising_cons (p : Nat × α) (r : Tab α) : tabRising (p :: r) = true ↔ tabFrom (p.1 + 1) r ∧ tabRising r = true := by
  induction r generalizing p with
  | nil => simp [tabRising, tabFrom]
  | cons q r ih =>
    obtain ⟨k, a⟩ := p
    obtain ⟨j, b⟩ := q
    have h : tabRising ((k, a) :: (j, b) :: r) = (decide (k < j) && tabRising ((j, b) :: r)) := rfl
    rw [h, Bool.and_eq_true, decide_eq_true_iff, ih]
    simp only [tabFrom, List.forall_mem_cons]
    constructor
    · rintro ⟨h1, h2, h3⟩
      exact ⟨⟨h1, fun p hp => by have := h2 p hp; omega⟩, h2, h3⟩
    · rintro ⟨⟨h1, _⟩, h2, h3⟩
      exact ⟨h1, h2, h3⟩

theorem tabFrom_tabPut (t : Tab α) {k n : Nat} (a : α) (ht : tabFrom n t) (hk : n ≤ k) : tabFrom n (tabPut t k a) := by
  induction t with
  | nil => simpa [tabPut, tabFrom] using hk
  | cons p r ih =>
    obtain ⟨j, b⟩ := p
    have hr : tabFrom n r := fun q hq => ht q (List.mem_cons_of_mem _ hq)
    have hj : n ≤ j := ht (j, b) (List.mem_cons_self ..)
    simp only [tabPut]
    split
    · simpa [tabFrom, hk] using hr
    · split
      · simp only [tabFrom, List.forall_mem_cons]; exact ⟨hk, hj, hr⟩
      · simp only [tabFrom, List.forall_mem_cons]; exact ⟨hj, ih hr⟩

theorem tabFrom_tabErase (t : Tab α) {k n : Nat} (ht : tabFrom n t) : tabFrom n (tabErase t k) := by
  induction t with
  | nil => exact ht
  | cons p r ih =>
    obtain ⟨j, b⟩ := p
    have hr : tabFrom n r := fun q hq => ht q (List.mem_cons_of_mem _ hq)
    simp only [tabErase]
    split
    · exact hr
    · split
      · exact ht
      · simp only [tabFrom, List.forall_mem_cons]; exact ⟨ht (j, b) (List.mem_cons_self ..), ih hr⟩

theorem tabRising_tabPut (t : Tab α) (k : Nat) (a : α) (h : tabRising t = true) : tabRising (tabPut t k a) = true := by
  induction t with
  | nil => rfl
  | cons p r ih =>
    obtain ⟨j, b⟩ := p
    obtain ⟨hf, hr⟩ := (tabRising_cons _ _).1 h
    simp only [tabPut]
    split
    · rename_i hj
      subst hj
      exact (tabRising_cons _ _).2 ⟨hf, hr⟩
    · split
      · rename_i hkj
        refine (tabRising_cons _ _).2 ⟨?_, h⟩
        simp only [tabFrom, List.forall_mem_cons] at *
        exact ⟨hkj, fun p hp => by have := hf p hp; omega⟩
      · exact (tabRising_cons _ _).2 ⟨tabFrom_tabPut r a hf (by simp only; omega), ih hr⟩

theorem tabRising_tabErase (t : Tab α) (k : Nat) (h : tabRising t = true) : tabRising (tabErase t k) = true := by
  induction t with
  | nil => rfl
  | cons p r ih =>
    obtain ⟨j, b⟩ := p
    obtain ⟨hf, hr⟩ := (tabRising_cons _ _).1 h
    simp only [tabErase]
    split
    · exact hr
    · split
      · exact h
      · exact (tabRising_cons _ _).2 ⟨tabFrom_tabErase r hf, ih hr⟩

theorem tabFind_of_from (t : Tab α) {k n : Nat} (h : tabFrom n t) (hk : k < n) : tabFind t k = none := by
  cases t with
  | nil => rfl
  | cons p r =>
    obtain ⟨j, b⟩ := p
    have : n ≤ j := h (j, b) (List.mem_cons_self ..)
    simp only [tabFind]
    rw [if_neg (by omega), if_pos (by omega)]

theorem tabFind_tabErase (t : Tab α) (k n : Nat) (h : tabRising t = true) :
    tabFind (tabErase t k) n = if n = k then none else tabFind t n := by
  induction t with
  | nil => simp [tabErase]
  | cons p r ih =>
    obtain ⟨j, b⟩ := p
    obtain ⟨hf, hr⟩ := (tabRising_cons _ _).1 h
    simp only [tabErase]
    by_cases hjk : j = k
    · subst hjk
      simp only [if_true]
      by_cases hn : n = j
      · rw [if_pos hn, hn]; exact tabFind_of_from r hf (by simp)
      · rw [if_neg hn]
        simp only [tabFind, if_neg (Ne.symm hn)]
        split
        · exact tabFind_of_from r hf (by simp only; omega)
        · rfl
    · rw [if_neg hjk]
      by_cases hkj : k < j
      · rw [if_pos hkj]
        by_cases hn : n = k
        · rw [if_pos hn, hn]; simp only [tabFind, if_neg hjk, if_pos hkj]
        · rw [if_neg hn]
      · rw [if_neg hkj]
        simp only [tabFind, ih hr]
        by_cases hn : n = k
        · subst hn
          rw [if_neg hjk, if_neg hkj, if_pos rfl, if_pos rfl]
        · simp only [if_neg hn]

theorem tabGet_tabSet [DecidableEq α] (t : Tab α) (k n : Nat) (a d : α) (h : tabRising t = true) :
    tabGet (tabSet t k a d) n d = if n = k then a else tabGet t n d := by
  unfold tabSet
  split
  · rename_i ha
    simp only [tabGet, tabFind_tabErase t k n h]
    split
    · simp [ha]
    · rfl
  · by_cases hn : n = k
    · subst hn; simp
    · rw [if_neg hn, tabGet_tabPut_other t a d hn]

/-! ## The canonical form -/

theorem tabCanon_iff [DecidableEq α] (t : Tab α) (d : α) : tabCanon t d = true ↔ tabRising t = true ∧ ∀ p ∈ t, p.2 ≠ d := by
  simp [tabCanon, List.all_eq_true]

theorem mem_tabErase {t : Tab α} {k : Nat} {p : Nat × α} (h : p ∈ tabErase t k) : p ∈ t := by
  induction t with
  | nil => exact h
  | cons q r ih =>
    obtain ⟨j, b⟩ := q
    simp only [tabErase] at h
    split at h
    · exact List.mem_cons_of_mem _ h
    · split at h
      · exact h
      · rcases List.mem_cons.1 h with h | h
        · exact h ▸ List.mem_cons_self ..
        · exact List.mem_cons_of_mem _ (ih h)

theorem mem_tabPut {t : Tab α} {k : Nat} {a : α} {p : Nat × α} (h : p ∈ tabPut t k a) : p = (k, a) ∨ p ∈ t := by
  induction t with
  | nil => simpa [tabPut] using h
  | cons q r ih =>
    obtain ⟨j, b⟩ := q
    simp only [tabPut] at h
    split at h
    · rcases List.mem_cons.1 h with h | h
      · exact .inl h
      · exact .inr (List.mem_cons_of_mem _ h)
    · split at h
      · exact (List.mem_cons.1 h).imp id id
      · rcases List.mem_cons.1 h with h | h
        · exact .inr (h ▸ List.mem_cons_self ..)
        · exact (ih h).imp id (List.mem_cons_of_mem _)

theorem tabCanon_tabSet [DecidableEq α] (t : Tab α) (k : Nat) (a d : α) (h : tabCanon t d = true) : tabCanon (tabSet t k a d) d = true := by
  obtain ⟨hr, hd⟩ := (tabCanon_iff t d).1 h
  refine (tabCanon_iff _ d).2 ?_
  unfold tabSet
  split
  · exact ⟨tabRising_tabErase t k hr, fun p hp => hd p (mem_tabErase hp)⟩
  · rename_i ha
    refine ⟨tabRising_tabPut t k a hr, fun p hp => ?_⟩
    rcases mem_tabPut hp with rfl | hp
    · exact ha
    · exact hd p hp

/-- The keys of a canonical table rise. -/
theorem tabRising_of_canon [DecidableEq α] {t : Tab α} {d : α} (h : tabCanon t d = true) : tabRising t = true :=
  ((tabCanon_iff t d).1 h).1

end Sys2Proof.Machine
end

