-- ==== Sys2Proof/Laws/Memory.lean ====
section
/-! SUPPORT. Reading after writing memory, and that every memory operation keeps the canonical form. -/

namespace Sys2Proof.Machine

theorem reset_mem_wf : Memory.wf State.reset.mem = true := rfl

theorem memRead_memWrite (m : List Host.Cell) (a n : Nat) (b : Byte) (h : Memory.wf m = true) :
    memRead (memWrite m a b) n = if n = a then b else memRead m n :=
  tabGet_tabSet m a n b unlistedByte (tabRising_of_canon h)

theorem memWrite_wf (m : List Host.Cell) (a : Nat) (b : Byte) (h : Memory.wf m = true) : Memory.wf (memWrite m a b) = true :=
  tabCanon_tabSet m a b unlistedByte h

theorem memWriteList_wf (m : List Host.Cell) (a : Nat) (bs : List Byte) (h : Memory.wf m = true) : Memory.wf (memWriteList m a bs) = true := by
  induction bs generalizing m a with
  | nil => exact h
  | cons b r ih => exact ih _ _ (memWrite_wf m a b h)

theorem memRead_memWriteList (m : List Host.Cell) (a n : Nat) (bs : List Byte) (h : Memory.wf m = true) :
    memRead (memWriteList m a bs) n = if a ≤ n ∧ n < a + bs.length then bs.getD (n - a) 0 else memRead m n := by
  induction bs generalizing m a with
  | nil => simp only [memWriteList, List.length_nil]; rw [if_neg (by omega)]
  | cons b r ih =>
    simp only [memWriteList, ih _ _ (memWrite_wf m a b h), memRead_memWrite m a n b h, List.length_cons]
    by_cases hn : n = a
    · subst hn; simp
    · by_cases h1 : a + 1 ≤ n ∧ n < a + 1 + r.length
      · rw [if_pos h1, if_pos (by omega)]
        obtain ⟨k, hk⟩ : ∃ k, n - a = k + 1 := ⟨n - a - 1, by omega⟩
        rw [hk, show n - (a + 1) = k by omega]
        simp
      · rw [if_neg h1, if_neg hn, if_neg (by omega)]

end Sys2Proof.Machine
end

