-- ==== Sys2Proof/Laws/State.lean ====
section
/-! SUPPORT. What each field of State is after each of the module's updates, and what the accessors answer. -/

namespace Sys2Proof.Machine

/-! ## setGroup -/

@[simp] theorem setGroup_cur (s : State) (gid : Nat) (g : Group) : (setGroup s gid g).cur = s.cur := rfl
@[simp] theorem setGroup_agenda (s : State) (gid : Nat) (g : Group) : (setGroup s gid g).agenda = s.agenda := rfl
@[simp] theorem setGroup_turn (s : State) (gid : Nat) (g : Group) : (setGroup s gid g).turn = s.turn := rfl
@[simp] theorem setGroup_fresh (s : State) (gid : Nat) (g : Group) : (setGroup s gid g).fresh = s.fresh := rfl
@[simp] theorem setGroup_steps (s : State) (gid : Nat) (g : Group) : (setGroup s gid g).steps = s.steps := rfl
@[simp] theorem setGroup_seq (s : State) (gid : Nat) (g : Group) : (setGroup s gid g).seq = s.seq := rfl
@[simp] theorem setGroup_nextId (s : State) (gid : Nat) (g : Group) : (setGroup s gid g).nextId = s.nextId := rfl
@[simp] theorem setGroup_time (s : State) (gid : Nat) (g : Group) : (setGroup s gid g).time = s.time := rfl
@[simp] theorem setGroup_stage (s : State) (gid : Nat) (g : Group) : (setGroup s gid g).stage = s.stage := rfl
@[simp] theorem setGroup_stageFailed (s : State) (gid : Nat) (g : Group) : (setGroup s gid g).stageFailed = s.stageFailed := rfl
@[simp] theorem setGroup_firmware (s : State) (gid : Nat) (g : Group) : (setGroup s gid g).firmware = s.firmware := rfl
@[simp] theorem setGroup_hypervisor (s : State) (gid : Nat) (g : Group) : (setGroup s gid g).hypervisor = s.hypervisor := rfl
@[simp] theorem setGroup_firmwareSum (s : State) (gid : Nat) (g : Group) : (setGroup s gid g).firmwareSum = s.firmwareSum := rfl
@[simp] theorem setGroup_hypervisorSum (s : State) (gid : Nat) (g : Group) : (setGroup s gid g).hypervisorSum = s.hypervisorSum := rfl
@[simp] theorem setGroup_haltBy (s : State) (gid : Nat) (g : Group) : (setGroup s gid g).haltBy = s.haltBy := rfl
@[simp] theorem setGroup_haltFrom (s : State) (gid : Nat) (g : Group) : (setGroup s gid g).haltFrom = s.haltFrom := rfl
@[simp] theorem setGroup_modn (s : State) (gid : Nat) (g : Group) : (setGroup s gid g).modn = s.modn := rfl
@[simp] theorem setGroup_memCode (s : State) (gid : Nat) (g : Group) : (setGroup s gid g).memCode = s.memCode := rfl
@[simp] theorem setGroup_routes (s : State) (gid : Nat) (g : Group) : (setGroup s gid g).routes = s.routes := rfl
@[simp] theorem setGroup_heldVls (s : State) (gid : Nat) (g : Group) : (setGroup s gid g).heldVls = s.heldVls := rfl
@[simp] theorem setGroup_mem (s : State) (gid : Nat) (g : Group) : (setGroup s gid g).mem = s.mem := rfl
@[simp] theorem setGroup_lpddr (s : State) (gid : Nat) (g : Group) : (setGroup s gid g).lpddr = s.lpddr := rfl
@[simp] theorem setGroup_badLines (s : State) (gid : Nat) (g : Group) : (setGroup s gid g).badLines = s.badLines := rfl
@[simp] theorem setGroup_badLow (s : State) (gid : Nat) (g : Group) : (setGroup s gid g).badLow = s.badLow := rfl
@[simp] theorem setGroup_struck (s : State) (gid : Nat) (g : Group) : (setGroup s gid g).struck = s.struck := rfl
@[simp] theorem setGroup_down (s : State) (gid : Nat) (g : Group) : (setGroup s gid g).down = s.down := rfl
@[simp] theorem setGroup_evictFirst (s : State) (gid : Nat) (g : Group) : (setGroup s gid g).evictFirst = s.evictFirst := rfl
@[simp] theorem setGroup_l2 (s : State) (gid : Nat) (g : Group) : (setGroup s gid g).l2 = s.l2 := rfl
@[simp] theorem setGroup_attrs (s : State) (gid : Nat) (g : Group) : (setGroup s gid g).attrs = s.attrs := rfl
@[simp] theorem setGroup_history (s : State) (gid : Nat) (g : Group) : (setGroup s gid g).history = s.history := rfl
@[simp] theorem setGroup_claims (s : State) (gid : Nat) (g : Group) : (setGroup s gid g).claims = s.claims := rfl
@[simp] theorem setGroup_claimQueue (s : State) (gid : Nat) (g : Group) : (setGroup s gid g).claimQueue = s.claimQueue := rfl
@[simp] theorem setGroup_wcache (s : State) (gid : Nat) (g : Group) : (setGroup s gid g).wcache = s.wcache := rfl
@[simp] theorem setGroup_walked (s : State) (gid : Nat) (g : Group) : (setGroup s gid g).walked = s.walked := rfl
@[simp] theorem setGroup_ranged (s : State) (gid : Nat) (g : Group) : (setGroup s gid g).ranged = s.ranged := rfl
@[simp] theorem setGroup_pending (s : State) (gid : Nat) (g : Group) : (setGroup s gid g).pending = s.pending := rfl
@[simp] theorem setGroup_groups (s : State) (gid : Nat) (g : Group) : (setGroup s gid g).groups = tabPut s.groups gid g := rfl
@[simp] theorem setGroup_teams (s : State) (gid : Nat) (g : Group) : (setGroup s gid g).teams = s.teams := rfl
@[simp] theorem setGroup_grids (s : State) (gid : Nat) (g : Group) : (setGroup s gid g).grids = s.grids := rfl
@[simp] theorem setGroup_works (s : State) (gid : Nat) (g : Group) : (setGroup s gid g).works = s.works := rfl
@[simp] theorem setGroup_cores (s : State) (gid : Nat) (g : Group) : (setGroup s gid g).cores = s.cores := rfl
@[simp] theorem setGroup_clusters (s : State) (gid : Nat) (g : Group) : (setGroup s gid g).clusters = s.clusters := rfl
@[simp] theorem setGroup_queues (s : State) (gid : Nat) (g : Group) : (setGroup s gid g).queues = s.queues := rfl
@[simp] theorem setGroup_saved (s : State) (gid : Nat) (g : Group) : (setGroup s gid g).saved = s.saved := rfl
@[simp] theorem setGroup_vfs (s : State) (gid : Nat) (g : Group) : (setGroup s gid g).vfs = s.vfs := rfl
@[simp] theorem setGroup_rings (s : State) (gid : Nat) (g : Group) : (setGroup s gid g).rings = s.rings := rfl
@[simp] theorem setGroup_dueRecords (s : State) (gid : Nat) (g : Group) : (setGroup s gid g).dueRecords = s.dueRecords := rfl
@[simp] theorem setGroup_cheTurn (s : State) (gid : Nat) (g : Group) : (setGroup s gid g).cheTurn = s.cheTurn := rfl
@[simp] theorem setGroup_cheQuanta (s : State) (gid : Nat) (g : Group) : (setGroup s gid g).cheQuanta = s.cheQuanta := rfl
@[simp] theorem setGroup_cheSince (s : State) (gid : Nat) (g : Group) : (setGroup s gid g).cheSince = s.cheSince := rfl
@[simp] theorem setGroup_qpVf (s : State) (gid : Nat) (g : Group) : (setGroup s gid g).qpVf = s.qpVf := rfl
@[simp] theorem setGroup_qpCtx (s : State) (gid : Nat) (g : Group) : (setGroup s gid g).qpCtx = s.qpCtx := rfl
@[simp] theorem setGroup_qpQuanta (s : State) (gid : Nat) (g : Group) : (setGroup s gid g).qpQuanta = s.qpQuanta := rfl
@[simp] theorem setGroup_qpAsked (s : State) (gid : Nat) (g : Group) : (setGroup s gid g).qpAsked = s.qpAsked := rfl
@[simp] theorem setGroup_tiles (s : State) (gid : Nat) (g : Group) : (setGroup s gid g).tiles = s.tiles := rfl
@[simp] theorem setGroup_images (s : State) (gid : Nat) (g : Group) : (setGroup s gid g).images = s.images := rfl
@[simp] theorem setGroup_calCur (s : State) (gid : Nat) (g : Group) : (setGroup s gid g).calCur = s.calCur := rfl
@[simp] theorem setGroup_calOld (s : State) (gid : Nat) (g : Group) : (setGroup s gid g).calOld = s.calOld := rfl
@[simp] theorem setGroup_cgen (s : State) (gid : Nat) (g : Group) : (setGroup s gid g).cgen = s.cgen := rfl
@[simp] theorem setGroup_dthr (s : State) (gid : Nat) (g : Group) : (setGroup s gid g).dthr = s.dthr := rfl
@[simp] theorem setGroup_journal (s : State) (gid : Nat) (g : Group) : (setGroup s gid g).journal = s.journal := rfl
@[simp] theorem setGroup_journalSeq (s : State) (gid : Nat) (g : Group) : (setGroup s gid g).journalSeq = s.journalSeq := rfl
@[simp] theorem setGroup_colls (s : State) (gid : Nat) (g : Group) : (setGroup s gid g).colls = s.colls := rfl
@[simp] theorem setGroup_invals (s : State) (gid : Nat) (g : Group) : (setGroup s gid g).invals = s.invals := rfl
@[simp] theorem setGroup_decSlots (s : State) (gid : Nat) (g : Group) : (setGroup s gid g).decSlots = s.decSlots := rfl
@[simp] theorem setGroup_l2pwm (s : State) (gid : Nat) (g : Group) : (setGroup s gid g).l2pwm = s.l2pwm := rfl
@[simp] theorem setGroup_charb (s : State) (gid : Nat) (g : Group) : (setGroup s gid g).charb = s.charb := rfl
@[simp] theorem setGroup_camp (s : State) (gid : Nat) (g : Group) : (setGroup s gid g).camp = s.camp := rfl
@[simp] theorem setGroup_chewt (s : State) (gid : Nat) (g : Group) : (setGroup s gid g).chewt = s.chewt := rfl
@[simp] theorem setGroup_fitper (s : State) (gid : Nat) (g : Group) : (setGroup s gid g).fitper = s.fitper := rfl
@[simp] theorem setGroup_leaseto (s : State) (gid : Nat) (g : Group) : (setGroup s gid g).leaseto = s.leaseto := rfl
@[simp] theorem setGroup_wdlim (s : State) (gid : Nat) (g : Group) : (setGroup s gid g).wdlim = s.wdlim := rfl
@[simp] theorem setGroup_snapen (s : State) (gid : Nat) (g : Group) : (setGroup s gid g).snapen = s.snapen := rfl
@[simp] theorem setGroup_pwrcap (s : State) (gid : Nat) (g : Group) : (setGroup s gid g).pwrcap = s.pwrcap := rfl
@[simp] theorem setGroup_errlog (s : State) (gid : Nat) (g : Group) : (setGroup s gid g).errlog = s.errlog := rfl
@[simp] theorem setGroup_errcnt (s : State) (gid : Nat) (g : Group) : (setGroup s gid g).errcnt = s.errcnt := rfl
@[simp] theorem setGroup_throttle (s : State) (gid : Nat) (g : Group) : (setGroup s gid g).throttle = s.throttle := rfl
@[simp] theorem setGroup_draw (s : State) (gid : Nat) (g : Group) : (setGroup s gid g).draw = s.draw := rfl
@[simp] theorem setGroup_throttledAt (s : State) (gid : Nat) (g : Group) : (setGroup s gid g).throttledAt = s.throttledAt := rfl
@[simp] theorem setGroup_lowSince (s : State) (gid : Nat) (g : Group) : (setGroup s gid g).lowSince = s.lowSince := rfl
@[simp] theorem setGroup_overrun (s : State) (gid : Nat) (g : Group) : (setGroup s gid g).overrun = s.overrun := rfl
@[simp] theorem setGroup_snapshots (s : State) (gid : Nat) (g : Group) : (setGroup s gid g).snapshots = s.snapshots := rfl
@[simp] theorem setGroup_snapSeq (s : State) (gid : Nat) (g : Group) : (setGroup s gid g).snapSeq = s.snapSeq := rfl
@[simp] theorem setGroup_lastSnap (s : State) (gid : Nat) (g : Group) : (setGroup s gid g).lastSnap = s.lastSnap := rfl
@[simp] theorem setGroup_locl (s : State) (gid : Nat) (g : Group) : (setGroup s gid g).locl = s.locl := rfl
@[simp] theorem setGroup_remt (s : State) (gid : Nat) (g : Group) : (setGroup s gid g).remt = s.remt := rfl
@[simp] theorem setGroup_retiredChannels (s : State) (gid : Nat) (g : Group) : (setGroup s gid g).retiredChannels = s.retiredChannels := rfl
@[simp] theorem setGroup_retraining (s : State) (gid : Nat) (g : Group) : (setGroup s gid g).retraining = s.retraining := rfl
@[simp] theorem setGroup_healthCodes (s : State) (gid : Nat) (g : Group) : (setGroup s gid g).healthCodes = s.healthCodes := rfl
@[simp] theorem setGroup_mgmtMem (s : State) (gid : Nat) (g : Group) : (setGroup s gid g).mgmtMem = s.mgmtMem := rfl
@[simp] theorem setGroup_inbox (s : State) (gid : Nat) (g : Group) : (setGroup s gid g).inbox = s.inbox := rfl
@[simp] theorem setGroup_replies (s : State) (gid : Nat) (g : Group) : (setGroup s gid g).replies = s.replies := rfl
@[simp] theorem setGroup_out (s : State) (gid : Nat) (g : Group) : (setGroup s gid g).out = s.out := rfl

/-! ## setGrid -/

@[simp] theorem setGrid_cur (s : State) (n : Nat) (g : Grid) : (setGrid s n g).cur = s.cur := rfl
@[simp] theorem setGrid_agenda (s : State) (n : Nat) (g : Grid) : (setGrid s n g).agenda = s.agenda := rfl
@[simp] theorem setGrid_turn (s : State) (n : Nat) (g : Grid) : (setGrid s n g).turn = s.turn := rfl
@[simp] theorem setGrid_fresh (s : State) (n : Nat) (g : Grid) : (setGrid s n g).fresh = s.fresh := rfl
@[simp] theorem setGrid_steps (s : State) (n : Nat) (g : Grid) : (setGrid s n g).steps = s.steps := rfl
@[simp] theorem setGrid_seq (s : State) (n : Nat) (g : Grid) : (setGrid s n g).seq = s.seq := rfl
@[simp] theorem setGrid_nextId (s : State) (n : Nat) (g : Grid) : (setGrid s n g).nextId = s.nextId := rfl
@[simp] theorem setGrid_time (s : State) (n : Nat) (g : Grid) : (setGrid s n g).time = s.time := rfl
@[simp] theorem setGrid_stage (s : State) (n : Nat) (g : Grid) : (setGrid s n g).stage = s.stage := rfl
@[simp] theorem setGrid_stageFailed (s : State) (n : Nat) (g : Grid) : (setGrid s n g).stageFailed = s.stageFailed := rfl
@[simp] theorem setGrid_firmware (s : State) (n : Nat) (g : Grid) : (setGrid s n g).firmware = s.firmware := rfl
@[simp] theorem setGrid_hypervisor (s : State) (n : Nat) (g : Grid) : (setGrid s n g).hypervisor = s.hypervisor := rfl
@[simp] theorem setGrid_firmwareSum (s : State) (n : Nat) (g : Grid) : (setGrid s n g).firmwareSum = s.firmwareSum := rfl
@[simp] theorem setGrid_hypervisorSum (s : State) (n : Nat) (g : Grid) : (setGrid s n g).hypervisorSum = s.hypervisorSum := rfl
@[simp] theorem setGrid_haltBy (s : State) (n : Nat) (g : Grid) : (setGrid s n g).haltBy = s.haltBy := rfl
@[simp] theorem setGrid_haltFrom (s : State) (n : Nat) (g : Grid) : (setGrid s n g).haltFrom = s.haltFrom := rfl
@[simp] theorem setGrid_modn (s : State) (n : Nat) (g : Grid) : (setGrid s n g).modn = s.modn := rfl
@[simp] theorem setGrid_memCode (s : State) (n : Nat) (g : Grid) : (setGrid s n g).memCode = s.memCode := rfl
@[simp] theorem setGrid_routes (s : State) (n : Nat) (g : Grid) : (setGrid s n g).routes = s.routes := rfl
@[simp] theorem setGrid_heldVls (s : State) (n : Nat) (g : Grid) : (setGrid s n g).heldVls = s.heldVls := rfl
@[simp] theorem setGrid_mem (s : State) (n : Nat) (g : Grid) : (setGrid s n g).mem = s.mem := rfl
@[simp] theorem setGrid_lpddr (s : State) (n : Nat) (g : Grid) : (setGrid s n g).lpddr = s.lpddr := rfl
@[simp] theorem setGrid_badLines (s : State) (n : Nat) (g : Grid) : (setGrid s n g).badLines = s.badLines := rfl
@[simp] theorem setGrid_badLow (s : State) (n : Nat) (g : Grid) : (setGrid s n g).badLow = s.badLow := rfl
@[simp] theorem setGrid_struck (s : State) (n : Nat) (g : Grid) : (setGrid s n g).struck = s.struck := rfl
@[simp] theorem setGrid_down (s : State) (n : Nat) (g : Grid) : (setGrid s n g).down = s.down := rfl
@[simp] theorem setGrid_evictFirst (s : State) (n : Nat) (g : Grid) : (setGrid s n g).evictFirst = s.evictFirst := rfl
@[simp] theorem setGrid_l2 (s : State) (n : Nat) (g : Grid) : (setGrid s n g).l2 = s.l2 := rfl
@[simp] theorem setGrid_attrs (s : State) (n : Nat) (g : Grid) : (setGrid s n g).attrs = s.attrs := rfl
@[simp] theorem setGrid_history (s : State) (n : Nat) (g : Grid) : (setGrid s n g).history = s.history := rfl
@[simp] theorem setGrid_claims (s : State) (n : Nat) (g : Grid) : (setGrid s n g).claims = s.claims := rfl
@[simp] theorem setGrid_claimQueue (s : State) (n : Nat) (g : Grid) : (setGrid s n g).claimQueue = s.claimQueue := rfl
@[simp] theorem setGrid_wcache (s : State) (n : Nat) (g : Grid) : (setGrid s n g).wcache = s.wcache := rfl
@[simp] theorem setGrid_walked (s : State) (n : Nat) (g : Grid) : (setGrid s n g).walked = s.walked := rfl
@[simp] theorem setGrid_ranged (s : State) (n : Nat) (g : Grid) : (setGrid s n g).ranged = s.ranged := rfl
@[simp] theorem setGrid_pending (s : State) (n : Nat) (g : Grid) : (setGrid s n g).pending = s.pending := rfl
@[simp] theorem setGrid_groups (s : State) (n : Nat) (g : Grid) : (setGrid s n g).groups = s.groups := rfl
@[simp] theorem setGrid_teams (s : State) (n : Nat) (g : Grid) : (setGrid s n g).teams = s.teams := rfl
@[simp] theorem setGrid_grids (s : State) (n : Nat) (g : Grid) : (setGrid s n g).grids = tabPut s.grids n g := rfl
@[simp] theorem setGrid_works (s : State) (n : Nat) (g : Grid) : (setGrid s n g).works = s.works := rfl
@[simp] theorem setGrid_cores (s : State) (n : Nat) (g : Grid) : (setGrid s n g).cores = s.cores := rfl
@[simp] theorem setGrid_clusters (s : State) (n : Nat) (g : Grid) : (setGrid s n g).clusters = s.clusters := rfl
@[simp] theorem setGrid_queues (s : State) (n : Nat) (g : Grid) : (setGrid s n g).queues = s.queues := rfl
@[simp] theorem setGrid_saved (s : State) (n : Nat) (g : Grid) : (setGrid s n g).saved = s.saved := rfl
@[simp] theorem setGrid_vfs (s : State) (n : Nat) (g : Grid) : (setGrid s n g).vfs = s.vfs := rfl
@[simp] theorem setGrid_rings (s : State) (n : Nat) (g : Grid) : (setGrid s n g).rings = s.rings := rfl
@[simp] theorem setGrid_dueRecords (s : State) (n : Nat) (g : Grid) : (setGrid s n g).dueRecords = s.dueRecords := rfl
@[simp] theorem setGrid_cheTurn (s : State) (n : Nat) (g : Grid) : (setGrid s n g).cheTurn = s.cheTurn := rfl
@[simp] theorem setGrid_cheQuanta (s : State) (n : Nat) (g : Grid) : (setGrid s n g).cheQuanta = s.cheQuanta := rfl
@[simp] theorem setGrid_cheSince (s : State) (n : Nat) (g : Grid) : (setGrid s n g).cheSince = s.cheSince := rfl
@[simp] theorem setGrid_qpVf (s : State) (n : Nat) (g : Grid) : (setGrid s n g).qpVf = s.qpVf := rfl
@[simp] theorem setGrid_qpCtx (s : State) (n : Nat) (g : Grid) : (setGrid s n g).qpCtx = s.qpCtx := rfl
@[simp] theorem setGrid_qpQuanta (s : State) (n : Nat) (g : Grid) : (setGrid s n g).qpQuanta = s.qpQuanta := rfl
@[simp] theorem setGrid_qpAsked (s : State) (n : Nat) (g : Grid) : (setGrid s n g).qpAsked = s.qpAsked := rfl
@[simp] theorem setGrid_tiles (s : State) (n : Nat) (g : Grid) : (setGrid s n g).tiles = s.tiles := rfl
@[simp] theorem setGrid_images (s : State) (n : Nat) (g : Grid) : (setGrid s n g).images = s.images := rfl
@[simp] theorem setGrid_calCur (s : State) (n : Nat) (g : Grid) : (setGrid s n g).calCur = s.calCur := rfl
@[simp] theorem setGrid_calOld (s : State) (n : Nat) (g : Grid) : (setGrid s n g).calOld = s.calOld := rfl
@[simp] theorem setGrid_cgen (s : State) (n : Nat) (g : Grid) : (setGrid s n g).cgen = s.cgen := rfl
@[simp] theorem setGrid_dthr (s : State) (n : Nat) (g : Grid) : (setGrid s n g).dthr = s.dthr := rfl
@[simp] theorem setGrid_journal (s : State) (n : Nat) (g : Grid) : (setGrid s n g).journal = s.journal := rfl
@[simp] theorem setGrid_journalSeq (s : State) (n : Nat) (g : Grid) : (setGrid s n g).journalSeq = s.journalSeq := rfl
@[simp] theorem setGrid_colls (s : State) (n : Nat) (g : Grid) : (setGrid s n g).colls = s.colls := rfl
@[simp] theorem setGrid_invals (s : State) (n : Nat) (g : Grid) : (setGrid s n g).invals = s.invals := rfl
@[simp] theorem setGrid_decSlots (s : State) (n : Nat) (g : Grid) : (setGrid s n g).decSlots = s.decSlots := rfl
@[simp] theorem setGrid_l2pwm (s : State) (n : Nat) (g : Grid) : (setGrid s n g).l2pwm = s.l2pwm := rfl
@[simp] theorem setGrid_charb (s : State) (n : Nat) (g : Grid) : (setGrid s n g).charb = s.charb := rfl
@[simp] theorem setGrid_camp (s : State) (n : Nat) (g : Grid) : (setGrid s n g).camp = s.camp := rfl
@[simp] theorem setGrid_chewt (s : State) (n : Nat) (g : Grid) : (setGrid s n g).chewt = s.chewt := rfl
@[simp] theorem setGrid_fitper (s : State) (n : Nat) (g : Grid) : (setGrid s n g).fitper = s.fitper := rfl
@[simp] theorem setGrid_leaseto (s : State) (n : Nat) (g : Grid) : (setGrid s n g).leaseto = s.leaseto := rfl
@[simp] theorem setGrid_wdlim (s : State) (n : Nat) (g : Grid) : (setGrid s n g).wdlim = s.wdlim := rfl
@[simp] theorem setGrid_snapen (s : State) (n : Nat) (g : Grid) : (setGrid s n g).snapen = s.snapen := rfl
@[simp] theorem setGrid_pwrcap (s : State) (n : Nat) (g : Grid) : (setGrid s n g).pwrcap = s.pwrcap := rfl
@[simp] theorem setGrid_errlog (s : State) (n : Nat) (g : Grid) : (setGrid s n g).errlog = s.errlog := rfl
@[simp] theorem setGrid_errcnt (s : State) (n : Nat) (g : Grid) : (setGrid s n g).errcnt = s.errcnt := rfl
@[simp] theorem setGrid_throttle (s : State) (n : Nat) (g : Grid) : (setGrid s n g).throttle = s.throttle := rfl
@[simp] theorem setGrid_draw (s : State) (n : Nat) (g : Grid) : (setGrid s n g).draw = s.draw := rfl
@[simp] theorem setGrid_throttledAt (s : State) (n : Nat) (g : Grid) : (setGrid s n g).throttledAt = s.throttledAt := rfl
@[simp] theorem setGrid_lowSince (s : State) (n : Nat) (g : Grid) : (setGrid s n g).lowSince = s.lowSince := rfl
@[simp] theorem setGrid_overrun (s : State) (n : Nat) (g : Grid) : (setGrid s n g).overrun = s.overrun := rfl
@[simp] theorem setGrid_snapshots (s : State) (n : Nat) (g : Grid) : (setGrid s n g).snapshots = s.snapshots := rfl
@[simp] theorem setGrid_snapSeq (s : State) (n : Nat) (g : Grid) : (setGrid s n g).snapSeq = s.snapSeq := rfl
@[simp] theorem setGrid_lastSnap (s : State) (n : Nat) (g : Grid) : (setGrid s n g).lastSnap = s.lastSnap := rfl
@[simp] theorem setGrid_locl (s : State) (n : Nat) (g : Grid) : (setGrid s n g).locl = s.locl := rfl
@[simp] theorem setGrid_remt (s : State) (n : Nat) (g : Grid) : (setGrid s n g).remt = s.remt := rfl
@[simp] theorem setGrid_retiredChannels (s : State) (n : Nat) (g : Grid) : (setGrid s n g).retiredChannels = s.retiredChannels := rfl
@[simp] theorem setGrid_retraining (s : State) (n : Nat) (g : Grid) : (setGrid s n g).retraining = s.retraining := rfl
@[simp] theorem setGrid_healthCodes (s : State) (n : Nat) (g : Grid) : (setGrid s n g).healthCodes = s.healthCodes := rfl
@[simp] theorem setGrid_mgmtMem (s : State) (n : Nat) (g : Grid) : (setGrid s n g).mgmtMem = s.mgmtMem := rfl
@[simp] theorem setGrid_inbox (s : State) (n : Nat) (g : Grid) : (setGrid s n g).inbox = s.inbox := rfl
@[simp] theorem setGrid_replies (s : State) (n : Nat) (g : Grid) : (setGrid s n g).replies = s.replies := rfl
@[simp] theorem setGrid_out (s : State) (n : Nat) (g : Grid) : (setGrid s n g).out = s.out := rfl

/-! ## setQueue -/

@[simp] theorem setQueue_cur (s : State) (qid : Nat) (q : QCtx) : (setQueue s qid q).cur = s.cur := rfl
@[simp] theorem setQueue_agenda (s : State) (qid : Nat) (q : QCtx) : (setQueue s qid q).agenda = s.agenda := rfl
@[simp] theorem setQueue_turn (s : State) (qid : Nat) (q : QCtx) : (setQueue s qid q).turn = s.turn := rfl
@[simp] theorem setQueue_fresh (s : State) (qid : Nat) (q : QCtx) : (setQueue s qid q).fresh = s.fresh := rfl
@[simp] theorem setQueue_steps (s : State) (qid : Nat) (q : QCtx) : (setQueue s qid q).steps = s.steps := rfl
@[simp] theorem setQueue_seq (s : State) (qid : Nat) (q : QCtx) : (setQueue s qid q).seq = s.seq := rfl
@[simp] theorem setQueue_nextId (s : State) (qid : Nat) (q : QCtx) : (setQueue s qid q).nextId = s.nextId := rfl
@[simp] theorem setQueue_time (s : State) (qid : Nat) (q : QCtx) : (setQueue s qid q).time = s.time := rfl
@[simp] theorem setQueue_stage (s : State) (qid : Nat) (q : QCtx) : (setQueue s qid q).stage = s.stage := rfl
@[simp] theorem setQueue_stageFailed (s : State) (qid : Nat) (q : QCtx) : (setQueue s qid q).stageFailed = s.stageFailed := rfl
@[simp] theorem setQueue_firmware (s : State) (qid : Nat) (q : QCtx) : (setQueue s qid q).firmware = s.firmware := rfl
@[simp] theorem setQueue_hypervisor (s : State) (qid : Nat) (q : QCtx) : (setQueue s qid q).hypervisor = s.hypervisor := rfl
@[simp] theorem setQueue_firmwareSum (s : State) (qid : Nat) (q : QCtx) : (setQueue s qid q).firmwareSum = s.firmwareSum := rfl
@[simp] theorem setQueue_hypervisorSum (s : State) (qid : Nat) (q : QCtx) : (setQueue s qid q).hypervisorSum = s.hypervisorSum := rfl
@[simp] theorem setQueue_haltBy (s : State) (qid : Nat) (q : QCtx) : (setQueue s qid q).haltBy = s.haltBy := rfl
@[simp] theorem setQueue_haltFrom (s : State) (qid : Nat) (q : QCtx) : (setQueue s qid q).haltFrom = s.haltFrom := rfl
@[simp] theorem setQueue_modn (s : State) (qid : Nat) (q : QCtx) : (setQueue s qid q).modn = s.modn := rfl
@[simp] theorem setQueue_memCode (s : State) (qid : Nat) (q : QCtx) : (setQueue s qid q).memCode = s.memCode := rfl
@[simp] theorem setQueue_routes (s : State) (qid : Nat) (q : QCtx) : (setQueue s qid q).routes = s.routes := rfl
@[simp] theorem setQueue_heldVls (s : State) (qid : Nat) (q : QCtx) : (setQueue s qid q).heldVls = s.heldVls := rfl
@[simp] theorem setQueue_mem (s : State) (qid : Nat) (q : QCtx) : (setQueue s qid q).mem = s.mem := rfl
@[simp] theorem setQueue_lpddr (s : State) (qid : Nat) (q : QCtx) : (setQueue s qid q).lpddr = s.lpddr := rfl
@[simp] theorem setQueue_badLines (s : State) (qid : Nat) (q : QCtx) : (setQueue s qid q).badLines = s.badLines := rfl
@[simp] theorem setQueue_badLow (s : State) (qid : Nat) (q : QCtx) : (setQueue s qid q).badLow = s.badLow := rfl
@[simp] theorem setQueue_struck (s : State) (qid : Nat) (q : QCtx) : (setQueue s qid q).struck = s.struck := rfl
@[simp] theorem setQueue_down (s : State) (qid : Nat) (q : QCtx) : (setQueue s qid q).down = s.down := rfl
@[simp] theorem setQueue_evictFirst (s : State) (qid : Nat) (q : QCtx) : (setQueue s qid q).evictFirst = s.evictFirst := rfl
@[simp] theorem setQueue_l2 (s : State) (qid : Nat) (q : QCtx) : (setQueue s qid q).l2 = s.l2 := rfl
@[simp] theorem setQueue_attrs (s : State) (qid : Nat) (q : QCtx) : (setQueue s qid q).attrs = s.attrs := rfl
@[simp] theorem setQueue_history (s : State) (qid : Nat) (q : QCtx) : (setQueue s qid q).history = s.history := rfl
@[simp] theorem setQueue_claims (s : State) (qid : Nat) (q : QCtx) : (setQueue s qid q).claims = s.claims := rfl
@[simp] theorem setQueue_claimQueue (s : State) (qid : Nat) (q : QCtx) : (setQueue s qid q).claimQueue = s.claimQueue := rfl
@[simp] theorem setQueue_wcache (s : State) (qid : Nat) (q : QCtx) : (setQueue s qid q).wcache = s.wcache := rfl
@[simp] theorem setQueue_walked (s : State) (qid : Nat) (q : QCtx) : (setQueue s qid q).walked = s.walked := rfl
@[simp] theorem setQueue_ranged (s : State) (qid : Nat) (q : QCtx) : (setQueue s qid q).ranged = s.ranged := rfl
@[simp] theorem setQueue_pending (s : State) (qid : Nat) (q : QCtx) : (setQueue s qid q).pending = s.pending := rfl
@[simp] theorem setQueue_groups (s : State) (qid : Nat) (q : QCtx) : (setQueue s qid q).groups = s.groups := rfl
@[simp] theorem setQueue_teams (s : State) (qid : Nat) (q : QCtx) : (setQueue s qid q).teams = s.teams := rfl
@[simp] theorem setQueue_grids (s : State) (qid : Nat) (q : QCtx) : (setQueue s qid q).grids = s.grids := rfl
@[simp] theorem setQueue_works (s : State) (qid : Nat) (q : QCtx) : (setQueue s qid q).works = s.works := rfl
@[simp] theorem setQueue_cores (s : State) (qid : Nat) (q : QCtx) : (setQueue s qid q).cores = s.cores := rfl
@[simp] theorem setQueue_clusters (s : State) (qid : Nat) (q : QCtx) : (setQueue s qid q).clusters = s.clusters := rfl
@[simp] theorem setQueue_queues (s : State) (qid : Nat) (q : QCtx) : (setQueue s qid q).queues = tabPut s.queues qid q := rfl
@[simp] theorem setQueue_saved (s : State) (qid : Nat) (q : QCtx) : (setQueue s qid q).saved = s.saved := rfl
@[simp] theorem setQueue_vfs (s : State) (qid : Nat) (q : QCtx) : (setQueue s qid q).vfs = s.vfs := rfl
@[simp] theorem setQueue_rings (s : State) (qid : Nat) (q : QCtx) : (setQueue s qid q).rings = s.rings := rfl
@[simp] theorem setQueue_dueRecords (s : State) (qid : Nat) (q : QCtx) : (setQueue s qid q).dueRecords = s.dueRecords := rfl
@[simp] theorem setQueue_cheTurn (s : State) (qid : Nat) (q : QCtx) : (setQueue s qid q).cheTurn = s.cheTurn := rfl
@[simp] theorem setQueue_cheQuanta (s : State) (qid : Nat) (q : QCtx) : (setQueue s qid q).cheQuanta = s.cheQuanta := rfl
@[simp] theorem setQueue_cheSince (s : State) (qid : Nat) (q : QCtx) : (setQueue s qid q).cheSince = s.cheSince := rfl
@[simp] theorem setQueue_qpVf (s : State) (qid : Nat) (q : QCtx) : (setQueue s qid q).qpVf = s.qpVf := rfl
@[simp] theorem setQueue_qpCtx (s : State) (qid : Nat) (q : QCtx) : (setQueue s qid q).qpCtx = s.qpCtx := rfl
@[simp] theorem setQueue_qpQuanta (s : State) (qid : Nat) (q : QCtx) : (setQueue s qid q).qpQuanta = s.qpQuanta := rfl
@[simp] theorem setQueue_qpAsked (s : State) (qid : Nat) (q : QCtx) : (setQueue s qid q).qpAsked = s.qpAsked := rfl
@[simp] theorem setQueue_tiles (s : State) (qid : Nat) (q : QCtx) : (setQueue s qid q).tiles = s.tiles := rfl
@[simp] theorem setQueue_images (s : State) (qid : Nat) (q : QCtx) : (setQueue s qid q).images = s.images := rfl
@[simp] theorem setQueue_calCur (s : State) (qid : Nat) (q : QCtx) : (setQueue s qid q).calCur = s.calCur := rfl
@[simp] theorem setQueue_calOld (s : State) (qid : Nat) (q : QCtx) : (setQueue s qid q).calOld = s.calOld := rfl
@[simp] theorem setQueue_cgen (s : State) (qid : Nat) (q : QCtx) : (setQueue s qid q).cgen = s.cgen := rfl
@[simp] theorem setQueue_dthr (s : State) (qid : Nat) (q : QCtx) : (setQueue s qid q).dthr = s.dthr := rfl
@[simp] theorem setQueue_journal (s : State) (qid : Nat) (q : QCtx) : (setQueue s qid q).journal = s.journal := rfl
@[simp] theorem setQueue_journalSeq (s : State) (qid : Nat) (q : QCtx) : (setQueue s qid q).journalSeq = s.journalSeq := rfl
@[simp] theorem setQueue_colls (s : State) (qid : Nat) (q : QCtx) : (setQueue s qid q).colls = s.colls := rfl
@[simp] theorem setQueue_invals (s : State) (qid : Nat) (q : QCtx) : (setQueue s qid q).invals = s.invals := rfl
@[simp] theorem setQueue_decSlots (s : State) (qid : Nat) (q : QCtx) : (setQueue s qid q).decSlots = s.decSlots := rfl
@[simp] theorem setQueue_l2pwm (s : State) (qid : Nat) (q : QCtx) : (setQueue s qid q).l2pwm = s.l2pwm := rfl
@[simp] theorem setQueue_charb (s : State) (qid : Nat) (q : QCtx) : (setQueue s qid q).charb = s.charb := rfl
@[simp] theorem setQueue_camp (s : State) (qid : Nat) (q : QCtx) : (setQueue s qid q).camp = s.camp := rfl
@[simp] theorem setQueue_chewt (s : State) (qid : Nat) (q : QCtx) : (setQueue s qid q).chewt = s.chewt := rfl
@[simp] theorem setQueue_fitper (s : State) (qid : Nat) (q : QCtx) : (setQueue s qid q).fitper = s.fitper := rfl
@[simp] theorem setQueue_leaseto (s : State) (qid : Nat) (q : QCtx) : (setQueue s qid q).leaseto = s.leaseto := rfl
@[simp] theorem setQueue_wdlim (s : State) (qid : Nat) (q : QCtx) : (setQueue s qid q).wdlim = s.wdlim := rfl
@[simp] theorem setQueue_snapen (s : State) (qid : Nat) (q : QCtx) : (setQueue s qid q).snapen = s.snapen := rfl
@[simp] theorem setQueue_pwrcap (s : State) (qid : Nat) (q : QCtx) : (setQueue s qid q).pwrcap = s.pwrcap := rfl
@[simp] theorem setQueue_errlog (s : State) (qid : Nat) (q : QCtx) : (setQueue s qid q).errlog = s.errlog := rfl
@[simp] theorem setQueue_errcnt (s : State) (qid : Nat) (q : QCtx) : (setQueue s qid q).errcnt = s.errcnt := rfl
@[simp] theorem setQueue_throttle (s : State) (qid : Nat) (q : QCtx) : (setQueue s qid q).throttle = s.throttle := rfl
@[simp] theorem setQueue_draw (s : State) (qid : Nat) (q : QCtx) : (setQueue s qid q).draw = s.draw := rfl
@[simp] theorem setQueue_throttledAt (s : State) (qid : Nat) (q : QCtx) : (setQueue s qid q).throttledAt = s.throttledAt := rfl
@[simp] theorem setQueue_lowSince (s : State) (qid : Nat) (q : QCtx) : (setQueue s qid q).lowSince = s.lowSince := rfl
@[simp] theorem setQueue_overrun (s : State) (qid : Nat) (q : QCtx) : (setQueue s qid q).overrun = s.overrun := rfl
@[simp] theorem setQueue_snapshots (s : State) (qid : Nat) (q : QCtx) : (setQueue s qid q).snapshots = s.snapshots := rfl
@[simp] theorem setQueue_snapSeq (s : State) (qid : Nat) (q : QCtx) : (setQueue s qid q).snapSeq = s.snapSeq := rfl
@[simp] theorem setQueue_lastSnap (s : State) (qid : Nat) (q : QCtx) : (setQueue s qid q).lastSnap = s.lastSnap := rfl
@[simp] theorem setQueue_locl (s : State) (qid : Nat) (q : QCtx) : (setQueue s qid q).locl = s.locl := rfl
@[simp] theorem setQueue_remt (s : State) (qid : Nat) (q : QCtx) : (setQueue s qid q).remt = s.remt := rfl
@[simp] theorem setQueue_retiredChannels (s : State) (qid : Nat) (q : QCtx) : (setQueue s qid q).retiredChannels = s.retiredChannels := rfl
@[simp] theorem setQueue_retraining (s : State) (qid : Nat) (q : QCtx) : (setQueue s qid q).retraining = s.retraining := rfl
@[simp] theorem setQueue_healthCodes (s : State) (qid : Nat) (q : QCtx) : (setQueue s qid q).healthCodes = s.healthCodes := rfl
@[simp] theorem setQueue_mgmtMem (s : State) (qid : Nat) (q : QCtx) : (setQueue s qid q).mgmtMem = s.mgmtMem := rfl
@[simp] theorem setQueue_inbox (s : State) (qid : Nat) (q : QCtx) : (setQueue s qid q).inbox = s.inbox := rfl
@[simp] theorem setQueue_replies (s : State) (qid : Nat) (q : QCtx) : (setQueue s qid q).replies = s.replies := rfl
@[simp] theorem setQueue_out (s : State) (qid : Nat) (q : QCtx) : (setQueue s qid q).out = s.out := rfl

/-! ## setCore -/

@[simp] theorem setCore_cur (s : State) (c : Nat) (k : Core) : (setCore s c k).cur = s.cur := rfl
@[simp] theorem setCore_agenda (s : State) (c : Nat) (k : Core) : (setCore s c k).agenda = s.agenda := rfl
@[simp] theorem setCore_turn (s : State) (c : Nat) (k : Core) : (setCore s c k).turn = s.turn := rfl
@[simp] theorem setCore_fresh (s : State) (c : Nat) (k : Core) : (setCore s c k).fresh = s.fresh := rfl
@[simp] theorem setCore_steps (s : State) (c : Nat) (k : Core) : (setCore s c k).steps = s.steps := rfl
@[simp] theorem setCore_seq (s : State) (c : Nat) (k : Core) : (setCore s c k).seq = s.seq := rfl
@[simp] theorem setCore_nextId (s : State) (c : Nat) (k : Core) : (setCore s c k).nextId = s.nextId := rfl
@[simp] theorem setCore_time (s : State) (c : Nat) (k : Core) : (setCore s c k).time = s.time := rfl
@[simp] theorem setCore_stage (s : State) (c : Nat) (k : Core) : (setCore s c k).stage = s.stage := rfl
@[simp] theorem setCore_stageFailed (s : State) (c : Nat) (k : Core) : (setCore s c k).stageFailed = s.stageFailed := rfl
@[simp] theorem setCore_firmware (s : State) (c : Nat) (k : Core) : (setCore s c k).firmware = s.firmware := rfl
@[simp] theorem setCore_hypervisor (s : State) (c : Nat) (k : Core) : (setCore s c k).hypervisor = s.hypervisor := rfl
@[simp] theorem setCore_firmwareSum (s : State) (c : Nat) (k : Core) : (setCore s c k).firmwareSum = s.firmwareSum := rfl
@[simp] theorem setCore_hypervisorSum (s : State) (c : Nat) (k : Core) : (setCore s c k).hypervisorSum = s.hypervisorSum := rfl
@[simp] theorem setCore_haltBy (s : State) (c : Nat) (k : Core) : (setCore s c k).haltBy = s.haltBy := rfl
@[simp] theorem setCore_haltFrom (s : State) (c : Nat) (k : Core) : (setCore s c k).haltFrom = s.haltFrom := rfl
@[simp] theorem setCore_modn (s : State) (c : Nat) (k : Core) : (setCore s c k).modn = s.modn := rfl
@[simp] theorem setCore_memCode (s : State) (c : Nat) (k : Core) : (setCore s c k).memCode = s.memCode := rfl
@[simp] theorem setCore_routes (s : State) (c : Nat) (k : Core) : (setCore s c k).routes = s.routes := rfl
@[simp] theorem setCore_heldVls (s : State) (c : Nat) (k : Core) : (setCore s c k).heldVls = s.heldVls := rfl
@[simp] theorem setCore_mem (s : State) (c : Nat) (k : Core) : (setCore s c k).mem = s.mem := rfl
@[simp] theorem setCore_lpddr (s : State) (c : Nat) (k : Core) : (setCore s c k).lpddr = s.lpddr := rfl
@[simp] theorem setCore_badLines (s : State) (c : Nat) (k : Core) : (setCore s c k).badLines = s.badLines := rfl
@[simp] theorem setCore_badLow (s : State) (c : Nat) (k : Core) : (setCore s c k).badLow = s.badLow := rfl
@[simp] theorem setCore_struck (s : State) (c : Nat) (k : Core) : (setCore s c k).struck = s.struck := rfl
@[simp] theorem setCore_down (s : State) (c : Nat) (k : Core) : (setCore s c k).down = s.down := rfl
@[simp] theorem setCore_evictFirst (s : State) (c : Nat) (k : Core) : (setCore s c k).evictFirst = s.evictFirst := rfl
@[simp] theorem setCore_l2 (s : State) (c : Nat) (k : Core) : (setCore s c k).l2 = s.l2 := rfl
@[simp] theorem setCore_attrs (s : State) (c : Nat) (k : Core) : (setCore s c k).attrs = s.attrs := rfl
@[simp] theorem setCore_history (s : State) (c : Nat) (k : Core) : (setCore s c k).history = s.history := rfl
@[simp] theorem setCore_claims (s : State) (c : Nat) (k : Core) : (setCore s c k).claims = s.claims := rfl
@[simp] theorem setCore_claimQueue (s : State) (c : Nat) (k : Core) : (setCore s c k).claimQueue = s.claimQueue := rfl
@[simp] theorem setCore_wcache (s : State) (c : Nat) (k : Core) : (setCore s c k).wcache = s.wcache := rfl
@[simp] theorem setCore_walked (s : State) (c : Nat) (k : Core) : (setCore s c k).walked = s.walked := rfl
@[simp] theorem setCore_ranged (s : State) (c : Nat) (k : Core) : (setCore s c k).ranged = s.ranged := rfl
@[simp] theorem setCore_pending (s : State) (c : Nat) (k : Core) : (setCore s c k).pending = s.pending := rfl
@[simp] theorem setCore_groups (s : State) (c : Nat) (k : Core) : (setCore s c k).groups = s.groups := rfl
@[simp] theorem setCore_teams (s : State) (c : Nat) (k : Core) : (setCore s c k).teams = s.teams := rfl
@[simp] theorem setCore_grids (s : State) (c : Nat) (k : Core) : (setCore s c k).grids = s.grids := rfl
@[simp] theorem setCore_works (s : State) (c : Nat) (k : Core) : (setCore s c k).works = s.works := rfl
@[simp] theorem setCore_cores (s : State) (c : Nat) (k : Core) : (setCore s c k).cores = tabPut s.cores c k := rfl
@[simp] theorem setCore_clusters (s : State) (c : Nat) (k : Core) : (setCore s c k).clusters = s.clusters := rfl
@[simp] theorem setCore_queues (s : State) (c : Nat) (k : Core) : (setCore s c k).queues = s.queues := rfl
@[simp] theorem setCore_saved (s : State) (c : Nat) (k : Core) : (setCore s c k).saved = s.saved := rfl
@[simp] theorem setCore_vfs (s : State) (c : Nat) (k : Core) : (setCore s c k).vfs = s.vfs := rfl
@[simp] theorem setCore_rings (s : State) (c : Nat) (k : Core) : (setCore s c k).rings = s.rings := rfl
@[simp] theorem setCore_dueRecords (s : State) (c : Nat) (k : Core) : (setCore s c k).dueRecords = s.dueRecords := rfl
@[simp] theorem setCore_cheTurn (s : State) (c : Nat) (k : Core) : (setCore s c k).cheTurn = s.cheTurn := rfl
@[simp] theorem setCore_cheQuanta (s : State) (c : Nat) (k : Core) : (setCore s c k).cheQuanta = s.cheQuanta := rfl
@[simp] theorem setCore_cheSince (s : State) (c : Nat) (k : Core) : (setCore s c k).cheSince = s.cheSince := rfl
@[simp] theorem setCore_qpVf (s : State) (c : Nat) (k : Core) : (setCore s c k).qpVf = s.qpVf := rfl
@[simp] theorem setCore_qpCtx (s : State) (c : Nat) (k : Core) : (setCore s c k).qpCtx = s.qpCtx := rfl
@[simp] theorem setCore_qpQuanta (s : State) (c : Nat) (k : Core) : (setCore s c k).qpQuanta = s.qpQuanta := rfl
@[simp] theorem setCore_qpAsked (s : State) (c : Nat) (k : Core) : (setCore s c k).qpAsked = s.qpAsked := rfl
@[simp] theorem setCore_tiles (s : State) (c : Nat) (k : Core) : (setCore s c k).tiles = s.tiles := rfl
@[simp] theorem setCore_images (s : State) (c : Nat) (k : Core) : (setCore s c k).images = s.images := rfl
@[simp] theorem setCore_calCur (s : State) (c : Nat) (k : Core) : (setCore s c k).calCur = s.calCur := rfl
@[simp] theorem setCore_calOld (s : State) (c : Nat) (k : Core) : (setCore s c k).calOld = s.calOld := rfl
@[simp] theorem setCore_cgen (s : State) (c : Nat) (k : Core) : (setCore s c k).cgen = s.cgen := rfl
@[simp] theorem setCore_dthr (s : State) (c : Nat) (k : Core) : (setCore s c k).dthr = s.dthr := rfl
@[simp] theorem setCore_journal (s : State) (c : Nat) (k : Core) : (setCore s c k).journal = s.journal := rfl
@[simp] theorem setCore_journalSeq (s : State) (c : Nat) (k : Core) : (setCore s c k).journalSeq = s.journalSeq := rfl
@[simp] theorem setCore_colls (s : State) (c : Nat) (k : Core) : (setCore s c k).colls = s.colls := rfl
@[simp] theorem setCore_invals (s : State) (c : Nat) (k : Core) : (setCore s c k).invals = s.invals := rfl
@[simp] theorem setCore_decSlots (s : State) (c : Nat) (k : Core) : (setCore s c k).decSlots = s.decSlots := rfl
@[simp] theorem setCore_l2pwm (s : State) (c : Nat) (k : Core) : (setCore s c k).l2pwm = s.l2pwm := rfl
@[simp] theorem setCore_charb (s : State) (c : Nat) (k : Core) : (setCore s c k).charb = s.charb := rfl
@[simp] theorem setCore_camp (s : State) (c : Nat) (k : Core) : (setCore s c k).camp = s.camp := rfl
@[simp] theorem setCore_chewt (s : State) (c : Nat) (k : Core) : (setCore s c k).chewt = s.chewt := rfl
@[simp] theorem setCore_fitper (s : State) (c : Nat) (k : Core) : (setCore s c k).fitper = s.fitper := rfl
@[simp] theorem setCore_leaseto (s : State) (c : Nat) (k : Core) : (setCore s c k).leaseto = s.leaseto := rfl
@[simp] theorem setCore_wdlim (s : State) (c : Nat) (k : Core) : (setCore s c k).wdlim = s.wdlim := rfl
@[simp] theorem setCore_snapen (s : State) (c : Nat) (k : Core) : (setCore s c k).snapen = s.snapen := rfl
@[simp] theorem setCore_pwrcap (s : State) (c : Nat) (k : Core) : (setCore s c k).pwrcap = s.pwrcap := rfl
@[simp] theorem setCore_errlog (s : State) (c : Nat) (k : Core) : (setCore s c k).errlog = s.errlog := rfl
@[simp] theorem setCore_errcnt (s : State) (c : Nat) (k : Core) : (setCore s c k).errcnt = s.errcnt := rfl
@[simp] theorem setCore_throttle (s : State) (c : Nat) (k : Core) : (setCore s c k).throttle = s.throttle := rfl
@[simp] theorem setCore_draw (s : State) (c : Nat) (k : Core) : (setCore s c k).draw = s.draw := rfl
@[simp] theorem setCore_throttledAt (s : State) (c : Nat) (k : Core) : (setCore s c k).throttledAt = s.throttledAt := rfl
@[simp] theorem setCore_lowSince (s : State) (c : Nat) (k : Core) : (setCore s c k).lowSince = s.lowSince := rfl
@[simp] theorem setCore_overrun (s : State) (c : Nat) (k : Core) : (setCore s c k).overrun = s.overrun := rfl
@[simp] theorem setCore_snapshots (s : State) (c : Nat) (k : Core) : (setCore s c k).snapshots = s.snapshots := rfl
@[simp] theorem setCore_snapSeq (s : State) (c : Nat) (k : Core) : (setCore s c k).snapSeq = s.snapSeq := rfl
@[simp] theorem setCore_lastSnap (s : State) (c : Nat) (k : Core) : (setCore s c k).lastSnap = s.lastSnap := rfl
@[simp] theorem setCore_locl (s : State) (c : Nat) (k : Core) : (setCore s c k).locl = s.locl := rfl
@[simp] theorem setCore_remt (s : State) (c : Nat) (k : Core) : (setCore s c k).remt = s.remt := rfl
@[simp] theorem setCore_retiredChannels (s : State) (c : Nat) (k : Core) : (setCore s c k).retiredChannels = s.retiredChannels := rfl
@[simp] theorem setCore_retraining (s : State) (c : Nat) (k : Core) : (setCore s c k).retraining = s.retraining := rfl
@[simp] theorem setCore_healthCodes (s : State) (c : Nat) (k : Core) : (setCore s c k).healthCodes = s.healthCodes := rfl
@[simp] theorem setCore_mgmtMem (s : State) (c : Nat) (k : Core) : (setCore s c k).mgmtMem = s.mgmtMem := rfl
@[simp] theorem setCore_inbox (s : State) (c : Nat) (k : Core) : (setCore s c k).inbox = s.inbox := rfl
@[simp] theorem setCore_replies (s : State) (c : Nat) (k : Core) : (setCore s c k).replies = s.replies := rfl
@[simp] theorem setCore_out (s : State) (c : Nat) (k : Core) : (setCore s c k).out = s.out := rfl

/-! ## setCluster -/

@[simp] theorem setCluster_cur (s : State) (c : Nat) (k : Cluster) : (setCluster s c k).cur = s.cur := rfl
@[simp] theorem setCluster_agenda (s : State) (c : Nat) (k : Cluster) : (setCluster s c k).agenda = s.agenda := rfl
@[simp] theorem setCluster_turn (s : State) (c : Nat) (k : Cluster) : (setCluster s c k).turn = s.turn := rfl
@[simp] theorem setCluster_fresh (s : State) (c : Nat) (k : Cluster) : (setCluster s c k).fresh = s.fresh := rfl
@[simp] theorem setCluster_steps (s : State) (c : Nat) (k : Cluster) : (setCluster s c k).steps = s.steps := rfl
@[simp] theorem setCluster_seq (s : State) (c : Nat) (k : Cluster) : (setCluster s c k).seq = s.seq := rfl
@[simp] theorem setCluster_nextId (s : State) (c : Nat) (k : Cluster) : (setCluster s c k).nextId = s.nextId := rfl
@[simp] theorem setCluster_time (s : State) (c : Nat) (k : Cluster) : (setCluster s c k).time = s.time := rfl
@[simp] theorem setCluster_stage (s : State) (c : Nat) (k : Cluster) : (setCluster s c k).stage = s.stage := rfl
@[simp] theorem setCluster_stageFailed (s : State) (c : Nat) (k : Cluster) : (setCluster s c k).stageFailed = s.stageFailed := rfl
@[simp] theorem setCluster_firmware (s : State) (c : Nat) (k : Cluster) : (setCluster s c k).firmware = s.firmware := rfl
@[simp] theorem setCluster_hypervisor (s : State) (c : Nat) (k : Cluster) : (setCluster s c k).hypervisor = s.hypervisor := rfl
@[simp] theorem setCluster_firmwareSum (s : State) (c : Nat) (k : Cluster) : (setCluster s c k).firmwareSum = s.firmwareSum := rfl
@[simp] theorem setCluster_hypervisorSum (s : State) (c : Nat) (k : Cluster) : (setCluster s c k).hypervisorSum = s.hypervisorSum := rfl
@[simp] theorem setCluster_haltBy (s : State) (c : Nat) (k : Cluster) : (setCluster s c k).haltBy = s.haltBy := rfl
@[simp] theorem setCluster_haltFrom (s : State) (c : Nat) (k : Cluster) : (setCluster s c k).haltFrom = s.haltFrom := rfl
@[simp] theorem setCluster_modn (s : State) (c : Nat) (k : Cluster) : (setCluster s c k).modn = s.modn := rfl
@[simp] theorem setCluster_memCode (s : State) (c : Nat) (k : Cluster) : (setCluster s c k).memCode = s.memCode := rfl
@[simp] theorem setCluster_routes (s : State) (c : Nat) (k : Cluster) : (setCluster s c k).routes = s.routes := rfl
@[simp] theorem setCluster_heldVls (s : State) (c : Nat) (k : Cluster) : (setCluster s c k).heldVls = s.heldVls := rfl
@[simp] theorem setCluster_mem (s : State) (c : Nat) (k : Cluster) : (setCluster s c k).mem = s.mem := rfl
@[simp] theorem setCluster_lpddr (s : State) (c : Nat) (k : Cluster) : (setCluster s c k).lpddr = s.lpddr := rfl
@[simp] theorem setCluster_badLines (s : State) (c : Nat) (k : Cluster) : (setCluster s c k).badLines = s.badLines := rfl
@[simp] theorem setCluster_badLow (s : State) (c : Nat) (k : Cluster) : (setCluster s c k).badLow = s.badLow := rfl
@[simp] theorem setCluster_struck (s : State) (c : Nat) (k : Cluster) : (setCluster s c k).struck = s.struck := rfl
@[simp] theorem setCluster_down (s : State) (c : Nat) (k : Cluster) : (setCluster s c k).down = s.down := rfl
@[simp] theorem setCluster_evictFirst (s : State) (c : Nat) (k : Cluster) : (setCluster s c k).evictFirst = s.evictFirst := rfl
@[simp] theorem setCluster_l2 (s : State) (c : Nat) (k : Cluster) : (setCluster s c k).l2 = s.l2 := rfl
@[simp] theorem setCluster_attrs (s : State) (c : Nat) (k : Cluster) : (setCluster s c k).attrs = s.attrs := rfl
@[simp] theorem setCluster_history (s : State) (c : Nat) (k : Cluster) : (setCluster s c k).history = s.history := rfl
@[simp] theorem setCluster_claims (s : State) (c : Nat) (k : Cluster) : (setCluster s c k).claims = s.claims := rfl
@[simp] theorem setCluster_claimQueue (s : State) (c : Nat) (k : Cluster) : (setCluster s c k).claimQueue = s.claimQueue := rfl
@[simp] theorem setCluster_wcache (s : State) (c : Nat) (k : Cluster) : (setCluster s c k).wcache = s.wcache := rfl
@[simp] theorem setCluster_walked (s : State) (c : Nat) (k : Cluster) : (setCluster s c k).walked = s.walked := rfl
@[simp] theorem setCluster_ranged (s : State) (c : Nat) (k : Cluster) : (setCluster s c k).ranged = s.ranged := rfl
@[simp] theorem setCluster_pending (s : State) (c : Nat) (k : Cluster) : (setCluster s c k).pending = s.pending := rfl
@[simp] theorem setCluster_groups (s : State) (c : Nat) (k : Cluster) : (setCluster s c k).groups = s.groups := rfl
@[simp] theorem setCluster_teams (s : State) (c : Nat) (k : Cluster) : (setCluster s c k).teams = s.teams := rfl
@[simp] theorem setCluster_grids (s : State) (c : Nat) (k : Cluster) : (setCluster s c k).grids = s.grids := rfl
@[simp] theorem setCluster_works (s : State) (c : Nat) (k : Cluster) : (setCluster s c k).works = s.works := rfl
@[simp] theorem setCluster_cores (s : State) (c : Nat) (k : Cluster) : (setCluster s c k).cores = s.cores := rfl
@[simp] theorem setCluster_clusters (s : State) (c : Nat) (k : Cluster) : (setCluster s c k).clusters = tabPut s.clusters c k := rfl
@[simp] theorem setCluster_queues (s : State) (c : Nat) (k : Cluster) : (setCluster s c k).queues = s.queues := rfl
@[simp] theorem setCluster_saved (s : State) (c : Nat) (k : Cluster) : (setCluster s c k).saved = s.saved := rfl
@[simp] theorem setCluster_vfs (s : State) (c : Nat) (k : Cluster) : (setCluster s c k).vfs = s.vfs := rfl
@[simp] theorem setCluster_rings (s : State) (c : Nat) (k : Cluster) : (setCluster s c k).rings = s.rings := rfl
@[simp] theorem setCluster_dueRecords (s : State) (c : Nat) (k : Cluster) : (setCluster s c k).dueRecords = s.dueRecords := rfl
@[simp] theorem setCluster_cheTurn (s : State) (c : Nat) (k : Cluster) : (setCluster s c k).cheTurn = s.cheTurn := rfl
@[simp] theorem setCluster_cheQuanta (s : State) (c : Nat) (k : Cluster) : (setCluster s c k).cheQuanta = s.cheQuanta := rfl
@[simp] theorem setCluster_cheSince (s : State) (c : Nat) (k : Cluster) : (setCluster s c k).cheSince = s.cheSince := rfl
@[simp] theorem setCluster_qpVf (s : State) (c : Nat) (k : Cluster) : (setCluster s c k).qpVf = s.qpVf := rfl
@[simp] theorem setCluster_qpCtx (s : State) (c : Nat) (k : Cluster) : (setCluster s c k).qpCtx = s.qpCtx := rfl
@[simp] theorem setCluster_qpQuanta (s : State) (c : Nat) (k : Cluster) : (setCluster s c k).qpQuanta = s.qpQuanta := rfl
@[simp] theorem setCluster_qpAsked (s : State) (c : Nat) (k : Cluster) : (setCluster s c k).qpAsked = s.qpAsked := rfl
@[simp] theorem setCluster_tiles (s : State) (c : Nat) (k : Cluster) : (setCluster s c k).tiles = s.tiles := rfl
@[simp] theorem setCluster_images (s : State) (c : Nat) (k : Cluster) : (setCluster s c k).images = s.images := rfl
@[simp] theorem setCluster_calCur (s : State) (c : Nat) (k : Cluster) : (setCluster s c k).calCur = s.calCur := rfl
@[simp] theorem setCluster_calOld (s : State) (c : Nat) (k : Cluster) : (setCluster s c k).calOld = s.calOld := rfl
@[simp] theorem setCluster_cgen (s : State) (c : Nat) (k : Cluster) : (setCluster s c k).cgen = s.cgen := rfl
@[simp] theorem setCluster_dthr (s : State) (c : Nat) (k : Cluster) : (setCluster s c k).dthr = s.dthr := rfl
@[simp] theorem setCluster_journal (s : State) (c : Nat) (k : Cluster) : (setCluster s c k).journal = s.journal := rfl
@[simp] theorem setCluster_journalSeq (s : State) (c : Nat) (k : Cluster) : (setCluster s c k).journalSeq = s.journalSeq := rfl
@[simp] theorem setCluster_colls (s : State) (c : Nat) (k : Cluster) : (setCluster s c k).colls = s.colls := rfl
@[simp] theorem setCluster_invals (s : State) (c : Nat) (k : Cluster) : (setCluster s c k).invals = s.invals := rfl
@[simp] theorem setCluster_decSlots (s : State) (c : Nat) (k : Cluster) : (setCluster s c k).decSlots = s.decSlots := rfl
@[simp] theorem setCluster_l2pwm (s : State) (c : Nat) (k : Cluster) : (setCluster s c k).l2pwm = s.l2pwm := rfl
@[simp] theorem setCluster_charb (s : State) (c : Nat) (k : Cluster) : (setCluster s c k).charb = s.charb := rfl
@[simp] theorem setCluster_camp (s : State) (c : Nat) (k : Cluster) : (setCluster s c k).camp = s.camp := rfl
@[simp] theorem setCluster_chewt (s : State) (c : Nat) (k : Cluster) : (setCluster s c k).chewt = s.chewt := rfl
@[simp] theorem setCluster_fitper (s : State) (c : Nat) (k : Cluster) : (setCluster s c k).fitper = s.fitper := rfl
@[simp] theorem setCluster_leaseto (s : State) (c : Nat) (k : Cluster) : (setCluster s c k).leaseto = s.leaseto := rfl
@[simp] theorem setCluster_wdlim (s : State) (c : Nat) (k : Cluster) : (setCluster s c k).wdlim = s.wdlim := rfl
@[simp] theorem setCluster_snapen (s : State) (c : Nat) (k : Cluster) : (setCluster s c k).snapen = s.snapen := rfl
@[simp] theorem setCluster_pwrcap (s : State) (c : Nat) (k : Cluster) : (setCluster s c k).pwrcap = s.pwrcap := rfl
@[simp] theorem setCluster_errlog (s : State) (c : Nat) (k : Cluster) : (setCluster s c k).errlog = s.errlog := rfl
@[simp] theorem setCluster_errcnt (s : State) (c : Nat) (k : Cluster) : (setCluster s c k).errcnt = s.errcnt := rfl
@[simp] theorem setCluster_throttle (s : State) (c : Nat) (k : Cluster) : (setCluster s c k).throttle = s.throttle := rfl
@[simp] theorem setCluster_draw (s : State) (c : Nat) (k : Cluster) : (setCluster s c k).draw = s.draw := rfl
@[simp] theorem setCluster_throttledAt (s : State) (c : Nat) (k : Cluster) : (setCluster s c k).throttledAt = s.throttledAt := rfl
@[simp] theorem setCluster_lowSince (s : State) (c : Nat) (k : Cluster) : (setCluster s c k).lowSince = s.lowSince := rfl
@[simp] theorem setCluster_overrun (s : State) (c : Nat) (k : Cluster) : (setCluster s c k).overrun = s.overrun := rfl
@[simp] theorem setCluster_snapshots (s : State) (c : Nat) (k : Cluster) : (setCluster s c k).snapshots = s.snapshots := rfl
@[simp] theorem setCluster_snapSeq (s : State) (c : Nat) (k : Cluster) : (setCluster s c k).snapSeq = s.snapSeq := rfl
@[simp] theorem setCluster_lastSnap (s : State) (c : Nat) (k : Cluster) : (setCluster s c k).lastSnap = s.lastSnap := rfl
@[simp] theorem setCluster_locl (s : State) (c : Nat) (k : Cluster) : (setCluster s c k).locl = s.locl := rfl
@[simp] theorem setCluster_remt (s : State) (c : Nat) (k : Cluster) : (setCluster s c k).remt = s.remt := rfl
@[simp] theorem setCluster_retiredChannels (s : State) (c : Nat) (k : Cluster) : (setCluster s c k).retiredChannels = s.retiredChannels := rfl
@[simp] theorem setCluster_retraining (s : State) (c : Nat) (k : Cluster) : (setCluster s c k).retraining = s.retraining := rfl
@[simp] theorem setCluster_healthCodes (s : State) (c : Nat) (k : Cluster) : (setCluster s c k).healthCodes = s.healthCodes := rfl
@[simp] theorem setCluster_mgmtMem (s : State) (c : Nat) (k : Cluster) : (setCluster s c k).mgmtMem = s.mgmtMem := rfl
@[simp] theorem setCluster_inbox (s : State) (c : Nat) (k : Cluster) : (setCluster s c k).inbox = s.inbox := rfl
@[simp] theorem setCluster_replies (s : State) (c : Nat) (k : Cluster) : (setCluster s c k).replies = s.replies := rfl
@[simp] theorem setCluster_out (s : State) (c : Nat) (k : Cluster) : (setCluster s c k).out = s.out := rfl

/-! ## setVf -/

@[simp] theorem setVf_cur (s : State) (vf : Nat) (v : Vf) : (setVf s vf v).cur = s.cur := rfl
@[simp] theorem setVf_agenda (s : State) (vf : Nat) (v : Vf) : (setVf s vf v).agenda = s.agenda := rfl
@[simp] theorem setVf_turn (s : State) (vf : Nat) (v : Vf) : (setVf s vf v).turn = s.turn := rfl
@[simp] theorem setVf_fresh (s : State) (vf : Nat) (v : Vf) : (setVf s vf v).fresh = s.fresh := rfl
@[simp] theorem setVf_steps (s : State) (vf : Nat) (v : Vf) : (setVf s vf v).steps = s.steps := rfl
@[simp] theorem setVf_seq (s : State) (vf : Nat) (v : Vf) : (setVf s vf v).seq = s.seq := rfl
@[simp] theorem setVf_nextId (s : State) (vf : Nat) (v : Vf) : (setVf s vf v).nextId = s.nextId := rfl
@[simp] theorem setVf_time (s : State) (vf : Nat) (v : Vf) : (setVf s vf v).time = s.time := rfl
@[simp] theorem setVf_stage (s : State) (vf : Nat) (v : Vf) : (setVf s vf v).stage = s.stage := rfl
@[simp] theorem setVf_stageFailed (s : State) (vf : Nat) (v : Vf) : (setVf s vf v).stageFailed = s.stageFailed := rfl
@[simp] theorem setVf_firmware (s : State) (vf : Nat) (v : Vf) : (setVf s vf v).firmware = s.firmware := rfl
@[simp] theorem setVf_hypervisor (s : State) (vf : Nat) (v : Vf) : (setVf s vf v).hypervisor = s.hypervisor := rfl
@[simp] theorem setVf_firmwareSum (s : State) (vf : Nat) (v : Vf) : (setVf s vf v).firmwareSum = s.firmwareSum := rfl
@[simp] theorem setVf_hypervisorSum (s : State) (vf : Nat) (v : Vf) : (setVf s vf v).hypervisorSum = s.hypervisorSum := rfl
@[simp] theorem setVf_haltBy (s : State) (vf : Nat) (v : Vf) : (setVf s vf v).haltBy = s.haltBy := rfl
@[simp] theorem setVf_haltFrom (s : State) (vf : Nat) (v : Vf) : (setVf s vf v).haltFrom = s.haltFrom := rfl
@[simp] theorem setVf_modn (s : State) (vf : Nat) (v : Vf) : (setVf s vf v).modn = s.modn := rfl
@[simp] theorem setVf_memCode (s : State) (vf : Nat) (v : Vf) : (setVf s vf v).memCode = s.memCode := rfl
@[simp] theorem setVf_routes (s : State) (vf : Nat) (v : Vf) : (setVf s vf v).routes = s.routes := rfl
@[simp] theorem setVf_heldVls (s : State) (vf : Nat) (v : Vf) : (setVf s vf v).heldVls = s.heldVls := rfl
@[simp] theorem setVf_mem (s : State) (vf : Nat) (v : Vf) : (setVf s vf v).mem = s.mem := rfl
@[simp] theorem setVf_lpddr (s : State) (vf : Nat) (v : Vf) : (setVf s vf v).lpddr = s.lpddr := rfl
@[simp] theorem setVf_badLines (s : State) (vf : Nat) (v : Vf) : (setVf s vf v).badLines = s.badLines := rfl
@[simp] theorem setVf_badLow (s : State) (vf : Nat) (v : Vf) : (setVf s vf v).badLow = s.badLow := rfl
@[simp] theorem setVf_struck (s : State) (vf : Nat) (v : Vf) : (setVf s vf v).struck = s.struck := rfl
@[simp] theorem setVf_down (s : State) (vf : Nat) (v : Vf) : (setVf s vf v).down = s.down := rfl
@[simp] theorem setVf_evictFirst (s : State) (vf : Nat) (v : Vf) : (setVf s vf v).evictFirst = s.evictFirst := rfl
@[simp] theorem setVf_l2 (s : State) (vf : Nat) (v : Vf) : (setVf s vf v).l2 = s.l2 := rfl
@[simp] theorem setVf_attrs (s : State) (vf : Nat) (v : Vf) : (setVf s vf v).attrs = s.attrs := rfl
@[simp] theorem setVf_history (s : State) (vf : Nat) (v : Vf) : (setVf s vf v).history = s.history := rfl
@[simp] theorem setVf_claims (s : State) (vf : Nat) (v : Vf) : (setVf s vf v).claims = s.claims := rfl
@[simp] theorem setVf_claimQueue (s : State) (vf : Nat) (v : Vf) : (setVf s vf v).claimQueue = s.claimQueue := rfl
@[simp] theorem setVf_wcache (s : State) (vf : Nat) (v : Vf) : (setVf s vf v).wcache = s.wcache := rfl
@[simp] theorem setVf_walked (s : State) (vf : Nat) (v : Vf) : (setVf s vf v).walked = s.walked := rfl
@[simp] theorem setVf_ranged (s : State) (vf : Nat) (v : Vf) : (setVf s vf v).ranged = s.ranged := rfl
@[simp] theorem setVf_pending (s : State) (vf : Nat) (v : Vf) : (setVf s vf v).pending = s.pending := rfl
@[simp] theorem setVf_groups (s : State) (vf : Nat) (v : Vf) : (setVf s vf v).groups = s.groups := rfl
@[simp] theorem setVf_teams (s : State) (vf : Nat) (v : Vf) : (setVf s vf v).teams = s.teams := rfl
@[simp] theorem setVf_grids (s : State) (vf : Nat) (v : Vf) : (setVf s vf v).grids = s.grids := rfl
@[simp] theorem setVf_works (s : State) (vf : Nat) (v : Vf) : (setVf s vf v).works = s.works := rfl
@[simp] theorem setVf_cores (s : State) (vf : Nat) (v : Vf) : (setVf s vf v).cores = s.cores := rfl
@[simp] theorem setVf_clusters (s : State) (vf : Nat) (v : Vf) : (setVf s vf v).clusters = s.clusters := rfl
@[simp] theorem setVf_queues (s : State) (vf : Nat) (v : Vf) : (setVf s vf v).queues = s.queues := rfl
@[simp] theorem setVf_saved (s : State) (vf : Nat) (v : Vf) : (setVf s vf v).saved = s.saved := rfl
@[simp] theorem setVf_vfs (s : State) (vf : Nat) (v : Vf) : (setVf s vf v).vfs = tabPut s.vfs vf v := rfl
@[simp] theorem setVf_rings (s : State) (vf : Nat) (v : Vf) : (setVf s vf v).rings = s.rings := rfl
@[simp] theorem setVf_dueRecords (s : State) (vf : Nat) (v : Vf) : (setVf s vf v).dueRecords = s.dueRecords := rfl
@[simp] theorem setVf_cheTurn (s : State) (vf : Nat) (v : Vf) : (setVf s vf v).cheTurn = s.cheTurn := rfl
@[simp] theorem setVf_cheQuanta (s : State) (vf : Nat) (v : Vf) : (setVf s vf v).cheQuanta = s.cheQuanta := rfl
@[simp] theorem setVf_cheSince (s : State) (vf : Nat) (v : Vf) : (setVf s vf v).cheSince = s.cheSince := rfl
@[simp] theorem setVf_qpVf (s : State) (vf : Nat) (v : Vf) : (setVf s vf v).qpVf = s.qpVf := rfl
@[simp] theorem setVf_qpCtx (s : State) (vf : Nat) (v : Vf) : (setVf s vf v).qpCtx = s.qpCtx := rfl
@[simp] theorem setVf_qpQuanta (s : State) (vf : Nat) (v : Vf) : (setVf s vf v).qpQuanta = s.qpQuanta := rfl
@[simp] theorem setVf_qpAsked (s : State) (vf : Nat) (v : Vf) : (setVf s vf v).qpAsked = s.qpAsked := rfl
@[simp] theorem setVf_tiles (s : State) (vf : Nat) (v : Vf) : (setVf s vf v).tiles = s.tiles := rfl
@[simp] theorem setVf_images (s : State) (vf : Nat) (v : Vf) : (setVf s vf v).images = s.images := rfl
@[simp] theorem setVf_calCur (s : State) (vf : Nat) (v : Vf) : (setVf s vf v).calCur = s.calCur := rfl
@[simp] theorem setVf_calOld (s : State) (vf : Nat) (v : Vf) : (setVf s vf v).calOld = s.calOld := rfl
@[simp] theorem setVf_cgen (s : State) (vf : Nat) (v : Vf) : (setVf s vf v).cgen = s.cgen := rfl
@[simp] theorem setVf_dthr (s : State) (vf : Nat) (v : Vf) : (setVf s vf v).dthr = s.dthr := rfl
@[simp] theorem setVf_journal (s : State) (vf : Nat) (v : Vf) : (setVf s vf v).journal = s.journal := rfl
@[simp] theorem setVf_journalSeq (s : State) (vf : Nat) (v : Vf) : (setVf s vf v).journalSeq = s.journalSeq := rfl
@[simp] theorem setVf_colls (s : State) (vf : Nat) (v : Vf) : (setVf s vf v).colls = s.colls := rfl
@[simp] theorem setVf_invals (s : State) (vf : Nat) (v : Vf) : (setVf s vf v).invals = s.invals := rfl
@[simp] theorem setVf_decSlots (s : State) (vf : Nat) (v : Vf) : (setVf s vf v).decSlots = s.decSlots := rfl
@[simp] theorem setVf_l2pwm (s : State) (vf : Nat) (v : Vf) : (setVf s vf v).l2pwm = s.l2pwm := rfl
@[simp] theorem setVf_charb (s : State) (vf : Nat) (v : Vf) : (setVf s vf v).charb = s.charb := rfl
@[simp] theorem setVf_camp (s : State) (vf : Nat) (v : Vf) : (setVf s vf v).camp = s.camp := rfl
@[simp] theorem setVf_chewt (s : State) (vf : Nat) (v : Vf) : (setVf s vf v).chewt = s.chewt := rfl
@[simp] theorem setVf_fitper (s : State) (vf : Nat) (v : Vf) : (setVf s vf v).fitper = s.fitper := rfl
@[simp] theorem setVf_leaseto (s : State) (vf : Nat) (v : Vf) : (setVf s vf v).leaseto = s.leaseto := rfl
@[simp] theorem setVf_wdlim (s : State) (vf : Nat) (v : Vf) : (setVf s vf v).wdlim = s.wdlim := rfl
@[simp] theorem setVf_snapen (s : State) (vf : Nat) (v : Vf) : (setVf s vf v).snapen = s.snapen := rfl
@[simp] theorem setVf_pwrcap (s : State) (vf : Nat) (v : Vf) : (setVf s vf v).pwrcap = s.pwrcap := rfl
@[simp] theorem setVf_errlog (s : State) (vf : Nat) (v : Vf) : (setVf s vf v).errlog = s.errlog := rfl
@[simp] theorem setVf_errcnt (s : State) (vf : Nat) (v : Vf) : (setVf s vf v).errcnt = s.errcnt := rfl
@[simp] theorem setVf_throttle (s : State) (vf : Nat) (v : Vf) : (setVf s vf v).throttle = s.throttle := rfl
@[simp] theorem setVf_draw (s : State) (vf : Nat) (v : Vf) : (setVf s vf v).draw = s.draw := rfl
@[simp] theorem setVf_throttledAt (s : State) (vf : Nat) (v : Vf) : (setVf s vf v).throttledAt = s.throttledAt := rfl
@[simp] theorem setVf_lowSince (s : State) (vf : Nat) (v : Vf) : (setVf s vf v).lowSince = s.lowSince := rfl
@[simp] theorem setVf_overrun (s : State) (vf : Nat) (v : Vf) : (setVf s vf v).overrun = s.overrun := rfl
@[simp] theorem setVf_snapshots (s : State) (vf : Nat) (v : Vf) : (setVf s vf v).snapshots = s.snapshots := rfl
@[simp] theorem setVf_snapSeq (s : State) (vf : Nat) (v : Vf) : (setVf s vf v).snapSeq = s.snapSeq := rfl
@[simp] theorem setVf_lastSnap (s : State) (vf : Nat) (v : Vf) : (setVf s vf v).lastSnap = s.lastSnap := rfl
@[simp] theorem setVf_locl (s : State) (vf : Nat) (v : Vf) : (setVf s vf v).locl = s.locl := rfl
@[simp] theorem setVf_remt (s : State) (vf : Nat) (v : Vf) : (setVf s vf v).remt = s.remt := rfl
@[simp] theorem setVf_retiredChannels (s : State) (vf : Nat) (v : Vf) : (setVf s vf v).retiredChannels = s.retiredChannels := rfl
@[simp] theorem setVf_retraining (s : State) (vf : Nat) (v : Vf) : (setVf s vf v).retraining = s.retraining := rfl
@[simp] theorem setVf_healthCodes (s : State) (vf : Nat) (v : Vf) : (setVf s vf v).healthCodes = s.healthCodes := rfl
@[simp] theorem setVf_mgmtMem (s : State) (vf : Nat) (v : Vf) : (setVf s vf v).mgmtMem = s.mgmtMem := rfl
@[simp] theorem setVf_inbox (s : State) (vf : Nat) (v : Vf) : (setVf s vf v).inbox = s.inbox := rfl
@[simp] theorem setVf_replies (s : State) (vf : Nat) (v : Vf) : (setVf s vf v).replies = s.replies := rfl
@[simp] theorem setVf_out (s : State) (vf : Nat) (v : Vf) : (setVf s vf v).out = s.out := rfl

/-! ## setRing -/

@[simp] theorem setRing_cur (s : State) (pkg vf : Nat) (r : Ring) : (setRing s pkg vf r).cur = s.cur := rfl
@[simp] theorem setRing_agenda (s : State) (pkg vf : Nat) (r : Ring) : (setRing s pkg vf r).agenda = s.agenda := rfl
@[simp] theorem setRing_turn (s : State) (pkg vf : Nat) (r : Ring) : (setRing s pkg vf r).turn = s.turn := rfl
@[simp] theorem setRing_fresh (s : State) (pkg vf : Nat) (r : Ring) : (setRing s pkg vf r).fresh = s.fresh := rfl
@[simp] theorem setRing_steps (s : State) (pkg vf : Nat) (r : Ring) : (setRing s pkg vf r).steps = s.steps := rfl
@[simp] theorem setRing_seq (s : State) (pkg vf : Nat) (r : Ring) : (setRing s pkg vf r).seq = s.seq := rfl
@[simp] theorem setRing_nextId (s : State) (pkg vf : Nat) (r : Ring) : (setRing s pkg vf r).nextId = s.nextId := rfl
@[simp] theorem setRing_time (s : State) (pkg vf : Nat) (r : Ring) : (setRing s pkg vf r).time = s.time := rfl
@[simp] theorem setRing_stage (s : State) (pkg vf : Nat) (r : Ring) : (setRing s pkg vf r).stage = s.stage := rfl
@[simp] theorem setRing_stageFailed (s : State) (pkg vf : Nat) (r : Ring) : (setRing s pkg vf r).stageFailed = s.stageFailed := rfl
@[simp] theorem setRing_firmware (s : State) (pkg vf : Nat) (r : Ring) : (setRing s pkg vf r).firmware = s.firmware := rfl
@[simp] theorem setRing_hypervisor (s : State) (pkg vf : Nat) (r : Ring) : (setRing s pkg vf r).hypervisor = s.hypervisor := rfl
@[simp] theorem setRing_firmwareSum (s : State) (pkg vf : Nat) (r : Ring) : (setRing s pkg vf r).firmwareSum = s.firmwareSum := rfl
@[simp] theorem setRing_hypervisorSum (s : State) (pkg vf : Nat) (r : Ring) : (setRing s pkg vf r).hypervisorSum = s.hypervisorSum := rfl
@[simp] theorem setRing_haltBy (s : State) (pkg vf : Nat) (r : Ring) : (setRing s pkg vf r).haltBy = s.haltBy := rfl
@[simp] theorem setRing_haltFrom (s : State) (pkg vf : Nat) (r : Ring) : (setRing s pkg vf r).haltFrom = s.haltFrom := rfl
@[simp] theorem setRing_modn (s : State) (pkg vf : Nat) (r : Ring) : (setRing s pkg vf r).modn = s.modn := rfl
@[simp] theorem setRing_memCode (s : State) (pkg vf : Nat) (r : Ring) : (setRing s pkg vf r).memCode = s.memCode := rfl
@[simp] theorem setRing_routes (s : State) (pkg vf : Nat) (r : Ring) : (setRing s pkg vf r).routes = s.routes := rfl
@[simp] theorem setRing_heldVls (s : State) (pkg vf : Nat) (r : Ring) : (setRing s pkg vf r).heldVls = s.heldVls := rfl
@[simp] theorem setRing_mem (s : State) (pkg vf : Nat) (r : Ring) : (setRing s pkg vf r).mem = s.mem := rfl
@[simp] theorem setRing_lpddr (s : State) (pkg vf : Nat) (r : Ring) : (setRing s pkg vf r).lpddr = s.lpddr := rfl
@[simp] theorem setRing_badLines (s : State) (pkg vf : Nat) (r : Ring) : (setRing s pkg vf r).badLines = s.badLines := rfl
@[simp] theorem setRing_badLow (s : State) (pkg vf : Nat) (r : Ring) : (setRing s pkg vf r).badLow = s.badLow := rfl
@[simp] theorem setRing_struck (s : State) (pkg vf : Nat) (r : Ring) : (setRing s pkg vf r).struck = s.struck := rfl
@[simp] theorem setRing_down (s : State) (pkg vf : Nat) (r : Ring) : (setRing s pkg vf r).down = s.down := rfl
@[simp] theorem setRing_evictFirst (s : State) (pkg vf : Nat) (r : Ring) : (setRing s pkg vf r).evictFirst = s.evictFirst := rfl
@[simp] theorem setRing_l2 (s : State) (pkg vf : Nat) (r : Ring) : (setRing s pkg vf r).l2 = s.l2 := rfl
@[simp] theorem setRing_attrs (s : State) (pkg vf : Nat) (r : Ring) : (setRing s pkg vf r).attrs = s.attrs := rfl
@[simp] theorem setRing_history (s : State) (pkg vf : Nat) (r : Ring) : (setRing s pkg vf r).history = s.history := rfl
@[simp] theorem setRing_claims (s : State) (pkg vf : Nat) (r : Ring) : (setRing s pkg vf r).claims = s.claims := rfl
@[simp] theorem setRing_claimQueue (s : State) (pkg vf : Nat) (r : Ring) : (setRing s pkg vf r).claimQueue = s.claimQueue := rfl
@[simp] theorem setRing_wcache (s : State) (pkg vf : Nat) (r : Ring) : (setRing s pkg vf r).wcache = s.wcache := rfl
@[simp] theorem setRing_walked (s : State) (pkg vf : Nat) (r : Ring) : (setRing s pkg vf r).walked = s.walked := rfl
@[simp] theorem setRing_ranged (s : State) (pkg vf : Nat) (r : Ring) : (setRing s pkg vf r).ranged = s.ranged := rfl
@[simp] theorem setRing_pending (s : State) (pkg vf : Nat) (r : Ring) : (setRing s pkg vf r).pending = s.pending := rfl
@[simp] theorem setRing_groups (s : State) (pkg vf : Nat) (r : Ring) : (setRing s pkg vf r).groups = s.groups := rfl
@[simp] theorem setRing_teams (s : State) (pkg vf : Nat) (r : Ring) : (setRing s pkg vf r).teams = s.teams := rfl
@[simp] theorem setRing_grids (s : State) (pkg vf : Nat) (r : Ring) : (setRing s pkg vf r).grids = s.grids := rfl
@[simp] theorem setRing_works (s : State) (pkg vf : Nat) (r : Ring) : (setRing s pkg vf r).works = s.works := rfl
@[simp] theorem setRing_cores (s : State) (pkg vf : Nat) (r : Ring) : (setRing s pkg vf r).cores = s.cores := rfl
@[simp] theorem setRing_clusters (s : State) (pkg vf : Nat) (r : Ring) : (setRing s pkg vf r).clusters = s.clusters := rfl
@[simp] theorem setRing_queues (s : State) (pkg vf : Nat) (r : Ring) : (setRing s pkg vf r).queues = s.queues := rfl
@[simp] theorem setRing_saved (s : State) (pkg vf : Nat) (r : Ring) : (setRing s pkg vf r).saved = s.saved := rfl
@[simp] theorem setRing_vfs (s : State) (pkg vf : Nat) (r : Ring) : (setRing s pkg vf r).vfs = s.vfs := rfl
@[simp] theorem setRing_rings (s : State) (pkg vf : Nat) (r : Ring) : (setRing s pkg vf r).rings = tabPut s.rings (ringKey pkg vf) r := rfl
@[simp] theorem setRing_dueRecords (s : State) (pkg vf : Nat) (r : Ring) : (setRing s pkg vf r).dueRecords = s.dueRecords := rfl
@[simp] theorem setRing_cheTurn (s : State) (pkg vf : Nat) (r : Ring) : (setRing s pkg vf r).cheTurn = s.cheTurn := rfl
@[simp] theorem setRing_cheQuanta (s : State) (pkg vf : Nat) (r : Ring) : (setRing s pkg vf r).cheQuanta = s.cheQuanta := rfl
@[simp] theorem setRing_cheSince (s : State) (pkg vf : Nat) (r : Ring) : (setRing s pkg vf r).cheSince = s.cheSince := rfl
@[simp] theorem setRing_qpVf (s : State) (pkg vf : Nat) (r : Ring) : (setRing s pkg vf r).qpVf = s.qpVf := rfl
@[simp] theorem setRing_qpCtx (s : State) (pkg vf : Nat) (r : Ring) : (setRing s pkg vf r).qpCtx = s.qpCtx := rfl
@[simp] theorem setRing_qpQuanta (s : State) (pkg vf : Nat) (r : Ring) : (setRing s pkg vf r).qpQuanta = s.qpQuanta := rfl
@[simp] theorem setRing_qpAsked (s : State) (pkg vf : Nat) (r : Ring) : (setRing s pkg vf r).qpAsked = s.qpAsked := rfl
@[simp] theorem setRing_tiles (s : State) (pkg vf : Nat) (r : Ring) : (setRing s pkg vf r).tiles = s.tiles := rfl
@[simp] theorem setRing_images (s : State) (pkg vf : Nat) (r : Ring) : (setRing s pkg vf r).images = s.images := rfl
@[simp] theorem setRing_calCur (s : State) (pkg vf : Nat) (r : Ring) : (setRing s pkg vf r).calCur = s.calCur := rfl
@[simp] theorem setRing_calOld (s : State) (pkg vf : Nat) (r : Ring) : (setRing s pkg vf r).calOld = s.calOld := rfl
@[simp] theorem setRing_cgen (s : State) (pkg vf : Nat) (r : Ring) : (setRing s pkg vf r).cgen = s.cgen := rfl
@[simp] theorem setRing_dthr (s : State) (pkg vf : Nat) (r : Ring) : (setRing s pkg vf r).dthr = s.dthr := rfl
@[simp] theorem setRing_journal (s : State) (pkg vf : Nat) (r : Ring) : (setRing s pkg vf r).journal = s.journal := rfl
@[simp] theorem setRing_journalSeq (s : State) (pkg vf : Nat) (r : Ring) : (setRing s pkg vf r).journalSeq = s.journalSeq := rfl
@[simp] theorem setRing_colls (s : State) (pkg vf : Nat) (r : Ring) : (setRing s pkg vf r).colls = s.colls := rfl
@[simp] theorem setRing_invals (s : State) (pkg vf : Nat) (r : Ring) : (setRing s pkg vf r).invals = s.invals := rfl
@[simp] theorem setRing_decSlots (s : State) (pkg vf : Nat) (r : Ring) : (setRing s pkg vf r).decSlots = s.decSlots := rfl
@[simp] theorem setRing_l2pwm (s : State) (pkg vf : Nat) (r : Ring) : (setRing s pkg vf r).l2pwm = s.l2pwm := rfl
@[simp] theorem setRing_charb (s : State) (pkg vf : Nat) (r : Ring) : (setRing s pkg vf r).charb = s.charb := rfl
@[simp] theorem setRing_camp (s : State) (pkg vf : Nat) (r : Ring) : (setRing s pkg vf r).camp = s.camp := rfl
@[simp] theorem setRing_chewt (s : State) (pkg vf : Nat) (r : Ring) : (setRing s pkg vf r).chewt = s.chewt := rfl
@[simp] theorem setRing_fitper (s : State) (pkg vf : Nat) (r : Ring) : (setRing s pkg vf r).fitper = s.fitper := rfl
@[simp] theorem setRing_leaseto (s : State) (pkg vf : Nat) (r : Ring) : (setRing s pkg vf r).leaseto = s.leaseto := rfl
@[simp] theorem setRing_wdlim (s : State) (pkg vf : Nat) (r : Ring) : (setRing s pkg vf r).wdlim = s.wdlim := rfl
@[simp] theorem setRing_snapen (s : State) (pkg vf : Nat) (r : Ring) : (setRing s pkg vf r).snapen = s.snapen := rfl
@[simp] theorem setRing_pwrcap (s : State) (pkg vf : Nat) (r : Ring) : (setRing s pkg vf r).pwrcap = s.pwrcap := rfl
@[simp] theorem setRing_errlog (s : State) (pkg vf : Nat) (r : Ring) : (setRing s pkg vf r).errlog = s.errlog := rfl
@[simp] theorem setRing_errcnt (s : State) (pkg vf : Nat) (r : Ring) : (setRing s pkg vf r).errcnt = s.errcnt := rfl
@[simp] theorem setRing_throttle (s : State) (pkg vf : Nat) (r : Ring) : (setRing s pkg vf r).throttle = s.throttle := rfl
@[simp] theorem setRing_draw (s : State) (pkg vf : Nat) (r : Ring) : (setRing s pkg vf r).draw = s.draw := rfl
@[simp] theorem setRing_throttledAt (s : State) (pkg vf : Nat) (r : Ring) : (setRing s pkg vf r).throttledAt = s.throttledAt := rfl
@[simp] theorem setRing_lowSince (s : State) (pkg vf : Nat) (r : Ring) : (setRing s pkg vf r).lowSince = s.lowSince := rfl
@[simp] theorem setRing_overrun (s : State) (pkg vf : Nat) (r : Ring) : (setRing s pkg vf r).overrun = s.overrun := rfl
@[simp] theorem setRing_snapshots (s : State) (pkg vf : Nat) (r : Ring) : (setRing s pkg vf r).snapshots = s.snapshots := rfl
@[simp] theorem setRing_snapSeq (s : State) (pkg vf : Nat) (r : Ring) : (setRing s pkg vf r).snapSeq = s.snapSeq := rfl
@[simp] theorem setRing_lastSnap (s : State) (pkg vf : Nat) (r : Ring) : (setRing s pkg vf r).lastSnap = s.lastSnap := rfl
@[simp] theorem setRing_locl (s : State) (pkg vf : Nat) (r : Ring) : (setRing s pkg vf r).locl = s.locl := rfl
@[simp] theorem setRing_remt (s : State) (pkg vf : Nat) (r : Ring) : (setRing s pkg vf r).remt = s.remt := rfl
@[simp] theorem setRing_retiredChannels (s : State) (pkg vf : Nat) (r : Ring) : (setRing s pkg vf r).retiredChannels = s.retiredChannels := rfl
@[simp] theorem setRing_retraining (s : State) (pkg vf : Nat) (r : Ring) : (setRing s pkg vf r).retraining = s.retraining := rfl
@[simp] theorem setRing_healthCodes (s : State) (pkg vf : Nat) (r : Ring) : (setRing s pkg vf r).healthCodes = s.healthCodes := rfl
@[simp] theorem setRing_mgmtMem (s : State) (pkg vf : Nat) (r : Ring) : (setRing s pkg vf r).mgmtMem = s.mgmtMem := rfl
@[simp] theorem setRing_inbox (s : State) (pkg vf : Nat) (r : Ring) : (setRing s pkg vf r).inbox = s.inbox := rfl
@[simp] theorem setRing_replies (s : State) (pkg vf : Nat) (r : Ring) : (setRing s pkg vf r).replies = s.replies := rfl
@[simp] theorem setRing_out (s : State) (pkg vf : Nat) (r : Ring) : (setRing s pkg vf r).out = s.out := rfl

/-! ## setWork -/

@[simp] theorem setWork_cur (s : State) (w : Work) : (setWork s w).cur = s.cur := rfl
@[simp] theorem setWork_agenda (s : State) (w : Work) : (setWork s w).agenda = s.agenda := rfl
@[simp] theorem setWork_turn (s : State) (w : Work) : (setWork s w).turn = s.turn := rfl
@[simp] theorem setWork_fresh (s : State) (w : Work) : (setWork s w).fresh = s.fresh := rfl
@[simp] theorem setWork_steps (s : State) (w : Work) : (setWork s w).steps = s.steps := rfl
@[simp] theorem setWork_seq (s : State) (w : Work) : (setWork s w).seq = s.seq := rfl
@[simp] theorem setWork_nextId (s : State) (w : Work) : (setWork s w).nextId = s.nextId := rfl
@[simp] theorem setWork_time (s : State) (w : Work) : (setWork s w).time = s.time := rfl
@[simp] theorem setWork_stage (s : State) (w : Work) : (setWork s w).stage = s.stage := rfl
@[simp] theorem setWork_stageFailed (s : State) (w : Work) : (setWork s w).stageFailed = s.stageFailed := rfl
@[simp] theorem setWork_firmware (s : State) (w : Work) : (setWork s w).firmware = s.firmware := rfl
@[simp] theorem setWork_hypervisor (s : State) (w : Work) : (setWork s w).hypervisor = s.hypervisor := rfl
@[simp] theorem setWork_firmwareSum (s : State) (w : Work) : (setWork s w).firmwareSum = s.firmwareSum := rfl
@[simp] theorem setWork_hypervisorSum (s : State) (w : Work) : (setWork s w).hypervisorSum = s.hypervisorSum := rfl
@[simp] theorem setWork_haltBy (s : State) (w : Work) : (setWork s w).haltBy = s.haltBy := rfl
@[simp] theorem setWork_haltFrom (s : State) (w : Work) : (setWork s w).haltFrom = s.haltFrom := rfl
@[simp] theorem setWork_modn (s : State) (w : Work) : (setWork s w).modn = s.modn := rfl
@[simp] theorem setWork_memCode (s : State) (w : Work) : (setWork s w).memCode = s.memCode := rfl
@[simp] theorem setWork_routes (s : State) (w : Work) : (setWork s w).routes = s.routes := rfl
@[simp] theorem setWork_heldVls (s : State) (w : Work) : (setWork s w).heldVls = s.heldVls := rfl
@[simp] theorem setWork_mem (s : State) (w : Work) : (setWork s w).mem = s.mem := rfl
@[simp] theorem setWork_lpddr (s : State) (w : Work) : (setWork s w).lpddr = s.lpddr := rfl
@[simp] theorem setWork_badLines (s : State) (w : Work) : (setWork s w).badLines = s.badLines := rfl
@[simp] theorem setWork_badLow (s : State) (w : Work) : (setWork s w).badLow = s.badLow := rfl
@[simp] theorem setWork_struck (s : State) (w : Work) : (setWork s w).struck = s.struck := rfl
@[simp] theorem setWork_down (s : State) (w : Work) : (setWork s w).down = s.down := rfl
@[simp] theorem setWork_evictFirst (s : State) (w : Work) : (setWork s w).evictFirst = s.evictFirst := rfl
@[simp] theorem setWork_l2 (s : State) (w : Work) : (setWork s w).l2 = s.l2 := rfl
@[simp] theorem setWork_attrs (s : State) (w : Work) : (setWork s w).attrs = s.attrs := rfl
@[simp] theorem setWork_history (s : State) (w : Work) : (setWork s w).history = s.history := rfl
@[simp] theorem setWork_claims (s : State) (w : Work) : (setWork s w).claims = s.claims := rfl
@[simp] theorem setWork_claimQueue (s : State) (w : Work) : (setWork s w).claimQueue = s.claimQueue := rfl
@[simp] theorem setWork_wcache (s : State) (w : Work) : (setWork s w).wcache = s.wcache := rfl
@[simp] theorem setWork_walked (s : State) (w : Work) : (setWork s w).walked = s.walked := rfl
@[simp] theorem setWork_ranged (s : State) (w : Work) : (setWork s w).ranged = s.ranged := rfl
@[simp] theorem setWork_pending (s : State) (w : Work) : (setWork s w).pending = s.pending := rfl
@[simp] theorem setWork_groups (s : State) (w : Work) : (setWork s w).groups = s.groups := rfl
@[simp] theorem setWork_teams (s : State) (w : Work) : (setWork s w).teams = s.teams := rfl
@[simp] theorem setWork_grids (s : State) (w : Work) : (setWork s w).grids = s.grids := rfl
@[simp] theorem setWork_works (s : State) (w : Work) : (setWork s w).works = s.works.map (fun v => if v.id = w.id then w else v) := rfl
@[simp] theorem setWork_cores (s : State) (w : Work) : (setWork s w).cores = s.cores := rfl
@[simp] theorem setWork_clusters (s : State) (w : Work) : (setWork s w).clusters = s.clusters := rfl
@[simp] theorem setWork_queues (s : State) (w : Work) : (setWork s w).queues = s.queues := rfl
@[simp] theorem setWork_saved (s : State) (w : Work) : (setWork s w).saved = s.saved := rfl
@[simp] theorem setWork_vfs (s : State) (w : Work) : (setWork s w).vfs = s.vfs := rfl
@[simp] theorem setWork_rings (s : State) (w : Work) : (setWork s w).rings = s.rings := rfl
@[simp] theorem setWork_dueRecords (s : State) (w : Work) : (setWork s w).dueRecords = s.dueRecords := rfl
@[simp] theorem setWork_cheTurn (s : State) (w : Work) : (setWork s w).cheTurn = s.cheTurn := rfl
@[simp] theorem setWork_cheQuanta (s : State) (w : Work) : (setWork s w).cheQuanta = s.cheQuanta := rfl
@[simp] theorem setWork_cheSince (s : State) (w : Work) : (setWork s w).cheSince = s.cheSince := rfl
@[simp] theorem setWork_qpVf (s : State) (w : Work) : (setWork s w).qpVf = s.qpVf := rfl
@[simp] theorem setWork_qpCtx (s : State) (w : Work) : (setWork s w).qpCtx = s.qpCtx := rfl
@[simp] theorem setWork_qpQuanta (s : State) (w : Work) : (setWork s w).qpQuanta = s.qpQuanta := rfl
@[simp] theorem setWork_qpAsked (s : State) (w : Work) : (setWork s w).qpAsked = s.qpAsked := rfl
@[simp] theorem setWork_tiles (s : State) (w : Work) : (setWork s w).tiles = s.tiles := rfl
@[simp] theorem setWork_images (s : State) (w : Work) : (setWork s w).images = s.images := rfl
@[simp] theorem setWork_calCur (s : State) (w : Work) : (setWork s w).calCur = s.calCur := rfl
@[simp] theorem setWork_calOld (s : State) (w : Work) : (setWork s w).calOld = s.calOld := rfl
@[simp] theorem setWork_cgen (s : State) (w : Work) : (setWork s w).cgen = s.cgen := rfl
@[simp] theorem setWork_dthr (s : State) (w : Work) : (setWork s w).dthr = s.dthr := rfl
@[simp] theorem setWork_journal (s : State) (w : Work) : (setWork s w).journal = s.journal := rfl
@[simp] theorem setWork_journalSeq (s : State) (w : Work) : (setWork s w).journalSeq = s.journalSeq := rfl
@[simp] theorem setWork_colls (s : State) (w : Work) : (setWork s w).colls = s.colls := rfl
@[simp] theorem setWork_invals (s : State) (w : Work) : (setWork s w).invals = s.invals := rfl
@[simp] theorem setWork_decSlots (s : State) (w : Work) : (setWork s w).decSlots = s.decSlots := rfl
@[simp] theorem setWork_l2pwm (s : State) (w : Work) : (setWork s w).l2pwm = s.l2pwm := rfl
@[simp] theorem setWork_charb (s : State) (w : Work) : (setWork s w).charb = s.charb := rfl
@[simp] theorem setWork_camp (s : State) (w : Work) : (setWork s w).camp = s.camp := rfl
@[simp] theorem setWork_chewt (s : State) (w : Work) : (setWork s w).chewt = s.chewt := rfl
@[simp] theorem setWork_fitper (s : State) (w : Work) : (setWork s w).fitper = s.fitper := rfl
@[simp] theorem setWork_leaseto (s : State) (w : Work) : (setWork s w).leaseto = s.leaseto := rfl
@[simp] theorem setWork_wdlim (s : State) (w : Work) : (setWork s w).wdlim = s.wdlim := rfl
@[simp] theorem setWork_snapen (s : State) (w : Work) : (setWork s w).snapen = s.snapen := rfl
@[simp] theorem setWork_pwrcap (s : State) (w : Work) : (setWork s w).pwrcap = s.pwrcap := rfl
@[simp] theorem setWork_errlog (s : State) (w : Work) : (setWork s w).errlog = s.errlog := rfl
@[simp] theorem setWork_errcnt (s : State) (w : Work) : (setWork s w).errcnt = s.errcnt := rfl
@[simp] theorem setWork_throttle (s : State) (w : Work) : (setWork s w).throttle = s.throttle := rfl
@[simp] theorem setWork_draw (s : State) (w : Work) : (setWork s w).draw = s.draw := rfl
@[simp] theorem setWork_throttledAt (s : State) (w : Work) : (setWork s w).throttledAt = s.throttledAt := rfl
@[simp] theorem setWork_lowSince (s : State) (w : Work) : (setWork s w).lowSince = s.lowSince := rfl
@[simp] theorem setWork_overrun (s : State) (w : Work) : (setWork s w).overrun = s.overrun := rfl
@[simp] theorem setWork_snapshots (s : State) (w : Work) : (setWork s w).snapshots = s.snapshots := rfl
@[simp] theorem setWork_snapSeq (s : State) (w : Work) : (setWork s w).snapSeq = s.snapSeq := rfl
@[simp] theorem setWork_lastSnap (s : State) (w : Work) : (setWork s w).lastSnap = s.lastSnap := rfl
@[simp] theorem setWork_locl (s : State) (w : Work) : (setWork s w).locl = s.locl := rfl
@[simp] theorem setWork_remt (s : State) (w : Work) : (setWork s w).remt = s.remt := rfl
@[simp] theorem setWork_retiredChannels (s : State) (w : Work) : (setWork s w).retiredChannels = s.retiredChannels := rfl
@[simp] theorem setWork_retraining (s : State) (w : Work) : (setWork s w).retraining = s.retraining := rfl
@[simp] theorem setWork_healthCodes (s : State) (w : Work) : (setWork s w).healthCodes = s.healthCodes := rfl
@[simp] theorem setWork_mgmtMem (s : State) (w : Work) : (setWork s w).mgmtMem = s.mgmtMem := rfl
@[simp] theorem setWork_inbox (s : State) (w : Work) : (setWork s w).inbox = s.inbox := rfl
@[simp] theorem setWork_replies (s : State) (w : Work) : (setWork s w).replies = s.replies := rfl
@[simp] theorem setWork_out (s : State) (w : Work) : (setWork s w).out = s.out := rfl

/-! ## Accessors -/

@[simp] theorem getGroup_setGroup_same (s : State) (n : Nat) (g : Group) : getGroup (setGroup s n g) n = g := tabGet_tabPut_same ..
theorem getGroup_setGroup_other (s : State) {n k : Nat} (g : Group) (h : k ≠ n) : getGroup (setGroup s n g) k = getGroup s k := tabGet_tabPut_other _ _ _ h

@[simp] theorem getGrid_setGrid_same (s : State) (n : Nat) (g : Grid) : getGrid (setGrid s n g) n = g := tabGet_tabPut_same ..
theorem getGrid_setGrid_other (s : State) {n k : Nat} (g : Grid) (h : k ≠ n) : getGrid (setGrid s n g) k = getGrid s k := tabGet_tabPut_other _ _ _ h

@[simp] theorem getQueue_setQueue_same (s : State) (n : Nat) (g : QCtx) : getQueue (setQueue s n g) n = g := tabGet_tabPut_same ..
theorem getQueue_setQueue_other (s : State) {n k : Nat} (g : QCtx) (h : k ≠ n) : getQueue (setQueue s n g) k = getQueue s k := tabGet_tabPut_other _ _ _ h

@[simp] theorem getCore_setCore_same (s : State) (n : Nat) (g : Core) : getCore (setCore s n g) n = g := tabGet_tabPut_same ..
theorem getCore_setCore_other (s : State) {n k : Nat} (g : Core) (h : k ≠ n) : getCore (setCore s n g) k = getCore s k := tabGet_tabPut_other _ _ _ h

@[simp] theorem getCluster_setCluster_same (s : State) (n : Nat) (g : Cluster) : getCluster (setCluster s n g) n = g := tabGet_tabPut_same ..
theorem getCluster_setCluster_other (s : State) {n k : Nat} (g : Cluster) (h : k ≠ n) : getCluster (setCluster s n g) k = getCluster s k := tabGet_tabPut_other _ _ _ h

@[simp] theorem getVf_setVf_same (s : State) (n : Nat) (g : Vf) : getVf (setVf s n g) n = g := tabGet_tabPut_same ..
theorem getVf_setVf_other (s : State) {n k : Nat} (g : Vf) (h : k ≠ n) : getVf (setVf s n g) k = getVf s k := tabGet_tabPut_other _ _ _ h

@[simp] theorem getRing_setRing_same (s : State) (p v : Nat) (r : Ring) : getRing (setRing s p v r) p v = r := tabGet_tabPut_same ..

@[simp] theorem getTask_setTask (s : State) (p v : Nat) (t : ChTask) : getTask (setTask s p v t) p v = some t := by
  simp [getTask, setTask]

@[simp] theorem getGroup_modGroup_same (s : State) (n : Nat) (f : Group → Group) : getGroup (modGroup s n f) n = f (getGroup s n) :=
  getGroup_setGroup_same ..

theorem getGroup_modGroup_other (s : State) {n k : Nat} (f : Group → Group) (h : k ≠ n) : getGroup (modGroup s n f) k = getGroup s k :=
  getGroup_setGroup_other s _ h

@[simp] theorem getQueue_modQueue_same (s : State) (n : Nat) (f : QCtx → QCtx) : getQueue (modQueue s n f) n = f (getQueue s n) :=
  getQueue_setQueue_same ..

theorem getQueue_modQueue_other (s : State) {n k : Nat} (f : QCtx → QCtx) (h : k ≠ n) : getQueue (modQueue s n f) k = getQueue s k :=
  getQueue_setQueue_other s _ h

end Sys2Proof.Machine
end

