-- ==== Sys2Proof/Laws/Ops.lean ====
section
/-! SUPPORT. What each shared operation can do: registers and predicates after a write, moving on, the outcome of an instruction, and the traps of the executing context. -/

namespace Sys2Proof.Machine

/-! ## Registers -/

theorem readS_writeS (r : RegFile) (n k : Nat) (w : Word) (h : tabRising r.s = true) :
    (r.writeS n w).readS k = if k = n ∧ n ≠ 31 then w else r.readS k := by
  unfold RegFile.readS RegFile.writeS
  by_cases hk : k = 31
  · subst hk
    by_cases hn : n = 31
    · simp [hn]
    · simp [hn, Ne.symm hn]
  · by_cases hn : n = 31
    · simp [hn, hk]
    · rw [if_neg hk, if_neg hk, if_neg hn]
      simp [tabGet_tabSet _ _ _ _ _ h, hn]

/-- R27: S31 reads 0, whatever was written. -/
@[simp] theorem readS_31 (r : RegFile) : r.readS 31 = 0 := rfl

@[simp] theorem writeS_31 (r : RegFile) (w : Word) : r.writeS 31 w = r := rfl

theorem readV_writeV (r : RegFile) (n k l m : Nat) (w : Word) (h : tabRising r.v = true) (hl : l < 64) (hm : m < 64) :
    (r.writeV n l w).readV k m = if k = n ∧ m = l then w else r.readV k m := by
  simp only [RegFile.readV, RegFile.writeV, tabGet_tabSet _ _ _ _ _ h]
  by_cases hk : k * 64 + m = n * 64 + l
  · rw [if_pos hk, if_pos (by omega)]
  · rw [if_neg hk, if_neg (by rintro ⟨rfl, rfl⟩; exact hk rfl)]

/-- R32: P7 reads true, whatever was written. -/
@[simp] theorem readP_7 (r : RegFile) (l : Nat) : r.readP 7 l = true := rfl

@[simp] theorem writeP_7 (r : RegFile) (l : Nat) (b : Bool) : r.writeP 7 l b = r := rfl

@[simp] theorem setEmpty_v (r : RegFile) (n : Nat) (e : Bool) : (r.setEmpty n e).v = r.v := rfl
@[simp] theorem setEmpty_s (r : RegFile) (n : Nat) (e : Bool) : (r.setEmpty n e).s = r.s := rfl
@[simp] theorem setEmpty_p (r : RegFile) (n : Nat) (e : Bool) : (r.setEmpty n e).p = r.p := rfl
@[simp] theorem setEmpty_erm (r : RegFile) (n : Nat) (e : Bool) : (r.setEmpty n e).erm = r.erm := rfl

theorem writeS_canon (r : RegFile) (n : Nat) (w : Word) (h : tabCanon r.s 0 = true) : tabCanon (r.writeS n w).s 0 = true := by
  unfold RegFile.writeS
  split
  · exact h
  · exact tabCanon_tabSet _ _ _ _ h

theorem writeV_canon (r : RegFile) (n l : Nat) (w : Word) (h : tabCanon r.v 0 = true) : tabCanon (r.writeV n l w).v 0 = true :=
  tabCanon_tabSet _ _ _ _ h

theorem writeP_canon (r : RegFile) (n l : Nat) (b : Bool) (h : tabCanon r.p 0 = true) : tabCanon (r.writeP n l b).p 0 = true := by
  unfold RegFile.writeP
  split
  · exact h
  · exact tabCanon_tabSet _ _ _ _ h

/-! ## The registers of the executing context -/

theorem setRegs_cur (s : State) (r : RegFile) : (setRegs s r).cur = s.cur := by
  unfold setRegs
  split <;> rfl

/-- Writing registers changes groups and queues only. -/
theorem setRegs_frame (s : State) (r : RegFile) :
    setRegs s r = { s with groups := (setRegs s r).groups, queues := (setRegs s r).queues } := by
  unfold setRegs
  split <;> rfl

theorem regsOf_setRegs_group (s : State) (r : RegFile) (gid : Nat) (h : s.cur = .group gid) : regsOf (setRegs s r) = r := by
  have hc : (setRegs s r).cur = .group gid := by rw [setRegs_cur, h]
  unfold regsOf
  rw [hc]
  simp only [setRegs, h, getGroup_modGroup_same]

theorem regsOf_setRegs_queue (s : State) (r : RegFile) (qid : Nat) (h : s.cur = .queue qid) : regsOf (setRegs s r) = r := by
  have hc : (setRegs s r).cur = .queue qid := by rw [setRegs_cur, h]
  unfold regsOf
  rw [hc]
  simp only [setRegs, h, getQueue_modQueue_same]

theorem regsOf_setRegs_axp (s : State) (r : RegFile) (gid : Nat) (h : s.cur = .axp gid) : regsOf (setRegs s r) = r := by
  have hc : (setRegs s r).cur = .axp gid := by rw [setRegs_cur, h]
  unfold regsOf
  rw [hc]
  simp only [setRegs, h, setAxp, getAxp, getGroup_modGroup_same, Option.getD_some]

/-! ## Moving on -/

theorem goTo_group (s : State) (gid : Nat) (pc : DWord) (h : s.cur = .group gid) :
    goTo s pc = setGroup s gid (groupDone (getGroup s gid) pc) := by
  simp only [goTo, h, modGroup]

theorem advance_group (s : State) (gid len : Nat) (h : s.cur = .group gid) :
    advance len s = setGroup s gid (groupDone (getGroup s gid) ((getGroup s gid).pc + BitVec.ofNat 64 len)) := by
  simp only [advance, h, pcOf, goTo_group s gid _ h]

@[simp] theorem groupDone_pc (g : Group) (pc : DWord) : (groupDone g pc).pc = pc := rfl
@[simp] theorem groupDone_regs (g : Group) (pc : DWord) : (groupDone g pc).regs = g.regs := rfl
@[simp] theorem groupDone_run (g : Group) (pc : DWord) : (groupDone g pc).run = .eligible := rfl
@[simp] theorem groupDone_fcsr (g : Group) (pc : DWord) : (groupDone g pc).fcsr = g.fcsr := rfl
@[simp] theorem groupDone_icnt (g : Group) (pc : DWord) : (groupDone g pc).icnt = g.icnt := rfl
@[simp] theorem groupDone_done (g : Group) (pc : DWord) : (groupDone g pc).done = g.done := rfl

/-- An instruction that was not confined to the lanes of a fault leaves the queue registers as they are (R253). -/
theorem groupDone_q (g : Group) (pc : DWord) (h : g.only = none) : (groupDone g pc).q = g.q := by simp [groupDone, h]

@[simp] theorem groupDone_axp (g : Group) (pc : DWord) : (groupDone g pc).axp = g.axp := rfl

/-- Without Q sources nothing is popped. -/
theorem popQs_none (s : State) (fields : List Nat) (h : fields.filter (fun f => decide (88 ≤ f) && decide (f < 96)) = []) : popQs s fields = s := by
  unfold popQs popQsBy
  split
  · have : fields.filter (fun f => decide (88 ≤ f ∧ f < 96)) = [] := by simpa [Bool.decide_and] using h
    rw [this]; rfl
  · rfl

theorem finish_noQ (us : List Use) (len : Nat) (s : State)
    (h : (us.flatMap Use.sources).filter (fun f => decide (88 ≤ f) && decide (f < 96)) = []) : finish us len s = advance len s := by
  unfold finish
  rw [popQs_none s _ h]

/-! ## The outcome of an instruction -/

@[simp] theorem settle_ok (s t : State) : settle s (.ok t) = t := rfl
@[simp] theorem settle_wait (s : State) (w : Wait) : settle s (.error (.wait w)) = waitOn w s := rfl
@[simp] theorem settle_trap (s : State) (t : Trap) : settle s (.error (.trap t)) = takeTrap t s := rfl

/-- An instruction whose run-on does not stop runs its body after its checks. -/
theorem run_eq (s : State) (opn : Nat) (b : BitVec 7) (us : List Use) (body : Except Stop State) (h : runOnStops s opn = false) :
    run s opn b us body = .next (settle s (do ready s opn b us; body)) := by
  simp only [run, h, done]
  rfl

/-- One that is ready comes to what its body comes to. -/
theorem run_ready (s : State) (opn : Nat) (b : BitVec 7) (us : List Use) (body : Except Stop State)
    (h : runOnStops s opn = false) (hr : ready s opn b us = .ok ()) : run s opn b us body = .next (settle s body) := by
  rw [run_eq s opn b us body h, hr]; rfl

/-- One that its checks stop waits or takes the trap they name, with nothing of its body done. -/
theorem run_stopped (s : State) (opn : Nat) (b : BitVec 7) (us : List Use) (body : Except Stop State) (x : Stop)
    (h : runOnStops s opn = false) (hr : ready s opn b us = .error x) : run s opn b us body = .next (settle s (.error x)) := by
  rw [run_eq s opn b us body h, hr]; rfl

/-- An instruction that goes through `run` always answers a next state. -/
theorem run_next (s : State) (opn : Nat) (b : BitVec 7) (us : List Use) (body : Except Stop State) : ∃ t, run s opn b us body = .next t := by
  unfold run
  split
  · split <;> exact ⟨_, rfl⟩
  · exact ⟨_, rfl⟩

theorem runOp_ready (s : State) (opn : Nat) (b : BitVec 7) (us : List Use) (len : Nat) (body : State)
    (h : runOnStops s opn = false) (hr : ready s opn b us = .ok ()) : runOp s opn b us len body = .next (finish us len body) :=
  run_ready s opn b us _ h hr

/-! ## Waiting -/

theorem waitOn_queue (s : State) (w : Wait) (qid : Nat) (h : s.cur = .queue qid) :
    waitOn w s = modQueue s qid (fun q => { q with state := .waiting, wait := some w, mlimit := w.keepsLimit q.mlimit q.mwait, mwait := w.since s.time q.mwait }) := by
  simp only [waitOn, h]

theorem waitOn_group (s : State) (w : Wait) (gid : Nat) (h : s.cur = .group gid) (hd : (getGroup s gid).deferred = none) :
    waitOn w s = modGroup s gid (fun g => { g with run := .waiting w, mlimit := w.keepsLimit g.mlimit g.mwait, mwait := w.since s.time g.mwait }) := by
  simp only [waitOn, h, hd, Option.isSome_none]
  rfl

end Sys2Proof.Machine
end

