-- ==== Sys2Proof/Tests/Slice0.lean ====
section
/-! SUPPORT. Tests on fixed values, worked by hand from spec/: ill-formed terms that the check refuses, words that decode, single steps; and for each statement with hypotheses a state that meets them. -/

set_option Elab.async false

namespace Sys2Proof.Tests

open Machine Claim

/-! ## Ill-formed instructions, one for each kind of check -/

/-- R28: a pair field is even. -/
theorem test_wf_refuses_odd_pair : wf (.add64 2 3 4) = false := by decide
/-- R28: S31 is no pair. -/
theorem test_wf_refuses_s31_pair : wf (.add64 127 2 4) = false := by decide
/-- R28: a Q register is no destination. -/
theorem test_wf_refuses_q_destination : wf (.add 88 2 4) = false := by decide
/-- R35: a uniform destination takes uniform sources. -/
theorem test_wf_refuses_lane_source_of_uniform : wf (.add 96 2 97) = false := by decide
/-- R32: a predicate field names P0 to P7. -/
theorem test_wf_refuses_p8 : wf (.cmpEq 8 1 2) = false := by decide
/-- R125: SEL writes a V register. -/
theorem test_wf_refuses_sel_into_s : wf (.sel 0 96 97 98) = false := by decide
/-- R122: an immediate shift is at most 31. -/
theorem test_wf_refuses_shift_32 : wf (.shli 1 2 32) = false := by decide
/-- R28: a quad field is a multiple of 4. -/
theorem test_wf_refuses_odd_quad : wf (.ldB128 2 100 0) = false := by decide
/-- R28: an address is no odd S pair. -/
theorem test_wf_refuses_odd_address : wf (.ldB32 1 99 0) = false := by decide
/-- R36: a token is an S register. -/
theorem test_wf_refuses_v_token : wf (.cpy 1 104) = false := by decide
/-- R36: a block of eight begins at S0, S8, S16 or S24. -/
theorem test_wf_refuses_block_at_s4 : wf (.cpy 97 100) = false := by decide
/-- R36: the token lies outside its block. -/
theorem test_wf_refuses_token_in_block : wf (.cpy 105 104) = false := by decide
/-- R148: operations 11 to 15 of REDX are reserved. -/
theorem test_wf_refuses_redx_11 : wf (.redx 96 1 11) = false := by decide
/-- R206: a sparse A operand names an even slot. -/
theorem test_wf_refuses_mmas_odd_slot : wf (.mmas 1 100 2 0) = false := by decide
/-- R331: CMPXCHG is no ATOM. -/
theorem test_wf_refuses_atom_10 : wf (.atom 2 4 0 0 10) = false := by decide
/-- R21: the all-zero halfword is a NOP, which no check refuses. -/
theorem test_wf_allows_nop16 : wf (.mov16 0 0) = true := by decide

/-! ## Words written out from the layouts of chapter 01 -/

/-- RRR: b, a, d, OP10, 1. -/
theorem test_decode_rrr : decodeCode (.word (9#7 ++ 8#7 ++ 7#7 ++ 0x00D#10 ++ 1#1)) = some (.shr 7 8 9) := by decide
/-- R117's operations on pairs. -/
theorem test_decode_pair : decodeCode (.word (4#7 ++ 2#7 ++ 6#7 ++ 0x041#10 ++ 1#1)) = some (.sub64 6 2 4) := by decide
/-- R33: SEL's opcode names its predicate. -/
theorem test_decode_sel : decodeCode (.word (3#7 ++ 2#7 ++ 1#7 ++ 0x077#10 ++ 1#1)) = some (.sel 7 1 2 3) := by decide
/-- RI7. -/
theorem test_decode_ri7 : decodeCode (.word (0x40#7 ++ 2#7 ++ 1#7 ++ 0x021#10 ++ 1#1)) = some (.andi 1 2 0x40) := by decide
/-- I14. -/
theorem test_decode_i14 : decodeCode (.word (0x2001#14 ++ 5#7 ++ 0x028#10 ++ 1#1)) = some (.li 5 0x2001) := by decide
/-- J20: the lowest bit of the offset lies at bit 12. -/
theorem test_decode_j20 : decodeCode (.word (0x80001#20 ++ 0#1 ++ 0x111#10 ++ 1#1)) = some (.call 0x80001) := by decide
/-- R127: the lane operations of floating point. -/
theorem test_decode_fp : decodeCode (.word (5#7 ++ 2#7 ++ 1#7 ++ 0x08C#10 ++ 1#1)) = some (.frint 1 2 5) := by decide
/-- R102, R95: control. -/
theorem test_decode_control : decodeCode (.word (0x0010#14 ++ 3#7 ++ 0x118#10 ++ 1#1)) = some (.ifp 3 0x10) := by decide
/-- M: memory. -/
theorem test_decode_store : decodeCode (.word (0x7E#7 ++ 96#7 ++ 12#7 ++ 0x14A#10 ++ 1#1)) = some (.stB32 12 96 0x7E) := by decide
/-- R207: the matrix unit. -/
theorem test_decode_matrix : decodeCode (.word (0#1 ++ 1#2 ++ 2#4 ++ 100#7 ++ 0#3 ++ 7#4 ++ 0x208#10 ++ 1#1)) = some (.mma 7 100 2 1) := by decide
/-- R345: array dies. -/
theorem test_decode_array : decodeCode (.word (2#7 ++ 104#7 ++ 97#7 ++ 0x241#10 ++ 1#1)) = some (.layert 97 104 0 1 0) := by decide
/-- R281: the sequence engine. -/
theorem test_decode_sequence : decodeCode (.word (0#7 ++ 104#7 ++ 97#7 ++ 0x286#10 ++ 1#1)) = some (.surv 97 104) := by decide
/-- R381: the channel engine. -/
theorem test_decode_channel : decodeCode (.word (0#1 ++ 1#1 ++ 1#1 ++ 3#4 ++ 2#7 ++ 1#7 ++ 0x2C8#10 ++ 1#1)) = some (.astm 1 2 3 1 1) := by decide
/-- R447: queues. -/
theorem test_decode_queue : decodeCode (.word (0#6 ++ 1#1 ++ 98#7 ++ 96#7 ++ 0x302#10 ++ 1#1)) = some (.qsig 96 98 1) := by decide
/-- R496: the fabric. -/
theorem test_decode_fabric : decodeCode (.word (0#2 ++ 0#1 ++ 1#2 ++ 1#2 ++ 112#7 ++ 96#7 ++ 0x350#10 ++ 1#1)) = some (.coll 96 112 1 1 0) := by decide
/-- R38: a reserved bit. -/
theorem test_decode_refuses_reserved : decodeCode (.word (0#7 ++ 1#7 ++ 0#7 ++ 0x120#10 ++ 1#1)) = none := by decide

/-! ## Small states -/

/-- A group (tag 1, GRPIX 0) of a team of VF 0 at the placed code, with these registers; its lanes are all active. -/
def atGroup (r : RegFile) : State :=
  modGroup { placeMemory (placeGroup State.reset) 0 with cur := .group 16 } 16 (fun g => { g with regs := r, age := 0 })

/-- Its access slice. -/
def atAxp (r : RegFile) : State :=
  let s := atGroup {}
  setAxp { s with cur := .axp 16 } 16 { getAxp s 16 with regs := r }

/-- A queue context of VF 0 at PL1, and one of the firmware at PL2. -/
def atQueue (r : RegFile) : State :=
  modQueue { placeMemory (placeQueue State.reset 0 1) 0 with cur := .queue 0 } 0 (fun q => { q with regs := r })
def atHost (r : RegFile) : State :=
  modQueue { placeMemory (placeQueue State.reset hostVf 2) 0 with cur := .queue 2048 } 2048 (fun q => { q with regs := r })

/-- The threads of a task on engine 0. -/
def atA : State := { placeMemory (placeChe State.reset 0 false) 0 with cur := .cheA 0 0 }
def atX : State := { placeMemory (placeChe State.reset 0 true) 0 with cur := .cheX 0 0 }

/-- V1 and V2 hold 5 and -3 in lane 0, and S4, S5 and S16 hold numbers. -/
def some1 : RegFile :=
  { v := [(64, 5), (128, 0xFFFFFFFD)], s := [(4, 0x20), (5, 1), (16, 7)], p := [(1, 1)] }

def grp : State := atGroup some1

/-! ## Telling outcomes apart -/

def isOk {ε α : Type} (x : Except ε α) : Bool := match x with | .ok _ => true | .error _ => false

def okAnd {ε α : Type} (x : Except ε α) (p : α → Bool) : Bool := match x with | .ok a => p a | .error _ => false

theorem of_okAnd {ε α : Type} {x : Except ε α} {p : α → Bool} (h : okAnd x p = true) : ∃ a, x = .ok a ∧ p a = true := by
  cases x with
  | ok a => exact ⟨a, rfl, h⟩
  | error _ => exact absurd h (by simp [okAnd])

/-- canIssue as a Bool. -/
def mayIssue' (i : Instr) (s : State) : Bool := !runOnStops s i.opn && isOk (ready s i.opn (mod7 i) (uses i))

theorem canIssue_of {i : Instr} {s : State} (h : mayIssue' i s = true) : canIssue i s := by
  unfold mayIssue' at h
  rw [Bool.and_eq_true, Bool.not_eq_true'] at h
  refine ⟨h.1, ?_⟩
  cases hr : ready s i.opn (mod7 i) (uses i) with
  | ok u => rfl
  | error _ => rw [hr] at h; exact absurd h.2 (by simp [isOk])

theorem canIssue_all {is : List Instr} {s : State} (h : is.all (fun i => mayIssue' i s) = true) : ∀ i ∈ is, canIssue i s :=
  fun i hi => canIssue_of (List.all_eq_true.1 h i hi)

theorem runs_all {is : List Instr} {s : State} (ho : onRegisters s) (hr : regsRising (regsOf s))
    (h : is.all (fun i => mayIssue' i s) = true) : ∀ i ∈ is, runs i s :=
  fun i hi => ⟨ho, hr, canIssue_all h i hi⟩

theorem runsFp_all {is : List Instr} {s : State} (ho : onRegisters s) (hr : regsRising (regsOf s)) (hf : fcsrRising s)
    (h : is.all (fun i => mayIssue' i s) = true) : ∀ i ∈ is, runsFp i s :=
  fun i hi => ⟨⟨ho, hr, canIssue_all h i hi⟩, hf⟩

/-- runs as a Bool. -/
def mayRun (i : Instr) (s : State) : Bool :=
  (match s.cur with | .cheA _ _ => false | .cheX _ _ => false | _ => true) && (tabRising (regsOf s).v && tabRising (regsOf s).s && tabRising (regsOf s).p) && mayIssue' i s

theorem runs_of {i : Instr} {s : State} (h : mayRun i s = true) : runs i s := by
  simp only [mayRun, Bool.and_eq_true] at h
  obtain ⟨⟨hc, ⟨hv, hs⟩, hp⟩, hi⟩ := h
  refine ⟨?_, ⟨hv, hs, hp⟩, canIssue_of hi⟩
  unfold onRegisters
  split at hc <;> simp_all

/-- Does exec answer a next state of which p holds? -/
def gives (i : Instr) (s : State) (p : State → Bool) : Bool := match exec i s with | .next t => p t | _ => false

/-! ## Lanes -/

theorem witness_IntegerBinaryResults :
    (∀ i ∈ (integerBinary 1 2 3).map (·.1), runs i grp) ∧ (∀ i ∈ (integerBinary 127 96 127).map (·.1), runs i (atQueue some1)) :=
  ⟨runs_all trivial ⟨rfl, rfl, rfl⟩ (by decide +kernel), runs_all trivial ⟨rfl, rfl, rfl⟩ (by decide +kernel)⟩

theorem witness_MadPermAndBitFieldResults : ∀ i ∈ [Instr.mad 1 2 3, .perm 1 2 3, .bfx 1 2 3, .bfi 1 2 3], runs i grp :=
  runs_all trivial ⟨rfl, rfl, rfl⟩ (by decide +kernel)

theorem witness_IntegerUnaryResults : ∀ i ∈ [Instr.abs 1 2, .neg 1 2, .mov 127 127, .popc 1 2, .clz 1 2, .brev 87 2],
    runs i (modGroup grp 16 (fun g => { g with budget := 88 })) :=
  runs_all trivial ⟨rfl, rfl, rfl⟩ (by decide +kernel)

/-- R117: 5 + (2^32 - 3) wraps to 2. -/
theorem test_add_wraps : gives (.add 3 1 2) grp (fun t => decide (readField t 3 0 = 2) && decide (pcOf t = 0x10004)) = true := by decide +kernel
/-- R118: SAR by the whole of b: a count of 32 or more leaves the sign. -/
theorem test_sar_by_2_32_minus_3 : gives (.sar 3 2 2) grp (fun t => decide (readField t 3 0 = 0xFFFFFFFF)) = true := by decide +kernel


theorem witness_ImmediateResults :
    (∀ i ∈ (integerImmediate 1 2 31).map (·.1) ++ [.li 1 0x1FFF, .lui 100 0x3FFF], runs i grp) ∧
    (∀ i ∈ [Instr.shli 1 2 32, .shri 1 2 127, .sari 1 2 32], wf i = false) :=
  ⟨runs_all trivial ⟨rfl, rfl, rfl⟩ (by decide +kernel), by decide⟩

/-- R123: LUI of 0x1678 into 0x48D1 gives 0x12345678. -/
theorem test_lui_example : gives (.lui 100 0x1678) (atGroup { s := [(4, 0x48D1)] }) (fun t => decide (readField t 100 0 = 0x12345678)) = true := by
  decide +kernel

theorem witness_HalfwordIntegerResults : ∀ i ∈ (integerHalf 31 1).map (·.1), runs i grp :=
  runs_all trivial ⟨rfl, rfl, rfl⟩ (by decide +kernel)

theorem witness_PairResults :
    (∀ i ∈ (integerPair 4 2 6 grp 0).map (·.1), runs i grp) ∧ (3#7).toNat % 2 = 1 :=
  ⟨runs_all trivial ⟨rfl, rfl, rfl⟩ (by decide +kernel), rfl⟩

theorem witness_ComparesAndSelects :
    (∀ i ∈ ((integerCompare 0 2 4 (0#32) (0#32)).map (fun x => [x.1, x.2.1])).flatten ++ [.sel 1 3 1 2, .sel 7 87 1 2, .cmpEq 7 1 2],
      runs i (modGroup grp 16 (fun g => { g with budget := 88 }))) :=
  runs_all trivial ⟨rfl, rfl, rfl⟩ (by decide +kernel)

/-- R124: 5 > -3 signed, and not unsigned. -/
theorem test_compare_signs :
    gives (.cmpGtS 0 1 2) grp (fun t => (regsOf t).readP 0 0) && gives (.cmpGtU 0 1 2) grp (fun t => !(regsOf t).readP 0 0) = true := by decide +kernel

theorem witness_Fp32Results :
    (∀ i ∈ [Instr.fadd 1 2 3, .fsub 1 2 3, .fmul 1 2 3, .fdiv 1 2 3, .fmin 1 2 3, .fmax 1 2 3, .ffma 1 2 3, .fsqrt 1 2 0, .frint 1 2 7, .fclass 1 2,
      .fadd16 1 2, .fsub16 1 2, .fmul16 1 2, .fmax16 1 2], runsFp i grp) :=
  runsFp_all trivial ⟨rfl, rfl, rfl⟩ rfl (by decide +kernel)

theorem witness_SignOperationsChangeOnlyTheSign : ∀ i ∈ [Instr.fcpys 1 2 3, .fabs 1 2, .fneg 100 101], runsFp i grp :=
  runsFp_all trivial ⟨rfl, rfl, rfl⟩ rfl (by decide +kernel)

theorem witness_Fp64AndPackedResults :
    ∀ i ∈ [Instr.dadd 2 4 6, .dsub 2 4 6, .dmul 2 4 6, .ddiv 2 4 6, .dfma 2 4 6, .dsqrt 2 4 0, .hadd2Bf16 1 2 3, .hadd2Fp16 1 2 3, .hmul2Bf16 1 2 3,
      .hmul2Fp16 1 2 3, .hfma2Bf16 1 2 3, .hfma2Fp16 1 2 3], runsFp i grp :=
  runsFp_all trivial ⟨rfl, rfl, rfl⟩ rfl (by decide +kernel)

theorem witness_FloatCompareWritesPredicate :
    (∀ i ∈ [Instr.fcmpEq 0 1 2, .fcmpNe 0 1 2, .fcmpLt 0 1 2, .fcmpLe 0 1 2, .fcmpGt 0 1 2, .fcmpGe 0 1 2, .fcmpUn 7 1 2,
      .dcmpEq 0 2 4, .dcmpNe 0 2 4, .dcmpLt 0 2 4, .dcmpLe 0 2 4, .dcmpGt 0 2 4, .dcmpGe 0 2 4, .dcmpUn 0 2 4], runsFp i grp) ∧
    fp32.isNaN 0x7FC00000 = true ∧ fp32.mag 0x80000000 = 0 :=
  ⟨runsFp_all trivial ⟨rfl, rfl, rfl⟩ rfl (by decide +kernel), by decide, by decide⟩

theorem witness_ApproximationsComplete :
    (∀ i ∈ [Instr.frcp 1 2, .frsq 1 2, .fex2 1 2, .flg2 1 2, .fsin 1 2, .fcos 1 2], runsFp i grp) ∧ fp32.isNaN 0x7FC00000 = true ∧ fp32.mag 0 = 0 :=
  ⟨runsFp_all trivial ⟨rfl, rfl, rfl⟩ rfl (by decide +kernel), by decide, by decide⟩

/-- R70: 1/3 in FP32, to nearest and towards zero. -/
theorem test_round_third : (roundFP (.fin false 1 3) fp32 .rne false).1 = 0x3EAAAAAB ∧ (roundFP (.fin false 1 3) fp32 .rtz false).1 = 0x3EAAAAAA := by decide +kernel

/-- R127: 1.5 + 2.25 = 3.75 with no flag. -/
theorem test_fadd : gives (.fadd 3 1 2) (atGroup { v := [(64, 0x3FC00000), (128, 0x40100000)] })
    (fun t => decide (readField t 3 0 = 0x40700000) && decide (fcsrOf t 0 = 0)) = true := by decide +kernel
/-- R128: 1 / 0 is infinity with DZ. -/
theorem test_fdiv_by_zero : gives (.fdiv 3 1 2) (atGroup { v := [(64, 0x3F800000)] })
    (fun t => decide (readField t 3 0 = 0x7F800000) && decide (fcsrOf t 0 ≠ 0) && decide (fcsrOf t 1 ≠ 0)) = true := by decide +kernel

theorem witness_RoundingIsCorrect : fp32 ∈ [fp64, fp32, fp16, bf16] ∧ 0 < 1 ∧ 0 < 3 ∧ fp32.mag 0x3EAAAAAB ≤ fp32.maxCode ∧
    fp32.decode 0x3EAAAAAA = .fin false (11184810 * 2 ^ 0) (2 ^ 25) := by
  refine ⟨by simp, by decide, by decide, by decide, ?_⟩
  decide +kernel

theorem witness_ConversionResults :
    (∀ i ∈ [Instr.cvt 2 1 0 0, .cvt 2 4 31 0, .cvt 1 2 3 0, .cvtbPack 1 2 4, .cvtbUnpack 1 2 0], runsFp i grp) ∧ runs (.cblook 1 2 104) grp :=
  ⟨runsFp_all trivial ⟨rfl, rfl, rfl⟩ rfl (by decide +kernel), trivial, ⟨rfl, rfl, rfl⟩, canIssue_of (by decide +kernel)⟩

theorem witness_CrossLaneMoves :
    ∀ i ∈ [Instr.shflIdx 3 1 2, .shflUp 3 1 2, .shflDn 3 1 2, .shflXor 3 1 2, .voteAny 0 1 0, .voteAll 7 1 1, .voteBal 96 1 0, .matchOp 4 1 0 0,
      .matchOp 4 2 0 1, .matchOp 124 1 1 0, .matchOp 96 2 1 1], runs i grp :=
  runs_all trivial ⟨rfl, rfl, rfl⟩ (by decide +kernel)

/-- R147: only lane 0 has P1 true. -/
theorem test_vote_bal : gives (.voteBal 96 1 0) grp (fun t => decide (readPair t 96 0 = 1)) = true := by decide +kernel

theorem witness_ReductionAndScanResults : ∀ i ∈ [Instr.redx 96 1 0, .redx 126 1 10, .scan 2 1 3 1, .scan 31 1 9 0], runsFp i grp :=
  runsFp_all trivial ⟨rfl, rfl, rfl⟩ rfl (by decide +kernel)

/-- R149: 2^24 + 1.0 and 1.0 + 1.0 reduce to 2^24 + 2 by the tree. -/
theorem test_redx_tree :
    gives (.redx 102 2 8) (modGroup (atGroup { v := [(128, 0x4B800000), (129, 0x3F800000), (130, 0x3F800000), (131, 0x3F800000)] }) 16
      (fun g => { g with done := ~~~0xF })) (fun t => decide (readField t 102 0 = 0x4B800001)) = true := by decide +kernel

/-! ## Control -/

theorem witness_JumpsTransferTheContext :
    (∀ i ∈ [Instr.jmp 0x80000, .call 0x7FFFF, .jmpuZ 96 0x2000, .jmpuNz 100 1, .ret 102], runs i grp) ∧ (∀ i ∈ [Instr.jmp 1, .ret 124], runs i (atQueue some1)) ∧
    (readPair grp 102 0).getLsbD 0 = false ∧ runs (.ret 112) (atGroup some1) ∧ (readPair grp 112 0).getLsbD 0 = true := by
  (with_reducible and_intros) <;> first | decide +kernel | exact runs_all trivial ⟨rfl, rfl, rfl⟩ (by decide +kernel) | exact runs_of (by decide +kernel)

/-- R102: CALL goes 2 x (-2) bytes back and keeps the next address. -/
theorem test_call : gives (.call 0xFFFFE) grp (fun t => decide (pcOf t = 0xFFFC) && decide (readPair t 124 0 = 0x10004)) = true := by decide +kernel

/-- Half of the lanes have ICNT 1, one has 65535. -/
def deep : State := modGroup grp 16 (fun g => { g with icnt := [(0, 1), (5, 65534)] })
def deeper : State := modGroup grp 16 (fun g => { g with icnt := [(5, 65535)] })

theorem witness_StructuredControlChangesIcnt :
    (∀ i ∈ [Instr.ifp 1 8, .elseOp 4, .fi, .loop 4, .endl 0x3FFF, .brkp 7 63, .contp 1 0], canIssue i grp ∧ canIssue i deeper) ∧
    icntCanon (getGroup deep 16) ∧ icntCanon (getGroup deeper 16) ∧
    (∀ l, l < 64 → (if activeAt (getGroup deep 16) l then (if (regsOf deep).readP 1 l then 0 else 1) else icntAt (getGroup deep 16) l + 1) ≤ 65535) ∧
    (∀ l, l < 64 → activeAt (getGroup grp 16) l = false → icntAt (getGroup grp 16) l + 2 ≤ 65535) ∧
    (doneAt (getGroup deeper 16) 5 = false ∧ activeAt (getGroup deeper 16) 5 = false ∧ 65535 < icntAt (getGroup deeper 16) 5 + 1 ∧
      activeAt (getGroup deeper 16) 0 = true) := by
  refine ⟨fun i hi => ⟨?_, ?_⟩, ⟨by decide +kernel, by decide +kernel⟩, ⟨by decide +kernel, by decide +kernel⟩, by decide +kernel, by decide +kernel, by decide +kernel⟩
  · exact canIssue_all (is := [Instr.ifp 1 8, .elseOp 4, .fi, .loop 4, .endl 0x3FFF, .brkp 7 63, .contp 1 0]) (by decide +kernel) i hi
  · exact canIssue_all (is := [Instr.ifp 1 8, .elseOp 4, .fi, .loop 4, .endl 0x3FFF, .brkp 7 63, .contp 1 0]) (by decide +kernel) i hi

/-- R95: IFP with P1 true in lane 0 alone leaves lane 0 active. -/
theorem test_ifp : gives (.ifp 1 8) grp (fun t => decide (activeOf t = 1) && decide (pcOf t = 0x10004)) = true := by decide +kernel
/-- R95: BRKP with n = 1 gives the lanes in which P1 is true ICNT 3. -/
theorem test_brkp : gives (.brkp 1 1) grp (fun t => decide (icntAt (getGroup t 16) 0 = 3) && decide (icntAt (getGroup t 16) 1 = 0)) = true := by decide +kernel

/-- No lane is active: each has ICNT 1. -/
def asleep : State := modGroup grp 16 (fun g => { g with icnt := (List.range 64).map (fun l => (l, 1)) })

theorem witness_ExitSetsDone :
    canIssue .exit grp ∧ activeMask (getGroup grp 16) ≠ 0 ∧ (getGroup grp 16).done ||| activeMask (getGroup grp 16) = allLanes ∧
    canIssue .exit deep ∧ (getGroup deep 16).done ||| activeMask (getGroup deep 16) ≠ allLanes ∧ canIssue .exit (atAxp some1) ∧
    canIssue .exit asleep ∧ activeMask (getGroup asleep 16) = 0 ∧ (getGroup asleep 16).done ≠ allLanes := by
  (with_reducible and_intros) <;> first | decide +kernel | exact canIssue_of (by decide +kernel)

theorem witness_NopYieldAndRegion : runs .nop grp ∧ runs .nop (atQueue some1) ∧ (atAxp some1).cur = .axp 16 ∧ regsRising (regsOf (atAxp some1)) ∧
    canIssue (.mov16 0 0) grp ∧ regsRising (regsOf grp) ∧ canIssue .yield grp ∧ canIssue .region grp ∧ (getGroup grp 16).regv = false := by
  (with_reducible and_intros) <;> first | decide +kernel | exact runs_of (by decide +kernel) | exact canIssue_of (by decide +kernel) | exact ⟨rfl, rfl, rfl⟩

/-- R229: a .det core that YIELD gives up. -/
theorem test_yield : gives .yield { grp with grids := [(1, { noGrid with space := placeSpace 0, det := true })] } (fun t => (getCore t 0).yielded) = true := by decide +kernel

/-- A write at a VA of memory that is mapped to good lines answers for any bytes. -/
theorem writeVirt_answers (s : State) (sp : Space) (va n : Nat)
    (h : okAnd (translateRun s none sp va n .write) (fun r => firstBadPa r.2 ((List.range n).map (fun i => pageLookup r.1 (va + i))) = none) = true)
    (bs : List Byte) (hb : bs.length = n) : ∃ r, writeVirt s sp va bs = .ok r := by
  obtain ⟨r, hr, hn⟩ := of_okAnd h
  have hn' := of_decide_eq_true hn
  subst hb
  unfold writeVirt
  rw [hr]
  simp only [bind, Except.bind, hn']
  exact ⟨_, rfl⟩

theorem witness_TrapTakesUserTrap : canIssue (.trap 0x3FFF) grp ∧ recordWritable (endRegion grp) 16 ∧ (getGroup grp 16).recDue = none :=
  ⟨canIssue_of (by decide +kernel), writeVirt_answers _ _ _ _ (by decide +kernel), by decide +kernel⟩

/-! ## Special registers -/

/-- A firmware context at PL3. -/
def secure : State := modQueue (atHost some1) 2048 (fun q => { q with level := 3 })

theorem witness_SrdReadsSpecialRegister :
    (∀ i ∈ [Instr.srd 1 0x001, .srd 100 0x00D, .srd 126 0x020, .srd 96 0x011], runs i grp) ∧ runs (.srd 96 0x245) (atHost some1) ∧
    (∀ p ∈ [(1#7, 0x001), (100#7, 0x00D), (126#7, 0x020), (96#7, 0x011)], srWait grp p.2 = .ok () ∧
      okAnd (srCheck grp p.2 p.1 false) (fun k => isOk (readCheck grp [] (k.kind.fields p.1))) = true) ∧
    isOk (srCheck (atHost some1) 0x245 96 false) = true ∧
    runs (.srd 96 0x3C0) secure ∧ okAnd (srCheck secure 0x3C0 96 false) (fun k => decide (k.kind = .word) && isOk (srWait secure 0x3C0)) = true := by
  refine ⟨runs_all trivial ⟨rfl, rfl, rfl⟩ (by decide +kernel), ⟨trivial, ⟨rfl, rfl, rfl⟩, canIssue_of (by decide +kernel)⟩, ?_, by decide +kernel,
    ⟨trivial, ⟨rfl, rfl, rfl⟩, canIssue_of (by decide +kernel)⟩, by decide +kernel⟩
  intro p hp
  simp only [List.mem_cons, List.not_mem_nil, or_false] at hp
  rcases hp with rfl | rfl | rfl | rfl <;> exact ⟨rfl, by decide +kernel⟩

/-- R90: lane 63 reads 63 from LANEID. -/
theorem test_srd_lane : gives (.srd 1 0x001) grp (fun t => decide (readField t 1 63 = 63)) = true := by decide +kernel

theorem witness_SpecialRegisterValues : grp.cur = .group 16 ∧ 63 < 64 ∧ icntAt (getGroup grp 16) 63 ≤ 65535 := by decide +kernel

theorem witness_SwrWritesGroupRegister :
    (∀ i ∈ [Instr.swr 1 0x010, .swr 1 0x012, .swr 100 0x011, .swr 100 0x014, .swr 100 0x022, .swr 100 0x024, .swr 100 0x026], runsFp i grp) ∧
    (∀ p ∈ [(1#7, 0x010), (1#7, 0x012), (100#7, 0x011), (100#7, 0x017), (100#7, 0x022), (100#7, 0x026)],
      okAnd (srCheck grp p.2 p.1 true) (fun k => isOk (readCheck grp (k.kind.fields p.1) [])) && isOk (srWait grp p.2) = true) :=
  ⟨runsFp_all trivial ⟨rfl, rfl, rfl⟩ rfl (by decide +kernel), by decide +kernel⟩

/-- R73: the reserved bits of FCSR stay 0. -/
theorem test_swr_fcsr : gives (.swr 2 0x010) grp (fun t => decide (fcsrOf t 0 = 0xFFFFFFFD &&& 0x3DF) && decide (fcsrOf t 1 = 0)) = true := by decide +kernel

theorem witness_SwrWritesQueueRegister :
    canIssue (.swr 104 0x100) (atQueue some1) ∧
    okAnd (srCheck (atQueue some1) 0x100 104 true) (fun k => isOk (readCheck (atQueue some1) (k.kind.fields 104) [])) = true ∧ (atHost some1).cur = .queue 2048 :=
  ⟨canIssue_of (by decide +kernel), by decide +kernel, rfl⟩

/-- R469: a register of the Camp firmware holds what PL3 wrote. -/
theorem test_camp_register : gives (.swr 100 0x3FF) secure (fun t => decide (srWord t 0x3FF = 0x20)) = true := by decide +kernel

theorem witness_SpecialRegisterTraps :
    canIssue (.srd 96 0x0FF) grp ∧ srInfo 0x0FF = none ∧ canIssue (.srd 96 0x001) grp ∧ (srInfo 0x001).map (fun k => k.kind.fits 96) = some false ∧
    canIssue (.srd 96 0x100) grp ∧ (srInfo 0x100).map (fun k => (k.kind.fits 96, decide (levelOf grp < k.pl))) = some (true, true) ∧
    canIssue (.swr 96 0x018) grp ∧ (srInfo 0x018).map (·.acc) = some .ro ∧ srReach grp 0x100 = true := by
  (with_reducible and_intros) <;> first | decide +kernel | exact canIssue_of (by decide +kernel)

theorem witness_SpecialRegisterTraps_swr :
    (∀ i ∈ [Instr.swr 96 0x0FF, .swr 96 0x010, .swr 96 0x100], canIssue i grp) ∧ (srInfo 0x010).map (fun k => k.kind.fits 96) = some false ∧
    (∀ i ∈ [Instr.srd 96 0x001, .swr 96 0x001, .swr 96 0x200], canIssue i (atQueue some1)) ∧ (srInfo 0x001).isSome = true ∧ srReach (atQueue some1) 0x001 = false ∧
    (srInfo 0x100).map (fun k => (k.kind.fits 96, decide (k.acc ≠ .ro), decide (levelOf grp < k.pl))) = some (true, true, true) ∧ srReach grp 0x100 = true ∧
    srReach (atQueue some1) 0x200 = true ∧ (srInfo 0x200).map (fun k => (k.kind.fits 96, decide (k.acc ≠ .ro), decide (levelOf (atQueue some1) < k.pl))) = some (true, true, true) := by
  (with_reducible and_intros) <;> first | decide +kernel | exact canIssue_all (by decide +kernel)

/-- R90: a user group that reads a queue register takes PRIVILEGE; its record area lies at 0 here. -/
theorem test_srd_privilege : gives (.srd 96 0x100) grp (fun t => decide ((getGroup t 16).trap.map (·.trap.cause) = some 0x03)) = true := by decide +kernel

/-! ## Barriers and returns -/

/-- A group of two lanes whose team has 1 KiB of scratchpad; S6:S7 name its byte 0x20, S8:S9 byte 0x40, S10:S11 the global address 0x20000. -/
def spadRegs : RegFile :=
  { v := [(64, 5), (65, 6)], s := [(2, 5), (4, 0x100), (6, 0x20), (7, 0xFD000100), (8, 0x40), (9, 0xFD000100), (10, 0x20000)] }

def spadGrp : State :=
  { modGroup (atGroup spadRegs) 16 (fun g => { g with done := ~~~3 }) with teams := [(1, { grid := 1, index := 0, spadSize := 1024, spad := [(0x40, 9)] })] }

def bar1 : Bar := { phase := 3, expect := 2, parr := 2, pbytes := 0, v := true, br := false, rsv := false }
def barGrp : State := writeBar spadGrp (.spad 1 0x20) bar1

theorem witness_BarrierObjectReadsBack : bar1.rsv = false ∧ -(2 ^ 31) ≤ bar1.pbytes ∧ bar1.pbytes < 2 ^ 31 ∧
    okAnd (ε := Unit) (match tabFind spadGrp.teams 1 with | some t => .ok t | none => .error ()) (fun t => tabRising t.spad) = true ∧
    tabRising (getCluster spadGrp 0).mem = true :=
  ⟨rfl, by decide, by decide, by decide +kernel, rfl⟩

theorem witness_BarrierInstructionsAct :
    barObject barGrp 102 = .ok (.spad 1 0x20) ∧ barGate barGrp (.spad 1 0x20) = .ok () ∧ readBar barGrp (.spad 1 0x20) = bar1 ∧
    (∀ i ∈ [Instr.barinit 98 102, .barinit 127 102, .bararr 96 102, .bartx 98 102, .barwait 96 102 98, .barwait 96 102 100], canIssue i barGrp) ∧
    1 ≤ (readField barGrp 98 0).toNat ∧ (readField barGrp 98 0).toNat ≤ 65535 ∧ (readField barGrp 127 0).toNat = 0 ∧
    releaseDone barGrp 16 (objScope (.spad 1 0x20)) = true ∧ bar1.parr ≠ 0 ∧ (getGroup barGrp 16).deferred = none ∧
    bar1.phase ≠ (readField barGrp 98 0).setWidth 16 ∧ ({ bar1 with phase := 5 } : Bar).phase = (readField barGrp 98 0).setWidth 16 := by
  (with_reducible and_intros) <;> first | decide +kernel | exact canIssue_all (by decide +kernel)

/-- Barrier objects that are not initialised, have a reserved bit set, are broken, or expect no arrival; and sums at both ends of 32 bits. -/
def odd (b : Bar) : State :=
  writeBar (if b.rsv then modTeam spadGrp 1 (fun t => { t with spad := tabSet t.spad 0x26 1 0 }) else spadGrp) (.spad 1 0x20) b

theorem witness_BarrierInstructionsAct_range :
    (∀ b ∈ [{ bar1 with v := false }, { bar1 with rsv := true }, { bar1 with br := true }, { bar1 with parr := 0, pbytes := 7 }, bar1],
      barObject (odd b) 102 = .ok (.spad 1 0x20) ∧ barGate (odd b) (.spad 1 0x20) = .ok () ∧ readBar (odd b) (.spad 1 0x20) = b ∧ releaseDone (odd b) 16 (objScope (.spad 1 0x20)) = true ∧
      loadsOpen (odd b) (objScope (.spad 1 0x20)) = false) ∧
    (∀ i ∈ [Instr.bararr 96 102, .bartx 98 102, .barwait 96 102 98], [{ bar1 with v := false }, { bar1 with rsv := true }, { bar1 with br := true }, { bar1 with parr := 0, pbytes := 7 }].all (fun b => mayIssue' i (odd b)) = true) ∧
    65535 < (readField (atGroup { s := [(2, 0x10000), (6, 0x20), (7, 0xFD000100)] }) 98 0).toNat ∧
    (∀ n ∈ [0x7FFFFFFF, -0x80000000], (readBar (odd { bar1 with pbytes := n }) (.spad 1 0x20)).pbytes = n ∧ -(2 ^ 31) ≤ n + 0 ∧ n + 0 < 2 ^ 31 ∧ (n - 1 < -(2 ^ 31) ∨ 2 ^ 31 ≤ n + 1)) := by
  decide +kernel

/-- R239: an arrival at an object that is not initialised is BAR_RANGE with auxiliary word 2; of a broken one, 3. -/
theorem test_bar_range : ∀ p ∈ [({ bar1 with v := false }, 2#32), ({ bar1 with br := true }, 3)], gives (.bararr 96 102) (odd p.1)
    (fun t => decide ((getGroup t 16).trap.map (fun r => (r.trap.cause, r.trap.aux)) = some (0x12, p.2))) = true := by decide +kernel

/-- R234, R239: the second of two arrivals completes phase 3. -/
theorem test_barrier_completes :
    gives (.bararr 96 102) (writeBar spadGrp (.spad 1 0x20) { bar1 with parr := 1 }) (fun t => decide (readField t 96 0 = 3) &&
      decide ((readBar t (.spad 1 0x20)).phase = 4) && decide ((readBar t (.spad 1 0x20)).parr = 2)) = true := by decide +kernel

/-- A gang's group, and a team of two groups of which one has arrived. -/
def gangGrp : State := { grp with grids := [(1, { noGrid with space := placeSpace 0, gang := true })] }
def blockedGrp : State := modGroup grp 16 (fun g => { g with run := .blocked .tbar })

theorem witness_TeamAndGridBarriers :
    tokensFull grp 16 = true ∧ (∀ i ∈ [Instr.tbar, .gbar, .step], canIssue i grp) ∧ canIssue .gbar gangGrp ∧ (gridOf gangGrp 16).gang = true ∧ sqOf gangGrp 16 = [] ∧
    tokensFull gangGrp 16 = true ∧ releaseDone grp 16 .core = true ∧ releaseDone gangGrp 16 (gbarScope (gridOf gangGrp 16)) = true ∧ (gridOf grp 16).gang = false ∧
    releaseDone grp 16 .fab = true ∧ (getGroup grp 16).failed = [] ∧ (getGroup gangGrp 16).failed = [] ∧ isSaving (getTeam grp 1) = false ∧
    (∃ g ∈ teamGids grp 1, isAt (getGroup grp g) .tbar = false) ∧
    (∀ g ∈ teamGids blockedGrp 1, isAt (getGroup blockedGrp g) .tbar = true) ∧ tabRising blockedGrp.groups = true ∧
    16 ∈ teamGids blockedGrp 1 ∧ (getGroup blockedGrp 16).run = .blocked .tbar := by
  (with_reducible and_intros) <;> first | decide +kernel | exact canIssue_all (by decide +kernel) | exact canIssue_of (by decide +kernel)

/-- A queue context of VF 0 beside a trapped group, whose handle S2 holds; S3 holds a handle of none. -/
def rec1 (cause : Nat) (deferred : Bool) : TrapRec :=
  { trap := { cause := cause }, lmask := 1, pc := 0x10000, regpc := 0x10000, regcnt := 1, rgv := true, deferred := deferred, hv := false, cyc := 0 }
def trappedBy (cause : Nat) (deferred regv : Bool) : State :=
  let s := atQueue { s := [(2, 0x10000), (3, 0x20000)] }
  { s with
    teams := [(1, { grid := 1, index := 0 })], grids := [(1, { noGrid with space := placeSpace 0 })],
    groups := [(16, { pc := 0x10000, run := .trapped, trap := some (rec1 cause deferred), regv := regv, regpc := 0x10000 })] }

/-- A queue context whose TRPC is odd. -/
def oddReturn : State := modQueue (atQueue {}) 0 (fun q => { q with trpc := 0x10001 })

theorem witness_ReturnFromTraps :
    (∀ i ∈ [Instr.eretResume 96 99, .eretSkip 96 99, .eretRegion 96 99, .eretAbort 96 99], canIssue i (trappedBy 0x15 false true)) ∧
    eretTarget (trappedBy 0x15 false true) (readField (trappedBy 0x15 false true) 99 0) = none ∧
    (∀ i ∈ [Instr.eretResume 96 98, .eretSkip 96 98, .eretRegion 96 98, .eretAbort 96 98], canIssue i (trappedBy 0x15 false true) ∧
      canIssue i (trappedBy 0x08 true false)) ∧
    eretTarget (trappedBy 0x15 false true) (readField (trappedBy 0x15 false true) 98 0) = some (16, rec1 0x15 false) ∧
    eretTarget (trappedBy 0x08 true false) (readField (trappedBy 0x08 true false) 98 0) = some (16, rec1 0x08 true) ∧
    (getGroup (handlerSeen (deliverNotice (trappedBy 0x15 false true) 16) 16) 16).regv = true ∧
    (getGroup (handlerSeen (deliverNotice (trappedBy 0x08 true false) 16) 16) 16).regv = false ∧
    isOk (fetchHalfword { handlerSeen (deliverNotice (trappedBy 0x15 false true) 16) 16 with cur := .group 16 } 0x10000) = true ∧ canIssue .eretSelf (atQueue {}) ∧
    (getQueue (atQueue {}) 0).trpc.getLsbD 0 = false ∧ canIssue .eretSelf oddReturn ∧ (getQueue oddReturn 0).trpc.getLsbD 0 = true := by
  refine ⟨canIssue_all (by decide +kernel), by decide +kernel, fun i hi => ⟨?_, ?_⟩, by decide +kernel, by decide +kernel, by decide +kernel, by decide +kernel,
    by decide +kernel, canIssue_of (by decide +kernel), by decide +kernel, canIssue_of (by decide +kernel), by decide +kernel⟩
  · exact canIssue_all (is := [Instr.eretResume 96 98, .eretSkip 96 98, .eretRegion 96 98, .eretAbort 96 98]) (by decide +kernel) i hi
  · exact canIssue_all (is := [Instr.eretResume 96 98, .eretSkip 96 98, .eretRegion 96 98, .eretAbort 96 98]) (by decide +kernel) i hi

/-- The same group, whose trapping instruction lies in an unmapped page. -/
def lostTrap : State := modGroup (trappedBy 0x08 false true) 16 (fun g => { g with trap := some { rec1 0x08 false with pc := 0x100000000000000 } })

theorem witness_ReturnFromTraps_skip :
    canIssue (.eretSkip 96 98) lostTrap ∧ (eretTarget lostTrap (readField lostTrap 98 0)).map (fun r => (r.1, r.2.deferred)) = some (16, false) ∧
    (match fetchHalfword { handlerSeen (deliverNotice lostTrap 16) 16 with cur := .group 16 } 0x100000000000000 with | .error (.trap _) => true | _ => false) = true := by
  (with_reducible and_intros) <;> first | decide +kernel | exact canIssue_of (by decide +kernel)

/-- R253: .resume after TRAP goes past it. -/
theorem test_eret_resume : gives (.eretResume 96 98) (trappedBy 0x15 false true) (fun t => decide ((getGroup t 16).pc = 0x10004) &&
    decide ((getGroup t 16).run = .eligible) && decide (readField t 96 0 = 0)) = true := by decide +kernel

/-! ## Memory -/

theorem elements_of {x : Except Stop ((List Elem × Met) × State)} {p : List Elem → State → Bool}
    (h : okAnd x (fun r => decide (r.1.2 = []) && p r.1.1 r.2) = true) : ∃ es u, x = .ok ((es, []), u) ∧ p es u = true := by
  obtain ⟨⟨⟨es, m⟩, u⟩, hx, hp⟩ := of_okAnd h
  rw [Bool.and_eq_true] at hp
  have hm : m = [] := of_decide_eq_true hp.1
  subst hm
  exact ⟨es, u, hx, hp.2⟩

/-- The address of a memory operand in spadGrp: S10:S11, S8:S9. -/
def at10 (off : Int) (l : Nat) : Nat := (readPair spadGrp 106 l + BitVec.ofInt 64 off).toNat

theorem witness_LoadsIssue :
    canIssue (.ldB32 1 106 0) spadGrp ∧ accessGate spadGrp = .ok () ∧
    ∃ es u, elements spadGrp { n := 4, k := .read, align := 4 } (isS 1) (at10 0) = .ok ((es, []), u) ∧
      (decide (u.cur = .group 16) && decide ((getGroup u 16).failed = []) && isOk (issueLoad u 1 4 false false none (isS 1) es)) = true :=
  ⟨canIssue_of (by decide +kernel), by decide +kernel, elements_of (by decide +kernel)⟩

/-- The forms of chapter 05 all may issue there. -/
theorem witness_LoadsIssue_forms :
    ∀ i ∈ (loadForms 4 106 0x7F 0 0 1).map (·.i) ++ (loadForms 4 106 0 5 3 2).map (·.i), canIssue i (modGroup spadGrp 16 (fun g => { g with budget := 88 })) :=
  canIssue_all (by decide +kernel)

theorem witness_LoadWritesOrPends :
    coreOf spadGrp = some 0 ∧ regsRising (regsOf spadGrp) ∧
    (let locs := (List.range 4).map (fun i => Loc.spad 1 (0x40 + i))
     locs.length = 4 ∧ (∀ m ∈ locs, claimed spadGrp m = false) ∧ queueHas spadGrp (fun q => q.isRed && locs.any (fun m => q.locs.contains m)) = false ∧
      (locs.map (loadSrc spadGrp 0 false)).all Src.known = true) ∧
    (let locs := (List.range 4).map (fun i => Loc.glob (0x20000 + i))
     queueHas spadGrp (fun q => q.isRed && locs.any (fun m => q.locs.contains m)) = false ∧ (locs.map (loadSrc spadGrp 0 false)).all Src.known = false) :=
  ⟨by decide +kernel, ⟨rfl, rfl, rfl⟩, by decide +kernel, by decide +kernel⟩

/-- R168: a scratchpad load takes its word at once. -/
theorem test_load_scratchpad : gives (.ldB32 1 104 0) spadGrp (fun t => decide (readField t 1 0 = 9) && decide (readField t 1 1 = 9) &&
    decide (isEmptyField t 1 = false)) = true := by decide +kernel
/-- R88: a global load leaves its destination empty. -/
theorem test_load_pends : gives (.ldB32 100 106 0) spadGrp (fun t => isEmptyField t 100 && decide (t.pending.length = 1)) = true := by decide +kernel

theorem witness_StoresEnterStoreQueue :
    spadGrp.badLines = [] ∧ spadGrp.badLow = [] ∧ spadGrp.struck = [] ∧ (getGroup spadGrp 16).failed = [] ∧ (getGroup spadGrp 16).sq.length < 32 ∧ acquiring spadGrp = false ∧
    (∀ i ∈ (storeForms 4 106 0 0 0 1).map (·.i) ++ (storeForms 4 106 0 5 3 3).map (·.i), canIssue i spadGrp) ∧
    ∃ es u, elements spadGrp { n := 4, k := .write, align := 4, skip := storeSkip [] } (isS 4) (at10 0) = .ok ((es, []), u) ∧
      (decide (es ≠ []) && decide (u.groups = spadGrp.groups) && decide (u.cur = spadGrp.cur) && decide (u.grids = spadGrp.grids)) = true := by
  (with_reducible and_intros) <;> first | decide +kernel | exact canIssue_all (by decide +kernel) | exact elements_of (by decide +kernel)

/-- R163: a store waits in the store queue, and memory stays. -/
theorem test_store_waits : gives (.stB32 100 106 1) spadGrp (fun t => decide ((getGroup t 16).sq.length = 1) && decide (memRead t.mem 0x20004 = 0)) = true := by
  decide +kernel

theorem witness_HomeWriteChangesItsBytes : Memory.wf spadGrp.mem = true ∧ waitersAt spadGrp (lineOf 0x2007F) = [] ∧ spadGrp.cores.all (fun c => decide (c.2.u = [])) = true := by decide +kernel

/-- R8: bytes lie lowest first. -/
theorem test_home_write : memRead (homeWriteRaw spadGrp none 0x2007E (leBytes 2 0x1234)).mem 0x2007F = 0x12 := by decide +kernel

theorem witness_AtomicsPend :
    (getGroup spadGrp 16).sq = [] ∧ acquiring spadGrp = false ∧ canIssue (.atom 1 106 3 0 9) spadGrp ∧ canIssue (.cas 4 106 2) spadGrp ∧
    (∃ es u, elements (endRegion spadGrp) { n := 4, k := .write, align := 4, det := true } (isS 1) (eaOf spadGrp 106 0) = .ok ((es, []), u) ∧
      (decide (es ≠ []) && decide (u.cur = spadGrp.cur) && decide (u.groups.all (fun p => p.2.failed = []) = true) && decide (atomScope spadGrp es = atomScope u es)) = true) ∧
    (∃ es u, elements (endRegion spadGrp) { n := 8, k := .write, align := 8, det := true } (isS 4) (eaOf spadGrp 106 0) = .ok ((es, []), u) ∧
      (decide (es ≠ []) && decide (u.cur = spadGrp.cur) && decide (u.groups.all (fun p => p.2.failed = []) = true) && decide (atomScope spadGrp es = atomScope u es)) = true) := by
  (with_reducible and_intros) <;> first | decide +kernel | exact canIssue_of (by decide +kernel) | exact elements_of (by decide +kernel)

def pend1 (k : AccKind) : Pending := { id := 1, seq := 0, agent := .group 16, core := 0, kind := k, dst := 1, width := 4, parts := [] }
def part1 (n : Nat) : AccPart := { lane := some 0, src := (List.range n).map (fun i => .at (.spad 1 (0x40 + i))), operand := 9, swap := 77 }

theorem witness_AtomicIsIndivisible :
    (tabFind spadGrp.teams 1).isSome = true ∧ (∀ t ∈ spadGrp.teams, tabRising t.2.spad = true) ∧ (pend1 (.atom 0)).kind = .atom 0 ∧ (pend1 .cas).kind = .cas :=
  ⟨by decide +kernel, by decide +kernel, rfl, rfl⟩

/-- A queue context with an atomic's address in S2:S3. -/
theorem witness_AtomicsPend_queue :
    queueHas (atQueue { s := [(2, 0x20000)] }) (fun _ => true) = false ∧ accessGate (atQueue { s := [(2, 0x20000)] }) = .ok () ∧
    (∀ i ∈ [Instr.atom 100 98 3 0 0, .cas 100 98 102], canIssue i (atQueue { s := [(2, 0x20000)] })) ∧
    (∃ es u, elements (endRegion (atQueue { s := [(2, 0x20000)] })) { n := 8, k := .write, align := 8, det := true } (isS 100) (eaOf (atQueue { s := [(2, 0x20000)] }) 98 0) =
      .ok ((es, []), u) ∧ decide (es.length = 1) = true) :=
  ⟨by decide +kernel, by decide +kernel, canIssue_all (by decide +kernel), elements_of (p := fun es _ => decide (es.length = 1)) (by decide +kernel)⟩

/-- The places of an atomic: bytes of a scratchpad, of cluster memory and of a line, at both widths. -/
theorem witness_AtomicIsIndivisible_places : ∀ n ∈ [4, 8],
    atomPlace spadGrp spadGrp 0 n (fun i => .spad 1 (0x40 + i)) ∧ atomPlace spadGrp spadGrp 0 n (fun i => .clu 0 (0x40 + i)) ∧
    atomPlace spadGrp (serveLine (dropLine spadGrp 0 (lineOf 0x20000)) (lineOf 0x20000)) 0 n (fun i => .glob (0x20000 + i)) := by
  intro n hn
  simp only [List.mem_cons, List.not_mem_nil, or_false] at hn
  refine ⟨.inl ⟨1, 0x40, _, rfl, by decide +kernel, rfl, fun _ => rfl⟩, .inr (.inl ⟨0, 0x40, by decide +kernel, rfl, fun _ => rfl⟩),
    .inr (.inr ⟨0x20000, by rcases hn with rfl | rfl <;> rfl, rfl, by decide +kernel, ?_, fun _ => rfl⟩)⟩
  have h : waitersAt (serveLine (dropLine spadGrp 0 (lineOf 0x20000)) (lineOf 0x20000)) (lineOf 0x20000) = [] := by decide +kernel
  intro q hq
  rw [h] at hq
  exact absurd hq List.not_mem_nil

/-- R331: ADD of 9 to 9; R332: CAS of 9 by 77. -/
theorem test_atomics : spadRead (sampleAtomic spadGrp (pend1 (.atom 0)) (part1 4)).2 1 0x40 = 18 ∧ spadRead (sampleAtomic spadGrp (pend1 .cas) (part1 8)).2 1 0x40 = 77 := by
  decide +kernel

def detGrp : State := { spadGrp with grids := [(1, { noGrid with space := placeSpace 0, det := true })] }

theorem witness_TaggedWordsAndSpaceQueries :
    (∀ i ∈ [Instr.red 2 106 0 0 0, .feset 104 1, .stfe 2 104 0, .ldfe 2 104 0, .fetest 0 104], canIssue i spadGrp) ∧
    (∀ i ∈ [Instr.sptest 2 104, .spcast 2 104 2 0, .spcast 4 106 0 1], runs i spadGrp ∧ canIssue (.stfe 2 104 0) detGrp) ∧
    acquiring spadGrp = false ∧ gridIsDet spadGrp = false ∧ gridIsDet detGrp = true ∧ accessGate spadGrp = .ok () ∧ accessGate detGrp = .ok () ∧
    sqOf (endRegion spadGrp) 16 = [] ∧ sqOf (endRegion detGrp) 16 = [] ∧ pendingOf (endRegion detGrp) (.group 16) (endRegion detGrp).seq = [] ∧
    (∃ es u, elements (endRegion spadGrp) { n := 4, k := .write, align := 4, det := true, skip := fun x _ => decide (x = 0x07) } (isS 2) (eaOf spadGrp 106 0) = .ok ((es, []), u) ∧
      isOk (issueStore u (.red 0 4) false none (isS 2) es (valueBytes spadGrp 2 4)) = true) ∧
    (∃ es u, elements spadGrp { n := 4, k := .write, align := 4, perm := spadOnly } (isS 104) (eaOf spadGrp 104 0) = .ok ((es, []), u) ∧
      isOk (issueStore u (.feset true) false none (isS 104) es (fun _ => [0, 0, 0, 0])) = true) ∧
    (∃ es u, elements (endRegion detGrp) { n := 4, k := .write, align := 4, perm := spadOnly } (isS 2) (eaOf (endRegion detGrp) 104 0) = .ok ((es, []), u) ∧ true = true) ∧
    (∃ es u, elements (endRegion spadGrp) { n := 4, k := .read, align := 4, perm := spadOnly } (isS 2) (eaOf (endRegion spadGrp) 104 0) = .ok ((es, []), u) ∧ true = true) := by
  refine ⟨canIssue_all (by decide +kernel), fun i hi => ⟨?_, canIssue_of (by decide +kernel)⟩, ?_⟩
  rotate_left
  · (with_reducible and_intros) <;> first | decide +kernel | exact elements_of (by decide +kernel)
  exact runs_all (is := [Instr.sptest 2 104, .spcast 2 104 2 0, .spcast 4 106 0 1]) (s := spadGrp) trivial ⟨rfl, rfl, rfl⟩ (by decide +kernel) i hi

/-- R173, R333: a RED.rel whose group has no failed store to report. -/
theorem witness_TaggedWordsAndSpaceQueries_rel :
    canIssue (.red 2 106 2 1 0) spadGrp ∧ storeGate spadGrp = .ok () ∧
    ∃ es u, elements (endRegion spadGrp) { n := 8, k := .write, align := 8, det := true, skip := fun x _ => decide (x = 0x07) } (isS 2) (eaOf spadGrp 106 0) = .ok ((es, []), u) ∧
      (u.groups.all (fun g => decide (g.2.failed = [])) && isOk (issueStore u (.red 0 8) false (some (atomScope spadGrp es)) (isS 2) es (valueBytes spadGrp 2 8))) = true :=
  ⟨canIssue_of (by decide +kernel), by decide +kernel, elements_of (by decide +kernel)⟩

/-- R176: an own scratchpad address has space code 2. -/
theorem test_sptest : gives (.sptest 2 104) spadGrp (fun t => decide (readField t 2 0 = 2)) = true := by decide +kernel

theorem witness_CacheControlAndFencesComplete :
    (∀ i ∈ [Instr.cctlInv1 106, .cctlWb2 106, .cctlEvf 106, .cctlInv1all, .pref 106 2, .fence 3 3, .fence 0 1, .ifenceLocal, .ifenceDie 98 106, .ifenceDie 96 106],
      canIssue i spadGrp) ∧ accessGate spadGrp = .ok () ∧ storesDone spadGrp 16 = true ∧ spadGrp.pending = [] ∧ (getGroup spadGrp 16).failed = [] ∧
    readField spadGrp 96 0 = 0 ∧ readField spadGrp 98 0 ≠ 0 ∧ (readPair spadGrp 106 0).toNat + (readField spadGrp 98 0).toNat ≤ 2 ^ 57 ∧
    ∃ es u, elements spadGrp { n := 1, k := .read, align := 1, perm := globOrPriv } (isS 106) (eaOf spadGrp 106 0) = .ok ((es, []), u) ∧ true = true := by
  (with_reducible and_intros) <;> first | decide +kernel | exact canIssue_all (by decide +kernel) | exact elements_of (p := fun _ _ => true) (by decide +kernel)

/-- A store of the group waits, or is on its way; its core holds a clean line and a partial; an address range that ends past the global window. -/
def fencing (out : Bool) : State :=
  let e : StoreEnt := { seq := 1, gid := 16, parts := [{ lanes := 1, va := 0x20000, writes := [(.glob 0x20000, 5)] }] }
  if out then setCore spadGrp 0 { getCore spadGrp 0 with out := [e] } else modGroup spadGrp 16 (fun g => { g with sq := [e] })
def caching : State := setCore spadGrp 0 { getCore spadGrp 0 with s := [(0x400, { bytes := List.replicate 128 3 })], u := [(0x20080, { op := 0, width := 4, val := 1 })] }
def farGrp : State := atGroup { s := [(2, 0xFFFFFFFF), (10, 0xFFFFFFFF), (11, 0x1FFFFFF)] }

theorem witness_CacheControlAndFencesComplete_more :
    (∀ o ∈ [true, false], storesDone (fencing o) 16 = false ∧ (getGroup (fencing o) 16).sq.length < 32 ∧ loadsOpen (fencing o) .fab = false ∧ (getGroup (fencing o) 16).failed = []) ∧
    (∀ i ∈ [Instr.fence 0 1, .fence 0 3, .fence 3 3], canIssue i (fencing true)) ∧ storesAt (fencing true) 16 .core = true ∧ canIssue (.fence 3 3) (fencing false) ∧
    canIssue (.fence 2 2) (fencing false) ∧ canIssue .cctlInv1all caching ∧ storesDone caching 16 = true ∧ accessGate caching = .ok () ∧
    ((getCore caching 0).s.map (·.1) ++ (getCore caching 0).u.map (fun q => lineOf q.1)).eraseDups = [0x400, 0x401] ∧
    canIssue (.pref 106 2) spadGrp ∧ walkHeld spadGrp = false ∧
    canIssue (.ifenceDie 98 106) farGrp ∧ codeFencing farGrp = false ∧ codeFencing spadGrp = false ∧ readField farGrp 98 0 ≠ 0 ∧ (readPair farGrp 106 0).toNat < 2 ^ 57 ∧
    2 ^ 57 < (readPair farGrp 106 0).toNat + (readField farGrp 98 0).toNat ∧
    canIssue (.fence 3 1) (atQueue {}) ∧ loadsOpen (atQueue {}) .fab = false ∧ (∀ q ∈ (getCore caching 0).u, lineOf q.1 ≠ 0x400) := by
  (with_reducible and_intros) <;> first | decide +kernel | exact canIssue_of (by decide +kernel) | exact canIssue_all (by decide +kernel)

/-- R178: CCTL.inv1all leaves no clean line and no partial. -/
theorem test_inv1all : gives .cctlInv1all caching (fun t => decide ((getCore t 0).s = []) && decide ((getCore t 0).u = [])) = true := by decide +kernel
/-- R335: IFENCE.die past the end of the global window is OUT_OF_WINDOW. -/
theorem test_ifence_range : gives (.ifenceDie 98 106) farGrp (fun t => decide ((getGroup t 16).trap.map (fun r => (r.trap.cause, r.trap.aux)) = some (0x06, 2))) = true := by decide +kernel

/-! ## Engine work -/

/-- The registers that hold a block from S8 on. -/
def blockRegs (blk : List Word) : RegFile := { s := (blk.zipIdx.filter (fun p => decide (p.1 ≠ 0))).map (fun p => (8 + p.2, p.1)) }

/-- A group of two lanes with a block at S8, whose team holds a claimed slot, two valid ones and a tile, and whose VF has a grant of a 4 x 4 window of a ready tile. -/
def engGrp (blk : List Word) : State :=
  let s := modGroup (atGroup (blockRegs blk)) 16 (fun g => { g with done := ~~~3 })
  { s with
    teams := [(1, { grid := 1, index := 0, held := 1, slots := [(0, { state := .claimed }), (1, { state := .valid, klen := 64, lines := 1 }), (2, { state := .valid, klen := 64, lines := 1 })], slotMap := [(0, 0), (1, 1), (2, 2)] })],
    vfs := tabPut s.vfs 0 { getVf s 0 with agtlen := 1, agt := [(0, { words := [0, 0x1F, 0x4000000, 0, 0x400, 0, 1, 0] })] },
    tiles := [(0, { state := .ready, programmed := true })], calCur := [(0, {})], images := [(0, { ki := 1024, ni := 1024, golden := 0 })] }

theorem fresh_of {s : State} (h : s.works = []) : freshWorks s := by
  intro v hv
  rw [h] at hv
  exact absurd hv List.not_mem_nil

theorem claimsFit_of {s : State} (h : s.claims = []) (n : Nat) : claimsFit s n := by
  intro keys _
  simp [claimRoom, h]

/-- issues as a Bool, where no work is under way. -/
def mayStart (i : Instr) (s : State) : Bool :=
  mayIssue' i s && s.works.isEmpty && isOk (engineGate s) &&
  (match s.cur with
   | .cheA _ _ => false
   | .cheX _ _ => false
   | .queue q => (match (getQueue s q).wait with | some (.semaphore _) => false | _ => true)
   | _ => true)

theorem issues_of {i : Instr} {s : State} (h : mayStart i s = true) : issues i s := by
  simp only [mayStart, Bool.and_eq_true] at h
  obtain ⟨⟨⟨hi, hw⟩, he⟩, hc⟩ := h
  refine ⟨?_, canIssue_of hi, ?_, fresh_of (List.isEmpty_iff.1 hw), ?_⟩
  · unfold onRegisters
    split at hc <;> simp_all
  · cases hg : engineGate s with
    | ok u => rfl
    | error _ => rw [hg] at he; exact absurd he (by simp [isOk])
  · intro q w hq hw
    simp [hq, hw] at hc

theorem issues_all {is : List Instr} {s : State} (h : is.all (fun i => mayStart i s) = true) : ∀ i ∈ is, issues i s :=
  fun i hi => issues_of (List.all_eq_true.1 h i hi)

/-- The same with all lanes, as a group-collective operation asks. -/
def engAll (blk : List Word) : State := modGroup (engGrp blk) 16 (fun g => { g with done := 0 })

def cpyBlk : List Word := [0x20000, 0, 0x30000, 0, 128, 0, 0, 0]
def gsBlk : List Word := [0x20000, 0, 0x30000, 0, 4, 0, 0, 4]
def ldBlk : List Word := [0x20000, 0, 0x400000, 1, 0, 0, 0, 0]

theorem witness_CopyEngineWorkIssues :
    (∀ i ∈ [Instr.cpy 97 104], issues i (engGrp cpyBlk)) ∧ claimsFit (engGrp cpyBlk) 1 ∧ cpyParam (engGrp cpyBlk) (newWork (engGrp cpyBlk) .cpy 97 0 cpyBlk) = none ∧
    (∀ i ∈ [Instr.gather 97 104 2, .scatter 97 104 2], issues i (engGrp gsBlk)) ∧
    (∀ k ∈ [(WorkKind.gather, false), (.scatter, true)],
      let w := { newWork (engGrp gsBlk) k.1 97 0 gsBlk with vals := (laneList (engGrp gsBlk)).map (fun l => (l, readField (engGrp gsBlk) 2 l)) }
      gsParam (engGrp gsBlk) w = none ∧ okAnd (elements (engGrp gsBlk) { n := w.word 4, k := if k.2 then .write else .read, align := 1, perm := notPriv } false (gsG w))
        (fun r => decide (r.1.2 = [])) = true ∧
      isOk (gsBody (engGrp gsBlk) k.1 (uses (if k.2 then .scatter 97 104 2 else .gather 97 104 2)) 97 104 2) = true) ∧
    runs (.toktest 0 97) (engGrp cpyBlk) ∧
    (∀ i ∈ [Instr.ldslot 97 104], issues i (engAll ldBlk)) ∧ ldslotParam (engAll ldBlk) (newWork (engAll ldBlk) (.ldslot 0) 97 0 ldBlk) = none ∧
    (teamSlot (getTeam (engAll ldBlk) 1) (ldSlotNo (newWork (engAll ldBlk) (.ldslot 0) 97 0 ldBlk))).map (·.state) = some .claimed ∧
    (∀ i ∈ [Instr.cbload 97 104, .accst 97 120 0 0 0], issues i (engAll [0x20000])) ∧
    (readField (engAll [0x20000]) 106 0).toNat = 0 ∧ cbloadParam (engAll [0x20000]) (newWork (engAll [0x20000]) (.cbload 0) 97 0 [0x20000, 0, 0, 0]) = none ∧
    (getCore (engAll [0x20000]) 0).matrix = [] ∧ accstParam (engAll [0x20000]) (newWork (engAll [0x20000]) .accst 97 0 (List.replicate 8 0)) = none := by
  (with_reducible and_intros) <;> first | decide +kernel | exact issues_all (by decide +kernel) | exact claimsFit_of rfl _ | exact runs_of (by decide +kernel)

def layBlk : List Word := [0, 0, 0x20000, 0, 0x30000, 0, 1, 0]

theorem witness_ArrayWorkIssues :
    (∀ i ∈ [Instr.layerf 97 104 1 1 1, .layert 97 104 0 0 0, .layerd 97 104 1, .arxq 97 104, .almrun 97 104 0], issues i (engGrp layBlk)) ∧
    (∀ need ∈ [[33], [34], [35], [36], [33, 35]], checkHandle (engGrp layBlk) (readField (engGrp layBlk) 104 0) (readField (engGrp layBlk) 105 0) need =
      .ok (getGrant (engGrp layBlk) 0 0)) ∧
    (let s := engGrp layBlk
     let x := windowOf (getGrant s 0 0)
     let w (k : WorkKind) : Work := (newWork s k 97 0 layBlk).putDatum 0 [x.img, x.row0, x.rows, x.col0, x.cols, x.tfirst, x.tcount, imageCols s x.img, (imageOf s x.img).golden]
     x.tiles s = [0] ∧ gridIsDet s = false ∧ arrayTraps s x true false = .ok () ∧ arrayTraps s x false true = .ok () ∧ linkGate s x.img (x.tiles s) = .ok () ∧
     layerBad s (w .layerf) = none ∧ layerBad s (w .layert) = none ∧ layerBad s (w .layerd) = none ∧ addrBad (newWork s .arxq 97 0 (layBlk.take 4)) 2 64 = none ∧
     tileStateOf s x.img 0 = .ready ∧ almrunBad s x (newWork s .almrun 97 0 layBlk) = none) ∧
    (∀ i ∈ [Instr.adpset 97 104, .calset 97 104], issues i (engGrp [1])) ∧ adpsetBad (newWork (engGrp [1]) .adpset 97 0 (readBlock (engGrp [1]) 104 8)) = none ∧
    calsetBad (engGrp [1]) (newWork (engGrp [1]) .calset 97 0 (readBlock (engGrp [1]) 104 4)) = none ∧
    issues (.calrd 97 104) (engGrp []) ∧ calrdBad (engGrp []) (windowOf (getGrant (engGrp []) 0 0)) (newWork (engGrp []) .calrd 97 0 (readBlock (engGrp []) 104 8)) = none ∧
    issues (.almfit 97 104) (engGrp [0, 0, 0, 0, 0, 0, 0x10008, 1]) ∧ almfitBad (newWork (engGrp []) .almfit 97 0 [0, 0, 0, 0, 0, 0, 0x10008, 1]) = none := by
  (with_reducible and_intros) <;> first | decide +kernel | exact issues_all (by decide +kernel) | exact issues_of (by decide +kernel)

/-- A PL2 context and a die whose tile 0 is being reprogrammed, all of its rows committed and its scales staged. -/
def cairns : List Cairn :=
  (List.range 1024).map (fun r => { kind := 4, row := r }) ++ (List.range 64).map (fun p => { kind := 2, part := p, row := 1024, body := [0] })
def commitHost : State :=
  let s := atHost {}
  { s with
    vfs := tabPut s.vfs 0 { getVf s 0 with agtlen := 1, agt := [(0, { words := [0, 1, 0, 0, 0, 0, 0, 0] })] },
    tiles := [(0, { state := .reprogramming, newImage := 3, newTile := 1 })], journal := [(0, cairns)] }

theorem cairns_rows (r : Nat) (h : r < 1024) : rowHas commitHost 0 0 4 r = true := by
  have hj : journalOf commitHost 0 = cairns := rfl
  unfold rowHas tileCairns
  rw [hj, List.any_eq_true]
  refine ⟨{ kind := 4, row := r }, List.mem_filter.2 ⟨?_, rfl⟩, by simp⟩
  exact List.mem_append_left _ (List.mem_map.2 ⟨r, List.mem_range.2 h, rfl⟩)

theorem witness_ReprogrammingWorkIssues :
    (∀ i ∈ [Instr.arprog 97 104, .arcommitTile 97 104, .arcommitGrant 97 104, .arcommitRevoke 97 104, .arstat 97 104], issues i commitHost) ∧ claimsFit commitHost 1 ∧
    arprogBad (atHost {}) (newWork (atHost {}) .arprog 97 0 (List.replicate 8 0)) = none ∧ issues (.arprog 97 104) (atHost {}) ∧
    (∀ k ∈ [0, 1, 2], arcommitBad commitHost (newWork commitHost .arcommit 97 k (List.replicate 8 0)) = none) ∧
    arstatBad (newWork commitHost .arstat 97 0 (List.replicate 4 0)) = none ∧
    (arrTile commitHost 0).state = .reprogramming ∧ (arrTile commitHost 0).err = 0 ∧ (∀ r, r < 1024 → rowHas commitHost 0 0 4 r = true) ∧
    (stagedRow commitHost 0 0 1024).isSome = true := by
  refine ⟨issues_all (by decide +kernel), claimsFit_of rfl _, ?_, issues_of (by decide +kernel), ?_, ?_, ?_, ?_, cairns_rows, ?_⟩ <;> decide +kernel

/-- R457: ARPROG makes its tile REPROG at once. -/
theorem test_arprog : gives (.arprog 97 104) (atHost {}) (fun t => decide ((arrTile t 0).state = .reprogramming) && isEmptyField t 97) = true := by decide +kernel

/-- A launch record at 0x20000 with its kernel descriptor at 0x20100: one team of one group. -/
def launchQueue : State :=
  let s := atQueue (blockRegs [0x20000])
  let record := leBytes 8 0x20100 ++ leBytes 4 1 ++ leBytes 4 1 ++ leBytes 4 1
  let kernel := leBytes 8 0x10000 ++ leBytes 16 0 ++ leBytes 4 0 ++ leBytes 4 0x10001 ++ leBytes 4 0x2000 ++ leBytes 4 0x10001
  { s with mem := memWriteList (memWriteList s.mem 0x20000 record) 0x20100 kernel }

def collBlk : List Word := [0x20000, 0, 0x30000, 0, 1, 0, 0, 0]

theorem witness_SequenceTaskAndGridWorkIssues :
    (∀ i ∈ [Instr.scrd 97 104, .scclr 97 104, .unmask 97 104, .dirty 97 104, .confw 97 104 2, .scacc 97 104 2, .topk 97 104, .surv 97 104, .compact 97 104, .pxfind 97 104,
      .pxins 97 104, .pxrel 97 104, .chlaunch 97 104, .coll 97 104 0 0 1], issues i (engGrp collBlk)) ∧
    (∀ n, claimsFit (engGrp collBlk) n) ∧ (getCluster (engGrp collBlk) 0).sqe = [] ∧ activeOf (engGrp collBlk) ≠ 0 ∧ gridIsDet (engGrp collBlk) = false ∧
    taskBad (engGrp []) (newWork (engGrp []) .chlaunch 97 0 (List.replicate 8 0)) = none ∧ (getRing (engGrp []) 0 0).tasks.length < 64 ∧ issues (.chlaunch 97 104) (engGrp []) ∧
    collBad (engGrp collBlk) (newWork (engGrp collBlk) .coll 97 16 collBlk) = none ∧ issues (.migrate 97 104 0 0) (atQueue {}) ∧ issues (.launch 97 104) launchQueue ∧
    isOk (launchGrid launchQueue (newWork launchQueue .launch 97 0 (readBlock launchQueue 104 8))) = true := by
  (with_reducible and_intros) <;> first | decide +kernel | exact issues_all (by decide +kernel) | exact claimsFit_of rfl | exact issues_of (by decide +kernel)

/-! ## The matrix unit, access processors and channel engines -/

/-- The team of engAll with more slots, beside a second team that holds three tiles and ten slots. -/
def mtxGrp (w : Word) (crowd : Bool) : State :=
  let s := engAll [w]
  let slots : Tab OpSlot := [(0, { state := .claimed }), (1, { state := .valid }), (2, { state := .valid }), (4, { state := .valid }), (5, { state := .valid, fmt := 0xB, klen := 64 })]
  let t : Team := { grid := 1, index := 0, held := 1, slots := slots, slotMap := [(0, 0), (1, 1), (2, 2), (4, 4), (5, 5)] }
  { s with teams := if crowd then [(1, t), (2, { grid := 1, index := 1, held := 3, slotMap := (List.range 10).map (fun k => (k, k + 6)) })] else [(1, t)] }

theorem witness_MatrixInstructionsAct :
    (∀ c ∈ [false, true], (tabFind (mtxGrp 0 c).teams 1).map (fun t => tabRising t.slots && tabRising t.tiles) = some true) ∧ regsRising (regsOf (mtxGrp 0 false)) ∧
    (∀ i ∈ [Instr.shape 97 4, .shape 97 0, .slclaim 97 104, .slrel 104, .mma 1 104 2 0, .mmas 4 104 2 0, .accz 0 1, .accrd 4 104 0 0, .accrd 4 104 0 1, .accwr 4 104 0 0],
      canIssue i (mtxGrp 0 false) ∧ canIssue i (mtxGrp 0x48 true)) ∧
    matrixIdle (mtxGrp 0x48 true) 0 1 = true ∧ matrixIdle (mtxGrp 0 false) 0 1 = true ∧ 4 - 1 ≤ freeTiles (mtxGrp 0 false) 0 ∧ freeTiles (mtxGrp 0 true) 0 < 4 - 1 ∧
    (readField (mtxGrp 0x48 true) 104 0).toNat < 65536 ∧ (freeSlots (mtxGrp 0x48 true) 0).length < 2 ∧ 2 ≤ (freeSlots (mtxGrp 0x48 false) 0).length ∧
    (getCore (mtxGrp 0 false) 0).matrix = [] ∧ mmaChecks (mtxGrp 0 false) false 1 2 0 0 = .ok () ∧ mmaChecks (mtxGrp 0 false) true 4 2 0 0 = .ok () ∧
    (∀ sl ∈ [[1, 2], [4, 2, 5], []], matrixMemOk (mtxGrp 0 false) 1 sl [0] = .ok ()) := by
  have issue (c : State) (h : ([Instr.shape 97 4, .shape 97 0, .slclaim 97 104, .slrel 104, .mma 1 104 2 0, .mmas 4 104 2 0, .accz 0 1, .accrd 4 104 0 0, .accrd 4 104 0 1,
      .accwr 4 104 0 0].all (fun i => mayIssue' i c)) = true) := canIssue_all h
  (with_reducible and_intros) <;> first
    | decide +kernel
    | exact ⟨by decide +kernel, by decide +kernel, by decide +kernel⟩
    | exact fun i hi => ⟨issue _ (by decide +kernel) i hi, issue _ (by decide +kernel) i hi⟩

/-- R201: the core has three tiles free beside the one held. -/
theorem test_shape : gives (.shape 97 4) (mtxGrp 0 false) (fun t => decide (readField t 97 0 = 4)) = true := by decide +kernel

theorem witness_AccessProcessorActs :
    ((getGroup grp 16).axp).isSome = true ∧ canIssue (.axbind 100) grp ∧ (getGroup grp 16).sq = [] ∧
    (let s := atAxp { s := [(8, 5), (9, 1), (10, 64), (11, 20)] }
     s.cur = .axp 16 ∧ (getAxp s 16).streams = [] ∧ canIssue (.astrm 104 7) s ∧ canIssue (.qpushS 104 0) s ∧ queueBusy s 16 0 = false) ∧
    (let s := atAxp { s := [(8, 0x20000)] }
     canIssue (.qpushM 104 7) s ∧ queueBusy s 16 7 = false ∧ isOk (loadVector s (readPair s 104 0).toNat) = true) := by
  (with_reducible and_intros) <;> first | decide +kernel | exact canIssue_of (by decide +kernel)

/-- R189: entry 1 of a stream in lane 2 is start + step + 2 x stride; a queue holds 16 entries. -/
theorem test_astrm : gives (.astrm 104 7) (atAxp { s := [(8, 5), (9, 1), (10, 64), (11, 20)] }) (fun t =>
    decide (((tabGet (getGroup t 16).q 7 {}).entries.map (fun e => e.lane 2))[1]? = some 71) && decide ((tabGet (getGroup t 16).q 7 {}).entries.length = 16)) = true := by decide +kernel

/-- A task whose A1 and A2 hold addresses and A3 a count, of a grid with a lease over all of them. -/
def task1 : ChTask :=
  { work := 0, seqNo := 0, started := true, grid := 1, a := [(1, 0x20000), (2, 0x30000), (3, 4)],
    result := [List.replicate 64 1], fetch := [{ va := 0, pa := 0, strong := false, idx := 0, data := some (List.replicate 64 2) }] }
def cheAt (c : Agent) : State :=
  let s := setRing atA 0 0 { tasks := [task1] }
  { s with cur := c, grids := [(1, { noGrid with space := placeSpace 0, leases := [{ n := 0, va := 0x20000, len := 0x20000, rw := true, ranges := [(0x20, 0x20, 0x20)] }] })] }

theorem witness_ChannelThreadsAct :
    getTask (cheAt (.cheA 0 0)) 0 0 = some task1 ∧ task1.bad = [] ∧ (∀ i ∈ ((addressOps 4 1 2 0x40 0 0).map (·.1)) ++ ((addressShifts 4 1 63 0).map (·.1)) ++
      [Instr.li 4 0x2000, .lui 1 1, .astm 1 2 3 1 0, .astm 1 2 3 0 1, .agat 1 3 0 0, .agat 1 3 1 1, .aqp 1 0, .astq 2 1, .chend], canIssue i (cheAt (.cheA 0 0))) ∧
    (63#7).toNat ≤ 63 ∧ task1.sport = none ∧ task1.fport = none ∧ (tabGet task1.a 3 0).toNat % 2 ^ 32 ≠ 0 ∧ task1.fetch.length < 64 ∧
    isOk (beatPa (cheAt (.cheA 0 0)) task1.grid 0x20000 false) = true ∧ isOk (beatPa (cheAt (.cheA 0 0)) task1.grid 0x30000 true) = true ∧
    (∀ i ∈ [Instr.xpop 1, .xop 1 2 5 2, .xpush 15, .chend], canIssue i (cheAt (.cheX 0 0))) ∧ task1.result.length < 32 ∧
    task1.fetch.head?.bind (·.data) = some (List.replicate 64 2) ∧ getTask (cheAt (.cheX 0 0)) 0 0 = some task1 := by
  (with_reducible and_intros) <;> first | decide +kernel | exact canIssue_all (by decide +kernel)

/-- R379: the address thread adds 64 bits. -/
theorem test_address_add : gives (.add 4 1 2) (cheAt (.cheA 0 0)) (fun t => decide ((getTask t 0 0).map (fun u => tabGet u.a 4 0) = some 0x50000)) = true := by decide +kernel

/-! ## Translation, queues and the platform -/

def inval1 (done : Bool) : Inval :=
  { id := 5, agent := some (.queue 0), vf := 0, asid := 0, host := false, all := false, ranges := [], scope := .die, core := 0, done := done }

theorem witness_TranslationInstructionsAct :
    (∀ i ∈ [Instr.tfencePt 3, .tfenceWalk], canIssue i grp) ∧ storesAt grp 16 .die = true ∧ releaseDone grp 16 .fab = true ∧ storesDone grp 16 = true ∧ loadsOpen grp .fab = false ∧
    (∀ i ∈ [Instr.tfenceInv 104 1 2 0, .rnginv 104 2 0, .ptq 100 104 2 0, .leaseq 98 104], canIssue i (atQueue {})) ∧ (∀ i ∈ [Instr.tfenceInv 104 0 3 1, .rnginv 104 3 1, .ptq 100 104 0 1], canIssue i (atHost {})) ∧
    isOk (spaceWord (atQueue {}) (readField (atQueue {}) 107 0).toNat false) = true ∧ isOk (spaceWord (atHost {}) (readField (atHost {}) 105 0).toNat true) = true ∧
    (readField (atQueue {}) 104 0).toNat < 65536 ∧ (atQueue {}).invals = [] ∧
    (∀ b ∈ [true, false], ({ atQueue {} with invals := [inval1 b] } : State).invals.find? (fun v => decide (v.agent = some (.queue 0))) = some (inval1 b)) ∧
    2 ≤ levelOf (atHost {}) ∧ leaseAt (atQueue {}) (spaceOf (atQueue {})) 0 = none ∧
    canIssue (.posxl 2 1 0 0) grp ∧ canIssue (.dmaprd 2 1 7 0) grp ∧ accessGate grp = .ok () ∧
    okAnd (eachLane (fun t l => do
      let (r, t) ← posLane t (readPair grp 96 0).toNat (readField grp 98 0).toNat (readField grp 99 0).toNat l (readField grp 1 l).toNat
      return ((l, leBytes 8 (r.getD 0), r.isNone), t)) (laneList grp) grp) (fun r => decide (r.1.2 = [])) = true ∧
    okAnd (eachLane (fun t l => do
      let (r, t) ← dmapLane t (readPair grp 96 0).toNat (readField grp 98 0).toNat l (readField grp 1 l).toNat
      return ((l, leBytes 4 r.1, r.2), t)) (laneList grp) grp) (fun r => decide (r.1.2 = [])) = true := by
  (with_reducible and_intros) <;> first | decide +kernel | exact canIssue_all (by decide +kernel) | exact canIssue_of (by decide +kernel)

/-- A queue context with a semaphore at 0x20000, named by S2:S3, and operands in S4:S5 and S6:S7; S8 names queue 1, which is stopped. -/
def semQueue : State :=
  let s := atQueue { s := [(2, 0x20000), (4, 9), (8, 1)] }
  { s with mem := memWriteList s.mem 0x20000 (leBytes 8 9), queues := tabPut s.queues 1 { state := .stopped } }

/-- Queue 1 waits until the semaphore reaches 10; the context itself stands at an odd PC. -/
def waiter : SemWait := { pa := 0x20000, cond := 0, value := 10, dec := false, use := { vf := 0, asid := 0, page := 0x20, gpa := 0x20 } }
def waitQueue : State := { semQueue with queues := tabPut semQueue.queues 1 { state := .waiting, wait := some (.semaphore waiter) } }
def oddQueue : State := modQueue semQueue 0 (fun q => { q with away := true, pc := 0x40001 })

theorem witness_QueueInstructionsAct :
    (∀ i ∈ [Instr.qwait 100 98 0 1, .qwait 100 98 1 0, .qwait 102 98 2 0, .qwait 102 98 1 0, .qsig 100 98 0, .qsig 100 98 1, .qjmp 0xFFFFF, .qstopStop 104, .qstopStart 104], canIssue i semQueue) ∧
    (∀ k ∈ [Acc.read, .write], okAnd (semaphore semQueue 98 k) (fun r => decide ((readWord64 r.2 r.1.1).1 = 9)) = true) ∧ readPair semQueue 100 0 = 9 ∧ readPair semQueue 102 0 = 0 ∧
    inRing (getQueue semQueue 0) (queuePc (getQueue semQueue 0)) = true ∧ (readField semQueue 104 0).toNat = 1 % 64 ∧ (getQueue semQueue 0).slot = 0 ∧
    (tabFind semQueue.queues 1).isSome = true ∧ (getQueue semQueue 1).state = .stopped ∧ loadsOpen semQueue .fab = false ∧ (queuePc (getQueue semQueue 0)).getLsbD 0 = false ∧
    canIssue (.qjmp 1) oddQueue ∧ (queuePc (getQueue oddQueue 0)).getLsbD 0 = true ∧ waitersAt waitQueue (lineOf 0x20000) = [(1, waiter)] := by
  (with_reducible and_intros) <;> first | decide +kernel | exact canIssue_all (by decide +kernel) | exact canIssue_of (by decide +kernel)

/-- R447: a wait for a greater value waits; one for an equal value goes on, and .dec takes it. -/
theorem test_qwait : gives (.qwait 100 98 0 1) semQueue (fun t => decide (memRead t.mem 0x20000 = 0) && decide ((getQueue t 0).state = .running)) &&
    gives (.qwait 102 98 1 0) semQueue (fun t => decide ((getQueue t 0).state = .waiting)) = true := by decide +kernel

/-- R447: a write that makes the condition of a waiting QWAIT hold sends it on; one that does not leaves it. -/
theorem test_wake : (∀ v ∈ [9, 10], (getQueue (homeWriteRaw waitQueue none 0x20000 (leBytes 8 v)) 1).state = if v = 10 then .running else .waiting) := by decide +kernel

/-- A queue context whose VF has a second slot, a handler and a PL2 handler, with an image of a slot without queues at 0x20000. -/
def ctxQueue (blk : List Word) : State :=
  let s := atQueue (blockRegs blk)
  let v := getVf s 0
  { s with
    vfs := tabPut s.vfs 0 { v with hvvec := 0x50000, slots := [(0, { tabGet v.slots 0 {} with tvec := 0x40000 }), (1, { map := 1 })] },
    mem := memWriteList s.mem 0x20010 (leBytes 4 0x10001) }
def swBlk : List Word := [1, 0, 0x30000, 0, 0x20000, 0, 0, 0]
def swapping : State := modQueue (ctxQueue swBlk) 0 (fun q => { q with swap := some 1 })
/-- The same 20 µs after its CTXSW issued, when its VF is to give way; and with a load that has yet to return of a queue of the slot that it switches. -/
def overdue : State := { swapping with qpAsked := [0], time := 40000 }
def lateSlot : State :=
  let v := getVf swapping 0
  { swapping with
    vfs := tabPut swapping.vfs 0 { v with slots := tabPut v.slots 1 { map := 1, qmask := 2 } },
    pending := [{ id := 7, seq := 0, agent := .queue 1, core := noCore, kind := .load false, dst := 97, width := 4, parts := [] }] }

theorem witness_ProcessAndPlatformInstructionsAct :
    canIssue (.trap 0x3FFF) (ctxQueue []) ∧ tvecOf (ctxQueue []) 0 ≠ 0 ∧ (getQueue (ctxQueue []) 0).trapped = false ∧
    canIssue (.hvcall 1) (ctxQueue []) ∧ (getQueue (ctxQueue []) 0).level < 2 ∧ (getVf (ctxQueue []) (regVf (ctxQueue []))).hvvec ≠ 0 ∧
    canIssue (.ctxsw 97 104) (ctxQueue swBlk) ∧ canIssue (.ctxsw 97 104) swapping ∧ ctxBlockBad (readBlock swapping 104 8) true = false ∧ slotLoaded swapping 0 1 = true ∧
    okAnd (readImage swapping 0x20000) (fun r => !imageBad swapping 0 1 r.1) = true ∧ okAnd (readImage (ctxQueue swBlk) 0x20000) (fun r => !imageBad (ctxQueue swBlk) 0 1 r.1 &&
      isOk (saveSlot (endStatus (modQueue r.2 0 (fun x => { x with swap := none })) (uses (.ctxsw 97 104)) 97 0) 0 1 0x30000)) = true ∧
    (∀ i ∈ [Instr.ctxsv 97 104 0, .ctxsv 97 104 1], canIssue i (ctxQueue swBlk)) ∧ ctxBlockBad (readBlock (ctxQueue swBlk) 104 4) false = false ∧
    isOk (saveSlot (endStatus (modQueue (ctxQueue swBlk) 0 (fun x => { x with saving := none })) (uses (.ctxsv 97 104 0)) 97 0) 0 1 0x30000) = true ∧ slotPending (ctxQueue swBlk) 0 1 = false ∧
    (getQueue swapping 0).swap ≠ none ∧ swapOverdue swapping 0 = false ∧ slotPending swapping 0 1 = false ∧ swapOverdue overdue 0 = true ∧ canIssue (.ctxsw 97 104) overdue ∧
    slotPending lateSlot 0 1 = true ∧ (∀ i ∈ [Instr.ctxsv 97 104 0, .ctxsw 97 104], canIssue i lateSlot) ∧ (getQueue lateSlot 0).swap ≠ none ∧ swapOverdue lateSlot 0 = false ∧
    canIssue (.ctxld 97 104) (ctxQueue [2, 0, 0x20000]) ∧ slotLoaded (ctxQueue [2, 0, 0x20000]) 0 2 = false ∧ ctxBlockBad (readBlock (ctxQueue [2, 0, 0x20000]) 104 4) false = false ∧
    okAnd (readImage (ctxQueue [2, 0, 0x20000]) 0x20000) (fun r => !imageBad (ctxQueue [2, 0, 0x20000]) 0 2 r.1) = true ∧
    (∀ i ∈ [Instr.dectabLoad 97 104, .dectabClr 97 104, .qosset 97 104, .starfix 97, .halt], canIssue i (atHost {})) ∧ mayTrigger (atHost {}) = true ∧
    haltWaits { atHost {} with stage := .halting, haltBy := 2048, haltFrom := .summit } = false := by
  (with_reducible and_intros) <;> first | decide +kernel | exact canIssue_of (by decide +kernel) | exact canIssue_all (by decide +kernel)

/-- R434: TRAP enters the handler at TVEC. -/
theorem test_queue_trap : gives (.trap 7) (ctxQueue []) (fun t => decide (pcOf t = 0x40000) && decide ((getQueue t 0).traux = 7)) = true := by decide +kernel

/-! ## Events -/

/-- The trapped group of `trappedBy`, whose trap went to PL2, with the queue context of VF 0 that issued its grid; a queue table lies at 0x20000. -/
def eventQueue : State :=
  let s := trappedBy 0x15 false true
  let s := modGroup s 16 (fun g => { g with trap := some { rec1 0x15 false with hv := true } })
  { s with vfs := tabPut s.vfs 0 { getVf s 0 with qtab := 0x20000 } }

theorem witness_ControlWritesAct :
    (tabFind grp.groups 16).isSome = true ∧ matrixBusy grp 16 = false ∧ 3 < Config.packages ∧ groupOfHandle eventQueue 0x10000 = some 16 ∧
    ((getGroup eventQueue 16).trap.map (·.hv)) = some true ∧ (gridOf eventQueue 16).vf = 0 ∧ (tabFind eventQueue.queues 0).isSome = true ∧
    (tabFind (atHost {}).queues 2048).isSome = true ∧ 2048 / 64 = hostVf ∧ 0 / 64 ≠ hostVf ∧ (getVf eventQueue 0).qtab ≠ 0 ∧
    isOk (writeVirt eventQueue (slotSpace eventQueue 0 0 1) (0x20000 + 12) (leBytes 4 1)) = true := by
  (with_reducible and_intros) <;> decide +kernel

/-- R78: a write of MFR keeps its five defined bits. -/
theorem test_mfr_write : gives (.mfrAccess 16 (some 0xFFFFFFFF)) grp (fun t => decide ((getGroup t 16).mfr = 0x1F)) = true := by decide +kernel

/-- GTIME and CYCLE stand at the limits; the watchdog limit is one unit, and the group has counted it. -/
def lateGrp (wdog : Nat) : State :=
  { modGroup grp 16 (fun g => { g with gtime := 7, gtcmp := 7, wdl := 9, wdog := wdog }) with
    wdlim := 1, time := 2000000018, queues := [(0, { base := 0, wdog := wdog, swap := some 1 })] }

/-- The team of a .det grid at its cap, and one that waits to be placed since the beginning. -/
def capped : State :=
  { lateGrp 0 with
    teams := [(1, { grid := 1, index := 0, capCount := 20000000 })],
    grids := [(1, { noGrid with space := placeSpace 0, det := true, leases := [{ n := 2, va := 0x20000, len := 64, rw := true, pending := some 2000000018 }] }),
      (2, { noGrid with waiting := true, minMods := 2 })],
    colls := [{ id := 4, grid := 1, tag := 0, k := 0, opened := 18 }] }

def stalledTask (a x : Bool) : State := setRing atA 0 0 { tasks := [{ task1 with aDone := a, xDone := x, stalled := 2000000 }] }

theorem witness_LimitsAct :
    mayTakeTimer (lateGrp 0) 16 = true ∧ gtimeDue (getGroup (lateGrp 0) 16) = true ∧ wallDue (lateGrp 0) (getGroup (lateGrp 0) 16) = true ∧
    gtimeDue (getGroup grp 16) = false ∧ wallDue grp (getGroup grp 16) = false ∧
    wdogLimit (lateGrp 0) = 2000000 ∧ (tabFind (lateGrp 2000000).groups 16).map (·.wdog) = some 2000000 ∧ recordWritable (modGroup (lateGrp 2000000) 16 (fun g => { g with feDone := 0 })) 16 ∧
    (tabFind (lateGrp 1999999).groups 16).map (·.wdog) = some 1999999 ∧ (tabFind (lateGrp 2000000).queues 0).map (·.wdog) = some 2000000 ∧
    (getGrid capped 1).det = true ∧ (tabFind capped.teams 1).map (fun t => (t.capFired, decide (((getGrid capped t.grid).tcap : Int) ≤ t.capCount))) = some (false, true) ∧
    (∀ p ∈ [(true, false), (false, true), (false, false), (true, true)], (getTask (stalledTask p.1 p.2) 0 0).map (fun t => (t.started, t.compact, t.stalled, t.aDone, t.xDone)) =
      some (true, false, 2000000, p.1, p.2)) ∧
    ((getGrid capped 1).leases.find? (fun l => l.n = 2)).map (fun l => (l.revoked, l.pending.map (fun d => decide (d ≤ capped.time)))) = some (false, some true) ∧
    (tabFind capped.grids 2).map (fun g => (g.waiting && g.home.isNone, decide (g.issuedAt + 2000000000 ≤ capped.time))) = some (true, true) ∧
    (capped.colls.find? (fun c => c.id = 4)).map (fun c => (c.full, c.closed, decide (c.opened + 2000000000 ≤ capped.time))) = some (false, false, true) ∧
    (getQueue (lateGrp 0) 0).swap = some 1 ∧ swapOverdue (lateGrp 0) 0 = false ∧ swapOverdue { lateGrp 0 with qpAsked := [0] } 0 = true := by
  (with_reducible and_intros) <;> first | decide +kernel | exact writeVirt_answers _ _ _ _ (by decide +kernel)

/-- R93, R94: both compares fire together, and TIMER's auxiliary word has both bits. -/
theorem test_timer : gives (.gtcmpFire 16) (lateGrp 0) (fun t => decide ((getGroup t 16).trap.map (fun r => (r.trap.cause, r.trap.aux)) = some (0x13, 3)) &&
    decide ((getGroup t 16).gtcmp = BitVec.allOnes 64)) = true := by decide +kernel

/-- The team of grp in this residence, its group at this block; grid 1 runs it, grid 2 has a team that no core has room for, grid 3 may run on several modules. -/
def schedState (r : Residence) (b : Run) : State :=
  { modGroup grp 16 (fun g => { g with run := b }) with
    teams := [(1, { grid := 1, index := 0, res := r })],
    grids := [(1, { noGrid with space := placeSpace 0, placed := 1, mods := [0] }), (2, { noGrid with space := placeSpace 0, spad := 524289, mods := [0] }), (3, { noGrid with maxMods := 2 }),
      (4, { noGrid with space := placeSpace 0, mods := [0] }), (6, { noGrid with placed := 1 })],
    works := [{ id := 5, kind := .launch, agent := .queue 0, space := placeSpace 0, token := 96 }] }

theorem witness_SchedulingEventsAct :
    (∀ r ∈ [Residence.running, .held, .spilled, .saving 40000 false, .saving 39999 true], (tabFind (schedState r .eligible).teams 1).map (·.res) = some r) ∧
    (schedState .held .eligible).stage = .summit ∧
    (let s := schedState .spilled .eligible
     roomFor (spillUntil (fun u => roomFor u 1 3 2) s (heldTags s 3)) 1 3 2 = true) ∧
    (∀ p ∈ [(Run.eligible, false), (.blocked .tbar, true)], (teamGids (schedState (.saving 40000 false) p.1) 1).all (fun g => isAt (getGroup (schedState (.saving 40000 false) p.1) g) .tbar) = p.2) ∧
    (let s := schedState .running (.blocked .step)
     isVictim s 1 = true ∧ teamQuiet s 1 = true ∧ placementShort s = true ∧ (getGrid s 1).gang = false ∧ stepArrived s 1 = true) ∧
    (let t : Team := { grid := 1, index := 0, res := .saving 40000 false }
     isSaving t = true ∧ savingFor t = 40000) ∧
    (let u := modTeam (schedState (.saving 40000 false) .eligible) 1 (fun t => { t with res := .saving 40000 true })
     teamQuiet u 1 = true ∧ teamQuiet (modGroup u 16 (fun g => { g with sq := [{ seq := 0, gid := 16 }] })) 1 = false) ∧
    (∀ g ∈ teamGids (schedState (.saving 7 false) (.blocked .tbar)) 1, isAt (getGroup (schedState (.saving 7 false) (.blocked .tbar)) g) .tbar = true) ∧
    teamQuiet (schedState (.saving 7 false) (.blocked .tbar)) 1 = true ∧
    (let s := schedState .running .eligible
     let u := spillUntil (fun u => roomOn u 0 3 (gridBudgets (getGrid s 4)) 0 false) s (heldTags s 0)
     wantsCore s (getGrid s 4) = true ∧ heldHere s (getGrid s 3) = false ∧ tabFind s.teams 65535 = none ∧
     s.teams.any (fun p => evictedReady s p.1 && (List.range 4).any (fun q => roomFor (sansHeld s) p.1 0 q)) = false ∧ roomOn u 0 3 (gridBudgets (getGrid s 4)) 0 false = true ∧
     (withSat u 4 (clusterOfCore 0)).isSome = true ∧ nextOffer s (getGrid s 3) ≠ none ∧ placedAll (getGrid s 3) = 0 ∧ stepArrived s 1 = false ∧ gbarArrived s 6 = true) ∧
    (let s := schedState .running .done
     (getGroup s 16).run = .done ∧ tokensFull s 16 = true ∧ (getGroup s 16).sq = [] ∧ s.pending = [] ∧ (∀ c ∈ s.cores, c.2.matrix = [])) ∧
    (let s := { schedState .running .done with grids := [(5, { noGrid with placed := 1 })], groups := [], teams := [] }
     gridDone s 5 = true ∧ (getWork s 5).isSome = true ∧ gridDone s 1 = false) := by
  (with_reducible and_intros) <;> decide +kernel

/-- Rings of VF 0 and VF 1 on engine 0, and VF 0 with weight 2. -/
def cheRings (w : Nat) : State :=
  let s := setRing (setRing atA 0 0 { tasks := [{ task1 with aDone := true, xDone := true }] }) 0 1 { tasks := [{ task1 with work := 5, started := false }] }
  { s with
    chewt := [(0, BitVec.ofNat 32 (0x0A00 + w))],
    works := [{ id := 5, kind := .chlaunch, agent := .queue 0, space := placeSpace 0, token := 96 }] }

theorem witness_SchedulingEventsAct_engines :
    0 ∉ (atQueue {}).qpAsked ∧ vfRunnable (atQueue {}) 0 = true ∧
    (∀ a ∈ [[], [0]], ∀ w ∈ [none, some 1], let s := { modQueue { atQueue {} with queues := tabPut (atQueue {}).queues 2048 (getQueue (atHost {}) 2048), qpAsked := a } 0 (fun q => { q with swap := w }) with qpQuanta := [(0, 255)] }
      ((List.range (hostVf + 1)).map (fun i => (0 + 1 + i) % (hostVf + 1))).find? (fun v => decide (v ≠ 0) && vfRunnable s v) = some hostVf ∧
      turnWeight s 0 ≤ tabGet s.qpQuanta 0 0 + 1 ∧ Machine.swapping s 0 = w.isSome) ∧
    (let s := { atQueue {} with vfs := tabPut (atQueue {}).vfs 0 { getVf (atQueue {}) 0 with weight := 2 } }
     tabGet s.qpQuanta 0 0 + 1 < turnWeight s 0) ∧
    (∀ w ∈ [1, 2], tabGet (cheRings w).cheTurn 0 0 = 0 ∧ (getTask (cheRings w) 0 0).map (fun t => (t.started, t.fetch.all (fun f => decide (f.data ≠ none)), t.stores.length)) = some (true, true, 0) ∧
      ((List.range Config.vfs).map (fun i => (0 + 1 + i) % Config.vfs)).filter (fun u => decide (u ≠ 0) && ringReady (cheRings w) 0 u) = [1]) ∧
    cheWeight (cheRings 1) 0 ≤ tabGet (cheRings 1).cheQuanta 0 0 + 1 ∧ tabGet (cheRings 2).cheQuanta 0 0 + 1 < cheWeight (cheRings 2) 0 ∧
    (let s := setRing (cheRings 1) 0 0 {}
     (getTask s 0 1).map (fun t => (t.started, t.doomed, t.compact, (getWork s t.work).isSome)) = some (false, false, false, true) ∧ ringReady s 0 1 = true ∧ cheIdle s 0 = true ∧
     tabGet s.cheTurn 0 0 ≠ 1) := by
  (with_reducible and_intros) <;> decide +kernel

/-- R257: 39,999 cycles after the request the team is not stopped yet. -/
theorem test_forced_save : gives (.forcedSave 1) (schedState (.saving 39999 false) .eligible) (fun t => decide ((getTeam t 1).res = .saving 39999 false)) = true := by decide +kernel

/-! ## The platform -/

/-- Camp 1 with one snapshot that has latched, a tile of a programmed image and an open VF. -/
def camp1 : State :=
  let s := atQueue {}
  { s with stage := .camp1, time := 100, tiles := [(0, { state := .ready, programmed := true })], snapshots := [{ seq := 2, trigger := 4, instants := [5, 99], locl := [], remt := [] }] }

def config0 : VfConfig :=
  { htrt := 0, hrdt := 0, logn := 0, mset := [], qtab := 0, weight := 1, mincl := 0, mintile := 0, minbw := 0, agtlen := 0, hvctx := 0,
    slot0 := { gtrt := 0, grdt := 0, map := 1, weight := 1, qmask := 0, tvec := 0, queues := [] } }

theorem witness_PlatformEventsAct :
    State.reset.stage = .off ∧ camp1.stage ≠ .off ∧
    (let s := { State.reset with stage := .camp0 }
     s.healthCodes = [] ∧ ({ s with healthCodes := [1] } : State).healthCodes ≠ []) ∧
    (∀ p ∈ camp1.tiles, p.2.programmed = true → p.2.state ≠ .uncal) ∧ ({ camp1 with stage := .halted } : State).stage = .halted ∧ (List.replicate 32 (0 : BitVec 8)).length = 32 ∧
    (camp1.snapshots.find? (fun x => x.seq = 2)).map (fun x => x.instants.all (fun i => decide (i < camp1.time))) = some true ∧
    atWork camp1 = true ∧ vfBad camp1 5 config0 = false ∧ (getVf camp1 0).isOpen = true ∧
    isLocal camp1 (0x400 * 128) = true ∧ 0x400 * 128 % 2 ^ 48 < Config.capacity camp1.memCode ∧ (tabFind camp1.lpddr 0x400).isSome = false ∧
    (tabFind ({ camp1 with lpddr := [(0x400, [])] } : State).lpddr 0x400).isSome = true ∧ claimed camp1 (.glob (0x400 * 128)) = false ∧ badClass camp1 (0x400 * 128) = none ∧
    remotePlace (.load (0x400 * 128) 128) = (0x400 * 128, 128) ∧ lineOf (0x400 * 128) = lineOf (0x400 * 128 + 128 - 1) ∧
    (let s := { camp1 with vfs := tabPut camp1.vfs 0 { getVf camp1 0 with endpoint := true } }
     (getVf s 0).endpoint = true) ∧
    camp1.throttle < 2 ∧ camp1.pwrcap.toNat ≤ (0xFFFF#16).toNat ∧ (1#16).toNat < camp1.pwrcap.toNat ∧ (1#16).toNat * 10 < camp1.pwrcap.toNat * 9 ∧
    (getCluster camp1 11).retired = false ∧ 11 < Config.clusters ∧ 0 < Config.channels ∧ 0 ∉ camp1.retiredChannels ∧ 0 ∉ camp1.retraining ∧
    tabRising (getCluster camp1 0).mem = true := by
  (with_reducible and_intros) <;> decide +kernel

/-- A tile whose rows are staged and not yet programmed. -/
def stagedCairns : List Cairn :=
  (List.range 1025).flatMap (fun r => (List.range 64).map (fun p => { kind := 2, part := p, row := r, body := [0] }))
/-- Row 0 has its INTENT, or not yet, and is verified, or not. -/
def staged (begun : Bool) (v : Option Nat) : State :=
  { State.reset with
    stage := .summit, tiles := [(0, { state := .reprogramming, newImage := 3, newTile := 1, verified := v })],
    journal := [(0, stagedCairns ++ if begun then [{ kind := 1, row := 0 }] else [])] }

variable (begun : Bool) (v : Option Nat)

theorem mem_tileCairns_staged (c : Cairn) : c ∈ tileCairns (staged begun v) 0 0 ↔
    (∃ r p, r < 1025 ∧ p < 64 ∧ c = { kind := 2, part := p, row := r, body := [0] }) ∨ (begun = true ∧ c = { kind := 1, row := 0 }) := by
  have hj : journalOf (staged begun v) 0 = stagedCairns ++ if begun then [{ kind := 1, row := 0 }] else [] := by simp [journalOf, staged, tabGet, tabFind]
  unfold tileCairns
  rw [hj, List.mem_filter, List.mem_append]
  constructor
  · rintro ⟨h | h, -⟩
    · obtain ⟨r, hr, h⟩ := List.mem_flatMap.1 h
      obtain ⟨p, hp, rfl⟩ := List.mem_map.1 h
      exact .inl ⟨r, p, List.mem_range.1 hr, List.mem_range.1 hp, rfl⟩
    · cases begun <;> simp_all
  · rintro (⟨r, p, hr, hp, rfl⟩ | ⟨rfl, rfl⟩)
    · exact ⟨.inl (List.mem_flatMap.2 ⟨r, List.mem_range.2 hr, List.mem_map.2 ⟨p, List.mem_range.2 hp, rfl⟩⟩), rfl⟩
    · exact ⟨.inr (by simp), rfl⟩

theorem stagedRow_isSome (r : Nat) (hr : r < 1025) : (stagedRow (staged begun v) 0 0 r).isSome = true := by
  unfold stagedRow
  simp only
  rw [if_pos]
  · rfl
  · rw [List.all_eq_true]
    intro x hx
    obtain ⟨p, hp, rfl⟩ := List.mem_map.1 hx
    have hp : p < 64 := by
      have := List.mem_range.1 hp
      split at this <;> omega
    rw [Option.isSome_map, List.find?_isSome]
    exact ⟨_, List.mem_filter.2 ⟨(mem_tileCairns_staged begun v _).2 (.inl ⟨r, p, hr, hp, rfl⟩), by simp⟩, by simp⟩

theorem backgroundRow_staged : ∃ bs, backgroundRow (staged begun v) 0 0 = some (0, bs) := by
  have h0 : rowHas (staged begun v) 0 0 4 0 = false := by
    unfold rowHas
    rw [List.any_eq_false]
    intro c hc
    obtain ⟨r, p, -, -, rfl⟩ | ⟨-, rfl⟩ := (mem_tileCairns_staged begun v c).1 hc <;> simp
  have hf : (List.range 1024).find? (fun r => !rowHas (staged begun v) 0 0 4 r) = some 0 := by
    rw [show List.range 1024 = 0 :: (List.range 1023).map (· + 1) from by rw [← List.range_succ_eq_map], List.find?_cons_of_pos]
    simp [h0]
  unfold backgroundRow
  simp only
  rw [if_neg, hf]
  · obtain ⟨bs, hb⟩ := Option.isSome_iff_exists.1 (stagedRow_isSome begun v 0 (by decide))
    exact ⟨bs, by simp [hb]⟩
  · rintro (h | h | h | h)
    · exact h rfl
    · exact h rfl
    · exact Bool.false_ne_true h
    · obtain ⟨r, hr, h⟩ := List.any_eq_true.1 h
      have := stagedRow_isSome begun v r (List.mem_range.1 hr)
      simp [Option.isNone_iff_eq_none] at h
      rw [h] at this
      exact absurd this (by simp)

theorem witness_PlatformEventsAct_background : (staged begun v).stage = .summit ∧ (arrTile (staged begun v) (tileNo 0 0)).verified = v ∧
    rowHas (staged begun v) 0 0 1 0 = begun ∧ ∃ bs, backgroundRow (staged begun v) 0 0 = some (0, bs) := by
  refine ⟨rfl, rfl, ?_, backgroundRow_staged begun v⟩
  cases begun
  · refine List.any_eq_false.2 fun c hc => ?_
    obtain ⟨r, p, -, -, rfl⟩ | ⟨h, -⟩ := (mem_tileCairns_staged false v c).1 hc
    · simp
    · exact absurd h Bool.false_ne_true
  · exact List.any_eq_true.2 ⟨_, (mem_tileCairns_staged true v _).2 (.inr ⟨rfl, rfl⟩), rfl⟩

theorem witness_PlatformEventsAct_throttle :
    (∀ n ∈ [20000000, 19999999], let s := { camp1 with throttle := 2, lowSince := some 0, time := n }
     s.throttle = 2 ∧ s.pwrcap.toNat < (0xFFFF#16).toNat ∧ 0 < s.throttle ∧ s.throttle < 3 ∧ s.lowSince = some 0 ∧ (0 + 20000000 ≤ s.time ↔ n = 20000000)) ∧
    camp1.throttle < 2 ∧ camp1.pwrcap ≠ 0 ∧ 3 ∈ ({ camp1 with retraining := [3] } : State).retraining := by decide +kernel

/-- R470: a draw at the cap takes the module one step deeper. -/
theorem test_throttle : gives (.throttleDeeper none 600) camp1 (fun t => decide (t.throttle = 1)) = true := by decide +kernel
/-- R468: a line of LPDDR-6 that cannot be corrected is logged under class 0x05. -/
theorem test_patrol : gives (.patrolScrub 0x400 .uncorrectable) camp1 (fun t => decide (t.badLow = [0x400])) = true := by decide +kernel

/-! ## Work that goes on -/

/-- A load of the group, a work that has ended and one that has not, and an invalidation. -/
def working : State :=
  { grp with
    pending := [{ id := 7, seq := 0, agent := .group 16, core := 0, kind := .load false, dst := 1, width := 4, parts := [] }],
    works := [{ id := 1, kind := .cpy, agent := .group 16, space := placeSpace 0, token := 97, ended := true }, { id := 2, kind := .cpy, agent := .group 16, space := placeSpace 0, token := 98 }],
    nextId := 8, invals := [inval1 false] }

theorem witness_WorkGoesOnByItself :
    atWork working = true ∧ (working.pending.find? (fun p => p.id = 7)).map (·.agent) = some (.group 16) ∧ (getWork working 1).map (·.ended) = some true ∧
    (getWork working 2).map (·.ended) = some false ∧ freshWorks working ∧ (tabFind working.groups 16).isSome = true ∧ regsRising (getGroup working 16).regs ∧
    findInval working 5 = some (inval1 false) ∧ invalReady working (inval1 false) = true ∧ invalReady working { inval1 false with works := [2] } = false ∧
    isLocal working (0x400 * 128) = true ∧ claimed working (.glob (0x400 * 128)) = false := by
  have old : freshWorks working := by
    intro v hv
    simp only [working, List.mem_cons, List.not_mem_nil, or_false] at hv
    rcases hv with rfl | rfl <;> decide
  (with_reducible and_intros) <;> first | decide +kernel | exact old | exact ⟨by decide +kernel, by decide +kernel, by decide +kernel⟩

/-- R184: work that ended well fills its token with 0. -/
theorem test_token_fill : gives (.engineTokenFill 1) working (fun t => decide (readField t 97 0 = 0) && !isEmptyField t 97 && decide (t.works.length = 1)) = true := by decide +kernel

/-! ## Encoding, steps and the invariant -/

theorem witness_DecodeEncodeRoundTrip :
    (Instr.add 1 2 3).isEvent = false ∧ encode (.add 1 2 3) = some (.word (3#7 ++ 2#7 ++ 1#7 ++ 0x000#10 ++ 1#1)) ∧ encode (.add16 9 3) = some (.half 0x1922) := by decide

/-- A word, or a halfword, placed after reset. -/
def placed (n w : Nat) : State := State.reset.withFetchWord n w
def stateAt (n w : Nat) (c : Agent) : State := { placed n w with cur := c }

theorem witness_StepRunsDecodedInstruction :
    okAnd (fetch (stateAt 32 (3#7 ++ 2#7 ++ 1#7 ++ 0x000#10 ++ 1#1).toNat (.group 16))) (fun r => decide (r.1 = .word (3#7 ++ 2#7 ++ 1#7 ++ 0x000#10 ++ 1#1)) &&
      decide (mapOp r.2 (mapOf r.2) 0 = some 0) && decide (mapOf r.2 = 1) && ctxAllows r.2.cur.ctx 0 && decide (lowestLevel 0 3 ≤ levelOf r.2)) = true ∧
    decodeFields 0 1 2 3 = some (.add 1 2 3) ∧
    okAnd (fetch (stateAt 16 0x1922 (.group 16))) (fun r => decide (r.1 = .half 0x1922)) = true ∧ decodeCode (.half 0x1922) = some (.add16 9 3) ∧
    (∀ gid, (stateAt 16 0x1922 (.group 16)).cur = .group gid → atBoundary (stateAt 16 0x1922 (.group 16)) gid = none) ∧
    (let s := placed 16 0x1922
     s.agenda = [] ∧ s.stage = .summit ∧ s.turn = .pipe 0 0 ∧ coreIsDet s 0 = false ∧ pipeOrder s 0 0 = [16]) ∧
    (let s := placed 32 0x393
     s.turn = .axp 16 ∧ (getGroup s 16).axp.map (fun x => (x.running, x.stopped)) = some (true, none) ∧ (teamOf s 16).res.issues = true ∧ (getGroup s 16).run ≠ .done) := by
  refine ⟨by decide +kernel, by decide +kernel, by decide +kernel, by decide +kernel, ?_, by decide +kernel, by decide +kernel⟩
  intro gid h
  cases h
  decide +kernel

def steps (s : State) (p : State → Bool) : Bool := match step s with | .next t => p t | _ => false

/-- The first step after a word is placed runs it: LI, whose word is written from the layout I14. -/
theorem test_step_li : steps (placed 32 (7#14 ++ 5#7 ++ 0x028#10 ++ 1#1).toNat) (fun t => decide (readField { t with cur := .group 16 } 5 0 = 7) &&
    decide ((getGroup t 16).pc = 0x10004)) = true := by decide +kernel

theorem witness_GroupPlacementState : ({ noGrid with args := List.replicate 16 (7 : Word) } : Grid).args.length ≤ 16 := by decide

/-- A step of a canonical state. -/
theorem witness_EveryStepKeepsCanonicalForm : canonical (placed 32 (7#14 ++ 5#7 ++ 0x028#10 ++ 1#1).toNat) ∧
    steps (placed 32 (7#14 ++ 5#7 ++ 0x028#10 ++ 1#1).toNat) (fun _ => true) = true := by
  refine ⟨⟨by decide +kernel, fresh_of rfl, ?_, ?_, ?_, ?_⟩, by decide +kernel⟩
  · intro p hp
    change p ∈ [(16, _)] at hp
    rw [List.mem_singleton] at hp
    subst hp
    refine ⟨⟨rfl, rfl, rfl⟩, rfl, by decide +kernel, rfl, ⟨by decide +kernel, by decide +kernel⟩, ?_⟩
    intro a h
    cases h
    exact ⟨rfl, rfl, rfl⟩
  · intro p hp
    exact absurd hp List.not_mem_nil
  · intro p hp
    change p ∈ [(1, _)] at hp
    rw [List.mem_singleton] at hp
    subst hp
    exact ⟨rfl, rfl, rfl⟩
  · intro p hp
    exact absurd hp List.not_mem_nil

/-! ## Witnesses for single clauses -/

/-- Operands at the ends of the ranges of R135's table and of R134's exact cases. -/
theorem witness_ApproximationsComplete_operands :
    fp32.isSNaN 0x7F800001 = true ∧ fp32.mag 0x80000000 = 0 ∧ fp32.daz true 0x007FFFFF = 0 ∧ fp32.daz false 0x7F800000 = fp32.infCode ∧ fp32.mag 0xFF800000 = fp32.infCode ∧
    fp32.isNeg 0xFF800000 = true ∧ fp32.isNeg 0x80000001 = true ∧ 0 < fp32.mag 0x80000001 ∧ fp32.mag 0xFF800000 ≤ fp32.infCode ∧ fp32.daz false 0x43000000 = 0x43000000 ∧
    0x46800000 < fp32.mag 0xC6800001 ∧ (∀ e ∈ [1, 127, 253, 254], fp32.mag (e * 2 ^ 23) = e * 2 ^ 23) ∧ fp32.mag 0x80400000 = 2 ^ 22 ∧
    0xC2FC0000 = roundF32 (XR.ofInt (-126) 1 (fp32.isNeg 0xC2FC0000)) ∧ 0x42FE0000 = roundF32 (XR.ofInt 127 1 (fp32.isNeg 0x42FE0000)) := by decide +kernel

/-- The same group with all lanes DONE, or in a .det grid. -/
def idleGrp : State := modGroup (engGrp collBlk) 16 (fun g => { g with done := BitVec.allOnes 64 })
def detEng : State := { engGrp collBlk with grids := [(1, { getGrid (engGrp collBlk) 1 with det := true })] }
/-- An instance of the next COLL's grid, tag and occurrence. -/
def collAt (full closed : Bool) : State := { engGrp collBlk with colls := [{ id := 9, grid := 1, tag := 0, k := 1, works := [3], full := full, closed := closed }] }

theorem witness_SequenceTaskAndGridWorkIssues_more :
    (∀ i ∈ [Instr.confw 97 104 2, .scacc 97 104 2], issues i idleGrp) ∧ activeOf idleGrp = 0 ∧
    (∀ i ∈ [Instr.pxins 97 104, .pxrel 97 104, .coll 97 104 0 0 0], canIssue i detEng) ∧ gridIsDet detEng = true ∧ issues (.coll 97 104 0 0 1) detEng ∧
    (∀ b ∈ [(false, false), (true, false), (false, true), (true, true)],
      issues (.coll 97 104 0 0 1) (collAt b.1 b.2) ∧ collBad (collAt b.1 b.2) (newWork (collAt b.1 b.2) .coll 97 16 collBlk) = none ∧
      (let w := newWork (collAt b.1 b.2) .coll 97 16 collBlk
       (findColl (collAt b.1 b.2) w.grid (collTag w) (collIndex (collAt b.1 b.2) w
        (tabGet (getGrid (collAt b.1 b.2) w.grid).collCount (collTag w * 4096 + collRank w) 0))).map (fun c => (c.full, c.closed)) = some b)) ∧
    (let w := newWork (engGrp collBlk) .coll 97 16 collBlk
     findColl (engGrp collBlk) w.grid (collTag w) (collIndex (engGrp collBlk) w (tabGet (getGrid (engGrp collBlk) w.grid).collCount (collTag w * 4096 + collRank w) 0)) = none) ∧
    isOk (migStart (atQueue {}) { newWork (atQueue {}) (.migrate false false) 97 0 (readBlock (atQueue {}) 104 8) with vf := vfOf (atQueue {}) }) = true ∧ levelOf (atQueue {}) ≤ 1 := by
  refine ⟨issues_all (by decide +kernel), by decide +kernel, canIssue_all (by decide +kernel), by decide +kernel, issues_of (by decide +kernel), ?_, by decide +kernel⟩
  intro b hb
  simp only [List.mem_cons, List.not_mem_nil, or_false] at hb
  rcases hb with rfl | rfl | rfl | rfl <;>
    exact ⟨issues_of (by decide +kernel), by decide +kernel⟩

/-- The queue context with an odd HVVEC. -/
def oddVec : State := { ctxQueue [] with vfs := tabPut (ctxQueue []).vfs 0 { getVf (ctxQueue []) 0 with hvvec := 0x50001 } }
/-- Snapshots triggered 20 time units apart; VF 0 may not trigger. -/
def snaps (n : Nat) : State := { atHost {} with time := 1000, snapshots := (List.range n).map (fun k => { seq := k, trigger := 20 * k, instants := [], locl := [], remt := [] }) }

theorem witness_ProcessAndPlatformInstructionsAct_more :
    canIssue (.hvcall 1) oddVec ∧ (getQueue oddVec 0).level < 2 ∧ (getVf oddVec (regVf oddVec)).hvvec.getLsbD 0 = true ∧ (getVf (ctxQueue []) (regVf (ctxQueue []))).hvvec.getLsbD 0 = false ∧
    (∀ c ∈ [false, true], isOk (dectabResult (atHost {}) (readBlock (atHost {}) 104 4) c) = true) ∧
    (trigger (snaps 3)).1 = some 0 ∧ (trigger (snaps 4)).1 = none ∧ canIssue (.starfix 97) (atQueue {}) ∧ mayTrigger (atQueue {}) = false ∧
    haltWaits { atHost {} with stage := .halting, haltBy := 2048, works := [{ id := 1, kind := .cpy, agent := .queue 0, space := placeSpace 0, token := 97 }] } = true := by
  (with_reducible and_intros) <;> first | decide +kernel | exact canIssue_of (by decide +kernel)

/-- The process of eventQueue when it is not loaded. -/
def unloaded : State := { eventQueue with queues := [], saved := [{ vf := 0, q := 0, inst := 0, pas := [0x30000, 0x30040, 0x30080, 0x300C0] }] }

theorem witness_ControlWritesAct_more :
    (tabFind eventQueue.queues (gridOf eventQueue 16).qid).map (fun c => decide (c.inst = (gridOf eventQueue 16).inst)) = some true ∧
    groupOfHandle unloaded 0x10000 = some 16 ∧ ((getGroup unloaded 16).trap.map (·.hv)) = some true ∧ tabFind unloaded.queues (gridOf unloaded 16).qid = none ∧
    (unloaded.saved.find? (fun c => decide (c.vf = 0) && decide (c.inst = (gridOf unloaded 16).inst))).isSome = true := by decide +kernel

theorem witness_LimitsAct_more :
    (∀ t ∈ [20000000, 19999999], (getGroup ({ modGroup grp 16 (fun g => { g with mwait := some (5, 0) }) with time := t } : State) 16).mwait = some (5, 0)) ∧
    (let s := { capped with teams := [(1, { grid := 1, index := 0, capCount := 19999999 })] }
     (tabFind s.teams 1).map (fun t => decide (t.capCount < ((getGrid s t.grid).tcap : Int))) = some true) ∧
    (let s := { capped with time := 2000000017 }
     ((getGrid s 1).leases.find? (fun l => l.n = 2)).map (fun l => l.pending.map (fun d => decide (s.time < d))) = some (some true) ∧
     (s.colls.find? (fun c => c.id = 4)).map (fun c => decide (s.time < c.opened + 2000000000)) = some true) ∧
    (tabFind ({ capped with time := 1999999999 } : State).grids 2).map (fun g => decide (1999999999 < g.issuedAt + 2000000000)) = some true ∧
    (tabFind (lateGrp 1999999).queues 0).map (fun q => decide (q.wdog < wdogLimit (lateGrp 1999999))) = some true ∧
    (getTask (setRing atA 0 0 { tasks := [{ task1 with stalled := 1999999 }] }) 0 0).map (fun t => decide (t.stalled < 2000000)) = some true := by decide +kernel

/-- A slot that its queue processor serves has a team that no core has room for, beside a running team of another slot. -/
def shortSlot (r : Residence) : State :=
  let s := schedState r .eligible
  { s with
    grids := [(1, { noGrid with space := placeSpace 0, placed := 1, mods := [0] }), (2, { noGrid with space := placeSpace 0, slot := 1, spad := 524289, mods := [0] })],
    queues := [(5, { base := 0, slot := 1 })], qpCtx := [(0, 5)] }

theorem witness_SchedulingEventsAct_more :
    mayPreempt (shortSlot .running) 1 = true ∧ mayPreempt (shortSlot .flushing) 1 = false ∧ mayPreempt (schedState .running .eligible) 1 = false ∧
    (tabFind (shortSlot .flushing).teams 1).map (·.res) = some .flushing ∧ seatsFree (schedState .held .eligible) 0 0 1 = true ∧ (getTeam (schedState .held .eligible) 1).core = 0 ∧
    (∀ r ∈ [Residence.saving 40000 false, .saving 39999 false], isSaving { grid := 1, index := 0, res := r } = true) ∧
    reserved (schedState .running .eligible) 0 0 = false ∧
    (∀ w ∈ [1, 2], let s : State := { cheRings w with time := 20000, cheSince := [(0, 0)] }
      tabGet s.cheSince 0 0 + cheQuant s 0 ≤ s.time ∧ ({ s with time := 19999 } : State).time < tabGet s.cheSince 0 0 + cheQuant s (tabGet s.cheTurn 0 0)) ∧
    cheWeight (cheRings 1) 0 ≤ tabGet (cheRings 1).cheQuanta 0 0 + 1 ∧ tabGet (cheRings 2).cheQuanta 0 0 + 1 < cheWeight (cheRings 2) 0 ∧
    cheNext (setRing (cheRings 1) 0 0 {}) 0 = some 1 ∧
    (getTask (cheRings 1) 0 0).map (fun t => (t.started, t.aDone, t.xDone, t.stores.length)) = some (true, true, true, 0) := by decide +kernel

/-- An open endpoint of VF 0, a message that waits in its stream 7, and the management endpoint (log 98). -/
def uetState : State :=
  { camp1 with
    vfs := tabPut camp1.vfs 0 { getVf camp1 0 with endpoint := true },
    inbox := [{ endpoint := 0, stream := some 7, va := 0x20000, bytes := [1], since := 0 }] }

theorem endpointOf_base (e : Nat) (h : e < 2 ^ 48) : endpointOf (Config.macBase + BitVec.ofNat 48 e) = e := by
  unfold endpointOf
  rw [BitVec.add_comm, BitVec.add_sub_cancel]
  rw [BitVec.toNat_ofNat, Nat.mod_eq_of_lt h]

theorem witness_PlatformEventsAct_messages :
    endpointOf (Config.macBase + 0#48) = 0 ∧ endpointOf (Config.macBase + BitVec.ofNat 48 Config.vfs) = Config.vfs ∧
    (∀ e ∈ [0, Config.vfs], frameTaken uetState e 256 = true ∧ endpointUp uetState e = true) ∧ frameTaken uetState 1 256 = false ∧ frameTaken uetState 0 9217 = false ∧
    endpointUp uetState 1 = false ∧ tabRising uetState.mgmtMem = true ∧ (uetState.inbox.any (fun g => decide (g.endpoint = 0) && decide (g.stream = some 7))) = true ∧
    (∀ st ∈ [none, some 8], uetState.inbox.all (fun g => !(decide (g.endpoint = 0) && decide (g.stream = st))) = true) ∧
    (∀ k ∈ [Acc.read, .write], okAnd (frameLocs uetState 0 0x20000 256 k) (fun r => r.1.all (fun l => !claimed r.2 l)) = true) ∧
    (∀ h ∈ [[], [(3, 1)]], ({ uetState with heldVls := h } : State).heldVls.contains (3, 1) = !h.isEmpty) ∧ waitersAt (serveLine uetState 0x400) 0x400 = [] :=
  ⟨endpointOf_base 0 (by decide), endpointOf_base _ (by decide), by decide +kernel⟩

theorem witness_PlatformEventsAct_more :
    (let s := { State.reset with stage := .camp0 }
     s.healthCodes = [] ∧ s.stageFailed = none ∧ (0#4).toNat ≤ 1 ∧ (1#4).toNat ≤ 1 ∧ 1 < (2#4).toNat) ∧ ({ camp1 with stageFailed := some .camp1 } : State).stageFailed ≠ none ∧
    camp1.stageFailed = none ∧ pastCamp0 State.reset = false ∧
    (∀ x ∈ [none, some (1, 20)], let s := { snaps 2 with lastSnap := x }
      pastCamp0 s = true ∧ (s.lastSnap.all (fun x => decide (x.2 + 8 ≤ s.time))) = true ∧ s.snapshots.length < 4 ∧ 4 ≤ ({ snaps 4 with lastSnap := x } : State).snapshots.length) ∧
    (let s := { snaps 2 with time := 27, lastSnap := some (1, 20) }
     s.lastSnap.any (fun x => decide (s.time < x.2 + 8)) = true) ∧
    ({ camp1 with time := 99 } : State).snapshots.any (fun x => x.instants.any (fun i => decide (99 ≤ i))) = true ∧
    (let s := { camp1 with vfs := tabPut camp1.vfs 0 { getVf camp1 0 with vfpcap := 600, throttled := 1, lowSince := some 0 }, time := 20000000 }
     0 < Config.vfs ∧ (getVf s 0).vfpcap ≠ 0 ∧ (getVf s 0).vfpcap.toNat ≤ (600#16).toNat ∧ (539#16).toNat * 10 < (getVf s 0).vfpcap.toNat * 9 ∧ 0 < (getVf s 0).throttled ∧
     (getVf s 0).throttled ≤ 2 ∧ (getVf s 0).lowSince.any (fun t => decide (t + 20000000 ≤ s.time)) = true) ∧
    arrayInFlight camp1 0 = false ∧ (getVf camp1 0).isOpen = true ∧ (arrTile camp1 (tileNo 0 0)).programmed = true ∧ (arrTile camp1 (tileNo 0 0)).state = .ready ∧
    tabFind camp1.lpddr 0x400 = none ∧ (tabFind ({ camp1 with l2 := [(0x400, { way := 0, pol := 0 })] } : State).l2 0x400).isSome = true ∧ (tabFind camp1.l2 0x400).isSome = false := by decide +kernel

/-- A load of lane 0 into V1 whose line is, or is not, claimed; the same with its bytes taken. -/
def loading (busy : Bool) : State :=
  { working with
    pending := [{ id := 7, seq := 0, agent := .group 16, core := 0, kind := .load false, dst := 1, width := 4, parts := [{ lane := some 0, src := (List.range 4).map (fun i => .at (.glob (0x20000 + i))) }] }],
    claims := if busy then [(0x400, 2)] else [] }
def loaded : State :=
  { working with
    pending := [{ id := 7, seq := 0, agent := .group 16, core := 0, kind := .load false, dst := 1, width := 4, parts := [{ lane := some 0, src := [.byte 1, .byte 2, .byte 3, .byte 4], done := true }] }] }
/-- A store of one byte, in its queue and on its way; a load still waits for the byte, or its line is claimed. -/
def store1 : StoreEnt := { seq := 1, gid := 16, parts := [{ lanes := 1, va := 0x20000, writes := [(.glob 0x20000, 5)] }] }
def storing (busy : Bool) : State :=
  let s := modGroup { loading busy with pending := if busy then (loading true).pending else [] } 16 (fun g => { g with sq := [store1] })
  setCore s 0 { getCore s 0 with out := [store1] }

theorem witness_WorkGoesOnByItself_loads :
    (∀ b ∈ [true, false], (loading b).pending.head?.map (fun p => p.parts.map (fun x => (x.done, mayReturn (loading b) p x))) = some [(false, !b)]) ∧
    (loaded.pending.find? (fun p => p.id = 7)).map (fun p => p.parts.map (fun x => (x.done, x.off, loadWords false (srcBytes x.src)))) = some [(true, 0, [0x04030201])] ∧
    (tabFind loaded.groups 16).isSome = true := by decide +kernel

theorem witness_WorkGoesOnByItself_stores :
    sqOf working 16 = [] ∧ (storing false).badLines = [] ∧ (storing false).badLow = [] ∧ (storing false).struck = [] ∧ (∀ b ∈ [true, false], sqOf (storing b) 16 = [store1] ∧ mayLeave (storing b) (coreOfGroup (storing b) 16) 16 store1 = !b) ∧
    (∀ b ∈ [true, false], (getCore (storing b) 0).out[0]? = some store1 ∧ mayPerform (storing b) 0 0 store1 = !b ∧ remoteFails (storing b) store1 = false) ∧
    splitLines [(.glob 0x20000, 5)] [] = [(.glob 0x20000, (5 : Byte)) :: []] := by decide +kernel

/-- The state in which an instruction of an engine has issued. -/
def issuedBy (i : Instr) (s : State) : State := match exec i s with | .next t => t | _ => s

/-- A CPY of one line has issued, as work 1 (the identity is that of its issue). -/
def copying : State := issuedBy (.cpy 97 104) (engGrp cpyBlk)

theorem witness_WorkGoesOnByItself_copy :
    atWork copying = true ∧ copying.works.map (fun w => (w.kind == .cpy, w.ended, decide (0 < lineCount (w.pair 2) (w.word 4)), decide (0 ∉ w.pieces),
      let ok := cpyPiece w 0
      okAnd (workLocs copying w (w.pair 0 + ok.1) ok.2 .read notPriv) (fun r => okAnd (workLocs r.2.2 r.2.1 (w.pair 2 + ok.1) ok.2 .write notPriv) (fun d =>
        decide (transferBad d.2.2 r.1 d.1 = none) && okAnd (claimRest d.2.2 d.2.1 d.1) (fun s3 => !sourceBusy s3 d.2.1 r.1 && d.1.all (fun l => firstClaim s3 w.id l.key)))))) =
      [(true, false, true, true, true)] := by decide +kernel

/-- A work of this kind and block at the head of its cluster's queue, whose grid has one SAT entry there; a prefix table of 16 buckets lies at 0x20000. -/
def sequencing (k : WorkKind) (stage : Nat) (blk : List Word) : State :=
  let s := engGrp blk
  let s := setCluster s 0 { getCluster s 0 with sqe := [5] }
  { s with
    mem := memWriteList s.mem 0x20000 [4], grids := [(1, { getGrid s 1 with sat := [(0, 0)], satlen := 1 })],
    works := [{ id := 5, kind := k, agent := .group 16, vf := 0, grid := 1, space := placeSpace 0, token := 97, blk := blk, stage := stage }] }
def bucketBlk (low : Word) : List Word := [0x20000 + low, 0, 1, 0, 0, 0, 0x30000, 0]
/-- An accumulator operation is the oldest of core 0. -/
def zeroing : State := setCore (engGrp []) 0 { getCore (engGrp []) 0 with matrix := [{ gid := 16, kind := .accz 0 true }] }

theorem witness_WorkGoesOnByItself_queues :
    (getWork (sequencing .pxfind 1 (bucketBlk 0)) 5).map (fun w => (isPx w.kind, w.stage, w.ended, isOk (pxOp (sequencing .pxfind 1 (bucketBlk 0)) w))) = some (true, 1, false, true) ∧
    (getWork (sequencing .pxfind 1 (bucketBlk 1)) 5).map pxBad = some (some (1, 0)) ∧
    (getWork (sequencing .scclr 0 [0, 1, 0, 0]) 5).map (fun w => (decide (w.kind = .scclr), clusterOfCore w.core, w.word 1, satOf (sequencing .scclr 0 [0, 1, 0, 0]) w,
      isOk (sqeLocal (sequencing .scclr 0 [0, 1, 0, 0]) w))) = some (true, 0, 1, (0, 1), true) ∧
    (getCluster (sequencing .scclr 0 [0, 1, 0, 0]) 0).sqe = [5] ∧ (getCluster working 0).sqe = [] ∧ (getCore working 0).matrix = [] ∧
    (getCore zeroing 0).matrix = [{ gid := 16, kind := .accz 0 true }] ∧ (tabFind zeroing.teams (tagOf 16)).isSome = true ∧ atWork zeroing = true ∧
    partialsOf working 0x400 = [] ∧ claimed (loading true) (.glob (0x400 * 128)) = true ∧ isLocal working (2 ^ 57) = false := by decide +kernel

/-- The placed group in a .det grid. -/
def placedDet : State :=
  let s := placed 16 0x1922
  { s with steps := 1, grids := s.grids.map (fun p => (p.1, { p.2 with det := true })) }

/-- The placed ADD, where the entry of its opcode in the core's decode table holds an error, or not. -/
def struckTable (b : Bool) : State :=
  { stateAt 32 (3#7 ++ 2#7 ++ 1#7 ++ 0x000#10 ++ 1#1).toNat (.group 16) with struck := if b then [.decode 1 0] else [] }

theorem witness_StepRunsDecodedInstruction_more :
    coreIsDet placedDet 0 = true ∧ (getCore (renewHolder (runNext execWord execHalf) placedDet 0) 0).holder = some 16 ∧
    (getGroup (renewHolder (runNext execWord execHalf) placedDet 0) 16).pipe = 0 ∧ mayIssue (getGroup (renewHolder (runNext execWord execHalf) placedDet 0) 16) = true ∧
    (cheRing (placed 32 0x591) 0).map (fun x => (x.1, x.2.compact, x.2.aDone)) = some (0, false, false) ∧
    takeNotice (atQueue {}) 0 = none ∧ queueWaits (atQueue {}) 0 = false ∧
    ({ placed 16 0x1922 with agenda := [.issue (.qp 0)] } : State).agenda = [.issue (.qp 0)] ∧
    (∀ b ∈ [true, false], okAnd (fetch (struckTable b)) (fun r => decide (tableStruck r.2 (mapOf r.2) 0 = b) && decide (r.2.cur = .group 16)) = true) := by decide +kernel

end Sys2Proof.Tests
end

section
/-! Proofs of the statements on scope: writes at homes (10_die_memory R308-R316), and what reset leaves. First what each operation of the home changes and what it leaves, then the statements. -/

namespace Sys2Proof.Machine

/-! ## Partials in the L1s -/

/-- No core holds a partial for any line. -/
theorem partialsOf_eq_nil {s : State} (h : ∀ c ∈ s.cores, c.2.u = []) (line : Nat) : partialsOf s line = [] := by
  refine List.flatMap_eq_nil_iff.2 fun c hc => ?_
  rw [h c hc]
  rfl

theorem recallLine_of_no_partials {s : State} {line : Nat} (h : partialsOf s line = []) : recallLine s line = s := by
  simp only [recallLine, h, if_true]

/-- Dropping S copies keeps every partial. -/
theorem partialsOf_dropCopies (s : State) (line line' : Nat) : partialsOf (dropCopies s line) line' = partialsOf s line' := by
  simp only [partialsOf, dropCopies, List.flatMap_map]

/-! ## What each operation of the home changes -/

theorem countReq_frame (s : State) (pa : Nat) : ∃ locl remt, countReq s pa = { s with locl := locl, remt := remt } := by
  unfold countReq
  dsimp only
  split <;> exact ⟨_, _, rfl⟩

theorem makeDirty_frame (s : State) (line : Nat) : ∃ lpddr, makeDirty s line = { s with lpddr := lpddr } := by
  unfold makeDirty
  split <;> exact ⟨_, rfl⟩

theorem writeThrough_frame (s : State) (pa : Nat) (bs : List Byte) : ∃ lpddr, writeThrough s pa bs = { s with lpddr := lpddr } := by
  unfold writeThrough
  split <;> exact ⟨_, rfl⟩

/-- Bytes that change at their home go to memory, in the L2 or through it, and reach no context (R309, R311). -/
theorem homeSet_frame (s : State) (by' : Option Nat) (pa : Nat) (bs : List Byte) :
    ∃ lpddr badLines badLow struck cores, homeSet s by' pa bs =
      { s with mem := memWriteList s.mem pa bs, lpddr := lpddr, badLines := badLines, badLow := badLow, struck := struck, cores := cores } := by
  unfold homeSet
  dsimp only
  generalize (isLocal s pa && (tabFind s.l2 (lineOf pa)).isSome) = held
  cases held with
  | true =>
    obtain ⟨l, hl⟩ := makeDirty_frame s (lineOf pa)
    simp only [if_true, hl]
    split_ifs <;> exact ⟨_, _, _, _, _, rfl⟩
  | false =>
    obtain ⟨l, hl⟩ := writeThrough_frame { s with mem := memWriteList s.mem pa bs } pa bs
    simp only [Bool.false_eq_true, if_false, hl]
    split_ifs <;> exact ⟨_, _, _, _, _, rfl⟩

/-- A state that differs in what the caches hold, and in what stands in LPDDR-6 behind them, but not in memory as its homes see it. -/
def SameButCaches (s t : State) : Prop :=
  ∃ cores lpddr evictFirst l2 struck, t = { s with cores := cores, lpddr := lpddr, evictFirst := evictFirst, l2 := l2, struck := struck }

theorem SameButCaches.refl (s : State) : SameButCaches s s := ⟨_, _, _, _, _, rfl⟩

theorem SameButCaches.mem_eq {s t : State} (h : SameButCaches s t) : t.mem = s.mem := by
  obtain ⟨_, _, _, _, _, rfl⟩ := h
  rfl

/-- A line whose partials are nowhere leaves the L2 with no byte of memory changed (R309). -/
theorem l2Leave_sameButCaches {s : State} {line : Nat} (h : partialsOf s line = []) : SameButCaches s (l2Leave s line) := by
  unfold l2Leave
  rw [recallLine_of_no_partials ((partialsOf_dropCopies s line line).trans h)]
  exact ⟨_, _, _, _, _, rfl⟩

/-- While no core holds a partial, bringing a line in changes the caches alone (R308). -/
theorem l2Touch_sameButCaches {s : State} (h : ∀ line, partialsOf s line = []) (line : Nat) : SameButCaches s (l2Touch s line) := by
  unfold l2Touch
  dsimp only
  split
  · exact .refl s
  · split
    · exact .refl s
    · split
      · exact ⟨_, _, _, _, _, rfl⟩
      · split
        · next v _ =>
          obtain ⟨_, _, _, _, _, ht⟩ := l2Leave_sameButCaches (h v.1)
          rw [ht]
          exact ⟨_, _, _, _, _, rfl⟩
        · exact .refl s

theorem serveLine_sameButCaches {s : State} (h : ∀ line, partialsOf s line = []) (line : Nat) : SameButCaches s (serveLine s line) := by
  unfold serveLine
  rw [recallLine_of_no_partials (h line)]
  exact l2Touch_sameButCaches h line

/-! ## Who waits at a line -/

theorem waitersAt_countReq (s : State) (pa line : Nat) : waitersAt (countReq s pa) line = waitersAt s line := by
  obtain ⟨_, _, h⟩ := countReq_frame s pa
  rw [h]
  rfl

@[simp] theorem waitersAt_keepVersion (s : State) (pa line : Nat) : waitersAt (keepVersion s pa) line = waitersAt s line := rfl

@[simp] theorem keepVersion_mem (s : State) (pa : Nat) : (keepVersion s pa).mem = s.mem := rfl

theorem waitersAt_homeSet (s : State) (by' : Option Nat) (pa : Nat) (bs : List Byte) (line : Nat) :
    waitersAt (homeSet s by' pa bs) line = waitersAt s line := by
  obtain ⟨_, _, _, _, _, h⟩ := homeSet_frame s by' pa bs
  rw [h]
  rfl

theorem SameButCaches.waitersAt_eq {s t : State} (h : SameButCaches s t) (line : Nat) : waitersAt t line = waitersAt s line := by
  obtain ⟨_, _, _, _, _, rfl⟩ := h
  rfl

/-- An entry of a changed table is one of the old table, or the change of one. -/
theorem mem_tabMod {α : Type} {t : Tab α} {k : Nat} {f : α → α} {p : Nat × α} (h : p ∈ tabMod t k f) :
    p ∈ t ∨ ∃ q ∈ t, p = (q.1, f q.2) := by
  induction t with
  | nil => exact .inl h
  | cons q r ih =>
    simp only [tabMod] at h
    split at h <;> rcases List.mem_cons.1 h with rfl | h
    · exact .inr ⟨q, List.mem_cons_self .., rfl⟩
    · exact .inl (List.mem_cons_of_mem _ h)
    · exact .inl (List.mem_cons_self ..)
    · exact (ih h).imp (List.mem_cons_of_mem _) fun ⟨x, hx, e⟩ => ⟨x, List.mem_cons_of_mem _ hx, e⟩

@[simp] theorem goesOn_state (q : QCtx) (len : Nat) : (q.goesOn len).state = .running := rfl

/-- A context that goes on waits nowhere, so its going on registers no new waiter. -/
theorem waitersAt_goesOn_subset (s : State) (k len line : Nat) :
    waitersAt { s with queues := tabMod s.queues k (fun q => q.goesOn len) } line ⊆ waitersAt s line := by
  intro w hw
  obtain ⟨p, hp, hpw⟩ := List.mem_filterMap.1 hw
  rcases mem_tabMod hp with hp | ⟨q, -, rfl⟩
  · exact List.mem_filterMap.2 ⟨p, hp, hpw⟩
  · simp only [goesOn_state] at hpw
    cases hpw

/-! ## Memory after a write at a home -/

/-- QWAITs that do not subtract complete with no byte of memory changed (R447). -/
theorem wakeWaiters_mem (n : Nat) (s : State) (line : Nat) (h : ∀ p ∈ waitersAt s line, p.2.dec = false) :
    (wakeWaiters n s line).mem = s.mem := by
  induction n generalizing s with
  | zero => rfl
  | succ n ih =>
    simp only [wakeWaiters]
    split
    · rfl
    · next p hp =>
      have hdec : p.2.dec = false := h p (List.mem_of_mem_filter (List.mem_of_getElem? hp))
      rw [hdec, if_neg Bool.false_ne_true, ih _ fun q hq => h q (waitersAt_goesOn_subset s _ _ line hq)]

theorem homeSet_mem (s : State) (by' : Option Nat) (pa : Nat) (bs : List Byte) :
    (homeSet s by' pa bs).mem = memWriteList s.mem pa bs := by
  obtain ⟨_, _, _, _, _, h⟩ := homeSet_frame s by' pa bs
  rw [h]

theorem homePut_mem (s : State) (by' : Option Nat) (pa : Nat) (bs : List Byte)
    (h : ∀ p ∈ waitersAt s (lineOf pa), p.2.dec = false) : (homePut s by' pa bs).mem = memWriteList s.mem pa bs := by
  unfold homePut
  rw [wakeWaiters_mem _ _ _ (by rwa [waitersAt_homeSet]), homeSet_mem]

/-- R309, R447: memory after a write at a home, where no QWAIT of the line subtracts. -/
theorem homeWriteRaw_mem (s : State) (by' : Option Nat) (pa : Nat) (bs : List Byte)
    (h : ∀ p ∈ waitersAt s (lineOf pa), p.2.dec = false) : (homeWriteRaw s by' pa bs).mem = memWriteList s.mem pa bs := by
  have hmem : (countReq s pa).mem = s.mem := by
    obtain ⟨_, _, hs⟩ := countReq_frame s pa
    rw [hs]
  have hwait : ∀ p ∈ waitersAt (countReq s pa) (lineOf pa), p.2.dec = false := by rwa [waitersAt_countReq]
  unfold homeWriteRaw
  dsimp only
  split <;> rw [homePut_mem _ _ _ _ (by simpa using hwait)] <;> simp [hmem]

/-- The same by way of the L2, while no core holds a partial (R308, R312). -/
theorem homeWrite_mem (s : State) (by' : Option Nat) (pa : Nat) (bs : List Byte)
    (h : ∀ p ∈ waitersAt s (lineOf pa), p.2.dec = false) (hu : ∀ c ∈ s.cores, c.2.u = []) :
    (homeWrite s by' pa bs).mem = memWriteList s.mem pa bs := by
  have hs := serveLine_sameButCaches (partialsOf_eq_nil hu) (lineOf pa)
  unfold homeWrite
  rw [homeWriteRaw_mem _ _ _ _ (by rwa [hs.waitersAt_eq]), hs.mem_eq]

/-! ## Platform registers that come in rows (R469) -/

theorem srWord_platform (s : State) {n : Nat} (h : 0x200 ≤ n) : srWord s n = srPlatWord s n := by
  rw [srWord, if_neg (by omega), if_neg (by omega)]

theorem srWord_l2pwm (s : State) {k : Nat} (h : k < 8) : srWord s (0x218 + k) = (tabGet s.l2pwm k 0xFFFF).setWidth 32 := by
  rw [srWord_platform s (by omega), srPlatWord]
  simp (disch := omega) only [if_neg, if_pos, Nat.add_sub_cancel_left]

theorem srWord_chewt (s : State) {k : Nat} (h : k < 32) : srWord s (0x220 + k) = tabGet s.chewt k 0x0A01 := by
  rw [srWord_platform s (by omega), srPlatWord]
  simp (disch := omega) only [if_neg, if_pos, Nat.add_sub_cancel_left]

theorem srWord_charb (s : State) {k : Nat} (h : k < 192) : srWord s (0x300 + k) = tabGet s.charb k 0x0301 := by
  rw [srWord_platform s (by omega), srPlatWord]
  simp (disch := omega) only [if_neg, if_pos, Nat.add_sub_cancel_left]

end Sys2Proof.Machine

namespace Sys2Proof.Claim

open Machine

/-- Settles O34: where no QWAIT subtracts, memory after the write is memWriteList of memory before it. -/
theorem homeWriteChangesItsBytes : Obligations.HomeWriteChangesItsBytes := by
  intro s by' pa bs a hwf hdec
  rw [homeWriteRaw_mem s by' pa bs hdec]
  exact ⟨memRead_memWriteList s.mem pa a bs hwf, memWriteList_wf s.mem pa bs hwf, homeWrite_mem s by' pa bs hdec⟩

/-- Settles O57: registers that come in rows read the default of their table, which reset leaves empty; each other register is read once. -/
theorem resetState : Obligations.ResetState := by
  refine ⟨rfl, rfl, rfl, rfl, rfl, rfl, rfl, rfl, fun k hk => ?pwm, fun k hk => ?wt, fun k hk => ?arb, ?single⟩
  case pwm => rw [srWord_l2pwm _ hk]; rfl
  case wt => rw [srWord_chewt _ hk]; rfl
  case arb => rw [srWord_charb _ hk]; rfl
  case single => decide

/-- Settles O59: reset lists nothing in any table, so each condition on entries holds of none. -/
theorem resetIsCanonical : Obligations.ResetIsCanonical :=
  ⟨reset_mem_wf, List.forall_mem_nil _, List.forall_mem_nil _, List.forall_mem_nil _, List.forall_mem_nil _, List.forall_mem_nil _⟩

end Sys2Proof.Claim
end

section
/-! Proofs of the statements on encoding (01_encoding R16-R25). Fields come back out of the words and halfwords that they were packed into; codes and bytes follow. -/
namespace Sys2Proof

/-! ## Words -/

/-- R33: the opcode of SEL names its predicate, and each of the eight opcodes is mapped. -/
theorem decodeFields_sel (p : BitVec 3) (d a b : BitVec 7) : decodeFields (14#7 ++ p).toNat d a b = some (.sel p d a b) := by
  have hp : ∀ p : BitVec 3, p = 0 ∨ p = 1 ∨ p = 2 ∨ p = 3 ∨ p = 4 ∨ p = 5 ∨ p = 6 ∨ p = 7 := by decide
  rcases hp p with rfl | rfl | rfl | rfl | rfl | rfl | rfl | rfl <;> rfl

/-- TFENCE.inv is no other TFENCE: bits [1:0] of its modifier are 1, those of the others 0 and 2. -/
theorem tfenceInv_modifier (g : BitVec 1) (s : BitVec 2) (e : BitVec 1) :
    let b : BitVec 7 := 0#1 ++ g ++ s ++ e ++ 1#2
    b.extractLsb' 0 3 ≠ 0#3 ∧ b ≠ 2#7 ∧ b.extractLsb' 6 1 = 0 ∧ b.extractLsb' 0 2 = 1 ∧
      b.extractLsb' 2 1 = e ∧ b.extractLsb' 3 2 = s ∧ b.extractLsb' 5 1 = g := by
  revert g s e
  decide

/-- The fields of every encoded instruction decode to it (R23-R25). -/
theorem decodeFields_encodeFields (i : Instr) (f : Fields) (h : encodeFields i = some f) :
    decodeFields f.op.toNat f.d f.a f.b = some i := by
  cases i
  case sel p d a b =>
    cases h
    exact decodeFields_sel p d a b
  case tfenceInv a e s g =>
    cases h
    obtain ⟨hpt, hwalk, h6, h0, h2, h3, h5⟩ := tfenceInv_modifier g s e
    simp [-Nat.reduceAdd, decodeFields, decodeGroup46, hpt, hwalk, h6, h0, h2, h3, h5]
  -- Immediates and offsets that lie across fields (R23, formats I14 and J21).
  case li | lui | jmpuZ | jmpuNz | ifp | elseOp | loop | endl | srd | swr | trap | hvcall | jmp | call | qjmp =>
    cases h
    simp [-Nat.reduceAdd, decodeFields, decodeGroup2, decodeGroup17, decodeGroup18, decodeGroup48, decodeGroup49,
      BitVec.extractLsb'_append_eq_of_le, BitVec.extractLsb'_append_eq_of_add_le, BitVec.extractLsb'_append_extractLsb'_eq_extractLsb']
  -- Modifiers in one 7-bit field (R23, format X).
  case fsqrt | frint | dsqrt | cvt | cvtbPack | cvtbUnpack | voteAny | voteAll | voteBal | redx | scan | matchOp | brkp | contp | ldStrong | stStrong |
      feset | spcast | pref | fence | atom | red | ifenceDie | astrm | qpushS | qpushM | shape | mma | mmas | accz | accrd | accwr | accst | layerf | layert |
      layerd | almrun | posxl | dmaprd | astm | agat | aqp | astq | xop | tfencePt | migrate | ptq | rnginv | qwait | qsig | ctxsv | coll =>
    cases h
    simp [-Nat.reduceAdd, decodeFields, decodeGroup8, decodeGroup10, decodeGroup12, decodeGroup16, decodeGroup17, decodeGroup21, decodeGroup22,
      decodeGroup28, decodeGroup32, decodeGroup33, decodeGroup36, decodeGroup37, decodeGroup40, decodeGroup44, decodeGroup45, decodeGroup46,
      decodeGroup48, decodeGroup53, BitVec.extractLsb'_append_eq_of_le, BitVec.extractLsb'_append_eq_of_add_le]
  -- Whole fields and constants; a halfword or an event has no fields.
  all_goals cases h
  all_goals
    dsimp only
    rfl

theorem decodeWord_packWord (op : BitVec 10) (d a b : BitVec 7) : decodeWord (packWord op d a b) = decodeFields op.toNat d a b := by
  simp [-Nat.reduceAdd, decodeWord, packWord, wordOp, wordD, wordA, wordB, BitVec.getLsbD_append,
    BitVec.extractLsb'_append_eq_of_le, BitVec.extractLsb'_append_eq_of_add_le]

/-! ## Halfwords -/

/-- The layout of a halfword (R19). -/
theorem decodeHalf_fields (op : BitVec 4) (d : BitVec 6) (a : BitVec 5) : decodeHalf (a ++ d ++ op ++ 0#1) = decodeOp4 op.toNat d a := by
  have hbit : (a ++ d ++ op ++ 0#1).getLsbD 0 = false := by rw [BitVec.getLsbD_append]; rfl
  rw [decodeHalf, hbit]
  simp [-Nat.reduceAdd, BitVec.extractLsb'_append_eq_of_le, BitVec.extractLsb'_append_eq_of_add_le]

theorem decodeHalf_encodeHalf (i : Instr) (h : BitVec 16) (hi : encodeHalf i = some h) : decodeHalf h = some i := by
  cases i
  all_goals cases hi
  all_goals exact decodeHalf_fields ..

/-! ## Codes and bytes -/

theorem encode_eq_half {i : Instr} {h : BitVec 16} (hi : encode i = some (.half h)) : encodeHalf i = some h := by
  unfold encode at hi
  split at hi
  · next hh => rw [hh]; cases hi; rfl
  · obtain ⟨f, -, hf⟩ := Option.map_eq_some_iff.1 hi
    cases hf

theorem encode_eq_word {i : Instr} {w : BitVec 32} (hi : encode i = some (.word w)) :
    ∃ f, encodeFields i = some f ∧ w = packWord f.op f.d f.a f.b := by
  unfold encode at hi
  split at hi
  · cases hi
  · obtain ⟨f, hf, hw⟩ := Option.map_eq_some_iff.1 hi
    cases hw
    exact ⟨f, hf, rfl⟩

theorem decodeWord_encode {i : Instr} {w : BitVec 32} (hi : encode i = some (.word w)) : decodeWord w = some i := by
  obtain ⟨f, hf, rfl⟩ := encode_eq_word hi
  rw [decodeWord_packWord, decodeFields_encodeFields i f hf]

theorem decodeCode_encode {i : Instr} {c : Code} (hi : encode i = some c) : decodeCode c = some i := by
  cases c with
  | half h => exact decodeHalf_encodeHalf i h (encode_eq_half hi)
  | word w => exact decodeWord_encode hi

/-- An instruction without a code is an event. -/
theorem isEvent_of_encode_eq_none {i : Instr} (hi : encode i = none) : i.isEvent = true := by
  unfold encode at hi
  unfold Instr.isEvent Instr.opn
  split at hi
  · cases hi
  · rw [Option.map_eq_none_iff.1 hi]; rfl

/-- R16: bit 0 of a halfword that decodes is 0, so its two bytes decode as a halfword. -/
theorem decodeBytes_half {i : Instr} {h : BitVec 16} (hi : decodeHalf h = some i) (rest : List Byte) :
    decodeBytes (h.extractLsb' 0 8 :: h.extractLsb' 8 8 :: rest) = some (i, rest) := by
  have hbit : h[0] = false := by
    by_contra hb
    rw [decodeHalf, if_pos (by simpa using hb)] at hi
    cases hi
  have hbytes : (h.extractLsb' 8 8 ++ h.extractLsb' 0 8 : BitVec 16) = h := BitVec.extractLsb'_append_extractLsb'
  simp [decodeBytes, hbit, hbytes, hi]

/-- R16: bit 0 of a word that decodes is 1, so its four bytes decode as a word. -/
theorem decodeBytes_word {i : Instr} {w : BitVec 32} (hi : decodeWord w = some i) (rest : List Byte) :
    decodeBytes (w.extractLsb' 0 8 :: w.extractLsb' 8 8 :: w.extractLsb' 16 8 :: w.extractLsb' 24 8 :: rest) = some (i, rest) := by
  have hbit : w.getLsbD 0 = true := by
    by_contra hb
    rw [decodeWord, if_neg hb] at hi
    cases hi
  have hbytes : (w.extractLsb' 24 8 ++ w.extractLsb' 16 8 ++ w.extractLsb' 8 8 ++ w.extractLsb' 0 8 : BitVec 32) = w := by
    simp [-Nat.reduceAdd, BitVec.extractLsb'_append_extractLsb'_eq_extractLsb']
  simp [decodeBytes, hbit, hbytes, hi]

end Sys2Proof

namespace Sys2Proof.Claim

/-- Settles O55: fields and modifiers come back out of their places, and bit 0 tells how many bytes to read. -/
theorem decodeEncodeRoundTrip : Obligations.DecodeEncodeRoundTrip := by
  intro i
  refine ⟨fun hev hno => ?event, fun c => decodeCode_encode, fun h rest hi => ?half, fun w rest hi => ?word⟩
  case event => simp [isEvent_of_encode_eq_none hno] at hev
  case half => exact decodeBytes_half (decodeHalf_encodeHalf i h (encode_eq_half hi)) rest
  case word => exact decodeBytes_word (decodeWord_encode hi) rest

/-- Settles O54: each written-out word or halfword is the code of its instruction, and codes decode back. -/
theorem decodeWords : Obligations.DecodeWords := by
  refine ⟨fun p hp => decodeCode_encode ?_, decodeCode_encode (by decide), decodeCode_encode (by decide), ?_, ?_, by decide, by decide⟩
  · revert p
    decide
  · exact decodeBytes_word (decodeWord_encode (w := 0x00832251) (by decide)) _
  · exact decodeBytes_half (decodeHalf_encodeHalf _ 0x1922 (by decide)) _
end Sys2Proof.Claim
end

section
/-! Proofs of the statement on steps (01_encoding R38, 07_core_sched_traps R227, 14_tenancy R433): what a fetched code runs, and whom an issue opportunity serves. -/

namespace Sys2Proof.Machine

variable {ex : Nat → BitVec 7 → BitVec 7 → BitVec 7 → State → Option Out} {hx : BitVec 16 → State → Option Out} {runC : State → Out}

/-! ## What is fetched -/

theorem execWord_of_decodeFields {op : Nat} {d a b : BitVec 7} {i : Instr} (h : decodeFields op d a b = some i) (s : State) :
    execWord op d a b s = some (exec i s) := by
  rw [execWord, h, Option.map_some]

theorem execHalf_of_decodeHalf {h : BitVec 16} {i : Instr} (hi : decodeHalf h = some i) (s : State) : execHalf h s = some (exec i s) := by
  rw [execHalf, hi, Option.map_some]

theorem runFetched_of_fetch {s u : State} {c : Code} (h : fetch s = .ok (c, u)) : runFetched ex hx s = runCode ex hx c u := by
  rw [runFetched, h]

theorem runCode_half {h : BitVec 16} {u : State} {o : Out} (ho : hx h u = some o) : runCode ex hx (.half h) u = o := by
  rw [runCode, ho, Option.getD_some]

/-- R38: a word whose tables hold no error, whose opcode is mapped, which its context may execute and whose level suffices. -/
theorem runCode_word {w : BitVec 32} {op : Nat} {u : State} {o : Out} (hs : tableStruck u (mapOf u) (wordOp w) = false)
    (hm : mapOp u (mapOf u) (wordOp w) = some op) (hc : ctxAllows u.cur.ctx op = true) (hl : lowestLevel op (wordB w) ≤ levelOf u)
    (ho : ex op (wordD w) (wordA w) (wordB w) u = some o) : runCode ex hx (.word w) u = o := by
  simp only [runCode, hs, hm, hc, ho, Nat.not_lt.2 hl, Bool.not_true, Bool.false_eq_true, if_false, Option.getD_some]

/-- R465: an error in a decode table stops the group's instruction. -/
theorem runCode_struck_group {w : BitVec 32} {u : State} {gid : Nat} (hg : u.cur = .group gid) (hs : tableStruck u (mapOf u) (wordOp w) = true) :
    runCode ex hx (.word w) u = done u (.error (trapOf 0x0C 0x02)) := by
  simp only [runCode, hs, hg, if_true]

/-- Under map 1 a mapped opcode is its own operation (R45). -/
theorem mapOp_one {s : State} {op : Nat} (h : opMapped op = true) : mapOp s 1 op = some op := by
  rw [mapOp, if_pos rfl, if_pos h]

theorem decodeFields_of_decodeCode {w : BitVec 32} {i : Instr} (h : decodeCode (.word w) = some i) :
    decodeFields (wordOp w) (wordD w) (wordA w) (wordB w) = some i := by
  change decodeWord w = some i at h
  rw [decodeWord] at h
  split at h
  · exact h
  · cases h

theorem runNext_of_no_boundary {s : State} (h : ∀ gid, s.cur = .group gid → atBoundary s gid = none) :
    runNext ex hx s = runFetched ex hx s := by
  unfold runNext
  split
  · next gid hg => rw [h gid hg]
  · rfl

/-! ## The head of the agenda -/

theorem putWalks_frame (l : List WalkEnt) (s : State) : ∃ wcache, l.foldl putWalk s = { s with wcache := wcache } := by
  induction l generalizing s with
  | nil => exact ⟨_, rfl⟩
  | cons e l ih =>
    obtain ⟨wcache, h⟩ := ih (putWalk s e)
    exact ⟨wcache, h⟩

theorem putRanges_frame (l : List (Nat × RangeEnt)) (s : State) : ∃ cores, l.foldl putRange s = { s with cores := cores } := by
  induction l generalizing s with
  | nil => exact ⟨_, rfl⟩
  | cons e l ih =>
    obtain ⟨cores, h⟩ := ih (putRange s e)
    exact ⟨cores, h⟩

/-- What walks read enters the caches, and nothing else changes (R400-R402). -/
theorem settleWalks_frame (s : State) :
    ∃ wcache cores walked ranged, settleWalks s = { s with wcache := wcache, cores := cores, walked := walked, ranged := ranged } := by
  unfold settleWalks
  split
  · exact ⟨_, _, _, _, rfl⟩
  · obtain ⟨wcache, hw⟩ := putWalks_frame s.walked.reverse s
    obtain ⟨cores, hc⟩ := putRanges_frame s.ranged.reverse (s.walked.reverse.foldl putWalk s)
    rw [hc, hw]
    exact ⟨_, _, _, _, rfl⟩

@[simp] theorem settleWalks_agenda (s : State) : (settleWalks s).agenda = s.agenda := by
  obtain ⟨_, _, _, _, h⟩ := settleWalks_frame s
  rw [h]

@[simp] theorem settleWalks_turn (s : State) : (settleWalks s).turn = s.turn := by
  obtain ⟨_, _, _, _, h⟩ := settleWalks_frame s
  rw [h]

/-- Without a choice on the agenda the place that the turn names has an opportunity (log 4). -/
theorem step_of_agenda_nil {s : State} (h : s.agenda = []) :
    step s = issueAt (runNext execWord execHalf) s.turn (settleWalks { s with steps := s.steps + 1 }) := by
  simp only [step, stepWith, settleWalks_agenda, settleWalks_turn, h]

theorem step_of_issue {s : State} {p : Place} {rest : List Choice} (h : s.agenda = .issue p :: rest) :
    step s = issueAt (runNext execWord execHalf) p { settleWalks { s with steps := s.steps + 1 } with agenda := rest } := by
  simp only [step, stepWith, settleWalks_agenda, h]

theorem step_of_event {s : State} {e : Event} {rest : List Choice} (h : s.agenda = .event e :: rest) :
    step s = renewOut (runNext execWord execHalf) (exec e.toInstr { settleWalks { s with steps := s.steps + 1 } with agenda := rest }) := by
  simp only [step, stepWith, settleWalks_agenda, h]

/-! ## Whom an opportunity serves, from Camp 1 on (R461) -/

section
variable {s : State} (hst : s.stage = .camp1 ∨ s.stage = .summit)
include hst

theorem not_stopped_of_working : ¬(s.stage = .halted ∨ s.stage = .off ∨ s.stage = .camp0) ∧ s.stage ≠ .halting := by
  rcases hst with h | h <;> simp [h]

theorem issueAt_pipe (core p : Nat) : issueAt runC (.pipe core p) s = issuePipe runC core p s := by
  obtain ⟨hrun, hhalt⟩ := not_stopped_of_working hst
  simp only [issueAt, if_neg hrun, if_neg hhalt]

theorem issueAt_axp (gid : Nat) : issueAt runC (.axp gid) s = renewOut runC (issueAxp runC gid s) := by
  obtain ⟨hrun, hhalt⟩ := not_stopped_of_working hst
  simp only [issueAt, if_neg hrun, if_neg hhalt]

theorem issueAt_qp (n : Nat) : issueAt runC (.qp n) s = renewOut runC (issueQp runC n s) := by
  obtain ⟨hrun, -⟩ := not_stopped_of_working hst
  simp only [issueAt, if_neg hrun]

theorem issueAt_cheA (pkg : Nat) : issueAt runC (.cheA pkg) s = renewOut runC (issueCheA runC pkg s) := by
  obtain ⟨hrun, -⟩ := not_stopped_of_working hst
  simp only [issueAt, if_neg hrun]

theorem issueAt_cheX (pkg : Nat) : issueAt runC (.cheX pkg) s = renewOut runC (issueCheX runC pkg s) := by
  obtain ⟨hrun, -⟩ := not_stopped_of_working hst
  simp only [issueAt, if_neg hrun]

end

/-- R227: the first group in order that does not go on waiting has issued. -/
theorem issuePipe_first {s v : State} {core p g : Nat} {rest : List Nat} (hdet : coreIsDet s core = false) (ho : pipeOrder s core p = g :: rest)
    (hr : runC { s with cur := .group g } = .next v) (hw : stillWaiting s v g = false) : issuePipe runC core p s = .next (agePipe v core p (some g)) := by
  simp only [issuePipe, hdet, ho, tryGroups, hr, hw, Bool.false_and, Bool.false_eq_true, if_false]

/-- R229: on a .det core its holder alone issues. -/
theorem issuePipe_holder {s : State} {core p g : Nat} (hdet : coreIsDet s core = true) (hh : (getCore (renewHolder runC s core) core).holder = some g)
    (hp : (getGroup (renewHolder runC s core) g).pipe = p) (hm : mayIssue (getGroup (renewHolder runC s core) g) = true) :
    issuePipe runC core p s = renewOut runC (runC { renewHolder runC s core with cur := .group g }) := by
  simp only [issuePipe, hdet, hh, hp, hm, decide_true, Bool.and_self, if_true]

theorem issueAxp_running {s : State} {gid : Nat} {x : Axp} (hx : (getGroup s gid).axp = some x) (hr : x.running = true) (hs : x.stopped = none)
    (ht : (teamOf s gid).res.issues = true) (hd : (getGroup s gid).run ≠ .done) : issueAxp runC gid s = runC { s with cur := .axp gid } := by
  simp [issueAxp, hx, hr, hs, ht, hd]

theorem issueCheA_ring {s : State} {pkg vf : Nat} {t : ChTask} (hr : cheRing s pkg = some (vf, t)) (hc : t.compact = false) (hd : t.aDone = false) :
    issueCheA runC pkg s = runC { s with cur := .cheA pkg vf } := by
  simp [issueCheA, hr, hc, hd]

theorem issueCheX_ring {s : State} {pkg vf : Nat} {t : ChTask} (hr : cheRing s pkg = some (vf, t)) (hc : t.compact = false) (hd : t.xDone = false) :
    issueCheX runC pkg s = runC { s with cur := .cheX pkg vf } := by
  simp [issueCheX, hr, hc, hd]

/-- R437, R438: the first queue in order issues unless it goes on waiting as it did. -/
theorem tryQueues_first {s v : State} {n vf q : Nat} {rest : List Nat} (hn : takeNotice s q = none)
    (hr : runC { s with cur := .queue q, qpCtx := tabPut s.qpCtx n q } = .next v)
    (hw : queueWaits s q = false ∨ (getQueue v q).wait ≠ (getQueue s q).wait) :
    tryQueues runC s n vf (q :: rest) = .next (chargeQueue v vf (getQueue s q).slot q) := by
  have hgo : (queueWaits s q && decide ((getQueue v q).wait = (getQueue s q).wait)) = false := by
    rcases hw with h | h <;> simp [h]
  simp only [tryQueues, hn, hr, hgo, Bool.false_eq_true, if_false]

end Sys2Proof.Machine

namespace Sys2Proof.Claim

open Machine

/-- Settles O56: what is fetched runs after the checks of R38, and each kind of place serves the context that its order names. -/
theorem stepRunsDecodedInstruction : Obligations.StepRunsDecodedInstruction := by
  intro s u i runC s1
  refine ⟨?word, ?map1, ?half, runNext_of_no_boundary, ?struck, step_of_agenda_nil, fun p rest => step_of_issue, fun hst => ⟨?pipe, ?det, ?axp, ?che, issueAt_qp hst⟩, ?queue,
    fun e rest => step_of_event⟩
  case word =>
    intro w op hf hs hm hc hl hd
    rw [runFetched_of_fetch hf, runCode_word hs hm hc hl (execWord_of_decodeFields hd u)]
  case map1 =>
    intro w hf hs h1 hm hc hl hd
    have hop : mapOp u (mapOf u) (wordOp w) = some (wordOp w) := by rw [h1, mapOp_one hm]
    rw [runFetched_of_fetch hf, runCode_word hs hop hc hl (execWord_of_decodeFields (decodeFields_of_decodeCode hd) u)]
  case half =>
    intro h hf hd
    rw [runFetched_of_fetch hf, runCode_half (execHalf_of_decodeHalf hd u)]
  case struck =>
    intro w gid hf hg hs
    rw [runFetched_of_fetch hf, runCode_struck_group hg hs]
  case pipe =>
    intro core p g rest v hdet ho hr hw
    rw [issueAt_pipe hst, issuePipe_first hdet ho hr hw]
  case det =>
    intro core p g hdet hh hp hm
    rw [issueAt_pipe hst, issuePipe_holder hdet hh hp hm]
  case axp =>
    intro gid x hx hr hs ht hd
    rw [issueAt_axp hst, issueAxp_running hx hr hs ht hd]
  case che =>
    intro pkg vf t hr hc
    refine ⟨fun hd => ?_, fun hd => ?_⟩
    · rw [issueAt_cheA hst, issueCheA_ring hr hc hd]
    · rw [issueAt_cheX hst, issueCheX_ring hr hc hd]
  case queue =>
    intro n vf q rest v hn hr hw
    exact tryQueues_first hn hr hw

end Sys2Proof.Claim
end

section
/-! What the checks of an instruction have shown when it runs, and what a group's instruction leaves that writes registers and goes on (01_encoding R38; 03_group R87, R88). -/

namespace Sys2Proof.Machine

open Claim

/-! ## What the checks of an instruction have shown -/

theorem bind_eq_ok {α β : Type} {x : Except Stop α} {f : α → Except Stop β} {b : β} : (x >>= f) = .ok b ↔ ∃ a, x = .ok a ∧ f a = .ok b := by
  cases x with
  | error e => exact ⟨fun h => (by cases h), fun ⟨a, h, _⟩ => (by cases h)⟩
  | ok a => exact ⟨fun h => ⟨a, rfl, h⟩, fun ⟨a', h, hf⟩ => by cases h; exact hf⟩

/-- The checks in their order (R38, R86, R87, R31, R465). -/
theorem ready_eq (s : State) (opn : Nat) (b : BitVec 7) (us : List Use) :
    ready s opn b us = guardOp s opn b us >>= fun _ => (if isCollective opn then converged s else .ok ()) >>= fun _ =>
      emptyCheck s (us.flatMap Use.sources) >>= fun _ => (if predsDue s opn us then .error (.wait .accesses) else .ok ()) >>= fun _ =>
      readCheck s (us.flatMap Use.sources) (us.flatMap Use.targets) >>= fun _ => parityCheck s (us.flatMap Use.sources) := by
  unfold ready
  by_cases hc : isCollective opn = true <;> by_cases hp : predsDue s opn us = true <;> simp only [hc, hp, if_true] <;> rfl

theorem checks_of_ready {s : State} {opn : Nat} {b : BitVec 7} {us : List Use} (h : ready s opn b us = .ok ()) :
    guardOp s opn b us = .ok () ∧ readCheck s (us.flatMap Use.sources) (us.flatMap Use.targets) = .ok () := by
  simp only [ready_eq, bind_eq_ok] at h
  obtain ⟨⟨⟩, hguard, -, -, -, -, -, -, ⟨⟩, hread, -⟩ := h
  exact ⟨hguard, hread⟩

theorem ctxAllows_of_guardOp {s : State} {opn : Nat} {b : BitVec 7} {us : List Use} (h : guardOp s opn b us = .ok ()) :
    ctxAllows s.cur.ctx opn = true ∧ fieldsOk s opn us = true := by
  unfold guardOp at h
  split at h
  · cases h
  · split at h
    · cases h
    · split at h
      · cases h
      · next hc _ hf => exact ⟨by simpa using hc, by simpa using hf⟩

theorem full_of_readCheck {s : State} {srcs dsts : List Nat} (h : readCheck s srcs dsts = .ok ()) :
    (∀ f ∈ srcs, isEmptyField s f = false) ∧ ∀ f ∈ dsts, (regsOf s).isEmpty f = false := by
  unfold readCheck at h
  obtain ⟨_, -, h⟩ := bind_eq_ok.1 h
  dsimp only at h
  split at h
  · cases h
  · next hs =>
    split at h
    · cases h
    · next hd => exact ⟨by simpa [List.filter_eq_nil_iff] using hs, by simpa [List.filter_eq_nil_iff] using hd⟩

/-- R19, R36: an operation that groups alone execute runs in a group. -/
theorem cur_group_of_ctxAllows {s : State} {opn : Nat} (h : ctxAllows s.cur.ctx opn = true) (ha : ctxAllows .axp opn = false)
    (hq : ctxAllows .queue opn = false) (hx : onRegisters s) : ∃ gid, s.cur = .group gid := by
  unfold onRegisters at hx
  cases hc : s.cur <;> simp_all [Agent.ctx]

/-! ## One register of a register file -/

/-- What a write leaves of a register file (R88, R465). -/
def RegFile.put (r : RegFile) (f lane : Nat) (w : Word) : RegFile := ((r.writeField f lane w).setEmpty f false).mended f lane

/-- The value of a V or S register. -/
def RegFile.read (r : RegFile) (f lane : Nat) : Word := if 96 ≤ f then r.readS (f - 96) else r.readV f lane

/-- A field that names a Q register (R30). -/
abbrev namesQ (f : Nat) : Prop := 88 ≤ f ∧ f < 96

theorem writeField_eq (s : State) (f lane : Nat) (w : Word) : writeField s f lane w = setRegs s ((regsOf s).put f lane w) := rfl

theorem readField_eq (s : State) {f : Nat} (lane : Nat) (hf : ¬namesQ f) : readField s f lane = (regsOf s).read f lane := by
  simp only [readField, RegFile.read]
  split
  · rfl
  · rw [if_neg (by omega)]

theorem isEmptyField_eq (s : State) {f : Nat} (hf : ¬namesQ f) : isEmptyField s f = (regsOf s).isEmpty f := if_neg hf

theorem mended_eq (r : RegFile) (f lane : Nat) : ∃ bad, r.mended f lane = { r with bad := bad } := by
  unfold RegFile.mended
  split <;> exact ⟨_, rfl⟩

theorem put_eq (r : RegFile) (f lane : Nat) (w : Word) :
    ∃ bad, r.put f lane w = { r.writeField f lane w with empty := (r.writeField f lane w).empty &&& ~~~(bitAt f), bad := bad } := by
  obtain ⟨bad, h⟩ := mended_eq ((r.writeField f lane w).setEmpty f false) f lane
  exact ⟨bad, h⟩

theorem writeField_frame (r : RegFile) (f lane : Nat) (w : Word) : ∃ v s, r.writeField f lane w = { r with v := v, s := s } := by
  unfold RegFile.writeField RegFile.writeS
  split_ifs <;> exact ⟨_, _, rfl⟩

@[simp] theorem put_p (r : RegFile) (f lane : Nat) (w : Word) : (r.put f lane w).p = r.p := by
  obtain ⟨bad, h⟩ := put_eq r f lane w
  obtain ⟨v, s, hw⟩ := writeField_frame r f lane w
  rw [h, hw]

@[simp] theorem put_erm (r : RegFile) (f lane : Nat) (w : Word) : (r.put f lane w).erm = r.erm := by
  obtain ⟨bad, h⟩ := put_eq r f lane w
  obtain ⟨v, s, hw⟩ := writeField_frame r f lane w
  rw [h, hw]

theorem getElem_bitAt {n k : Nat} (hk : k < 128) : (bitAt n)[k] = decide (n = k) := by
  rw [← BitVec.getLsbD_eq_getElem, bitAt, BitVec.getLsbD_ofNat, Nat.testBit_two_pow]
  simp [hk]

/-- A write leaves its register full and the others as they were (R88). -/
theorem isEmpty_put (r : RegFile) (f lane : Nat) (w : Word) {k : Nat} (hk : k < 128) :
    (r.put f lane w).isEmpty k = (r.isEmpty k && decide (f ≠ k)) := by
  obtain ⟨bad, h⟩ := put_eq r f lane w
  obtain ⟨v, s, hw⟩ := writeField_frame r f lane w
  rw [h, hw]
  simp [RegFile.isEmpty, getElem_bitAt hk, hk, Bool.and_right_comm]

theorem read_writeField {r : RegFile} (hr : regsRising r) {f l k m : Nat} (w : Word) (hf : ¬namesQ f) (hl : l < 64) (hm : m < 64) :
    (r.writeField f l w).read k m = if k = f ∧ (96 ≤ f ∨ m = l) then kept f w else r.read k m := by
  obtain ⟨hv, hs, -⟩ := hr
  unfold RegFile.read RegFile.writeField kept
  by_cases hfs : 96 ≤ f
  · rw [if_pos hfs]
    by_cases hks : 96 ≤ k
    · simp only [if_pos hks, readS_writeS r _ _ w hs]
      by_cases hkf : k = f
      · subst hkf
        by_cases h31 : k = 127
        · subst h31; simp
        · simp [hfs, h31, show k - 96 ≠ 31 by omega]
      · simp [hkf, show k - 96 ≠ f - 96 by omega]
    · have hkf : k ≠ f := by omega
      simp only [if_neg hks, hkf, false_and, if_false]
      unfold RegFile.writeS
      split <;> rfl
  · rw [if_neg hfs, if_pos (show f < 88 by omega)]
    by_cases hks : 96 ≤ k
    · have hkf : k ≠ f := by omega
      simp only [if_pos hks, hkf, false_and, if_false]
      rfl
    · simp only [if_neg hks, readV_writeV r _ _ _ _ w hv hl hm, hfs, false_or, show f ≠ 127 by omega, if_false]

theorem tabRising_tabSet {α : Type} [DecidableEq α] {t : Tab α} (k : Nat) (a d : α) (h : tabRising t = true) : tabRising (tabSet t k a d) = true := by
  unfold tabSet
  split
  · exact tabRising_tabErase t k h
  · exact tabRising_tabPut t k a h

theorem regsRising_put {r : RegFile} (hr : regsRising r) (f lane : Nat) (w : Word) : regsRising (r.put f lane w) := by
  obtain ⟨hv, hs, hp⟩ := hr
  obtain ⟨bad, h⟩ := put_eq r f lane w
  rw [h]
  unfold regsRising RegFile.writeField RegFile.writeS RegFile.writeV
  split_ifs
  · exact ⟨hv, hs, hp⟩
  · exact ⟨hv, tabRising_tabSet _ _ _ hs, hp⟩
  · exact ⟨tabRising_tabSet _ _ _ hv, hs, hp⟩
  · exact ⟨hv, hs, hp⟩

theorem read_put {r : RegFile} (hr : regsRising r) {f l k m : Nat} (w : Word) (hf : ¬namesQ f) (hl : l < 64) (hm : m < 64) :
    (r.put f l w).read k m = if k = f ∧ (96 ≤ f ∨ m = l) then kept f w else r.read k m := by
  rw [← read_writeField hr w hf hl hm]
  obtain ⟨bad, h⟩ := put_eq r f l w
  rw [h]
  rfl

/-! ## One V register in several lanes (R34) -/

/-- What writing register d in several lanes leaves. -/
def RegFile.putLanes (r : RegFile) (d : Nat) (lanes : List Nat) (f : Nat → Word) : RegFile := lanes.foldl (fun r l => r.put d l (f l)) r

section
variable {d : Nat} (f : Nat → Word)

@[simp] theorem putLanes_p (lanes : List Nat) (r : RegFile) : (r.putLanes d lanes f).p = r.p := by
  induction lanes generalizing r with
  | nil => rfl
  | cons l ls ih => exact (ih _).trans (put_p ..)

@[simp] theorem putLanes_erm (lanes : List Nat) (r : RegFile) : (r.putLanes d lanes f).erm = r.erm := by
  induction lanes generalizing r with
  | nil => rfl
  | cons l ls ih => exact (ih _).trans (put_erm ..)

/-- A register that is full stays full. -/
theorem isEmpty_putLanes (hd128 : d < 128) (lanes : List Nat) {r : RegFile} (hd : r.isEmpty d = false) {k : Nat} (hk : k < 128) :
    (r.putLanes d lanes f).isEmpty k = r.isEmpty k := by
  induction lanes generalizing r with
  | nil => rfl
  | cons l ls ih =>
    have hd' : (r.put d l (f l)).isEmpty d = false := by simp [isEmpty_put r d l (f l) hd128]
    calc (r.putLanes d (l :: ls) f).isEmpty k
        _ = (r.put d l (f l)).isEmpty k := ih hd'
        _ = r.isEmpty k := by
          rw [isEmpty_put r d l (f l) hk]
          by_cases hdk : d = k
          · subst hdk; simp [hd]
          · simp [hdk]

theorem read_putLanes (hd : d < 88) {lanes : List Nat} (hlanes : ∀ l ∈ lanes, l < 64) {r : RegFile} (hr : regsRising r) {k m : Nat} (hm : m < 64) :
    (r.putLanes d lanes f).read k m = if k = d ∧ m ∈ lanes then f m else r.read k m := by
  induction lanes generalizing r with
  | nil => simp [RegFile.putLanes]
  | cons l ls ih =>
    have hstep : (r.put d l (f l)).read k m = if k = d ∧ m = l then f l else r.read k m := by
      rw [read_put hr (f l) (by omega) (hlanes l List.mem_cons_self) hm]
      simp [show ¬96 ≤ d by omega, kept, show d ≠ 127 by omega]
    have htail := ih (fun x hx => hlanes x (List.mem_cons_of_mem _ hx)) (regsRising_put hr d l (f l))
    rw [show r.putLanes d (l :: ls) f = (r.put d l (f l)).putLanes d ls f from rfl, htail, hstep]
    grind

end

/-! ## The registers of a group -/

/-- t is s but for the registers of group gid. -/
structure RegsOnly (gid : Nat) (s t : State) : Prop where
  state : t = { s with groups := t.groups }
  others : ∀ k, k ≠ gid → tabFind t.groups k = tabFind s.groups k
  group : getGroup t gid = { getGroup s gid with regs := (getGroup t gid).regs }

theorem RegsOnly.refl (gid : Nat) (s : State) : RegsOnly gid s s := ⟨rfl, fun _ _ => rfl, rfl⟩

theorem RegsOnly.cur_eq {gid : Nat} {s t : State} (h : RegsOnly gid s t) : t.cur = s.cur := by rw [h.state]

theorem RegsOnly.trans {gid : Nat} {s t u : State} (h : RegsOnly gid s t) (h' : RegsOnly gid t u) : RegsOnly gid s u where
  state := by rw [h'.state, h.state]
  others k hk := (h'.others k hk).trans (h.others k hk)
  group := by rw [h'.group, h.group]

theorem setRegs_group {s : State} {gid : Nat} (hg : s.cur = .group gid) (r : RegFile) :
    setRegs s r = setGroup s gid { getGroup s gid with regs := r } := by
  simp only [setRegs, hg, modGroup]

theorem regsOnly_setRegs {s : State} {gid : Nat} (hg : s.cur = .group gid) (r : RegFile) : RegsOnly gid s (setRegs s r) := by
  rw [setRegs_group hg]
  exact ⟨rfl, fun k hk => tabFind_tabPut_other _ _ hk, by rw [getGroup_setGroup_same]⟩

theorem putLanes_group {gid : Nat} (d : Nat) (f : Nat → Word) (lanes : List Nat) {s : State} (hg : s.cur = .group gid) :
    RegsOnly gid s (putLanes s d lanes f) ∧ regsOf (putLanes s d lanes f) = (regsOf s).putLanes d lanes f := by
  induction lanes generalizing s with
  | nil => exact ⟨.refl gid s, rfl⟩
  | cons l ls ih =>
    have hstep := regsOnly_setRegs hg ((regsOf s).put d l (f l))
    have hregs := regsOf_setRegs_group s ((regsOf s).put d l (f l)) gid hg
    obtain ⟨hrest, hval⟩ := ih (hstep.cur_eq.trans hg)
    rw [hregs] at hval
    exact ⟨hstep.trans hrest, hval⟩

/-! ## An instruction of a group that goes on -/

section
variable {s u : State} {gid : Nat} (hg : s.cur = .group gid) (hu : RegsOnly gid s u) (len : Nat)
include hg hu

theorem advance_of_regsOnly : advance len u = setGroup u gid (groupDone (getGroup u gid) ((getGroup s gid).pc + BitVec.ofNat 64 len)) := by
  rw [advance_group u gid len (hu.cur_eq.trans hg), hu.group]

theorem regsOf_advance : regsOf (advance len u) = regsOf u := by
  have hcu := hu.cur_eq.trans hg
  rw [advance_of_regsOnly hg hu]
  simp only [regsOf, setGroup_cur, hcu, getGroup_setGroup_same, groupDone_regs]

theorem pcOf_advance : pcOf (advance len u) = nextPc s len := by
  have hcu := hu.cur_eq.trans hg
  rw [advance_of_regsOnly hg hu]
  simp only [pcOf, nextPc, setGroup_cur, hcu, hg, getGroup_setGroup_same, groupDone_pc]

/-- Writing registers and going on changes nothing outside the group. -/
theorem contextOnly_advance (i : Instr) : contextOnly i false s (advance len u) := by
  rw [advance_of_regsOnly hg hu]
  refine ⟨?_, fun k hk _ => ?_, fun q _ => ?_, ?_⟩
  · rw [setGroup, hu.state]
  · have hne : k ≠ gid := fun h => hk (h ▸ hg)
    rw [setGroup_groups, tabFind_tabPut_other _ _ hne, hu.others k hne]
  · rw [setGroup_queues, hu.state]
  · rw [hg]
    simp only [getGroup_setGroup_same]
    rw [hu.group]
    exact ⟨rfl, fun _ => ⟨rfl, rfl⟩, fun _ => rfl⟩

end

theorem laneList_lt {s : State} {gid : Nat} (hg : s.cur = .group gid) : ∀ l ∈ laneList s, l < 64 := by
  intro l hl
  simp only [laneList, hg, lanesOf, List.mem_filter, List.mem_range] at hl
  exact hl.1

/-- A group's operation that writes a V register in its active lanes and goes on (R34). -/
theorem wordResult_of_vLanes {i : Instr} {s : State} {gid len : Nat} {d : BitVec 7} {f : Nat → Word} (hg : s.cur = .group gid)
    (hr : regsRising (regsOf s)) (hd : d.toNat < 88) (hfull : (regsOf s).isEmpty d.toNat = false) (hlen : ilen i = len)
    (he : exec i s = .next (advance len (putLanes s d.toNat (laneList s) f))) : wordResult i d f s := by
  obtain ⟨hu, hval⟩ := putLanes_group d.toNat f (laneList s) hg
  have hregs := (regsOf_advance hg hu len).trans hval
  have hop : opLanes s d = laneList s := by
    rw [opLanes, isS, decide_eq_false (by omega), if_neg Bool.false_ne_true]
  have hread : ∀ {k m}, m < 64 → (regsOf (advance len (putLanes s d.toNat (laneList s) f))).read k m =
      if k = d.toNat ∧ m ∈ laneList s then f m else (regsOf s).read k m := fun hm => by
    rw [hregs, read_putLanes f hd (laneList_lt hg) hr hm]
  refine ⟨_, he, ?value, ⟨?others, ?full, ?erm⟩, ?preds, ?pc, contextOnly_advance hg hu len i⟩
  case value =>
    intro l hl
    rw [hop] at hl
    rw [readField_eq _ _ (by omega), hread (laneList_lt hg l hl), if_pos ⟨rfl, hl⟩, kept, if_neg (by omega)]
  case others =>
    intro n l hl _ hq hc
    rw [readField_eq _ _ hq, readField_eq _ _ hq, hread hl, if_neg]
    rintro ⟨rfl, hl'⟩
    exact hc ⟨le_rfl, by omega, .inr (hop ▸ hl')⟩
  case full =>
    intro n hn hq
    rw [isEmptyField_eq _ hq, isEmptyField_eq _ hq, hregs, isEmpty_putLanes f (by omega) _ hfull hn]
  case erm => rw [hregs, putLanes_erm]
  case preds => rw [hregs, putLanes_p]
  case pc => rw [pcOf_advance hg hu, hlen]

end Sys2Proof.Machine
end

section
/-! Proofs of the statement on 16-bit integer operations (01_encoding R19-R21): the operations as integers, then the halfwords. -/

namespace Sys2Proof.Machine

open Claim

/-! ## Operations on integers (R117, R118) -/

theorem add_eq_ofNat (x y : Word) : x + y = BitVec.ofNat 32 (x.toNat + y.toNat) := by
  rw [BitVec.ofNat_add, BitVec.ofNat_toNat, BitVec.ofNat_toNat, BitVec.setWidth_eq, BitVec.setWidth_eq]

theorem mul_eq_ofNat (x y : Word) : x * y = BitVec.ofNat 32 (x.toNat * y.toNat) := by
  rw [BitVec.ofNat_mul, BitVec.ofNat_toNat, BitVec.ofNat_toNat, BitVec.setWidth_eq, BitVec.setWidth_eq]

theorem sub_eq_ofInt (x y : Word) : x - y = BitVec.ofInt 32 ((x.toNat : Int) - y.toNat) := by
  apply BitVec.eq_of_toInt_eq
  rw [BitVec.toInt_sub, BitVec.toInt_ofInt, BitVec.toInt_eq_toNat_bmod, BitVec.toInt_eq_toNat_bmod, Int.sub_bmod_bmod, Int.bmod_sub_bmod]

theorem shrBy_eq_div (x : Word) (n : Nat) : shrBy x n = BitVec.ofNat 32 (x.toNat / 2 ^ n) := by
  unfold shrBy
  split
  · next hn =>
    have hx : x.toNat < 2 ^ n := x.isLt.trans_le (Nat.pow_le_pow_right (by decide) hn)
    rw [Nat.div_eq_of_lt hx]
    rfl
  · apply BitVec.eq_of_toNat_eq
    rw [BitVec.toNat_ushiftRight, Nat.shiftRight_eq_div_pow, BitVec.toNat_ofNat, Nat.mod_eq_of_lt]
    exact (Nat.div_le_self _ _).trans_lt x.isLt

/-- Past the width a quotient is the sign alone. -/
theorem toInt_div_two_pow (x : Word) {n : Nat} (hn : 32 ≤ n) : x.toInt / 2 ^ n = if x.toInt < 0 then -1 else 0 := by
  have hpow : (2 : Int) ^ 32 ≤ 2 ^ n := pow_le_pow_right₀ (by decide) hn
  have hlo : -2 ^ 31 ≤ x.toInt := BitVec.le_toInt x
  have hhi : x.toInt < 2 ^ 31 := BitVec.toInt_lt
  split
  · next h => exact Int.ediv_eq_neg_one_of_neg_of_le h (by omega)
  · next h => exact Int.ediv_eq_zero_of_lt (by omega) (by omega)

theorem sarBy_eq_div (x : Word) (n : Nat) : sarBy x n = BitVec.ofInt 32 (x.toInt / 2 ^ n) := by
  have hshift : sarBy x n = BitVec.ofInt 32 (x.toInt / 2 ^ min n 32) := by
    rw [sarBy, BitVec.sshiftRight, Int.shiftRight_eq_div_pow]
    norm_cast
  rw [hshift]
  rcases le_total n 32 with h | h
  · rw [min_eq_left h]
  · rw [min_eq_right h, toInt_div_two_pow x h, toInt_div_two_pow x le_rfl]
theorem minS_eq_toInt (x y : Word) : minS x y = if x.toInt ≤ y.toInt then x else y := by
  unfold minS
  rw [BitVec.slt_eq_decide]
  by_cases h : x.toInt < y.toInt
  · simp [h, h.le]
  · by_cases he : x.toInt ≤ y.toInt
    · have hxy : x = y := BitVec.eq_of_toInt_eq (by omega)
      simp [hxy]
    · simp [h, he]

theorem maxS_eq_toInt (x y : Word) : maxS x y = if x.toInt ≤ y.toInt then y else x := by
  unfold maxS
  rw [BitVec.slt_eq_decide]
  by_cases h : x.toInt < y.toInt
  · simp [h, h.le]
  · by_cases he : x.toInt ≤ y.toInt
    · have hxy : x = y := BitVec.eq_of_toInt_eq (by omega)
      simp [hxy]
    · simp [h, he]

/-! ## Halfwords (R19-R21) -/

/-- The fields of a halfword name V0 to V63 and V0 to V31. -/
theorem half_field_ne (d : BitVec 6) (a : BitVec 5) :
    (d.setWidth 7).toNat = d.toNat ∧ (a.setWidth 7).toNat = a.toNat ∧ d.toNat ≠ 127 ∧ a.toNat ≠ 127 := by
  have hd := d.isLt
  have ha := a.isLt
  exact ⟨BitVec.toNat_setWidth_of_le (by decide), BitVec.toNat_setWidth_of_le (by decide), by omega, by omega⟩

theorem half_sources (reads : Bool) (d : BitVec 6) (a : BitVec 5) :
    (Uses.half reads d a).flatMap Use.sources = (if reads then [d.toNat] else []) ++ [a.toNat] := by
  obtain ⟨hd, ha, hd', ha'⟩ := half_field_ne d a
  cases reads <;> simp [-BitVec.toNat_setWidth, Uses.half, rd, Use.sources, Kind.span, hd, ha, hd', ha']

theorem half_targets (reads : Bool) (d : BitVec 6) (a : BitVec 5) :
    (Uses.half reads d a).flatMap Use.targets = if reads then [] else [d.toNat] := by
  obtain ⟨hd, -, hd', -⟩ := half_field_ne d a
  cases reads <;> simp [-BitVec.toNat_setWidth, Uses.half, rd, Use.targets, Kind.span, hd, hd']

/-- No level is demanded of a halfword (R38). -/
theorem ready_half_modifier (s : State) (us : List Use) (b b' : BitVec 7) : ready s 1024 b us = ready s 1024 b' us := rfl

section
variable {i : Instr} {d : BitVec 6} {a : BitVec 5} {s : State} {reads : Bool}
  (huses : uses i = Uses.half reads d a) (hopn : i.opn = 1024)
include huses hopn

/-- R39: a halfword runs in a group alone, and its registers are full. -/
theorem half_runs (h : runs i s) : ∃ gid, s.cur = .group gid ∧ runOnStops s 1024 = false ∧ (∀ b, ready s 1024 b (Uses.half reads d a) = .ok ()) ∧
    (regsOf s).isEmpty d.toNat = false := by
  obtain ⟨hregs, -, hrun, hready⟩ := h
  rw [huses, hopn] at hready
  rw [hopn] at hrun
  obtain ⟨hguard, hread⟩ := checks_of_ready hready
  obtain ⟨gid, hg⟩ := cur_group_of_ctxAllows (ctxAllows_of_guardOp hguard).1 rfl rfl hregs
  refine ⟨gid, hg, hrun, fun b => (ready_half_modifier ..).trans hready, ?_⟩
  obtain ⟨hsrc, hdst⟩ := full_of_readCheck hread
  rw [half_sources] at hsrc
  rw [half_targets] at hdst
  have hd := d.isLt
  cases reads with
  | true => rw [← isEmptyField_eq s (by omega)]; exact hsrc _ (by simp)
  | false => exact hdst _ (by simp)

theorem half_wordResult (h : runs i s) {b : BitVec 7} {f : Nat → Word}
    (he : exec i s = lane0 s 1024 b (Uses.half reads d a) 2 (d.setWidth 7) f) : wordResult i (d.setWidth 7) f s := by
  obtain ⟨gid, hg, hrun, hready, hfull⟩ := half_runs huses hopn h
  obtain ⟨-, hr, -⟩ := h
  obtain ⟨hd, -⟩ := half_field_ne d a
  have hlt := d.isLt
  have hop : opLanes s (d.setWidth 7) = laneList s := by
    rw [opLanes, isS, decide_eq_false (by omega), if_neg Bool.false_ne_true]
  refine wordResult_of_vLanes hg hr (by omega) (by rwa [hd]) (if_pos hopn) ?_
  rw [he, lane0, runOp_ready _ _ _ _ _ _ hrun (hready b), finish_noQ, hop]
  have ha := a.isLt
  rw [half_sources]
  cases reads <;> simp <;> omega

end

/-- The two-address form of an operation, given what it computes. -/
theorem half2_wordResult {i : Instr} {d : BitVec 6} {a : BitVec 5} {s : State} {f g : Word → Word → Word} (hfg : ∀ x y, f x y = g x y)
    (huses : uses i = Uses.half true d a) (hopn : i.opn = 1024) (he : exec i s = half2 s (Uses.half true d a) d a f) (h : runs i s) :
    wordResult i (d.setWidth 7) (fun l => g (readField s d.toNat l) (readField s a.toNat l)) s := by
  refine half_wordResult huses hopn h (b := a.setWidth 7) ?_
  obtain ⟨hd, ha, -⟩ := half_field_ne d a
  rw [he, half2, lane2, hd, ha]
  simp only [hfg]

/-- Without sources, destinations and predicates the operation and its fields are all that is checked. -/
theorem ready_nop {s : State} {opn : Nat} {b : BitVec 7} {us : List Use} {gid : Nat} (hg : s.cur = .group gid) (hguard : guardOp s opn b us = .ok ())
    (hcoll : isCollective opn = false) (hsrc : us.flatMap Use.sources = []) (hdst : us.flatMap Use.targets = []) (hdue : predsDue s opn us = false) :
    ready s opn b us = .ok () := by
  have hempty : emptyCheck s [] = .ok () := by simp [emptyCheck, hg]
  have hread : readCheck s [] [] = .ok () := by
    rw [readCheck, hempty]
    rfl
  have hparity : parityCheck s [] = .ok () := by simp [parityCheck]
  simp only [ready_eq, hguard, hcoll, hsrc, hdst, hdue, hempty, hread, hparity, Bool.false_eq_true, if_false]
  rfl

/-- The use of the 16-bit NOP names its register as MOV does, and neither reads nor writes it. -/
theorem ready_nop16 {d : BitVec 6} {a : BitVec 5} {s : State} {gid : Nat} (hg : s.cur = .group gid)
    (hready : ready s 1024 0 (Uses.half false d a) = .ok ()) : ready s 1024 0 [.field .v (d.setWidth 7) false false] = .ok () := by
  refine ready_nop hg ?guard rfl rfl rfl ?due
  case guard =>
    have hfields := (ctxAllows_of_guardOp (checks_of_ready hready).1).2
    simp [guardOp, hg, Agent.ctx, ctxAllows, lowestLevel, fieldsOk, Uses.half, rd, Use.ok, Kind.ok, Use.vfields] at hfields ⊢
    obtain ⟨⟨⟨hv, -⟩, hbudget, -⟩, hentry⟩ := hfields
    exact ⟨⟨hv, hbudget⟩, hentry⟩
  case due =>
    unfold predsDue
    split <;> rfl

/-- R21: with D = A nothing is read or written, and the instruction is the 16-bit NOP. -/
theorem execMov16_same {a : BitVec 5} {s : State} {gid : Nat} (hg : s.cur = .group gid) (hrun : runOnStops s 1024 = false)
    (hready : ready s 1024 0 (Uses.half false (a.setWidth 6) a) = .ok ()) : execMov16 (a.setWidth 6) a s = .next (advance 2 s) := by
  rw [execMov16, if_pos rfl, hg]
  exact run_ready _ _ _ _ _ hrun (ready_nop16 hg hready)

/-- MOV leaves A in D; where they are one register it holds A already. -/
theorem mov16_wordResult {d : BitVec 6} {a : BitVec 5} {s : State} (h : runs (.mov16 d a) s) :
    wordResult (.mov16 d a) (d.setWidth 7) (fun l => readField s a.toNat l) s := by
  obtain ⟨hd, ha, -, ha'⟩ := half_field_ne d a
  by_cases hda : d = a.setWidth 6
  · subst hda
    obtain ⟨gid, hg, hrun, hready, -⟩ := half_runs (i := .mov16 (a.setWidth 6) a) (reads := false) rfl rfl h
    have hregs := regsOf_advance hg (.refl gid s) 2
    have hread : ∀ {n l}, ¬namesQ n → readField (advance 2 s) n l = readField s n l := fun hq => by
      rw [readField_eq _ _ hq, readField_eq _ _ hq, hregs]
    have hsame : ((a.setWidth 6).setWidth 7).toNat = a.toNat := hd.trans (BitVec.toNat_setWidth_of_le (by decide))
    have hlt := a.isLt
    refine ⟨_, execMov16_same hg hrun (hready 0), ?value, ⟨fun n l _ _ hq _ => hread hq, fun n _ hq => ?full, by rw [hregs]⟩, by rw [hregs],
      pcOf_advance hg (.refl gid s) 2, contextOnly_advance hg (.refl gid s) 2 _⟩
    case value =>
      intro l _
      rw [hsame, hread (by omega), kept, if_neg ha']
    case full => rw [isEmptyField_eq _ hq, isEmptyField_eq _ hq, hregs]
  · refine half_wordResult (reads := false) (b := 0) rfl rfl h ?_
    change execMov16 d a s = _
    rw [execMov16, if_neg hda, lane1, ha]

end Sys2Proof.Machine

namespace Sys2Proof.Claim

open Machine

/-- Settles O5: MOV by itself, since with D = A it is the NOP; each other operation is its 32-bit form on D and A. -/
theorem halfwordIntegerResults : Obligations.HalfwordIntegerResults := by
  intro d a s p hp hruns
  simp only [integerHalf, List.mem_cons, List.not_mem_nil, or_false] at hp
  rcases hp with rfl | rfl | rfl | rfl | rfl | rfl | rfl | rfl | rfl | rfl | rfl | rfl
  · exact mov16_wordResult hruns
  · exact half2_wordResult add_eq_ofNat rfl rfl rfl hruns
  · exact half2_wordResult sub_eq_ofInt rfl rfl rfl hruns
  · exact half2_wordResult mul_eq_ofNat rfl rfl rfl hruns
  · exact half2_wordResult (fun _ _ => rfl) rfl rfl rfl hruns
  · exact half2_wordResult (fun _ _ => rfl) rfl rfl rfl hruns
  · exact half2_wordResult (fun _ _ => rfl) rfl rfl rfl hruns
  · exact half2_wordResult (fun _ _ => rfl) rfl rfl rfl hruns
  · exact half2_wordResult (fun x y => shrBy_eq_div x y.toNat) rfl rfl rfl hruns
  · exact half2_wordResult (fun x y => sarBy_eq_div x y.toNat) rfl rfl rfl hruns
  · exact half2_wordResult minS_eq_toInt rfl rfl rfl hruns
  · exact half2_wordResult maxS_eq_toInt rfl rfl rfl hruns

end Sys2Proof.Claim
end

section
/-! What requests at homes leave of the agents, the works, the teams, the matrix queues and the claims (10_die_memory R305-R316; 15_platform R468). -/

namespace Sys2Proof.Machine

open Claim

/-! ## What the memory system leaves of groups, works and matrix queues -/

/-- The same agent acts, and the groups and the works are as they were. -/
structure SameAgents (s t : State) : Prop where
  cur : t.cur = s.cur
  groups : t.groups = s.groups
  works : t.works = s.works
  nextId : t.nextId = s.nextId

/-- What no request, translation or claim of an agent changes: the teams and the operations queued at the matrix units too. -/
structure SameWorks (s t : State) : Prop extends SameAgents s t where
  teams : t.teams = s.teams
  matrix : ∀ c, (getCore t c).matrix = (getCore s c).matrix

/-- The same, and the claims are as they were. -/
structure SameClaims (s t : State) : Prop extends SameWorks s t where
  claims : t.claims = s.claims

theorem SameAgents.trans {s t u : State} (h : SameAgents s t) (h' : SameAgents t u) : SameAgents s u :=
  ⟨h'.cur.trans h.cur, h'.groups.trans h.groups, h'.works.trans h.works, h'.nextId.trans h.nextId⟩

theorem SameWorks.trans {s t u : State} (h : SameWorks s t) (h' : SameWorks t u) : SameWorks s u :=
  ⟨h.toSameAgents.trans h'.toSameAgents, h'.teams.trans h.teams, fun c => (h'.matrix c).trans (h.matrix c)⟩

theorem SameClaims.refl (s : State) : SameClaims s s := ⟨⟨⟨rfl, rfl, rfl, rfl⟩, rfl, fun _ => rfl⟩, rfl⟩

theorem SameClaims.trans {s t u : State} (h : SameClaims s t) (h' : SameClaims t u) : SameClaims s u :=
  ⟨h.toSameWorks.trans h'.toSameWorks, h'.claims.trans h.claims⟩

/-- A fold keeps what each of its steps keeps. -/
theorem SameClaims.foldl {α : Type} {f : State → α → State} (hf : ∀ s a, SameClaims s (f s a)) (l : List α) (s : State) : SameClaims s (l.foldl f s) := by
  induction l generalizing s with
  | nil => exact .refl s
  | cons a l ih => exact (hf s a).trans (ih (f s a))

/-- States with the same cores need only agree on the other tables. -/
theorem SameClaims.of_cores {s t : State} (hcores : t.cores = s.cores := by rfl) (hc : t.cur = s.cur := by rfl) (hg : t.groups = s.groups := by rfl)
    (hw : t.works = s.works := by rfl) (hn : t.nextId = s.nextId := by rfl) (ht : t.teams = s.teams := by rfl) (hcl : t.claims = s.claims := by rfl) :
    SameClaims s t :=
  ⟨⟨⟨hc, hg, hw, hn⟩, ht, fun c => by rw [getCore, getCore, hcores]⟩, hcl⟩

theorem SameClaims.ite {c : Prop} [Decidable c] {s t u : State} (ht : SameClaims s t) (hu : SameClaims s u) : SameClaims s (if c then t else u) := by
  split
  · exact ht
  · exact hu

theorem SameClaims.withQueues {s t : State} (h : SameClaims s t) (q : Tab QCtx) : SameClaims s { t with queues := q } := h.trans .of_cores

theorem tabFind_map {α : Type} (t : Tab α) (f : Nat → α → α) (k : Nat) : tabFind (t.map (fun p => (p.1, f p.1 p.2))) k = (tabFind t k).map (f k) := by
  induction t with
  | nil => rfl
  | cons p r ih =>
    simp only [List.map_cons, tabFind, ih]
    split_ifs with h
    · rw [h]; rfl
    · rfl
    · rfl

/-- A change of every core that keeps their matrix queues. -/
theorem SameClaims.map_cores (s : State) (f : Nat → Core → Core) (hf : ∀ n c, (f n c).matrix = c.matrix) :
    SameClaims s { s with cores := s.cores.map (fun p => (p.1, f p.1 p.2)) } := by
  refine ⟨⟨⟨rfl, rfl, rfl, rfl⟩, rfl, fun c => ?_⟩, rfl⟩
  simp only [getCore, tabGet, tabFind_map]
  cases tabFind s.cores c with
  | none => rfl
  | some k => exact hf c k

theorem SameClaims.setCore (s : State) (n : Nat) (k : Core) (hk : k.matrix = (getCore s n).matrix) : SameClaims s (setCore s n k) := by
  refine ⟨⟨⟨rfl, rfl, rfl, rfl⟩, rfl, fun c => ?_⟩, rfl⟩
  by_cases hc : c = n
  · rw [hc, getCore_setCore_same, hk]
  · rw [getCore_setCore_other _ _ hc]

/-! ## Writes at homes (R308-R316) -/

theorem sameClaims_countReq (s : State) (pa : Nat) : SameClaims s (countReq s pa) := by
  obtain ⟨_, _, h⟩ := countReq_frame s pa
  rw [h]
  exact .of_cores

theorem sameClaims_keepVersion (s : State) (pa : Nat) : SameClaims s (keepVersion s pa) := .of_cores

/-- Core n after a line was marked but for core `keep` (R311). -/
def invalidated (line : Nat) (keep : Option Nat) (n : Nat) (c : Core) : Core :=
  if some n = keep then c else { c with s := tabMod c.s line (fun l => { l with inval := true }) }

theorem sameClaims_markInval (s : State) (line : Nat) (keep : Option Nat) : SameClaims s (markInval s line keep) := by
  have h : markInval s line keep = { s with cores := s.cores.map (fun p => (p.1, invalidated line keep p.1 p.2)) } := by
    unfold markInval
    congr 1
    refine List.map_congr_left fun p _ => ?_
    unfold invalidated
    split <;> rfl
  rw [h]
  refine .map_cores s _ fun n c => ?_
  unfold invalidated
  split <;> rfl

theorem sameClaims_dropCopies (s : State) (line : Nat) : SameClaims s (dropCopies s line) :=
  .map_cores s (fun _ c => { c with s := tabErase c.s line }) fun _ _ => rfl

theorem sameClaims_makeDirty (s : State) (line : Nat) : SameClaims s (makeDirty s line) := by
  obtain ⟨_, h⟩ := makeDirty_frame s line
  rw [h]
  exact .of_cores

theorem sameClaims_writeThrough (s : State) (pa : Nat) (bs : List Byte) : SameClaims s (writeThrough s pa bs) := by
  obtain ⟨_, h⟩ := writeThrough_frame s pa bs
  rw [h]
  exact .of_cores

theorem sameClaims_homeSet (s : State) (by' : Option Nat) (pa : Nat) (bs : List Byte) : SameClaims s (homeSet s by' pa bs) := by
  unfold homeSet
  dsimp only
  generalize (isLocal s pa && (tabFind s.l2 (lineOf pa)).isSome) = held
  cases held with
  | true =>
    have h := sameClaims_makeDirty s (lineOf pa)
    simp only [if_true]
    exact .ite (.trans (.ite (h.trans .of_cores) (h.trans .of_cores)) (sameClaims_markInval ..)) (.ite (h.trans .of_cores) (h.trans .of_cores))
  | false =>
    have h : SameClaims s (writeThrough { s with mem := memWriteList s.mem pa bs } pa bs) :=
      SameClaims.trans (t := { s with mem := memWriteList s.mem pa bs }) .of_cores (sameClaims_writeThrough ..)
    simp only [Bool.false_eq_true, if_false]
    exact .ite (.trans (.ite (h.trans .of_cores) h) (sameClaims_markInval ..)) (.ite (h.trans .of_cores) h)

theorem sameClaims_wakeWaiters (n : Nat) (s : State) (line : Nat) : SameClaims s (wakeWaiters n s line) := by
  induction n generalizing s with
  | zero => exact .refl s
  | succ n ih =>
    simp only [wakeWaiters]
    split
    · exact .refl s
    · next p _ =>
      refine .trans (.withQueues ?_ _) (ih _)
      split
      · exact (sameClaims_keepVersion ..).trans (sameClaims_homeSet ..)
      · exact .refl s

theorem sameClaims_homePut (s : State) (by' : Option Nat) (pa : Nat) (bs : List Byte) : SameClaims s (homePut s by' pa bs) :=
  (sameClaims_homeSet ..).trans (sameClaims_wakeWaiters ..)

theorem sameClaims_homeWriteRaw (s : State) (by' : Option Nat) (pa : Nat) (bs : List Byte) : SameClaims s (homeWriteRaw s by' pa bs) := by
  have h := (sameClaims_countReq s pa).trans (sameClaims_keepVersion _ pa)
  unfold homeWriteRaw
  dsimp only
  split
  · exact h.trans (sameClaims_homePut ..)
  · exact h.trans ((sameClaims_keepVersion ..).trans (sameClaims_homePut ..))

theorem sameClaims_combineAt (s : State) (pa : Nat) (r : RedOp) : SameClaims s (combineAt s pa r) := sameClaims_homePut ..

theorem sameClaims_combineAll (n : Nat) (s : State) (l : List (Nat × Nat × RedOp)) : SameClaims s (combineAll n s l) := by
  induction n generalizing s l with
  | zero => exact .refl s
  | succ n ih =>
    unfold combineAll
    split
    · exact .refl s
    · exact sameClaims_combineAt ..
    · exact .trans .of_cores ((sameClaims_combineAt ..).trans (ih ..))

theorem sameClaims_recallLine (s : State) (line : Nat) : SameClaims s (recallLine s line) := by
  unfold recallLine
  dsimp only
  split
  · exact .refl s
  · exact (SameClaims.map_cores s (fun _ c => { c with u := c.u.filter (fun q => lineOf q.1 ≠ line) }) fun _ _ => rfl).trans (sameClaims_combineAll ..)

theorem sameClaims_l2Leave (s : State) (line : Nat) : SameClaims s (l2Leave s line) :=
  (sameClaims_dropCopies s line).trans ((sameClaims_recallLine ..).trans .of_cores)

theorem sameClaims_l2Touch (s : State) (line : Nat) : SameClaims s (l2Touch s line) := by
  unfold l2Touch
  dsimp only
  split
  · exact .refl s
  · split
    · exact .refl s
    · split
      · exact .of_cores
      · split
        · exact (sameClaims_l2Leave ..).trans .of_cores
        · exact .refl s

theorem sameClaims_serveLine (s : State) (line : Nat) : SameClaims s (serveLine s line) :=
  (sameClaims_recallLine ..).trans (sameClaims_l2Touch ..)

theorem sameClaims_homeWrite (s : State) (by' : Option Nat) (pa : Nat) (bs : List Byte) : SameClaims s (homeWrite s by' pa bs) :=
  (sameClaims_serveLine ..).trans (sameClaims_homeWriteRaw ..)

theorem sameClaims_homeWriteMany (s : State) (by' : Option Nat) (pa : Nat) (bs : List Byte) : SameClaims s (homeWriteMany s by' pa bs) := by
  have h (s : State) (p : Nat × List Byte) : SameClaims s (homeWrite s by' p.1 p.2) := sameClaims_homeWrite s by' p.1 p.2
  exact .foldl h _ s

theorem sameClaims_logError (s : State) (cls pa vf : Nat) (uncorrected : Bool) : SameClaims s (logError s cls pa vf uncorrected) := by
  unfold logError
  dsimp only
  refine .trans ?_ (sameClaims_homeWriteMany ..)
  split <;> exact .of_cores

theorem sameClaims_noteError (s : State) (cause : Nat) (aux : Word) (pa vf : Nat) : SameClaims s (noteError s cause aux pa vf) := by
  unfold noteError
  split
  · exact sameClaims_logError ..
  · exact .refl s

end Sys2Proof.Machine
end

section
/-! What translations and the elements of an access leave of them (13_translation R388-R405; 05_core_memory R162, R171). -/

namespace Sys2Proof.Machine

open Claim

/-! ## What a computation that may stop returns -/

/-- What a computation returns, where it does not stop. -/
structure Returns {ε α : Type} (P : α → Prop) (x : Except ε α) : Prop where
  of_ok : ∀ a, x = .ok a → P a

theorem returns_error {ε α : Type} {P : α → Prop} (e : ε) : Returns P (.error e) := ⟨fun _ h => nomatch h⟩

theorem returns_ok {ε α : Type} {P : α → Prop} {a : α} (h : P a) : Returns (ε := ε) P (.ok a) := ⟨fun _ h' => by cases h'; exact h⟩

theorem returns_true {ε α : Type} (x : Except ε α) : Returns (fun _ => True) x := ⟨fun _ _ => trivial⟩

theorem Returns.bind {ε α β : Type} {P : α → Prop} {Q : β → Prop} {x : Except ε α} {f : α → Except ε β} (hx : Returns P x)
    (hf : ∀ a, P a → Returns Q (f a)) : Returns Q (x >>= f) := by
  cases x with
  | error e => exact returns_error e
  | ok a => exact hf a (hx.of_ok a rfl)

/-- A computation whose value does not matter, and what follows. -/
theorem Returns.then {ε α β : Type} {Q : β → Prop} {x : Except ε α} {f : α → Except ε β} (hf : ∀ a, Returns Q (f a)) : Returns Q (x >>= f) :=
  (returns_true x).bind fun a _ => hf a

theorem Returns.map {ε α β : Type} {P : α → Prop} {Q : β → Prop} {x : Except ε α} {f : α → β} (hx : Returns P x)
    (hf : ∀ a, P a → Q (f a)) : Returns Q (x.map f) := by
  cases x with
  | error e => exact returns_error e
  | ok a => exact returns_ok (hf a (hx.of_ok a rfl))

theorem Returns.imp {ε α : Type} {P Q : α → Prop} {x : Except ε α} (hx : Returns P x) (h : ∀ a, P a → Q a) : Returns Q x :=
  ⟨fun a ha => h a (hx.of_ok a ha)⟩

theorem Returns.ite {ε α : Type} {P : α → Prop} {c : Prop} [Decidable c] {x y : Except ε α} (hx : Returns P x) (hy : Returns P y) :
    Returns P (if c then x else y) := by
  split
  · exact hx
  · exact hy

/-! ## What a translation leaves (13_translation R388-R405) -/

/-- A computation on the module that leaves groups, works, teams, matrix queues and claims. -/
abbrev Keeps {ε α : Type} (s : State) (x : Except ε (α × State)) : Prop := Returns (fun r => SameClaims s r.2) x

theorem SameClaims.keeps {ε α : Type} {s t : State} (h : SameClaims s t) {x : Except ε (α × State)} (hx : Keeps t x) : Keeps s x :=
  hx.imp fun _ h' => h.trans h'

section
variable (wk : Walker) (id : StageId) {tr : State → Nat → Except XStop (Nat × State)} (htr : ∀ s a, Keeps s (tr s a))
include htr

theorem keeps_tableRead (lvl : Nat) (s2 : Bool) (s : State) (addr n : Nat) : Keeps s (tableRead wk tr lvl s2 s addr n) := by
  unfold tableRead
  refine (htr s addr).bind fun a ha => ?_
  dsimp only
  split
  · exact returns_error _
  · split
    · exact returns_error _
    · exact returns_ok (ha.trans (sameClaims_serveLine ..))

omit htr in
theorem sameClaims_keepRange (s : State) (k d : Nat) : SameClaims s (keepRange wk id s k d) := by
  unfold keepRange
  split
  · exact .refl s
  · exact .of_cores

theorem keeps_rangeScan (kept : List RangeEnt) (table x n k : Nat) (s : State) : Keeps s (rangeScan wk id tr kept table x n k s) := by
  induction n generalizing k s with
  | zero => exact returns_ok (.refl s)
  | succ n ih =>
    have hbuf (d : Nat) : Keeps s ((descOut d k x id.host).map fun st => (st, s)) := (returns_true _).map fun _ _ => .refl s
    unfold rangeScan
    dsimp only
    split
    · next d pa t ht =>
      have hst : SameClaims s t := (keeps_tableRead wk htr ..).of_ok _ ht
      have hread : Keeps s (match descOut d k x id.host with
          | .ok (some st) => .ok (some st, keepRange wk id t k d)
          | .ok none => rangeScan wk id tr kept table x n (k + 1) t
          | .error e => .error e) := by
        split
        · exact returns_ok (hst.trans (sameClaims_keepRange ..))
        · exact hst.keeps (ih ..)
        · exact returns_error _
      split
      · exact .ite (hbuf _) hread
      · exact hread
    · refine .ite (returns_error _) ?_
      split
      · exact hbuf _
      · exact .ite (ih ..) (returns_error _)

theorem keeps_walkFrom (x fuel lvl table logN : Nat) (s : State) : Keeps s (walkFrom wk id tr x fuel lvl table logN s) := by
  induction fuel generalizing lvl table logN s with
  | zero => exact returns_error _
  | succ fuel ih =>
    unfold walkFrom
    extract_lets s2 idx entry asRead
    have hread : Keeps s asRead := by
      refine (keeps_tableRead wk htr ..).bind fun ⟨⟨e, pa⟩, t⟩ ht => ?_
      dsimp only
      refine .ite (returns_error _) ?_
      refine .ite (.ite (returns_error _) (.ite ?_ (.then fun _ => returns_ok ht))) ?_
      · refine .bind (ht.keeps (keeps_tableRead wk htr ..)) fun f hf => ?_
        exact .ite (returns_error _) (.ite (returns_error _) (.ite (returns_error _) (.then fun _ => returns_ok hf)))
      · split
        · exact returns_error _
        · exact ht.keeps (SameClaims.keeps .of_cores (ih ..))
    split
    · exact hread
    · exact .ite hread (ih ..)

theorem keeps_stageLookup (root rangeRoot : DWord) (x : Nat) (s : State) : Keeps s (stageLookup wk id tr root rangeRoot x s) := by
  unfold stageLookup
  refine (keeps_rangeScan wk id htr ..).bind fun a ha => ?_
  dsimp only
  split
  · exact returns_ok ha
  · exact .ite (returns_error _) (ha.keeps (keeps_walkFrom wk id htr ..))

end

theorem keeps_hostLookup (wk : Walker) (s : State) (vf gpa : Nat) : Keeps s (hostLookup wk s vf gpa) :=
  keeps_stageLookup wk _ (fun s _ => returns_ok (.refl s)) ..

theorem keeps_guestTables (wk : Walker) (vf : Nat) (s : State) (gpa : Nat) : Keeps s (guestTables wk vf s gpa) :=
  (keeps_hostLookup ..).bind fun _ ha => .ite (returns_error _) (.then fun _ => returns_ok ha)

theorem keeps_guestLookup (wk : Walker) (s : State) (vf asid : Nat) (gtrt grdt : DWord) (va : Nat) : Keeps s (guestLookup wk s vf asid gtrt grdt va) :=
  keeps_stageLookup wk _ (keeps_guestTables wk vf) ..

theorem keeps_lookupBoth (wk : Walker) (s : State) (sp : Space) (va : Nat) (k : Acc) (checkM : Bool) : Keeps s (lookupBoth wk s sp va k checkM) :=
  (keeps_guestLookup ..).bind fun _ hg => .ite (returns_error _) (.then fun _ =>
    (hg.keeps (keeps_hostLookup ..)).bind fun _ hh => .ite (returns_error _) (.then fun _ => returns_ok hh))

theorem sameClaims_setAD {s t : State} {st : Stage1} {dirty : Bool} (h : setAD s st dirty = some t) : SameClaims s t := by
  unfold setAD at h
  split at h
  · cases h; exact .refl s
  · generalize (if dirty then 192 else 64) = m at h
    dsimp only at h
    split at h
    · cases h
    · split at h <;> cases h
      · exact .refl s
      · exact (sameClaims_serveLine ..).trans ((sameClaims_keepVersion ..).trans (sameClaims_homePut ..))

theorem sameClaims_setBoth {s t : State} {g h : Stage1} {dirty : Bool} (hs : setBoth s g h dirty = some t) : SameClaims s t := by
  obtain ⟨u, hu, ht⟩ := Option.bind_eq_some_iff.1 hs
  exact (sameClaims_setAD hu).trans (sameClaims_setAD ht)

theorem keeps_walkAD (core : Option Nat) (s : State) (sp : Space) (va : Nat) (k : Acc) : Keeps s (walkAD core s sp va k) := by
  unfold walkAD
  refine (keeps_lookupBoth ..).bind fun a ha => ?_
  dsimp only
  split
  · next t ht => exact returns_ok (ha.trans (sameClaims_setBoth ht))
  · refine (keeps_lookupBoth ..).bind fun b hb => returns_ok ?_
    dsimp only
    cases ht : setBoth b.2 b.1.g b.1.h (decide (k = .write)) with
    | none => exact hb
    | some t => exact hb.trans (sameClaims_setBoth ht)

theorem sameClaims_keepTlb (s : State) (core : Nat) (e : TlbEnt) : SameClaims s (keepTlb s core e) := by
  unfold keepTlb
  exact .setCore s core _ rfl

theorem sameClaims_tlbFill (s : State) (core : Nat) (sp : Space) (va : Nat) (o : XOut) (k : Acc) : SameClaims s (tlbFill s core sp va o k) :=
  sameClaims_keepTlb ..

theorem sameClaims_keepAttrs (s : State) (o : XOut) : SameClaims s (keepAttrs s o) := .ite .of_cores (.refl s)

theorem returns_tlbHit (s : State) (core : Nat) (e : TlbEnt) (sp : Space) (va : Nat) (k : Acc) :
    Returns (fun r => ∀ x ∈ r, SameClaims s x.2) (tlbHit s core e sp va k) := by
  unfold tlbHit
  refine .then fun _ => .then fun _ => .ite ?_ (returns_ok ?_)
  · split
    · next t ht =>
      refine returns_ok fun x hx => ?_
      cases hx
      exact (sameClaims_setBoth ht).trans ((sameClaims_keepAttrs ..).trans (sameClaims_keepTlb ..))
    · exact returns_ok fun x hx => nomatch hx
  · intro x hx
    cases hx
    exact sameClaims_keepAttrs ..

theorem keeps_translateX (s : State) (core : Option Nat) (sp : Space) (va : Nat) (k : Acc) : Keeps s (translateX s core sp va k) := by
  unfold translateX
  refine .ite (returns_error _) ?_
  extract_lets walk
  have hwalk : Keeps s walk := by
    refine (keeps_walkAD ..).bind fun a ha => returns_ok ?_
    have h := ha.trans (sameClaims_keepAttrs a.2 a.1)
    dsimp only
    split
    · exact h.trans (sameClaims_tlbFill ..)
    · exact h
  split
  · exact hwalk
  · refine .ite ?_ hwalk
    split
    · next r hr => exact returns_ok ((returns_tlbHit ..).of_ok _ hr r rfl)
    · exact hwalk
    · exact returns_error _

theorem keeps_foldl {ε α β : Type} {f : Except ε (α × State) → β → Except ε (α × State)} {s : State} (hf : ∀ x b, Keeps s x → Keeps s (f x b))
    (l : List β) {x : Except ε (α × State)} (hx : Keeps s x) : Keeps s (l.foldl f x) := by
  induction l generalizing x with
  | nil => exact hx
  | cons b l ih => exact ih (hf x b hx)

theorem keeps_translateRun (s : State) (core : Option Nat) (sp : Space) (va n : Nat) (k : Acc) : Keeps s (translateRun s core sp va n k) := by
  unfold translateRun
  refine keeps_foldl (fun x p hx => ?_) _ (returns_ok (.refl s))
  exact hx.bind fun a ha => (ha.keeps (keeps_translateX ..)).bind fun b hb => returns_ok hb

/-! ## What the elements of an access leave (05_core_memory R162, R171) -/

theorem keeps_locate (s : State) (core : Option Nat) (sp : Space) (ea : Nat) (t : Target) (n : Nat) (k : Acc) : Keeps s (locate s core sp ea t n k) := by
  unfold locate
  split
  · exact returns_ok (.refl s)
  · exact .ite (returns_ok (.refl s)) (returns_error _)
  · split
    · next t ht => exact returns_ok ((keeps_translateRun ..).of_ok _ ht)
    · exact returns_error _

theorem keeps_element (s : State) (w : Want) (lane privLane ea : Nat) : Keeps s (element s w lane privLane ea) := by
  unfold element
  refine .then fun t => .ite (returns_error _) (.ite (returns_error _) ((keeps_locate ..).bind fun a ha => ?_))
  dsimp only
  split
  · exact returns_error _
  · exact returns_ok ha

theorem keeps_eachLane {α : Type} {f : State → Nat → Except Stop (α × State)} (hf : ∀ s l, Keeps s (f s l)) (ls : List Nat) (s : State) :
    Keeps s (eachLane f ls s) := by
  induction ls generalizing s with
  | nil => exact returns_ok (.refl s)
  | cons l ls ih =>
    unfold eachLane
    split
    · next e t ht => exact (((hf s l).of_ok _ ht).keeps (ih _)).bind fun _ ha => returns_ok ha
    · exact returns_error _
    · exact (ih _).bind fun _ ha => returns_ok ha

theorem sameClaims_freeNat (s : State) : SameClaims s (freeNat s).2 :=
  .of_cores

theorem keeps_elements (s : State) (w : Want) (uniform : Bool) (ea : Nat → Nat) : Keeps s (elements s w uniform ea) := by
  unfold elements elementsIn
  dsimp only
  have h : SameClaims s (if (uniform && decide (winOf (ea 0) = .priv)) = true then (freeNat s).2 else s) := .ite (sameClaims_freeNat s) (.refl s)
  refine .bind (h.keeps (keeps_eachLane (fun s l => keeps_element ..) ..)) fun a ha => ?_
  split
  · exact .ite (returns_error _) (.ite (returns_ok ha) (returns_error _))
  · exact returns_ok ha

end Sys2Proof.Machine
end

section
/-! What the translations and the claims of a work leave of them, and the module when a work has been issued (01_encoding R36, R37; 10_die_memory R313). -/

namespace Sys2Proof.Machine

open Claim

/-! ## What the translations of a work leave (05_core_memory R183, R184) -/

/-- The same issue: what the instruction that issued a work gave it, but for the translations that it uses and what follows from them. -/
structure SameIssue (v w : Work) : Prop where
  id : w.id = v.id
  kind : w.kind = v.kind
  agent : w.agent = v.agent
  token : w.token = v.token
  blk : w.blk = v.blk

theorem SameIssue.refl (w : Work) : SameIssue w w := ⟨rfl, rfl, rfl, rfl, rfl⟩

theorem SameIssue.trans {u v w : Work} (h : SameIssue u v) (h' : SameIssue v w) : SameIssue u w :=
  ⟨h'.id.trans h.id, h'.kind.trans h.kind, h'.agent.trans h.agent, h'.token.trans h.token, h'.blk.trans h.blk⟩

/-- A work and the module: the same issue, with the groups, works, teams, matrix queues and claims as they were. -/
abbrev SamePair (s : State) (w : Work) (v : Work) (t : State) : Prop := SameIssue w v ∧ SameClaims s t

theorem SamePair.trans {s t u : State} {w v x : Work} (h : SamePair s w v t) (h' : SamePair t v x u) : SamePair s w x u :=
  ⟨h.1.trans h'.1, h.2.trans h'.2⟩

theorem returns_workPage (s : State) (w : Work) (k : Acc) (page : Nat) : Returns (fun r => SamePair s w r.2.1 r.2.2) (workPage s w k page) := by
  unfold workPage
  refine .ite (returns_error _) ?_
  split
  · exact returns_ok ⟨.refl w, .refl s⟩
  · split
    · next o t ht => exact returns_ok ⟨⟨rfl, rfl, rfl, rfl, rfl⟩, (keeps_translateX ..).of_ok _ ht⟩
    · exact returns_error _

theorem returns_workPages (k : Acc) (ps : List Nat) (s : State) (w : Work) : Returns (fun r => SamePair s w r.2.1 r.2.2) (workPages k ps s w) := by
  induction ps generalizing s w with
  | nil => exact returns_ok ⟨.refl w, .refl s⟩
  | cons p ps ih => exact (returns_workPage ..).bind fun _ ha => (ih ..).bind fun _ hb => returns_ok (ha.trans hb)

/-- The places of n bytes are n. -/
theorem returns_workLocs (s : State) (w : Work) (ea n : Nat) (k : Acc) (perm : Win → Bool) :
    Returns (fun r => r.1.length = n ∧ SamePair s w r.2.1 r.2.2) (workLocs s w ea n k perm) := by
  have hlen {α : Type} (f : Nat → α) : ((List.range n).map f).length = n := by rw [List.length_map, List.length_range]
  unfold workLocs
  split
  · exact returns_error _
  · exact returns_ok ⟨hlen _, .refl w, .refl s⟩
  · exact .ite (returns_ok ⟨hlen _, .refl w, .refl s⟩) (returns_error _)
  · exact (returns_workPages ..).bind fun _ ha => returns_ok ⟨hlen _, ha⟩

/-- A fold whose steps keep P and let m grow by c at most. -/
theorem foldl_bounded {α β : Type} {P : α → Prop} {m : α → Nat} {c : β → Nat} {f : α → β → α} (hf : ∀ a b, P a → P (f a b) ∧ m (f a b) ≤ m a + c b)
    (l : List β) {a : α} (ha : P a) : P (l.foldl f a) ∧ m (l.foldl f a) ≤ m a + (l.map c).sum := by
  induction l generalizing a with
  | nil => exact ⟨ha, le_rfl⟩
  | cons b l ih =>
    obtain ⟨hb, hm⟩ := hf a b ha
    obtain ⟨hl, hml⟩ := ih hb
    refine ⟨hl, hml.trans ?_⟩
    rw [List.map_cons, List.sum_cons]
    omega

theorem length_eraseDups_le {α : Type} [BEq α] (l : List α) : l.eraseDups.length ≤ l.length := by
  match l with
  | [] => exact le_rfl
  | a :: l =>
    rw [List.eraseDups_cons]
    exact Nat.succ_le_succ ((length_eraseDups_le _).trans (List.length_filter_le ..))
termination_by l.length
decreasing_by exact Nat.lt_succ_of_le (List.length_filter_le ..)

/-- One key at most for each run of bytes. -/
theorem samePair_tryKeys {s : State} {w : Work} {k : Acc} {starts : List (Nat × Nat)} {x : List Nat × Work × State} (hx : tryKeys s w k starts = x) :
    SamePair s w x.2.1 x.2.2 ∧ x.1.length ≤ starts.length := by
  subst hx
  have h := foldl_bounded (P := fun p : List Nat × Work × State => SamePair s w p.2.1 p.2.2) (m := fun p => p.1.length) (c := fun _ : Nat × Nat => 1)
    (f := fun p x => match workLocs p.2.2 p.2.1 x.1 x.2 k notPriv with
      | .ok (l :: _, w, s) => (l.key :: p.1, w, s)
      | _ => p) ?_ starts (a := ([], w, s)) ⟨.refl w, .refl s⟩
  · obtain ⟨hp, hm⟩ := h
    exact ⟨hp, hm.trans (by simp)⟩
  · intro p x hp
    split
    · next hx => exact ⟨hp.trans ((returns_workLocs ..).of_ok _ hx).2, le_rfl⟩
    · exact ⟨hp, by omega⟩

/-- One key at most for each byte. -/
theorem samePair_segKeys {s : State} {w : Work} {starts : List (Nat × Nat)} {x : List Nat × Work × State} (hx : segKeys s w starts = x) :
    SamePair s w x.2.1 x.2.2 ∧ x.1.length ≤ (starts.map (·.2)).sum := by
  subst hx
  have h := foldl_bounded (P := fun p : List Nat × Work × State => SamePair s w p.2.1 p.2.2) (m := fun p => p.1.length) (c := fun x : Nat × Nat => x.2)
    (f := fun p x => match workLocs p.2.2 p.2.1 x.1 x.2 .write notPriv with
      | .ok (ls, w, s) => ((p.1 ++ ls.map Loc.key).eraseDups, w, s)
      | .error _ => p) ?_ starts (a := ([], w, s)) ⟨.refl w, .refl s⟩
  · obtain ⟨hp, hm⟩ := h
    exact ⟨hp, hm.trans (by simp)⟩
  · intro p x hp
    split
    · next ls v t hx =>
      obtain ⟨hlen, hv⟩ := (returns_workLocs ..).of_ok _ hx
      refine ⟨hp.trans hv, (length_eraseDups_le _).trans ?_⟩
      rw [List.length_append, List.length_map, hlen]
    · exact ⟨hp, by omega⟩

/-! ## Claims (10_die_memory R313) -/

theorem sameWorks_addClaim (s : State) (c : Nat × Nat) : SameWorks s (addClaim s c) := by
  unfold addClaim
  split
  · have h : SameClaims s (if c.1 < 2 ^ 60 then recallLine s c.1 else s) := .ite (sameClaims_recallLine ..) (.refl s)
    exact h.toSameWorks.trans ⟨⟨rfl, rfl, rfl, rfl⟩, rfl, fun _ => rfl⟩
  · exact ⟨⟨rfl, rfl, rfl, rfl⟩, rfl, fun _ => rfl⟩

theorem sameWorks_addClaims (s : State) (work : Nat) (lines : List Nat) : SameWorks s (addClaims s work lines) := by
  unfold addClaims
  induction lines generalizing s with
  | nil => exact (SameClaims.refl s).toSameWorks
  | cons l ls ih => exact (sameWorks_addClaim ..).trans (ih _)

theorem returns_claimLines (s : State) (work : Nat) (keys : List Nat) : Returns (SameWorks s) (claimLines s work keys) :=
  .ite (returns_ok (sameWorks_addClaims ..)) (returns_error _)

/-- Where the claims fit, they are recorded. -/
theorem claimLines_of_claimsFit {s t : State} {n id : Nat} {keys : List Nat} (h : claimsFit s n) (ht : SameClaims s t) (hid : id = s.nextId) (hk : keys.length ≤ n) :
    claimLines t id keys = .ok (addClaims t id keys) := by
  subst hid
  refine if_pos ?_
  rw [← h keys hk]
  unfold claimRoom
  rw [ht.claims]

/-! ## Issue (01_encoding R36, R37) -/

/-- The module with one work more, before its token is empty. -/
def State.withWork (s : State) (w : Work) : State := { s with works := s.works ++ [w], nextId := s.nextId + 1, seq := s.seq + 1 }

/-- The module when the work of an instruction is in it: the token register is empty in the groups, and the earlier works are as they were. -/
structure WorkIssued (kind : WorkKind) (d : Nat) (blk : List Word) (s t : State) : Prop where
  cur : t.cur = s.cur
  groups : t.groups = (markEmpty s [d]).groups
  new : ∃ w ∈ t.works, w.id = s.nextId ∧ w.kind = kind ∧ w.agent = s.cur ∧ w.token = d ∧ w.blk = blk
  old : ∀ v ∈ s.works, v ∈ t.works

/-- What a new work has of its instruction. -/
structure IssueOf (kind : WorkKind) (d : Nat) (blk : List Word) (s : State) (w : Work) : Prop where
  id : w.id = s.nextId
  kind_eq : w.kind = kind
  agent : w.agent = s.cur
  token : w.token = d
  blk_eq : w.blk = blk

theorem IssueOf.same {kind : WorkKind} {d : Nat} {blk : List Word} {s : State} {w v : Work} (h : IssueOf kind d blk s w) (hv : SameIssue w v) :
    IssueOf kind d blk s v :=
  ⟨hv.id.trans h.id, hv.kind.trans h.kind_eq, hv.agent.trans h.agent, hv.token.trans h.token, hv.blk.trans h.blk_eq⟩

section
variable {kind : WorkKind} {d gid : Nat} {blk : List Word} {s u : State} {w v : Work}

theorem setRegs_groups_congr {s t : State} (hc : t.cur = s.cur) (hg : t.groups = s.groups) (hgid : s.cur = .group gid) (r : RegFile) :
    (setRegs t r).groups = (setRegs s r).groups := by
  rw [setRegs_group hgid, setRegs_group (hc.trans hgid)]
  simp only [setGroup_groups, getGroup, hg]

/-- Marking registers empty changes the registers of the group. -/
theorem markEmpty_group {s : State} (hgid : s.cur = .group gid) (fs : List Nat) :
    markEmpty s fs = setGroup s gid { getGroup s gid with regs := fs.foldl (fun r f => if f = 127 then r else r.setEmpty f true) (regsOf s) } :=
  setRegs_group hgid _

theorem issueWork_eq (s : State) (w : Work) : issueWork s w = markEmpty (s.withWork w) [w.token] := rfl

theorem regsOf_congr {s t : State} (hc : t.cur = s.cur) (hg : t.groups = s.groups) (hgid : s.cur = .group gid) : regsOf t = regsOf s := by
  simp only [regsOf, hc, hgid, getGroup, hg]

/-- The agent, the works, the teams and the cores when work has been issued. -/
theorem issueWork_frame (hgid : s.cur = .group gid) (w : Work) : (issueWork s w).cur = s.cur ∧ (issueWork s w).works = s.works ++ [w] ∧
    (issueWork s w).teams = s.teams ∧ (issueWork s w).cores = s.cores := by
  rw [issueWork_eq, markEmpty_group (gid := gid) (s := s.withWork w) hgid]
  exact ⟨rfl, rfl, rfl, rfl⟩

theorem workIssued_issueWork (hgid : s.cur = .group gid) (hu : SameAgents s u) (hw : IssueOf kind d blk s w) : WorkIssued kind d blk s (issueWork u w) := by
  obtain ⟨hcur, hgroups, hworks, -⟩ := hu
  obtain ⟨hcur', hworks', -⟩ := issueWork_frame (hcur.trans hgid) w
  rw [hworks] at hworks'
  refine ⟨hcur'.trans hcur, ?_, ⟨w, ?_, hw.id, hw.kind_eq, hw.agent, hw.token, hw.blk_eq⟩, fun v hv => ?_⟩
  · have hregs : regsOf (u.withWork w) = regsOf s := regsOf_congr hcur hgroups hgid
    rw [issueWork_eq, hw.token, markEmpty, markEmpty, hregs]
    exact setRegs_groups_congr (t := u.withWork w) hcur hgroups hgid _
  · rw [hworks']; exact List.mem_append_right _ List.mem_cons_self
  · rw [hworks']; exact List.mem_append_left _ hv

/-- A change of the new work alone. -/
theorem WorkIssued.setWork (hfresh : freshWorks s) (h : WorkIssued kind d blk s u) (hv : IssueOf kind d blk s v) :
    WorkIssued kind d blk s (setWork u v) := by
  obtain ⟨w, hw, hid, -⟩ := h.new
  refine ⟨h.cur, h.groups, ⟨v, ?_, hv.id, hv.kind_eq, hv.agent, hv.token, hv.blk_eq⟩, fun x hx => ?_⟩
  · exact List.mem_map.2 ⟨w, hw, if_pos (hid.trans hv.id.symm)⟩
  · have hne : x.id ≠ v.id := by have := hfresh x hx; rw [hv.id]; omega
    exact List.mem_map.2 ⟨x, h.old x hx, if_neg hne⟩

end

end Sys2Proof.Machine
end

section
/-! A group's instruction that issues work and goes on (01_encoding R30, R36, R37). -/

namespace Sys2Proof.Machine

open Claim

/-! ## The end of an instruction of a group that pops queue registers (R30) -/

theorem foldl_keeps {α β γ : Type} (m : α → γ) {f : α → β → α} (hf : ∀ a b, m (f a b) = m a) (l : List β) (a : α) : m (l.foldl f a) = m a := by
  induction l generalizing a with
  | nil => rfl
  | cons b l ih => exact (ih _).trans (hf a b)

@[simp] theorem pumpStreams_regs (g : Group) : (pumpStreams g).regs = g.regs := by
  unfold pumpStreams
  split
  · rfl
  · refine foldl_keeps Group.regs (fun a p => ?_) _ g
    rfl

@[simp] theorem pumpStreams_pc (g : Group) : (pumpStreams g).pc = g.pc := by
  unfold pumpStreams
  split
  · rfl
  · refine foldl_keeps Group.pc (fun a p => ?_) _ g
    rfl

/-- t is s but for the group's fields other than its registers and its PC, and for other groups. -/
structure KeepsRegs (gid : Nat) (s t : State) : Prop where
  state : t = { s with groups := t.groups }
  regs : (getGroup t gid).regs = (getGroup s gid).regs
  pc : (getGroup t gid).pc = (getGroup s gid).pc

theorem KeepsRegs.trans {gid : Nat} {s t u : State} (h : KeepsRegs gid s t) (h' : KeepsRegs gid t u) : KeepsRegs gid s u :=
  ⟨by rw [h'.state, h.state], h'.regs.trans h.regs, h'.pc.trans h.pc⟩

theorem keepsRegs_popQs {s : State} {gid : Nat} (hgid : s.cur = .group gid) (fields : List Nat) : KeepsRegs gid s (popQs s fields) := by
  unfold popQs popQsBy
  rw [hgid]
  dsimp only
  generalize (fields.filter _).eraseDups = l
  clear hgid
  induction l generalizing s with
  | nil => exact ⟨rfl, rfl, rfl⟩
  | cons f l ih =>
    refine .trans ⟨?_, ?_, ?_⟩ (ih (s := _))
    · rfl
    · rw [getGroup_modGroup_same, pumpStreams_regs]
    · rw [getGroup_modGroup_same, pumpStreams_pc]

/-- The instruction goes on with the registers as they are. -/
theorem finish_group {s : State} {gid : Nat} (hgid : s.cur = .group gid) (us : List Use) (len : Nat) :
    finish us len s = { s with groups := (finish us len s).groups } ∧ regsOf (finish us len s) = regsOf s ∧ pcOf (finish us len s) = nextPc s len := by
  obtain ⟨hstate, hregs, hpc⟩ := keepsRegs_popQs hgid (us.flatMap Use.sources)
  unfold finish
  generalize popQs s (us.flatMap Use.sources) = u at *
  have hu : u.cur = .group gid := by rw [hstate, hgid]
  rw [advance_group u gid len hu]
  refine ⟨?_, ?_, ?_⟩
  · rw [setGroup, hstate]
  · simp only [regsOf, setGroup_cur, hu, hgid, getGroup_setGroup_same, groupDone_regs, hregs]
  · simp only [pcOf, nextPc, setGroup_cur, hu, hgid, getGroup_setGroup_same, groupDone_pc, hpc]

section
variable {kind : WorkKind} {gid : Nat} {d : BitVec 7} {blk : List Word} {s u : State}

/-- The token register of an engine instruction is one of S0-S30 (R36). -/
theorem token_of_ready {opn : Nat} {b : BitVec 7} {us : List Use} (h : ready s opn b us = .ok ()) (hgid : s.cur = .group gid) (hd : wr .tok d ∈ us) :
    96 ≤ d.toNat ∧ d.toNat ≠ 127 := by
  obtain ⟨hguard, -⟩ := checks_of_ready h
  obtain ⟨-, hfields⟩ := ctxAllows_of_guardOp hguard
  simp only [fieldsOk, hgid, Bool.and_eq_true, List.all_eq_true] at hfields
  obtain ⟨⟨hok, -⟩, -⟩ := hfields
  simpa [wr, Use.ok, Kind.ok, isS] using hok _ hd

theorem isEmpty_setEmpty_true (r : RegFile) {f k : Nat} (hk : k < 128) (hf : f ≠ 127) : (r.setEmpty f true).isEmpty k = (r.isEmpty k || decide (k = f)) := by
  simp only [RegFile.isEmpty, RegFile.setEmpty, if_true, BitVec.getLsbD_or]
  rw [BitVec.getLsbD_eq_getElem (x := bitAt f) hk, getElem_bitAt hk]
  by_cases hkf : k = f
  · subst hkf; simp [hf]
  · simp [hkf, Ne.symm hkf]

/-- The instruction goes on when its work is in the module (R37). -/
theorem issued_of_workIssued (hgid : s.cur = .group gid) (hd : 96 ≤ d.toNat ∧ d.toNat ≠ 127) (hu : WorkIssued kind d.toNat blk s u) (us : List Use) :
    issued kind d blk s (finish us 4 u) := by
  have hucur := hu.cur.trans hgid
  obtain ⟨hstate, hregs, hpc⟩ := finish_group hucur us 4
  have hworks : (finish us 4 u).works = u.works := by rw [hstate]
  have hmark : regsOf u = (regsOf s).setEmpty d.toNat true := by
    rw [regsOf_congr (s := markEmpty s [d.toNat]) (gid := gid) (hu.cur.trans ?_) hu.groups ?_, markEmpty, regsOf_setRegs_group _ _ _ hgid]
    · exact if_neg hd.2
    · exact (setRegs_cur ..).symm
    · exact (setRegs_cur ..).trans hgid
  have hr : regsOf (finish us 4 u) = (regsOf s).setEmpty d.toNat true := hregs.trans hmark
  have hlt : d.toNat < 128 := d.isLt
  refine ⟨⟨by rw [hworks]; exact hu.new, ?token, ?pc, ?preds, fun n l _ _ hq => ?value, fun n hn hne hq => ?full⟩, fun v hv => by rw [hworks]; exact hu.old v hv⟩
  case token => rw [isEmptyField_eq _ (by omega), hr, isEmpty_setEmpty_true _ hlt hd.2, decide_eq_true rfl, Bool.or_true]
  case pc =>
    have hg : getGroup u gid = getGroup (markEmpty s [d.toNat]) gid := by rw [getGroup, getGroup, hu.groups]
    rw [markEmpty_group hgid, getGroup_setGroup_same] at hg
    rw [hpc]
    simp only [nextPc, pcOf, hucur, hgid, hg]
  case preds => rw [hr]; rfl
  case value => rw [readField_eq _ _ hq, readField_eq _ _ hq, hr]; rfl
  case full => rw [isEmptyField_eq _ hq, isEmptyField_eq _ hq, hr, isEmpty_setEmpty_true _ hn hd.2, decide_eq_false hne, Bool.or_false]

end

end Sys2Proof.Machine
end

section
/-! Proofs of the statement on the work of the copy engine (05_core_memory R182-R185; 06_core_matrix R215, R216, R223). -/

namespace Sys2Proof.Machine

open Claim

/-! ## The instructions that issue (05_core_memory R182, R215, R216, R223) -/

/-- A computation that does not stop, and what it returns. -/
def Yields {ε α : Type} (P : α → Prop) (x : Except ε α) : Prop := ∃ a, x = .ok a ∧ P a

theorem Yields.ok_bind {ε α β : Type} {Q : β → Prop} {x : Except ε α} {a : α} {f : α → Except ε β} (hx : x = .ok a) (hf : Yields Q (f a)) :
    Yields Q (x >>= f) := by
  subst hx
  exact hf

theorem Yields.of_not {ε α : Type} {P : α → Prop} {c : Prop} [Decidable c] {x y : Except ε α} (h : ¬c) (hy : Yields P y) : Yields P (if c then x else y) := by
  rwa [if_neg h]

theorem issueOf_newWork (s : State) (kind : WorkKind) (d : BitVec 7) (mods : Nat) (blk : List Word) :
    IssueOf kind d.toNat blk s (newWork s kind d mods blk) := ⟨rfl, rfl, rfl, rfl, rfl⟩

section
variable {s : State} {i : Instr} {opn : Nat} {b : BitVec 7} {us : List Use} {body : Except Stop State}

/-- What an engine instruction of a group that issues leaves is what its body does. -/
theorem next_of_yields {P : State → Prop} (hstops : runOnStops s opn = false) (hready : ready s opn b us = .ok ()) (hb : Yields P body) :
    ∃ t, run s opn b us body = .next t ∧ P t := by
  obtain ⟨t, rfl, ht⟩ := hb
  exact ⟨t, run_ready s opn b us _ hstops hready, ht⟩

/-- Engine instructions that only groups execute (R19). -/
theorem group_of_ready (hready : ready s opn b us = .ok ()) (hx : onRegisters s) (h : ctxAllows .axp opn = false ∧ ctxAllows .queue opn = false) :
    ∃ gid, s.cur = .group gid :=
  cur_group_of_ctxAllows (ctxAllows_of_guardOp (checks_of_ready hready).1).1 h.1 h.2 hx

end

theorem word_readBlock {s : State} {kind : WorkKind} {d a : BitVec 7} {mods n k : Nat} (hk : k < n) :
    (newWork s kind d mods (readBlock s a n)).word k = (readField s (a.toNat + k) 0).toNat := by
  simp [Work.word, newWork, readBlock, hk]

theorem pair_readBlock {s : State} {kind : WorkKind} {d a : BitVec 7} {mods n k : Nat} (hk : k + 1 < n) :
    (newWork s kind d mods (readBlock s a n)).pair k = (readPair s (a.toNat + k) 0).toNat := by
  rw [Work.pair, word_readBlock (by omega), word_readBlock hk, readPair, BitVec.toNat_append, ← Nat.shiftLeft_add_eq_or_of_lt (BitVec.isLt _),
    Nat.shiftLeft_eq, ← Nat.add_assoc, Nat.add_comm]

theorem execCpy_issues {d a : BitVec 7} {s : State} (h : issues (.cpy d a) s)
    (hfit : claimsFit s (lineCount (readPair s (a.toNat + 2) 0).toNat (readField s (a.toNat + 4) 0).toNat))
    (hparam : cpyParam s (newWork s .cpy d 0 (readBlock s a 8)) = none) : ∃ t, exec (.cpy d a) s = .next t ∧ issued .cpy d (readBlock s a 8) s t := by
  obtain ⟨hx, ⟨hstops, hready⟩, hgate, hfresh, -⟩ := h
  replace hready : ready s 0x1C0 0 (Uses.cpy d a) = .ok () := hready
  obtain ⟨gid, hgid⟩ := group_of_ready hready hx (by decide)
  have htok := token_of_ready hready hgid List.mem_cons_self
  rw [show exec (.cpy d a) s = execCpy d a s from rfl]
  unfold execCpy
  refine next_of_yields hstops hready (.ok_bind hgate ?_)
  rw [← pair_readBlock (kind := .cpy) (d := d) (mods := 0) (n := 8) (by decide), ← word_readBlock (kind := .cpy) (d := d) (mods := 0) (n := 8) (by decide)] at hfit
  have hw := issueOf_newWork s .cpy d 0 (readBlock s a 8)
  generalize newWork s .cpy d 0 (readBlock s a 8) = w at hparam hfit hw ⊢
  generalize readBlock s a 8 = blk at *
  extract_lets +onlyGivenNames v
  rw [show cpyParam s v = none from hparam]
  extract_lets w' pieces
  have hw' : SameIssue w w' := ⟨rfl, rfl, rfl, rfl, rfl⟩
  have hpieces : pieces.length = lineCount (w.pair 2) (w.word 4) := by simp [pieces]; rfl
  dsimp only
  generalize hx : tryKeys s w' .write _ = x
  obtain ⟨hdst, hk⟩ := samePair_tryKeys hx
  generalize hy : tryKeys x.2.2 x.2.1 .read _ = y
  obtain ⟨hv, hu⟩ := hdst.trans (samePair_tryKeys hy).1
  have hissue := (hw.same hw').same hv
  rw [List.length_map, hpieces] at hk
  refine .ok_bind (claimLines_of_claimsFit hfit hu hissue.id (by rwa [List.length_reverse])) ⟨_, rfl, ?_⟩
  have ht := hu.toSameWorks.trans (sameWorks_addClaims y.2.2 y.2.1.id x.1.reverse)
  have hsettled : SameIssue y.2.1 { y.2.1 with ended := cpyDone y.2.1 } := ⟨rfl, rfl, rfl, rfl, rfl⟩
  exact issued_of_workIssued hgid htok ((workIssued_issueWork hgid ht.toSameAgents hissue).setWork hfresh (hissue.same hsettled)) _

/-! ## GATHER and SCATTER -/

theorem Returns.foldlM {ε α β : Type} {P : α → Prop} {f : α → β → Except ε α} (hf : ∀ a b, P a → Returns P (f a b)) (l : List β) {a : α} (ha : P a) :
    Returns P (l.foldlM f a) := by
  induction l generalizing a with
  | nil => exact returns_ok ha
  | cons b l ih => exact (hf a b ha).bind fun _ h => ih h

theorem sameIssue_note (w : Work) (cause index : Nat) : SameIssue w (w.note cause index) := by
  unfold Work.note
  split
  · exact ⟨rfl, rfl, rfl, rfl, rfl⟩
  · exact .refl w

theorem sameIssue_gsStatus (s : State) (w : Work) : SameIssue w (gsStatus s w) := by
  unfold gsStatus
  generalize List.filter _ (gsAll s w) = l
  induction l generalizing w with
  | nil => exact .refl w
  | cons b l ih => exact (sameIssue_note ..).trans (ih _)

theorem returns_gsLane (s : State) (w : Work) (lane : Nat) : Returns (fun r => SamePair s w r.2.1 r.2.2) (gsLane s w lane) :=
  (returns_workLocs ..).bind fun _ hg => (returns_workLocs ..).bind fun _ hp => returns_ok (hg.2.trans hp.2)

/-- Without a fault the instruction goes on. -/
theorem completeLanes_nil (us : List Use) (len : Nat) (uniform : Bool) (s : State) : completeLanes us len uniform [] s = finish us len s := rfl

theorem returns_gsBody {kind : WorkKind} {us : List Use} {d a r : BitVec 7} {s u : State} {gid : Nat} {es : List Elem} (hgid : s.cur = .group gid)
    (hfresh : freshWorks s) (htok : 96 ≤ d.toNat ∧ d.toNat ≠ 127)
    (hparam : gsParam s (newWork s kind d 0 (readBlock s a 8)) = none) :
    let w := { newWork s kind d 0 (readBlock s a 8) with vals := (laneList s).map fun l => (l, readField s r.toNat l) }
    elements s { n := w.word 4, k := if isScatter w then .write else .read, align := 1, perm := notPriv } false (gsG w) = .ok ((es, []), u) →
    Returns (issued kind d (readBlock s a 8) s) (gsBody s kind us d a r) := by
  have hw := issueOf_newWork s kind d 0 (readBlock s a 8)
  unfold gsBody
  generalize newWork s kind d 0 (readBlock s a 8) = w0 at hparam hw ⊢
  intro w hel
  have hu : SameClaims s u := (keeps_elements ..).of_ok _ hel
  refine .then fun _ => ?_
  extract_lets +onlyGivenNames v
  rw [show gsParam s v = none from hparam]
  extract_lets v'
  rw [show elements s _ _ (gsG v') = _ from hel]
  refine .bind (x := .ok ((es, []), u)) (P := (· = ((es, []), u))) (returns_ok rfl) ?_
  rintro _ rfl
  dsimp -zeta only
  extract_lets w'
  have hw' : IssueOf kind d.toNat (readBlock s a 8) s w' := hw.same ⟨rfl, rfl, rfl, rfl, rfl⟩
  refine .bind (P := fun p => SamePair s w' p.1 p.2) (.foldlM (fun p l hp => ?lane) _ ⟨.refl w', hu⟩) fun p hp => ?rest
  case lane =>
    split
    · next hl => exact returns_ok (hp.trans ((returns_gsLane ..).of_ok _ hl))
    · exact returns_error _
    · exact returns_ok ⟨hp.1.trans ⟨rfl, rfl, rfl, rfl, rfl⟩, hp.2.trans (sameClaims_noteError ..)⟩
  case rest =>
    obtain ⟨hv, ht⟩ := hp
    refine (returns_claimLines ..).bind fun t hclaims => returns_ok ?_
    rw [completeLanes_nil]
    have hp := hw'.same hv
    have hs : SameIssue p.1 { gsStatus (issueWork t p.1) p.1 with ended := gsDone (issueWork t p.1) (gsStatus (issueWork t p.1) p.1) } :=
      (sameIssue_gsStatus ..).trans ⟨rfl, rfl, rfl, rfl, rfl⟩
    exact issued_of_workIssued hgid htok ((workIssued_issueWork hgid (ht.toSameWorks.trans hclaims).toSameAgents hp).setWork hfresh (hp.same hs)) us

/-- GATHER and SCATTER run the same body. -/
theorem gsInstr_issues {i : Instr} {kind : WorkKind} {d a r : BitVec 7} {s u v : State} {es : List Elem} (h : issues i s)
    (hexec : exec i s = run s i.opn (mod7 i) (uses i) (gsBody s kind (uses i) d a r)) (hopn : ctxAllows .axp i.opn = false ∧ ctxAllows .queue i.opn = false)
    (hus : wr .tok d ∈ uses i) (hparam : gsParam s (newWork s kind d 0 (readBlock s a 8)) = none) :
    let w := { newWork s kind d 0 (readBlock s a 8) with vals := (laneList s).map fun l => (l, readField s r.toNat l) }
    elements s { n := w.word 4, k := if isScatter w then .write else .read, align := 1, perm := notPriv } false (gsG w) = .ok ((es, []), u) →
    gsBody s kind (uses i) d a r = .ok v → exec i s = .next v ∧ issued kind d (readBlock s a 8) s v := by
  intro w hel hv
  obtain ⟨hx, ⟨hstops, hready⟩, -, hfresh, -⟩ := h
  obtain ⟨gid, hgid⟩ := group_of_ready hready hx hopn
  refine ⟨?_, (returns_gsBody hgid hfresh (token_of_ready hready hgid hus) hparam hel).of_ok v hv⟩
  rw [hexec, run_ready s _ _ _ _ hstops hready, hv]
  rfl

/-! ## LDSLOT and CBLOAD -/

theorem tabFind_tabMod_same {α : Type} (t : Tab α) (k : Nat) (f : α → α) : tabFind (tabMod t k f) k = (tabFind t k).map f := by
  induction t with
  | nil => rfl
  | cons p t ih =>
    simp only [tabMod, tabFind]
    by_cases hk : p.1 = k
    · simp only [hk, if_true, tabFind, Option.map_some]
    · simp only [hk, if_false, tabFind, ih]
      split <;> rfl

/-- A slot of a team holds what was put there. -/
theorem teamSlot_putSlot {s : State} {tag : Nat} {tm : Team} (h : tabFind s.teams tag = some tm) (n : Nat) (sl : OpSlot) :
    teamSlot (getTeam (putSlot s tag n sl) tag) n = some sl := by
  simp only [teamSlot, getTeam, putSlot, modTeam, tabFind_tabMod_same, h, Option.map_some, Option.getD_some, tabFind_tabPut_same]

theorem sameAgents_putSlot (s : State) (tag n : Nat) (sl : OpSlot) : SameAgents s (putSlot s tag n sl) := ⟨rfl, rfl, rfl, rfl⟩

theorem curTag_group {s : State} {gid : Nat} (hgid : s.cur = .group gid) : curTag s = tagOf gid := by
  simp only [curTag, groupOfCur, hgid]

/-- The teams when the work of an instruction has been issued and the group goes on. -/
theorem finish_issueWork_frame {s : State} {gid : Nat} (hgid : s.cur = .group gid) (us : List Use) (len : Nat) (w : Work) :
    (finish us len (issueWork s w)).teams = s.teams ∧ (finish us len (issueWork s w)).cores = s.cores := by
  obtain ⟨hcur, -, hteams, hcores⟩ := issueWork_frame hgid w
  obtain ⟨hstate, -⟩ := finish_group (hcur.trans hgid) us len
  rw [hstate]
  exact ⟨hteams, hcores⟩

theorem execLdslot_issues {d a : BitVec 7} {s : State} {gid : Nat} {tm : Team} {sl : OpSlot} (hgid : s.cur = .group gid)
    (htm : tabFind s.teams (tagOf gid) = some tm) (h : issues (.ldslot d a) s)
    (hsl : teamSlot tm (ldSlotNo (newWork s (.ldslot 0) d 0 (readBlock s a 8))) = some sl) (hstate : sl.state ≠ .loading)
    (hparam : ldslotParam s (newWork s (.ldslot 0) d 0 (readBlock s a 8)) = none) :
    ∃ t, exec (.ldslot d a) s = .next t ∧ issued (.ldslot (ldSlotNo (newWork s (.ldslot 0) d 0 (readBlock s a 8)))) d (readBlock s a 8) s t ∧
      teamSlot (getTeam t (tagOf gid)) (ldSlotNo (newWork s (.ldslot 0) d 0 (readBlock s a 8))) = some { sl with state := .loading } := by
  obtain ⟨hx, ⟨hstops, hready⟩, hgate, hfresh, -⟩ := h
  replace hready : ready s 0x203 0 (Uses.cpy d a) = .ok () := hready
  have htok := token_of_ready hready hgid List.mem_cons_self
  rw [show exec (.ldslot d a) s = execLdslot d a s from rfl]
  unfold execLdslot
  refine next_of_yields hstops hready ?_
  have hw := issueOf_newWork s (.ldslot 0) d 0 (readBlock s a 8)
  generalize newWork s (.ldslot 0) d 0 (readBlock s a 8) = w at hparam hsl hw ⊢
  generalize readBlock s a 8 = blk at *
  have hteam : getTeam s (curTag s) = tm := by rw [curTag_group hgid, getTeam, htm]; rfl
  extract_lets +onlyGivenNames w0 v tag slot
  rw [hteam, show teamSlot tm slot = some sl from hsl]
  refine .of_not hstate (.ok_bind hgate ?_)
  rw [show ldslotParam s v = none from hparam]
  extract_lets w'
  generalize hx : tryKeys s w' .read _ = x
  obtain ⟨⟨hv, hu⟩, -⟩ := samePair_tryKeys hx
  have hissue : IssueOf (.ldslot (ldSlotNo w)) d.toNat blk s x.2.1 := IssueOf.same (w := w') ⟨hw.id, rfl, hw.agent, hw.token, hw.blk_eq⟩ hv
  have hput := hu.toSameAgents.trans (sameAgents_putSlot x.2.2 tag slot { sl with state := .loading })
  refine ⟨_, rfl, issued_of_workIssued hgid htok (workIssued_issueWork hgid hput hissue) _, ?_⟩
  have htag : tag = tagOf gid := curTag_group hgid
  rw [getTeam, (finish_issueWork_frame (hput.cur.trans hgid) _ _ _).1, htag]
  exact teamSlot_putSlot (by rw [hu.teams, htm]) _ _

theorem execCbload_issues {d a : BitVec 7} {s : State} {gid n : Nat} {tm : Team} {sl : OpSlot} (hgid : s.cur = .group gid)
    (htm : tabFind s.teams (tagOf gid) = some tm) (h : issues (.cbload d a) s) (hn : (readField s (a.toNat + 2) 0).toNat = n) (hlt : n < 16)
    (hsl : teamSlot tm n = some sl) (hparam : cbloadParam s (newWork s (.cbload n) d 0 (readBlock s a 4)) = none) :
    ∃ t, exec (.cbload d a) s = .next t ∧ issued (.cbload n) d (readBlock s a 4) s t ∧
      teamSlot (getTeam t (tagOf gid)) n = some { sl with cbv := false } := by
  obtain ⟨hx, ⟨hstops, hready⟩, hgate, hfresh, -⟩ := h
  replace hready : ready s 0x204 0 (Uses.cbload d a) = .ok () := hready
  have htok := token_of_ready hready hgid List.mem_cons_self
  rw [show exec (.cbload d a) s = execCbload d a s from rfl]
  unfold execCbload
  refine next_of_yields hstops hready ?_
  have hw := issueOf_newWork s (.cbload 0) d 0 (readBlock s a 4)
  have hword : (newWork s (.cbload 0) d 0 (readBlock s a 4)).word 2 = n := (word_readBlock (by decide)).trans hn
  have hkind : newWork s (.cbload n) d 0 (readBlock s a 4) = { newWork s (.cbload 0) d 0 (readBlock s a 4) with kind := .cbload n } := rfl
  rw [hkind] at hparam
  generalize newWork s (.cbload 0) d 0 (readBlock s a 4) = w at hparam hword hw ⊢
  generalize readBlock s a 4 = blk at *
  have hteam : getTeam s (curTag s) = tm := by rw [curTag_group hgid, getTeam, htm]; rfl
  extract_lets +onlyGivenNames w0 slot v tag
  have hslot : slot = n := by rw [show slot = w.word 2 % 16 from rfl, hword, Nat.mod_eq_of_lt hlt]
  rw [hteam, show teamSlot tm slot = some sl by rw [hslot, hsl]]
  refine .ok_bind hgate ?_
  extract_lets +onlyGivenNames t
  rw [show cbloadParam s v = none by rw [← hparam, ← hslot]]
  generalize hx : tryKeys t _ .read _ = x
  obtain ⟨⟨hv, hu⟩, -⟩ := samePair_tryKeys hx
  clear hx
  obtain ⟨keys, y, u⟩ := x
  have hloading : IssueOf (.cbload n) d.toNat blk s v := ⟨hw.id, congrArg WorkKind.cbload hslot, hw.agent, hw.token, hw.blk_eq⟩
  have hissue := hloading.same (v := y) ⟨hv.id, hv.kind, hv.agent, hv.token, hv.blk⟩
  have hput := (sameAgents_putSlot s tag slot { sl with cbv := false }).trans hu.toSameAgents
  refine ⟨finish (Uses.cbload d a) 4 (issueWork u y), rfl, ?_, ?_⟩
  · exact issued_of_workIssued hgid htok (workIssued_issueWork hgid hput hissue) _
  have htag : tag = tagOf gid := curTag_group hgid
  rw [getTeam, (finish_issueWork_frame (hput.cur.trans hgid) _ _ _).1, hu.teams, ← htag, ← hslot]
  exact teamSlot_putSlot (by rw [htag, htm]) _ _

/-! ## ACCST -/

theorem coreOfGroup_congr {s u : State} (h : u.teams = s.teams) (gid : Nat) : coreOfGroup u gid = coreOfGroup s gid := by
  rw [coreOfGroup, teamOf, getTeam, h]
  rfl

/-- The queue of a group's core after one operation more. -/
theorem queueMatrix_group {s : State} {gid : Nat} (hgid : s.cur = .group gid) (hroom : (getCore s (coreOfGroup s gid)).matrix.length < 8) (k : MatrixKind) :
    ∃ t, queueMatrix s k = .ok t ∧ SameAgents s t ∧
      (getCore t (coreOfGroup s gid)).matrix = (getCore s (coreOfGroup s gid)).matrix ++ [{ gid := gid, kind := k }] := by
  have hcore : coreOfCur s = coreOfGroup s gid := by simp only [coreOfCur, coreOf, hgid, Option.getD_some]
  have hgroup : groupOfCur s = gid := by simp only [groupOfCur, hgid]
  refine ⟨_, if_neg ?_, ⟨rfl, rfl, rfl, rfl⟩, ?_⟩
  · rw [hcore]; omega
  · rw [hcore, getCore_setCore_same, hgroup]

theorem execAccst_issues {d a : BitVec 7} {tl : BitVec 2} {z : BitVec 1} {o : BitVec 4} {s : State} {gid : Nat} {tm : Team} (hgid : s.cur = .group gid)
    (htm : tabFind s.teams (tagOf gid) = some tm) (h : issues (.accst d a tl z o) s) (htl : tl.toNat < tm.held)
    (hroom : (getCore s (coreOfGroup s gid)).matrix.length < 8)
    (hparam : accstParam s (newWork s .accst d (tl.toNat + 4 * z.toNat + 8 * o.toNat) (readBlock s a 8)) = none)
    (hfit : claimsFit s ((accstStarts (newWork s .accst d (tl.toNat + 4 * z.toNat + 8 * o.toNat) (readBlock s a 8))).map (·.2)).sum) :
    ∃ t, exec (.accst d a tl z o) s = .next t ∧ issued .accst d (readBlock s a 8) s t ∧
      (getCore t (coreOfGroup s gid)).matrix = (getCore s (coreOfGroup s gid)).matrix ++ [{ gid := gid, kind := .accst tl.toNat s.nextId }] := by
  obtain ⟨hx, ⟨hstops, hready⟩, hgate, hfresh, -⟩ := h
  replace hready : ready s 0x213 0 (Uses.accst d a z o) = .ok () := hready
  have htok := token_of_ready hready hgid List.mem_cons_self
  rw [show exec (.accst d a tl z o) s = execAccst d a tl z o s from rfl]
  unfold execAccst
  refine next_of_yields hstops hready ?_
  have hteam : getTeam s (curTag s) = tm := by rw [curTag_group hgid, getTeam, htm]; rfl
  have hheld : firstReason [(6, decide (tm.held ≤ tl.toNat))] = .ok () := by
    rw [firstReason, List.find?_cons_of_neg (by simpa using htl)]
    rfl
  rw [hteam]
  refine .ok_bind hheld (.ok_bind hgate ?_)
  have hw := issueOf_newWork s .accst d (tl.toNat + 4 * z.toNat + 8 * o.toNat) (readBlock s a 8)
  generalize newWork s .accst d (tl.toNat + 4 * z.toNat + 8 * o.toNat) (readBlock s a 8) = w at hparam hfit hw ⊢
  generalize readBlock s a 8 = blk at *
  extract_lets +onlyGivenNames v
  rw [show accstParam s v = none from hparam]
  extract_lets w'
  generalize hx : segKeys s w' _ = x
  obtain ⟨⟨hv, hu⟩, hk⟩ := samePair_segKeys hx
  have hissue : IssueOf .accst d.toNat blk s x.2.1 := IssueOf.same (w := w') ⟨hw.id, hw.kind_eq, hw.agent, hw.token, hw.blk_eq⟩ hv
  refine .ok_bind (claimLines_of_claimsFit hfit hu hissue.id hk) ?_
  have ht := hu.toSameWorks.trans (sameWorks_addClaims x.2.2 x.2.1.id x.1)
  generalize addClaims x.2.2 x.2.1.id x.1 = u at ht ⊢
  have hcore := coreOfGroup_congr ht.teams gid
  rw [← hcore, ← ht.matrix] at hroom
  obtain ⟨q, hq, hsame, hmatrix⟩ := queueMatrix_group (ht.cur.trans hgid) hroom (.accst tl.toNat x.2.1.id)
  have hqs := ht.toSameAgents.trans hsame
  refine .ok_bind hq ⟨_, rfl, issued_of_workIssued hgid htok (workIssued_issueWork hgid hqs hissue) _, ?_⟩
  rw [getCore, (finish_issueWork_frame (hqs.cur.trans hgid) _ _ _).2, ← getCore, ← hcore, hmatrix, ht.matrix, hissue.id]

/-! ## TOKTEST (R185) -/

/-- What writing a predicate in several lanes leaves of a register file. -/
def RegFile.putPreds (r : RegFile) (p : Nat) (lanes : List Nat) (f : Nat → Bool) : RegFile := lanes.foldl (fun r l => r.writeP p l (f l)) r

theorem writeP_frame (r : RegFile) (n lane : Nat) (b : Bool) : ∃ p, r.writeP n lane b = { r with p := p } := by
  unfold RegFile.writeP
  split
  · exact ⟨r.p, rfl⟩
  · exact ⟨_, rfl⟩

theorem getLsbD_setBit (m : Mask) (b : Bool) {l k : Nat} (hk : k < 64) :
    (if b then m ||| BitVec.ofNat 64 (2 ^ l) else m &&& ~~~(BitVec.ofNat 64 (2 ^ l))).getLsbD k = if k = l then b else m.getLsbD k := by
  have hbit : (BitVec.ofNat 64 (2 ^ l)).getLsbD k = decide (k = l) := by
    rw [BitVec.getLsbD_ofNat, Nat.testBit_two_pow]
    simp [hk, eq_comm]
  cases b
  · simp only [Bool.false_eq_true, if_false, BitVec.getLsbD_and, BitVec.getLsbD_not, hbit, hk]
    by_cases hkl : k = l <;> simp [hkl]
  · simp only [if_true, BitVec.getLsbD_or, hbit]
    by_cases hkl : k = l <;> simp [hkl]

theorem readP_writeP {r : RegFile} (hr : regsRising r) (n l : Nat) (b : Bool) {k m : Nat} (hm : m < 64) :
    (r.writeP n l b).readP k m = if k = n ∧ m = l then (decide (n = 7) || b) else r.readP k m := by
  obtain ⟨-, -, hp⟩ := hr
  unfold RegFile.writeP
  by_cases h7 : n = 7
  · subst h7
    rw [if_pos rfl]
    split
    · next h => rw [h.1]; rfl
    · rfl
  · rw [if_neg h7]
    simp only [RegFile.readP, tabGet_tabSet _ _ _ _ _ hp]
    by_cases hkn : k = n
    · subst hkn
      simp only [if_true, getLsbD_setBit _ b hm, true_and]
      split <;> rfl
    · simp only [hkn, if_false, false_and]

theorem regsRising_writeP {r : RegFile} (hr : regsRising r) (n l : Nat) (b : Bool) : regsRising (r.writeP n l b) := by
  obtain ⟨hv, hs, hp⟩ := hr
  unfold RegFile.writeP
  split
  · exact ⟨hv, hs, hp⟩
  · exact ⟨hv, hs, tabRising_tabSet _ _ _ hp⟩

section
variable {p : Nat} (f : Nat → Bool)

theorem putPreds_frame (lanes : List Nat) (r : RegFile) : ∃ q, r.putPreds p lanes f = { r with p := q } := by
  induction lanes generalizing r with
  | nil => exact ⟨r.p, rfl⟩
  | cons l ls ih =>
    obtain ⟨q, hq⟩ := writeP_frame r p l (f l)
    obtain ⟨q', hq'⟩ := ih (r.writeP p l (f l))
    exact ⟨q', hq'.trans (by rw [hq])⟩

theorem readP_putPreds {lanes : List Nat} {r : RegFile} (hr : regsRising r) {k m : Nat} (hm : m < 64) :
    (r.putPreds p lanes f).readP k m = if k = p ∧ m ∈ lanes then (decide (p = 7) || f m) else r.readP k m := by
  induction lanes generalizing r with
  | nil => simp [RegFile.putPreds]
  | cons l ls ih =>
    rw [show r.putPreds p (l :: ls) f = (r.writeP p l (f l)).putPreds p ls f from rfl, ih (regsRising_writeP hr p l (f l)), readP_writeP hr p l (f l) hm]
    grind

theorem putPreds_group {gid : Nat} (lanes : List Nat) {s : State} (hg : s.cur = .group gid) :
    RegsOnly gid s (putPreds s p lanes f) ∧ regsOf (putPreds s p lanes f) = (regsOf s).putPreds p lanes f := by
  induction lanes generalizing s with
  | nil => exact ⟨.refl gid s, rfl⟩
  | cons l ls ih =>
    have hstep := regsOnly_setRegs hg ((regsOf s).writeP p l (f l))
    have hregs := regsOf_setRegs_group s ((regsOf s).writeP p l (f l)) gid hg
    obtain ⟨hrest, hval⟩ := ih (hstep.cur_eq.trans hg)
    rw [hregs] at hval
    exact ⟨hstep.trans hrest, hval⟩

end

/-- A group's operation that writes a predicate in its active lanes and goes on (R32). -/
theorem predResult_of_putPreds {i : Instr} {s : State} {gid len : Nat} {p : BitVec 7} {f : Nat → Bool} (hg : s.cur = .group gid)
    (hr : regsRising (regsOf s)) (hlen : ilen i = len) (he : exec i s = .next (advance len (putPreds s p.toNat (laneList s) f))) : predResult i p f s := by
  obtain ⟨hu, hval⟩ := putPreds_group f (laneList s) hg (p := p.toNat)
  have hregs := (regsOf_advance hg hu len).trans hval
  obtain ⟨q, hq⟩ := putPreds_frame f (laneList s) (regsOf s) (p := p.toNat)
  refine ⟨_, he, ⟨fun l hl => ?value, fun k l _ hl hc => ?preds⟩, ⟨fun n l _ _ hn _ => ?others, fun n _ hn => ?full, ?erm⟩, ?pc, contextOnly_advance hg hu len i⟩
  case value => rw [hregs, readP_putPreds f hr (laneList_lt hg l hl), if_pos ⟨rfl, hl⟩]
  case preds => rw [hregs, readP_putPreds f hr hl, if_neg hc]
  case others => rw [readField_eq _ _ hn, readField_eq _ _ hn, hregs, hq]; rfl
  case full => rw [isEmptyField_eq _ hn, isEmptyField_eq _ hn, hregs, hq]; rfl
  case erm => rw [hregs, hq]
  case pc => rw [pcOf_advance hg hu, hlen]

theorem execToktest_predResult {p a : BitVec 7} {s : State} (h : runs (.toktest p a) s) :
    predResult (.toktest p a) p (fun _ => !isEmptyField s a.toNat) s := by
  obtain ⟨hx, hr, hstops, hready⟩ := h
  replace hready : ready s 0x1C3 0 (Uses.toktest p a) = .ok () := hready
  replace hstops : runOnStops s 0x1C3 = false := hstops
  obtain ⟨gid, hgid⟩ := group_of_ready hready hx (by decide)
  refine predResult_of_putPreds (len := 4) hgid hr rfl ?_
  rw [show exec (.toktest p a) s = execToktest p a s from rfl, execToktest, run_ready s _ _ _ _ hstops hready, finish_noQ]
  · rfl
  · rfl

end Sys2Proof.Machine

namespace Sys2Proof.Claim

open Machine

/-- Settles O39: what the copy engine and the matrix unit do at issue to the memory system leaves groups, works and teams, so the work that the instruction adds is the one it made, with room for its claims where they fit. -/
theorem copyEngineWorkIssues : Obligations.CopyEngineWorkIssues := by
  unfold Obligations.CopyEngineWorkIssues
  intro d a r p tl z o s blk
  refine ⟨fun h hfit hparam => execCpy_issues h hfit hparam, ?gs, execToktest_predResult, fun gid tm hgid htm => ⟨?ldslot, ?cbload, ?accst⟩⟩
  case gs =>
    intro k hk h w es u v hparam hel hv
    simp only [List.mem_cons, List.not_mem_nil, or_false] at hk
    rcases hk with rfl | rfl
    · exact gsInstr_issues h rfl ⟨rfl, rfl⟩ List.mem_cons_self hparam hel hv
    · exact gsInstr_issues h rfl ⟨rfl, rfl⟩ List.mem_cons_self hparam hel hv
  case ldslot => exact fun sl h hsl hstate hparam => execLdslot_issues hgid htm h hsl hstate hparam
  case cbload => exact fun sl h hlt hsl hparam => execCbload_issues hgid htm h rfl hlt hsl hparam
  case accst => exact fun h htl hroom hparam hfit => execAccst_issues hgid htm h htl hroom hparam hfit

end Sys2Proof.Claim
end


section
/-! What keeps the canonical form: its parts, the accessors, and the updates of each part of the state (02_numbers R72, R78; 03_group R95; 01_encoding R27, R32). -/

namespace Sys2Proof.Machine

open Claim

/-! ## The parts of the canonical form -/

/-- What the canonical form asks of an access slice. -/
def sliceCanon (a : Axp) : Prop := regsCanon a.regs

/-- What it asks of a group. -/
def groupCanon (g : Group) : Prop :=
  regsCanon g.regs ∧ tabCanon g.fcsr 0 = true ∧ (∀ x ∈ g.fcsr, x.2 &&& fcsrMask = x.2) ∧ g.mfr &&& mfrMask = g.mfr ∧ icntCanon g ∧
    ∀ a, g.axp = some a → sliceCanon a

/-- What it asks of a queue context. -/
def queueCanon (q : QCtx) : Prop := regsCanon q.regs ∧ q.level ≤ 3

/-- What it asks of a team. -/
def teamCanon (t : Team) : Prop := tabCanon t.spad 0 = true ∧ tabRising t.slots = true ∧ tabRising t.tiles = true

/-- What it asks of a cluster. -/
def clusterCanon (c : Cluster) : Prop := tabCanon c.mem 0 = true

/-- Every entry of a table satisfies P. -/
def tabAll {α : Type} (P : α → Prop) (t : Tab α) : Prop := ∀ p ∈ t, P p.2

/-- The canonical form of a state, by its parts, with every identity below `lo` given out. -/
def Canon (lo : Nat) (s : State) : Prop :=
  Memory.wf s.mem = true ∧ freshWorks s ∧ tabAll groupCanon s.groups ∧ tabAll queueCanon s.queues ∧ tabAll teamCanon s.teams ∧
    tabAll clusterCanon s.clusters ∧ lo ≤ s.nextId

/-! ## Tables of canonical parts -/

section
variable {α : Type} {P : α → Prop} {t : Tab α}

theorem tabAll_nil : tabAll P [] := fun _ h => nomatch h

theorem tabAll.find (h : tabAll P t) {k : Nat} {a : α} (hf : tabFind t k = some a) : P a := by
  induction t with
  | nil => exact nomatch hf
  | cons p r ih =>
    obtain ⟨j, b⟩ := p
    simp only [tabFind] at hf
    split at hf
    · cases hf; exact h _ List.mem_cons_self
    · split at hf
      · exact nomatch hf
      · exact ih (fun q hq => h q (List.mem_cons_of_mem _ hq)) hf

theorem tabAll.get (h : tabAll P t) (k : Nat) {d : α} (hd : P d) : P (tabGet t k d) := by
  unfold tabGet
  cases hf : tabFind t k with
  | none => exact hd
  | some a => exact h.find hf

theorem tabAll.put (h : tabAll P t) (k : Nat) {a : α} (ha : P a) : tabAll P (tabPut t k a) := fun p hp => by
  rcases mem_tabPut hp with rfl | hp
  · exact ha
  · exact h p hp

theorem tabAll.erase (h : tabAll P t) (k : Nat) : tabAll P (tabErase t k) := fun p hp => h p (mem_tabErase hp)

theorem tabAll.mod (h : tabAll P t) (k : Nat) {f : α → α} (hf : ∀ a, P a → P (f a)) : tabAll P (tabMod t k f) := fun p hp => by
  induction t with
  | nil => exact nomatch hp
  | cons q r ih =>
    obtain ⟨j, b⟩ := q
    have hr : tabAll P r := fun q hq => h q (List.mem_cons_of_mem _ hq)
    simp only [tabMod] at hp
    split at hp
    · rcases List.mem_cons.1 hp with rfl | hp
      · exact hf b (h _ List.mem_cons_self)
      · exact hr p hp
    · rcases List.mem_cons.1 hp with rfl | hp
      · exact h _ List.mem_cons_self
      · exact ih hr hp

theorem tabAll.map (h : tabAll P t) {f : Nat × α → Nat × α} (hf : ∀ p, P p.2 → P (f p).2) : tabAll P (t.map f) := fun p hp => by
  obtain ⟨q, hq, rfl⟩ := List.mem_map.1 hp
  exact hf q (h q hq)

end

/-! ## Answers that keep it -/

/-- What an optional value satisfies, where there is one. -/
def OnSome {α : Type} (P : α → Prop) (o : Option α) : Prop := ∀ a, o = some a → P a

theorem onSome_none {α : Type} {P : α → Prop} : OnSome P none := fun _ h => nomatch h

theorem onSome_some {α : Type} {P : α → Prop} {a : α} (h : P a) : OnSome P (some a) := fun _ h' => by cases h'; exact h

theorem OnSome.bind {α β : Type} {P : α → Prop} {Q : β → Prop} {o : Option α} {f : α → Option β} (ho : OnSome P o)
    (hf : ∀ a, P a → OnSome Q (f a)) : OnSome Q (o.bind f) := by
  cases o with
  | none => exact onSome_none
  | some a => exact hf a (ho a rfl)

theorem onSome_bind {α β : Type} {Q : β → Prop} {o : Option α} {f : α → Option β} (hf : ∀ a, OnSome Q (f a)) : OnSome Q (o.bind f) := by
  cases o with
  | none => exact onSome_none
  | some a => exact hf a

theorem OnSome.getD {α : Type} {P : α → Prop} {o : Option α} {d : α} (ho : OnSome P o) (hd : P d) : P (o.getD d) := by
  cases o with
  | none => exact hd
  | some a => exact ho a rfl

/-- The next state of an outcome keeps the canonical form. -/
def Lands (lo : Nat) (o : Out) : Prop := ∀ t, o = .next t → Canon lo t

theorem lands_next {lo : Nat} {s : State} (h : Canon lo s) : Lands lo (.next s) := fun _ h' => by cases h'; exact h

theorem of_branches {α : Type} {P : α → Prop} {c : Prop} [Decidable c] {a b : α} (ha : P a) (hb : P b) : P (if c then a else b) := by
  split
  · exact ha
  · exact hb

theorem of_foldl {α β : Type} {P : β → Prop} {f : β → α → β} {l : List α} {b : β} (h : P b) (hf : ∀ b a, P b → P (f b a)) : P (l.foldl f b) := by
  induction l generalizing b with
  | nil => exact h
  | cons a l ih => exact ih (hf b a h)

theorem returns_foldlM {ε α β : Type} {P : β → Prop} {f : β → α → Except ε β} {l : List α} {b : β} (h : P b)
    (hf : ∀ b a, P b → Returns P (f b a)) : Returns P (l.foldlM f b) := by
  induction l generalizing b with
  | nil => exact returns_ok h
  | cons a l ih => exact (hf b a h).bind fun c hc => ih hc

theorem Returns.and {ε α : Type} {P Q : α → Prop} {x : Except ε α} (hp : Returns P x) (hq : Returns Q x) : Returns (fun a => P a ∧ Q a) x :=
  ⟨fun a ha => ⟨hp.of_ok a ha, hq.of_ok a ha⟩⟩

/-! ## The parts of a canonical state -/

section
variable {s : State} {lo : Nat} (h : Canon lo s)
include h

theorem Canon.works : freshWorks s := h.2.1
theorem Canon.groups : tabAll groupCanon s.groups := h.2.2.1
theorem Canon.queues : tabAll queueCanon s.queues := h.2.2.2.1
theorem Canon.teams : tabAll teamCanon s.teams := h.2.2.2.2.1
theorem Canon.clusters : tabAll clusterCanon s.clusters := h.2.2.2.2.2.1
theorem Canon.ids : lo ≤ s.nextId := h.2.2.2.2.2.2

theorem Canon.mono {k : Nat} (hk : k ≤ s.nextId) : Canon k s :=
  ⟨h.1, h.2.1, h.2.2.1, h.2.2.2.1, h.2.2.2.2.1, h.2.2.2.2.2.1, hk⟩

/-- The identities given out so far. -/
theorem Canon.fresh : Canon s.nextId s := h.mono le_rfl

theorem Canon.lift {t : State} (ht : Canon s.nextId t) : Canon lo t := ht.mono (h.ids.trans ht.ids)

theorem Canon.lands {o : Out} (ho : Lands s.nextId o) : Lands lo o := fun t ht => h.lift (ho t ht)

theorem Canon.returns {x : Except Stop State} (hx : Returns (Canon s.nextId) x) : Returns (Canon lo) x := hx.imp fun _ => h.lift

/-! ## Updates of one part -/

theorem Canon.withMem {mem : List Host.Cell} (hm : Memory.wf mem = true) : Canon lo { s with mem := mem } := ⟨hm, h.2⟩

theorem Canon.withMemWritten (a : Nat) (bs : List Byte) : Canon lo { s with mem := memWriteList s.mem a bs } :=
  h.withMem (memWriteList_wf _ a bs h.1)

theorem Canon.withGroups {groups : Tab Group} (hg : tabAll groupCanon groups) : Canon lo { s with groups := groups } :=
  ⟨h.1, h.2.1, hg, h.2.2.2⟩

theorem Canon.withQueues {queues : Tab QCtx} (hq : tabAll queueCanon queues) : Canon lo { s with queues := queues } :=
  ⟨h.1, h.2.1, h.2.2.1, hq, h.2.2.2.2⟩

theorem Canon.withTeams {teams : Tab Team} (ht : tabAll teamCanon teams) : Canon lo { s with teams := teams } :=
  ⟨h.1, h.2.1, h.2.2.1, h.2.2.2.1, ht, h.2.2.2.2.2⟩

theorem Canon.withClusters {clusters : Tab Cluster} (hc : tabAll clusterCanon clusters) : Canon lo { s with clusters := clusters } :=
  ⟨h.1, h.2.1, h.2.2.1, h.2.2.2.1, h.2.2.2.2.1, hc, h.ids⟩

theorem Canon.withWorks {works : List Work} {n : Nat} (hw : ∀ v ∈ works, v.id < n) (hn : s.nextId ≤ n) :
    Canon lo { s with works := works, nextId := n } :=
  ⟨h.1, hw, h.2.2.1, h.2.2.2.1, h.2.2.2.2.1, h.2.2.2.2.2.1, h.ids.trans hn⟩

/-- An identity is given to something other than a work. -/
theorem Canon.withNextId {n : Nat} (hn : s.nextId ≤ n) : Canon lo { s with nextId := n } :=
  h.withWorks (fun v hv => (h.works v hv).trans_le hn) hn

/-- Works change, and keep their identities. -/
theorem Canon.mapWorks {f : Work → Work} (hf : ∀ w, (f w).id = w.id) : Canon lo { s with works := s.works.map f } := by
  refine h.withWorks (fun v hv => ?_) le_rfl
  obtain ⟨w, hw, rfl⟩ := List.mem_map.1 hv
  rw [hf w]
  exact h.works w hw

theorem Canon.filterWorks (f : Work → Bool) : Canon lo { s with works := s.works.filter f } :=
  h.withWorks (fun v hv => h.works v (List.mem_filter.1 hv).1) le_rfl

end

/-! ## A canonical state among several values -/

section
variable {α β : Type} {lo : Nat} {t : State} {a : α} {b : β}

theorem Canon.of_fst {p : State × α} (h : Canon lo p.1) (hp : p = (t, a)) : Canon lo t := by
  subst hp
  exact h

theorem Canon.of_snd {p : α × State} (h : Canon lo p.2) (hp : p = (a, t)) : Canon lo t := by
  subst hp
  exact h

theorem Canon.of_third {p : α × β × State} (h : Canon lo p.2.2) (hp : p = (a, b, t)) : Canon lo t := by
  subst hp
  exact h

end

theorem groupCanon_default : groupCanon {} := ⟨⟨rfl, rfl, rfl⟩, rfl, fun _ hx => (nomatch hx), by decide, ⟨rfl, fun _ hx => (nomatch hx)⟩, fun _ ha => (nomatch ha)⟩

theorem sliceCanon_default : sliceCanon {} := ⟨rfl, rfl, rfl⟩
theorem queueCanon_default : queueCanon {} := ⟨⟨rfl, rfl, rfl⟩, by decide⟩

end Sys2Proof.Machine
end

section
/-! What memory and homes keep of the canonical form (10_die_memory R305-R328). -/

namespace Sys2Proof.Machine

open Claim

variable {s : State} {lo : Nat}

theorem canon_freeNat (h : Canon lo s) : Canon lo (freeNat s).2 := h

theorem canon_freeBool (h : Canon lo s) : Canon lo (freeBool s).2 := h

theorem canon_unstrike {x : Strike} (h : Canon lo s) : Canon lo (unstrike s x) := h

theorem canon_setCore {c : Nat} {k : Core} (h : Canon lo s) : Canon lo (setCore s c k) := h

theorem queueCanon_goesTo {q : QCtx} (hq : queueCanon q) (pc : DWord) : queueCanon (q.goesTo pc) := of_branches (P := queueCanon) hq hq

theorem queueCanon_goesOn {q : QCtx} (hq : queueCanon q) (len : Nat) : queueCanon (q.goesOn len) := by
  have h : queueCanon (if q.away then q.goesTo (q.pc + BitVec.ofNat 64 len) else { q with head := (q.head + len) % 2 ^ q.logsz }) :=
    of_branches (queueCanon_goesTo hq _) hq
  exact h

theorem clusterCanon_getCluster {s : State} {c : Nat} (h : Canon lo s) : clusterCanon (getCluster s c) := h.clusters.get c (d := {}) rfl

theorem canon_setCluster {s : State} {c : Nat} {k : Cluster} (h : Canon lo s) (hk : clusterCanon k) : Canon lo (setCluster s c k) :=
  h.withClusters (h.clusters.put c hk)

theorem canon_markInval {line : Nat} {keep : Option Nat} (h : Canon lo s) : Canon lo (markInval s line keep) := h

theorem canon_countCopies {line : Nat} (h : Canon lo s) : Canon lo (countCopies s line) := h

theorem canon_dropCopies {line : Nat} (h : Canon lo s) : Canon lo (dropCopies s line) := h

theorem canon_keepBlock {blk : Nat} {bytes : List Byte} (h : Canon lo s) : Canon lo (keepBlock s blk bytes) := h

theorem canon_keepVersion {pa : Nat} (h : Canon lo s) : Canon lo (keepVersion s pa) := canon_keepBlock h

theorem canon_makeDirty {line : Nat} (h : Canon lo s) : Canon lo (makeDirty s line) := by
  unfold makeDirty
  split <;> exact h

theorem canon_writeBack {line : Nat} (h : Canon lo s) : Canon lo (writeBack s line) := h

theorem canon_writeThrough {pa : Nat} {bs : List Byte} (h : Canon lo s) : Canon lo (writeThrough s pa bs) := by
  unfold writeThrough
  split <;> exact h

theorem canon_countReq {pa : Nat} (h : Canon lo s) : Canon lo (countReq s pa) := of_branches h h

theorem canon_homeSet {s : State} {by' : Option Nat} {pa : Nat} {bs : List Byte} (h : Canon lo s) : Canon lo (homeSet s by' pa bs) := by
  unfold homeSet
  extract_lets line held s1 s2 s3 s4
  have h1 : Canon lo s1 := of_branches (canon_makeDirty h) h
  have h2 : Canon lo s2 := h1.withMemWritten pa bs
  have h3 : Canon lo s3 := of_branches h2 (canon_writeThrough h2)
  have h4 : Canon lo s4 := of_branches h3 h3
  exact of_branches (canon_markInval h4) h4

theorem canon_wakeWaiters {n : Nat} {s : State} {line : Nat} (h : Canon lo s) : Canon lo (wakeWaiters n s line) := by
  induction n generalizing s with
  | zero => exact h
  | succ n ih =>
    unfold wakeWaiters
    extract_lets value due
    split
    · exact h
    · extract_lets t
      have ht : Canon lo t := of_branches (canon_homeSet (canon_keepVersion h)) h
      exact ih (ht.withQueues (ht.queues.mod _ fun _ hq => queueCanon_goesOn hq 4))

theorem canon_homePut {by' : Option Nat} {pa : Nat} {bs : List Byte} (h : Canon lo s) : Canon lo (homePut s by' pa bs) :=
  canon_wakeWaiters (canon_homeSet h)

theorem canon_homeWriteRaw {by' : Option Nat} {pa : Nat} {bs : List Byte} (h : Canon lo s) : Canon lo (homeWriteRaw s by' pa bs) := by
  unfold homeWriteRaw
  extract_lets t t1
  have ht : Canon lo t := canon_keepVersion (canon_countReq h)
  exact canon_homePut (of_branches ht (canon_keepVersion ht))

theorem canon_combineAt {pa : Nat} {r : RedOp} (h : Canon lo s) : Canon lo (combineAt s pa r) := canon_homePut h

theorem canon_combineAll {n : Nat} {s : State} {l : List (Nat × Nat × RedOp)} (h : Canon lo s) : Canon lo (combineAll n s l) := by
  induction n generalizing s l with
  | zero => exact h
  | succ n ih =>
    unfold combineAll
    split
    · exact h
    · exact canon_combineAt h
    · exact ih (canon_combineAt (canon_freeNat h))

theorem canon_recallLine {line : Nat} (h : Canon lo s) : Canon lo (recallLine s line) := of_branches h (canon_combineAll h)

theorem canon_l2Leave {line : Nat} (h : Canon lo s) : Canon lo (l2Leave s line) := by
  unfold l2Leave
  extract_lets t
  have ht : Canon lo t := canon_writeBack (canon_recallLine (canon_dropCopies h))
  exact ht

theorem canon_l2Touch {line : Nat} (h : Canon lo s) : Canon lo (l2Touch s line) := by
  unfold l2Touch
  refine of_branches h ?_
  dsimp -zeta only
  extract_lets ways
  refine of_branches h ?_
  split
  · exact h
  · split
    · extract_lets t
      have ht : Canon lo t := canon_l2Leave h
      exact ht
    · exact h

theorem canon_serveLine {line : Nat} (h : Canon lo s) : Canon lo (serveLine s line) := canon_l2Touch (canon_recallLine h)

theorem canon_withPolicy {line pol : Nat} {f : State → State} (h : Canon lo s) (hf : ∀ t, Canon lo t → Canon lo (f t)) : Canon lo
    (withPolicy s line pol f) :=
  of_branches (hf _ h) (hf _ h)

theorem canon_homeWrite {by' : Option Nat} {pa : Nat} {bs : List Byte} (h : Canon lo s) : Canon lo (homeWrite s by' pa bs) :=
  canon_homeWriteRaw (canon_serveLine h)

theorem canon_homeWriteMany {by' : Option Nat} {pa : Nat} {bs : List Byte} (h : Canon lo s) : Canon lo (homeWriteMany s by' pa bs) :=
  of_foldl h fun _ _ ht => canon_homeWrite ht

theorem canon_modTeam {s : State} {tag : Nat} {f : Team → Team} (h : Canon lo s) (hf : ∀ t, teamCanon t → teamCanon (f t)) : Canon lo (modTeam s tag f) :=
  h.withTeams (h.teams.mod tag hf)

theorem canon_setTag {tag word : Nat} {full : Bool} (h : Canon lo s) : Canon lo (setTag s tag word full) := canon_modTeam h fun _ hm => hm

theorem teamCanon_withSpad {t : Team} (ht : teamCanon t) (off : Nat) (b : Byte) : teamCanon { t with spad := tabSet t.spad off b 0 } :=
  ⟨tabCanon_tabSet _ _ _ _ ht.1, ht.2⟩

theorem canon_locWrite {s : State} {by' : Option Nat} {l : Loc} {b : Byte} (h : Canon lo s) : Canon lo (locWrite s by' l b) := by
  unfold locWrite
  split
  · exact canon_homeWrite h
  · exact canon_modTeam (canon_unstrike h) fun _ ht => teamCanon_withSpad ht _ _
  · next c off =>
    exact canon_setCluster (canon_unstrike h) (tabCanon_tabSet _ off b 0 (clusterCanon_getCluster (c := c) h))

theorem canon_locWriteRun {s : State} {by' : Option Nat} {ws : List (Loc × Byte)} {run : List (Nat × Byte)} (h : Canon lo s) :
    Canon lo (locWriteRun s by' ws run) := by
  induction ws generalizing s run with
  | nil =>
    unfold locWriteRun
    split
    · exact h
    · exact canon_homeWrite h
  | cons w ws ih =>
    obtain ⟨l, b⟩ := w
    unfold locWriteRun
    split
    · split
      · exact ih h
      · exact ih (canon_homeWrite h)
    · exact ih h
    · exact ih (canon_locWrite h)

theorem canon_locWrites {by' : Option Nat} {ws : List (Loc × Byte)} (h : Canon lo s) : Canon lo (locWrites s by' ws) := canon_locWriteRun h

theorem canon_addClaim {c : Nat × Nat} (h : Canon lo s) : Canon lo (addClaim s c) := by
  unfold addClaim
  refine of_branches ?_ h
  extract_lets t
  have ht : Canon lo t := of_branches (canon_recallLine h) h
  exact ht

theorem canon_addClaims {work : Nat} {lines : List Nat} (h : Canon lo s) : Canon lo (addClaims s work lines) :=
  of_foldl h fun _ _ ht => canon_addClaim ht

theorem canon_retryClaims (h : Canon lo s) : Canon lo (retryClaims s) := of_branches h (of_foldl h fun _ _ ht => canon_addClaim ht)

theorem canon_dropClaim {work line : Nat} (h : Canon lo s) : Canon lo (dropClaim s work line) := canon_retryClaims h

theorem canon_dropClaims {work : Nat} (h : Canon lo s) : Canon lo (dropClaims s work) := canon_retryClaims h

end Sys2Proof.Machine
end

section
/-! What translation keeps of the canonical form (13_translation R387-R405). -/

namespace Sys2Proof.Machine

open Claim

variable {s : State} {lo : Nat}

theorem canon_fenceWalks {a : Agent} (h : Canon lo s) : Canon lo (fenceWalks s a) := h

theorem canon_tableRead {wk : Walker} {tr : State → Nat → Except XStop (Nat × State)} {lvl : Nat} {s2 : Bool} {addr n : Nat}
    (htr : ∀ t n, Canon lo t → Returns (fun r => Canon lo r.2) (tr t n)) (h : Canon lo s) : Returns (fun r => Canon lo r.2)
    (tableRead wk tr lvl s2 s addr n) := by
  unfold tableRead
  refine Returns.bind (htr _ _ h) fun _ hp => ?_
  dsimp -zeta only
  extract_lets t jp
  have hjp : ∀ (x : Unit), Returns (fun r => Canon lo r.2) (jp x) := by
    intro _
    unfold jp
    split
    · exact returns_error _
    · exact returns_ok (canon_serveLine hp)
  exact of_branches (returns_error _) (hjp ())

theorem canon_keepRange {wk : Walker} {id : StageId} {k d : Nat} (h : Canon lo s) : Canon lo (keepRange wk id s k d) := by
  unfold keepRange
  split <;> exact h

theorem canon_rangeScan {wk : Walker} {id : StageId} {tr : State → Nat → Except XStop (Nat × State)} {kept : List RangeEnt} {table x n k : Nat}
    (htr : ∀ (s : State) (a : Nat), Canon lo s → Returns (fun r => Canon lo r.2) (tr s a)) (h : Canon lo s) :
    Returns (fun r => Canon lo r.2) (rangeScan wk id tr kept table x n k s) := by
  induction n generalizing k s with
  | zero => exact returns_ok h
  | succ n ih =>
    have hb : ∀ d, Returns (fun r => Canon lo r.2) ((descOut d k x id.host).map (fun st => (st, s))) := fun d => (returns_true _).map fun _ _ => h
    have ht : Returns (fun r => Canon lo r.2) (tableRead wk tr 15 id.host s (table + 32 * k) 32) := canon_tableRead htr h
    unfold rangeScan
    extract_lets asBuffered mine
    clear_value mine
    split
    · next d _ t heq =>
      have hu : Canon lo t := ht.of_ok _ heq
      cases mine with
      | none =>
        dsimp -zeta only
        split
        · exact returns_ok (canon_keepRange hu)
        · exact ih hu
        · exact returns_error _
      | some e =>
        refine of_branches (hb _) ?_
        split
        · exact returns_ok (canon_keepRange hu)
        · exact ih hu
        · exact returns_error _
    · cases mine with
      | none => exact of_branches (returns_error _) (of_branches (ih h) (returns_error _))
      | some e => exact of_branches (returns_error _) (hb _)

theorem canon_rangeLookup {wk : Walker} {id : StageId} {tr : State → Nat → Except XStop (Nat × State)} {rangeRoot x : Nat}
    (htr : ∀ t n, Canon lo t → Returns (fun r => Canon lo r.2) (tr t n)) (h : Canon lo s) : Returns (fun r => Canon lo r.2)
    (rangeLookup wk id tr rangeRoot x s) :=
  canon_rangeScan htr h

theorem canon_keepTable {id : StageId} {x lvl table : Nat} (h : Canon lo s) : Canon lo (keepTable id s x lvl table) := h

theorem canon_putWalk {e : WalkEnt} (h : Canon lo s) : Canon lo (putWalk s e) := h

theorem canon_putRange {e : Nat × RangeEnt} (h : Canon lo s) : Canon lo (putRange s e) := canon_setCore h

theorem canon_settleWalks (h : Canon lo s) : Canon lo (settleWalks s) := by
  unfold settleWalks
  refine of_branches h ?_
  extract_lets t
  have ht : Canon lo t := of_foldl (of_foldl h fun _ _ ht1 => canon_putWalk ht1) fun _ _ ht2 => canon_putRange ht2
  exact ht

theorem canon_walkFrom {wk : Walker} {id : StageId} {tr : State → Nat → Except XStop (Nat × State)} {x fuel lvl table logN : Nat}
    (htr : ∀ (s : State) (a : Nat), Canon lo s → Returns (fun r => Canon lo r.2) (tr s a)) (h : Canon lo s) :
    Returns (fun r => Canon lo r.2) (walkFrom wk id tr x fuel lvl table logN s) := by
  induction fuel generalizing lvl table logN s with
  | zero => exact returns_error _
  | succ fuel ih =>
    unfold walkFrom
    extract_lets s2 idx entry asRead
    have hread : Returns (fun r => Canon lo r.2) asRead := by
      refine (canon_tableRead htr h).bind fun r hr => ?_
      refine of_branches (returns_error _) (of_branches (of_branches (returns_error _) (of_branches ?_ ?_)) ?_)
      · refine (canon_tableRead htr hr).bind fun q hq => ?_
        exact of_branches (returns_error _) (of_branches (returns_error _) (of_branches (returns_error _) (Returns.then fun _ => returns_ok hq)))
      · exact Returns.then fun _ => returns_ok hr
      · split
        · exact returns_error _
        · exact ih (canon_keepTable hr)
    split
    · exact hread
    · exact of_branches hread (ih h)

theorem canon_stageLookup {wk : Walker} {id : StageId} {tr : State → Nat → Except XStop (Nat × State)} {root rangeRoot : DWord} {x : Nat}
    (htr : ∀ t n, Canon lo t → Returns (fun r => Canon lo r.2) (tr t n)) (h : Canon lo s) : Returns (fun r => Canon lo r.2)
    (stageLookup wk id tr root rangeRoot x s) := by
  unfold stageLookup
  refine Returns.bind (canon_rangeLookup htr h) fun _ hp => ?_
  dsimp -zeta only
  split
  · exact returns_ok hp
  · exact of_branches (returns_error _) (canon_walkFrom htr hp)

theorem canon_setVf {vf : Nat} {v : Vf} (h : Canon lo s) : Canon lo (setVf s vf v) := h

theorem canon_hostTables {pa : Nat} (h : Canon lo s) : Returns (fun r => Canon lo r.2) (hostTables s pa) := returns_ok h

theorem canon_hostLookup {wk : Walker} {vf gpa : Nat} (h : Canon lo s) : Returns (fun r => Canon lo r.2) (hostLookup wk s vf gpa) :=
  canon_stageLookup (fun _ _ ht => canon_hostTables ht) h

theorem canon_guestTables {wk : Walker} {vf gpa : Nat} (h : Canon lo s) : Returns (fun r => Canon lo r.2) (guestTables wk vf s gpa) :=
  Returns.bind (canon_hostLookup h) fun _ hp => of_branches (returns_error _) (Returns.then fun _ => returns_ok hp)

theorem canon_guestLookup {wk : Walker} {vf asid : Nat} {gtrt grdt : DWord} {va : Nat} (h : Canon lo s) : Returns (fun r => Canon lo r.2)
    (guestLookup wk s vf asid gtrt grdt va) :=
  canon_stageLookup (fun _ _ ht => canon_guestTables ht) h

theorem canon_setAD {st : Stage1} {dirty : Bool} (h : Canon lo s) : OnSome (Canon lo) (setAD s st dirty) := by
  unfold setAD
  split
  · exact onSome_some h
  · exact of_branches onSome_none (of_branches (onSome_some h) (onSome_some (canon_homePut (canon_keepVersion (canon_serveLine h)))))

theorem canon_lookupBoth {wk : Walker} {sp : Space} {va : Nat} {k : Acc} {checkM : Bool} (h : Canon lo s) : Returns (fun r => Canon lo r.2)
    (lookupBoth wk s sp va k checkM) :=
  Returns.bind (canon_guestLookup h) fun _ hp => of_branches (returns_error _)
      (Returns.then fun _ => Returns.bind (canon_hostLookup hp) fun _ hp1 => of_branches (returns_error _) (Returns.then fun _ => returns_ok hp1))

theorem canon_setBoth {g h : Stage1} {dirty : Bool} (h1 : Canon lo s) : OnSome (Canon lo) (setBoth s g h dirty) :=
  OnSome.bind (canon_setAD h1) fun _ ht => canon_setAD ht

theorem canon_walkAD {core : Option Nat} {sp : Space} {va : Nat} {k : Acc} (h : Canon lo s) : Returns (fun r => Canon lo r.2) (walkAD core s sp va k) := by
  unfold walkAD
  extract_lets dirty
  refine Returns.bind (canon_lookupBoth h) fun _ hp => ?_
  dsimp -zeta only
  split
  · next heq => exact returns_ok ((canon_setBoth hp) _ heq)
  · exact Returns.bind (canon_lookupBoth h) fun _ hp1 => returns_ok (OnSome.getD (canon_setBoth hp1) hp1)

theorem canon_keepTlb {core : Nat} {e : TlbEnt} (h : Canon lo s) : Canon lo (keepTlb s core e) := canon_setCore h

theorem canon_tlbFill {core : Nat} {sp : Space} {va : Nat} {o : XOut} {k : Acc} (h : Canon lo s) : Canon lo (tlbFill s core sp va o k) :=
  canon_keepTlb h

theorem canon_keepAttrs {o : XOut} (h : Canon lo s) : Canon lo (keepAttrs s o) := of_branches h h

theorem canon_tlbHit {core : Nat} {e : TlbEnt} {sp : Space} {va : Nat} {k : Acc} (h : Canon lo s) : Returns (OnSome fun r => Canon lo r.2)
    (tlbHit s core e sp va k) := by
  unfold tlbHit
  extract_lets off x x1 o clean
  refine Returns.then fun _ => ?_
  refine Returns.then fun _ => ?_
  refine of_branches ?_ (returns_ok (onSome_some (canon_keepAttrs h)))
  split
  · next heq => exact returns_ok (onSome_some (canon_keepTlb (canon_keepAttrs ((canon_setBoth h) _ heq))))
  · exact returns_ok onSome_none

theorem canon_translateX {core : Option Nat} {sp : Space} {va : Nat} {k : Acc} (h : Canon lo s) :
    Returns (fun r => Canon lo r.2) (translateX s core sp va k) := by
  unfold translateX
  split
  · exact returns_error _
  · extract_lets walk
    have hwalk : Returns (fun r => Canon lo r.2) walk := by
      refine (canon_walkAD h).bind fun r hr => returns_ok ?_
      show Canon lo (match core with | some c => tlbFill (keepAttrs r.2 r.1) c sp va r.1 k | none => keepAttrs r.2 r.1)
      split
      · exact canon_tlbFill (canon_keepAttrs hr)
      · exact canon_keepAttrs hr
    split
    · exact hwalk
    · extract_lets hit
      have hhit : Returns (fun r => Canon lo r.2) hit := by
        unfold hit
        split
        · next heq => exact returns_ok (canon_tlbHit h |>.of_ok _ heq _ rfl)
        · exact hwalk
        · exact returns_error _
      exact of_branches hhit hwalk

theorem canon_translate {core : Option Nat} {sp : Space} {va : Nat} {k : Acc} (h : Canon lo s) : Returns (fun r => Canon lo r.2) (translate s core sp va k) :=
  Returns.map (canon_translateX h) fun _ hp => hp

theorem canon_translateRun {core : Option Nat} {sp : Space} {va n : Nat} {k : Acc} (h : Canon lo s) : Returns (fun r => Canon lo r.2)
    (translateRun s core sp va n k) :=
  of_foldl (returns_ok h) fun _ _ hx => Returns.bind hx fun _ hp => Returns.bind (canon_translateX hp) fun _ hp1 => returns_ok hp1

theorem canon_readVirt {sp : Space} {va n : Nat} (h : Canon lo s) : Returns (fun r => Canon lo r.2) (readVirt s sp va n) := by
  unfold readVirt
  refine Returns.bind (canon_translateRun h) fun _ hp => ?_
  dsimp -zeta only
  extract_lets addrs t
  split
  · exact returns_error _
  · exact returns_ok (of_foldl hp fun _ _ ht1 => canon_serveLine (canon_countReq ht1))

theorem canon_writeVirt {sp : Space} {va : Nat} {bs : List Byte} (h : Canon lo s) : Returns (fun r => Canon lo r.2) (writeVirt s sp va bs) := by
  unfold writeVirt
  refine Returns.bind (canon_translateRun h) fun _ hp => ?_
  dsimp -zeta only
  extract_lets addrs
  split
  · exact returns_error _
  · exact returns_ok (canon_locWrites hp)

end Sys2Proof.Machine
end

section
/-! What registers, groups, queue contexts and traps keep of the canonical form (01_encoding R27; 03_group R84-R88; 07_core_sched_traps R246-R253; 14_tenancy R434). -/

namespace Sys2Proof.Machine

open Claim

variable {s : State} {lo : Nat}

/-! ## Register files -/

theorem regsCanon_default : regsCanon {} := ⟨rfl, rfl, rfl⟩

theorem regsCanon_writeS {r : RegFile} {n : Nat} {w : Word} (hr : regsCanon r) : regsCanon (r.writeS n w) := by
  unfold RegFile.writeS
  split
  · exact hr
  · exact ⟨hr.1, tabCanon_tabSet _ _ _ _ hr.2.1, hr.2.2⟩

theorem regsCanon_writeV {r : RegFile} {n lane : Nat} {w : Word} (hr : regsCanon r) : regsCanon (r.writeV n lane w) :=
  ⟨tabCanon_tabSet _ _ _ _ hr.1, hr.2⟩

theorem regsCanon_writeP {r : RegFile} {n lane : Nat} {b : Bool} (hr : regsCanon r) : regsCanon (r.writeP n lane b) := by
  unfold RegFile.writeP
  split
  · exact hr
  · exact ⟨hr.1, hr.2.1, tabCanon_tabSet _ _ _ _ hr.2.2⟩

theorem regsCanon_setEmpty {r : RegFile} {n : Nat} {e : Bool} (hr : regsCanon r) : regsCanon (r.setEmpty n e) := hr

theorem regsCanon_mended {r : RegFile} {f lane : Nat} (hr : regsCanon r) : regsCanon (r.mended f lane) := of_branches hr hr

theorem regsCanon_writeField {r : RegFile} {f lane : Nat} {w : Word} (hr : regsCanon r) : regsCanon (r.writeField f lane w) :=
  of_branches (regsCanon_writeS hr) (of_branches (regsCanon_writeV hr) hr)

/-! ## Groups and their slices -/

theorem OnSome.map {α β : Type} {P : α → Prop} {Q : β → Prop} {o : Option α} {f : α → β} (ho : OnSome P o) (hf : ∀ a, P a → Q (f a)) :
    OnSome Q (o.map f) := by
  cases o with
  | none => exact onSome_none
  | some a => exact onSome_some (hf a (ho a rfl))

theorem groupCanon.regs {g : Group} (hg : groupCanon g) : regsCanon g.regs := hg.1

theorem groupCanon.axp {g : Group} (hg : groupCanon g) : OnSome sliceCanon g.axp := hg.2.2.2.2.2

theorem groupCanon.withRegs {g : Group} (hg : groupCanon g) {r : RegFile} (hr : regsCanon r) : groupCanon { g with regs := r } := ⟨hr, hg.2⟩

/-- A group whose slice changes, and of the registers of its lanes none. -/
theorem groupCanon.withSlice {g g' : Group} (hg : groupCanon g) (ha : OnSome sliceCanon g'.axp) (hregs : g'.regs = g.regs := by rfl)
    (hfcsr : g'.fcsr = g.fcsr := by rfl) (hmfr : g'.mfr = g.mfr := by rfl) (hicnt : g'.icnt = g.icnt := by rfl) : groupCanon g' := by
  unfold groupCanon icntCanon at *
  rw [hregs, hfcsr, hmfr, hicnt]
  exact ⟨hg.1, hg.2.1, hg.2.2.1, hg.2.2.2.1, hg.2.2.2.2.1, ha⟩

theorem groupCanon_getGroup {gid : Nat} (h : Canon lo s) : groupCanon (getGroup s gid) := h.groups.get gid groupCanon_default

theorem queueCanon_getQueue {qid : Nat} (h : Canon lo s) : queueCanon (getQueue s qid) := h.queues.get qid queueCanon_default

theorem sliceCanon_getAxp {gid : Nat} (h : Canon lo s) : sliceCanon (getAxp s gid) := (groupCanon_getGroup h).axp.getD sliceCanon_default

theorem canon_setGroup {gid : Nat} {g : Group} (h : Canon lo s) (hg : groupCanon g) : Canon lo (setGroup s gid g) := h.withGroups (h.groups.put gid hg)

theorem canon_modGroup {gid : Nat} {f : Group → Group} (h : Canon lo s) (hf : ∀ g, groupCanon g → groupCanon (f g)) : Canon lo (modGroup s gid f) :=
  canon_setGroup h (hf _ (groupCanon_getGroup h))

theorem canon_setQueue {qid : Nat} {q : QCtx} (h : Canon lo s) (hq : queueCanon q) : Canon lo (setQueue s qid q) := h.withQueues (h.queues.put qid hq)

theorem canon_modQueue {qid : Nat} {f : QCtx → QCtx} (h : Canon lo s) (hf : ∀ q, queueCanon q → queueCanon (f q)) : Canon lo (modQueue s qid f) :=
  canon_setQueue h (hf _ (queueCanon_getQueue h))

theorem canon_setAxp {gid : Nat} {a : Axp} (h : Canon lo s) (ha : sliceCanon a) : Canon lo (setAxp s gid a) :=
  canon_modGroup h fun _ hg => hg.withSlice (onSome_some ha)

theorem canon_setGrid {n : Nat} {g : Grid} (h : Canon lo s) : Canon lo (setGrid s n g) := h

theorem canon_setSlot {vf slot : Nat} {p : PSlot} (h : Canon lo s) : Canon lo (setSlot s vf slot p) := canon_setVf h

theorem canon_setRing {pkg vf : Nat} {r : Ring} (h : Canon lo s) : Canon lo (setRing s pkg vf r) := h

theorem canon_setTask {pkg vf : Nat} {t : ChTask} (h : Canon lo s) : Canon lo (setTask s pkg vf t) := canon_setRing h

theorem regsCanon_regsOf (h : Canon lo s) : regsCanon (regsOf s) := by
  unfold regsOf
  split
  · exact (groupCanon_getGroup h).regs
  · exact sliceCanon_getAxp h
  · exact (queueCanon_getQueue h).1
  · exact regsCanon_default

theorem canon_setRegs {r : RegFile} (h : Canon lo s) (hr : regsCanon r) : Canon lo (setRegs s r) := by
  unfold setRegs
  split
  · exact canon_modGroup h fun _ hg => hg.withRegs hr
  · exact canon_setAxp h hr
  · exact canon_modQueue h fun _ hq => ⟨hr, hq.2⟩
  · exact h

theorem canon_writeField {f lane : Nat} {w : Word} (h : Canon lo s) : Canon lo (writeField s f lane w) :=
  canon_setRegs h (regsCanon_mended (regsCanon_setEmpty (regsCanon_writeField (regsCanon_regsOf h))))

theorem canon_writePair {f lane : Nat} {w : DWord} (h : Canon lo s) : Canon lo (writePair s f lane w) := canon_writeField (canon_writeField h)

theorem canon_writeSReg {f : BitVec 7} {w : Word} (h : Canon lo s) : Canon lo (writeSReg s f w) := canon_writeField h

theorem canon_writeSPair {f : BitVec 7} {w : DWord} (h : Canon lo s) : Canon lo (writeSPair s f w) := canon_writePair h

theorem canon_markEmpty {fs : List Nat} (h : Canon lo s) : Canon lo (markEmpty s fs) :=
  canon_setRegs h (of_foldl (regsCanon_regsOf h) fun _ _ hr => of_branches hr (regsCanon_setEmpty hr))

theorem groupCanon_pumpStreams {g : Group} (hg : groupCanon g) : groupCanon (pumpStreams g) := by
  unfold pumpStreams
  split
  · exact hg
  · exact of_foldl hg fun g _ hg => hg.withSlice (onSome_some (show sliceCanon (g.axp.getD {}) from hg.axp.getD sliceCanon_default))

theorem canon_popQsBy {pop : Group → QReg → QReg} {fields : List Nat} (h : Canon lo s) : Canon lo (popQsBy pop s fields) := by
  unfold popQsBy
  split
  · exact of_foldl h fun _ _ ht => canon_modGroup ht fun _ hg => groupCanon_pumpStreams hg
  · exact h

theorem canon_popQs {fields : List Nat} (h : Canon lo s) : Canon lo (popQs s fields) := canon_popQsBy h

theorem canon_popQsFault {fields : List Nat} (h : Canon lo s) : Canon lo (popQsFault s fields) := canon_popQsBy h

/-! ## Traps -/

theorem canon_logError {cls pa vf : Nat} {uncorrected : Bool} (h : Canon lo s) : Canon lo (logError s cls pa vf uncorrected) := by
  unfold logError
  extract_lets base size bs t
  have ht : Canon lo t := of_branches (canon_unstrike h) h
  exact canon_homeWriteMany ht

theorem canon_noteError {cause : Nat} {aux : Word} {pa vf : Nat} (h : Canon lo s) : Canon lo (noteError s cause aux pa vf) :=
  of_branches (canon_logError h) h

theorem canon_noteXStop {vf : Nat} {x : XStop} (h : Canon lo s) : Canon lo (noteXStop s vf x) := by
  unfold noteXStop
  split
  · exact canon_logError h
  · exact h

theorem groupCanon_endRegionG {g : Group} (hg : groupCanon g) : groupCanon (endRegionG g) := groupCanon_pumpStreams hg

theorem groupCanon_endGroup {g : Group} (hg : groupCanon g) : groupCanon (endGroup g) := by
  unfold endGroup
  extract_lets x
  have hx : groupCanon x := groupCanon_endRegionG hg
  exact hx

theorem canon_endGrid {n cause : Nat} (h : Canon lo s) : Canon lo (endGrid s n cause) := by
  unfold endGrid
  exact h.withGroups (h.groups.map fun p hp => of_branches (P := fun q : Nat × Group => groupCanon q.2) (groupCanon_endGroup hp) hp)

theorem canon_noticeHost {vf : Nat} {n : Notice} (h : Canon lo s) : Canon lo (noticeHost s vf n) := by
  unfold noticeHost
  split
  · exact canon_modQueue h fun _ hq1 => hq1
  · exact canon_setVf h

theorem canon_trapGroupRec {gid : Nat} {r : TrapRec} (h : Canon lo s) : Canon lo (trapGroupRec s gid r) := by
  unfold trapGroupRec
  dsimp only
  split
  · next heq =>
    have ht := (canon_writeVirt h).of_ok _ heq
    exact canon_modGroup ht fun _ hg => hg
  · split
    · exact canon_modGroup h fun _ hg1 => hg1
    · exact canon_noticeHost (canon_endGrid (canon_noteXStop h))

theorem canon_trapGroup {gid : Nat} {t : Trap} {pc : DWord} (h : Canon lo s) : Canon lo (trapGroup s gid t pc) := canon_trapGroupRec h

theorem canon_takeDeferred {gid : Nat} (h : Canon lo s) : Canon lo (takeDeferred s gid) := by
  unfold takeDeferred
  split
  · exact canon_trapGroupRec h
  · exact h

/-- A handler is entered at a level that a queue context has. -/
theorem canon_enterHandler {qid level : Nat} {ret target : DWord} {info aux : Word} (h : Canon lo s) (hl : level ≤ 3) :
    Canon lo (enterHandler s qid ret target info aux level) := canon_modQueue h fun _ hq => ⟨hq.1, hl⟩

theorem canon_trapQueue {qid : Nat} {t : Trap} {ret : DWord} (h : Canon lo s) : Canon lo (trapQueue s qid t ret) := by
  unfold trapQueue
  extract_lets q u
  split
  · have hu : Canon lo u := canon_modQueue h fun _ hq => hq
    exact canon_noticeHost hu
  · exact canon_enterHandler h (queueCanon_getQueue h).2

theorem canon_trapAxp {gid : Nat} {t : Trap} (h : Canon lo s) : Canon lo (trapAxp s gid t) := by
  unfold trapAxp
  extract_lets a
  have ha : sliceCanon a := sliceCanon_getAxp h
  exact canon_setAxp h ha

theorem canon_setWork {w : Work} (h : Canon lo s) : Canon lo (setWork s w) :=
  h.mapWorks fun v => by split <;> simp [*]

theorem canon_dropWork {id : Nat} (h : Canon lo s) : Canon lo (dropWork s id) := canon_dropClaims (h.filterWorks _)

theorem canon_endWork {id cause index : Nat} (h : Canon lo s) : Canon lo (endWork s id cause index) := by
  unfold endWork
  split
  · exact of_branches h (canon_setWork h)
  · exact h

theorem canon_landStores {work : Nat} {l : List ChStore} (h : Canon lo s) : OnSome (Canon lo) (landStores s work l) :=
  of_branches onSome_none (onSome_some (of_foldl h fun _ _ ht => canon_homeWriteMany ht))

theorem canon_tryRecord {r : DueRecord} (h : Canon lo s) : Canon lo (tryRecord s r) := by
  unfold tryRecord
  extract_lets done r1
  have hdone : ∀ (s : State), Canon lo s → Canon lo (done s) := fun _ ht => canon_endWork ht
  split
  · exact h
  · next heq1 =>
    have ht1 := (canon_landStores h) _ heq1
    split
    · next heq2 =>
      have ht2 := (canon_writeVirt ht1).of_ok _ heq2
      exact hdone _ ht2
    · exact of_branches (hdone _ ht1) ht1
    · exact hdone _ (canon_noteXStop ht1)

theorem canon_tryRecords (h : Canon lo s) : Canon lo (tryRecords s) := of_foldl h fun _ _ ht => canon_tryRecord ht

theorem canon_writeRingRecord {pkg vf cause th idx seqNo va work index : Nat} {stores : List ChStore} (h : Canon lo s) : Canon lo
    (writeRingRecord s pkg vf cause th idx seqNo va work index stores) :=
  canon_tryRecord h

theorem canon_haltRing {pkg vf : Nat} (h : Canon lo s) : Canon lo (haltRing s pkg vf) := canon_setVf (canon_setRing h)

theorem canon_failTask {pkg vf cause index th idx va : Nat} (h : Canon lo s) : Canon lo (failTask s pkg vf cause index th idx va) := by
  unfold failTask
  extract_lets ring
  split
  · exact h
  · exact canon_writeRingRecord (canon_haltRing (canon_setRing h))

theorem canon_faultTask {pkg vf cause th idx va : Nat} (h : Canon lo s) : Canon lo (faultTask s pkg vf cause th idx va) :=
  canon_failTask h

theorem canon_failLoad {pkg vf cause va pa cls : Nat} (h : Canon lo s) : Canon lo (failLoad s pkg vf cause va pa cls) :=
  canon_failTask (of_branches (canon_logError h) h)

theorem canon_revokeTask {pkg vf : Nat} {t : ChTask} (h : Canon lo s) : Canon lo (revokeTask s pkg vf t) :=
  of_branches (canon_failTask (canon_freeNat (canon_dropClaims h))) (of_branches (canon_faultTask h) (canon_failLoad h))

theorem canon_takeTrap {t : Trap} (h : Canon lo s) : Canon lo (takeTrap t s) := by
  unfold takeTrap
  extract_lets t1
  have ht1 : Canon lo t1 := canon_noteError h
  split
  · exact canon_trapGroup ht1
  · exact canon_trapAxp ht1
  · exact canon_trapQueue ht1
  · exact canon_faultTask ht1
  · exact canon_faultTask ht1

theorem canon_laneFault {gid : Nat} {t : Trap} {parked : Mask} {len : Nat} (h : Canon lo s) : Canon lo (laneFault s gid t parked len) := by
  unfold laneFault
  extract_lets g g1 go
  have hg : groupCanon g := groupCanon_getGroup h
  have hgo : ∀ (r : TrapRec) (n : Nat), Canon lo (go r n) := fun _ _ => canon_setGroup h hg
  split
  · exact hgo _ _
  · exact of_branches (hgo _ _) (canon_trapGroupRec (canon_setGroup h hg))

theorem canon_waitOn {w : Wait} (h : Canon lo s) : Canon lo (waitOn w s) := by
  unfold waitOn
  split
  · exact of_branches (canon_takeDeferred h) (canon_modGroup h fun _ hg => hg)
  · exact canon_modGroup h fun _ hg => hg.withSlice (hg.axp.map fun _ ha => ha)
  · exact canon_modQueue h fun _ hq => hq
  · exact h

theorem groupCanon_groupDone {g : Group} {pc : DWord} (hg : groupCanon g) : groupCanon (groupDone g pc) := hg

theorem canon_goTo {pc : DWord} (h : Canon lo s) : Canon lo (goTo s pc) := by
  unfold goTo
  split
  · exact canon_modGroup h fun _ hg => groupCanon_groupDone hg
  · refine canon_setAxp h ?_
    extract_lets x
    have hx : sliceCanon x := sliceCanon_getAxp h
    exact hx
  · refine canon_modQueue h ?_
    intro _ hq
    extract_lets x1
    have hx1 : queueCanon x1 := queueCanon_goesTo hq _
    exact hx1
  · exact h

theorem canon_jumpTo {pc : DWord} (h : Canon lo s) : Canon lo (jumpTo s pc) := canon_goTo h

theorem canon_advance {len : Nat} (h : Canon lo s) : Canon lo (advance len s) := by
  unfold advance
  split
  · exact canon_modQueue h fun _ hq => queueCanon_goesOn hq _
  · split
    · exact canon_setTask h
    · exact h
  · split
    · exact canon_setTask h
    · exact h
  · exact canon_goTo h

theorem canon_settle {r : Except Stop State} (h : Canon lo s) (hr : Returns (Canon lo) r) : Canon lo (settle s r) := by
  unfold settle
  split
  · exact hr.of_ok _ rfl
  · exact canon_waitOn h
  · exact canon_takeTrap h

theorem canon_done {r : Except Stop State} (h : Canon lo s) (hr : Returns (Canon lo) r) : Lands lo (done s r) := lands_next (canon_settle h hr)

theorem canon_run {opn : Nat} {b : BitVec 7} {us : List Use} {body : Except Stop State} (h : Canon lo s) (hbody : Returns (Canon lo) body) : Lands lo
    (run s opn b us body) := by
  unfold run
  refine of_branches ?_ (canon_done h (Returns.then fun _ => hbody))
  split
  · exact lands_next (canon_takeDeferred h)
  · exact lands_next h

theorem canon_endRegion (h : Canon lo s) : Canon lo (endRegion s) := by
  unfold endRegion
  split
  · exact of_branches (canon_modGroup h fun _ hg => groupCanon_endRegionG hg) h
  · exact h

/-! ## Fetching -/

theorem canon_fetchBlock {blk since : Nat} (h : Canon lo s) : Canon lo (fetchBlock s blk since).2 := by
  unfold fetchBlock
  split <;> exact h

theorem canon_requestCode {pa : Nat} (h : Canon lo s) : Canon lo (requestCode s pa) := by
  unfold requestCode
  split
  · exact canon_countReq h
  · exact of_branches h (canon_setCore (canon_countReq h))

theorem canon_codeAt {pc : Nat} (h : Canon lo s) : Returns (fun r => Canon lo r.2) (codeAt s pc) := by
  unfold codeAt
  refine Returns.bind (P := fun r => Canon lo r.2) ?_ fun _ hp => ?_
  · split
    · next heq =>
      have hr := (canon_translate h).of_ok _ heq
      exact returns_ok hr
    · exact returns_error _
  · dsimp -zeta only
    extract_lets jp
    have hjp : ∀ (x : Unit), Returns (fun r => Canon lo r.2) (jp x) := fun _ => returns_ok (canon_fetchBlock (canon_recallLine (canon_requestCode hp)))
    split
    · exact returns_error _
    · exact hjp ()

theorem canon_fetchHalfword {pc : Nat} (h : Canon lo s) : Returns (fun r => Canon lo r.2) (fetchHalfword s pc) :=
  Returns.bind (canon_codeAt h) fun _ hp => returns_ok hp

theorem canon_fetchAt {pc : Nat} (h : Canon lo s) : Returns (fun r => Canon lo r.2) (fetchAt s pc) :=
  Returns.bind (canon_codeAt h) fun _ hp => of_branches (of_branches (returns_error _) (returns_ok hp)) (returns_ok hp)

theorem canon_fetchChe (h : Canon lo s) : Returns (fun r => Canon lo r.2) (fetchChe s) := by
  unfold fetchChe
  split
  · split
    · split
      · exact returns_ok h
      · exact returns_error _
    · exact returns_error _
  · split
    · split
      · exact returns_ok h
      · exact returns_error _
    · exact returns_error _
  · exact returns_error _

theorem canon_fetch (h : Canon lo s) : Returns (fun r => Canon lo r.2) (fetch s) := by
  unfold fetch
  split
  · exact canon_fetchChe h
  · exact canon_fetchChe h
  · exact canon_fetchAt h

theorem canon_fireTimers {gid : Nat} (h : Canon lo s) : Canon lo (fireTimers s gid) := by
  unfold fireTimers
  extract_lets g a b aux t
  have hg : groupCanon g := groupCanon_getGroup h
  exact canon_trapGroup (canon_setGroup h hg)

theorem canon_takeCap {gid : Nat} (h : Canon lo s) : Canon lo (takeCap s gid) := by
  unfold takeCap
  extract_lets g
  have hg : groupCanon g := groupCanon_getGroup h
  exact canon_trapGroup (canon_setGroup h hg)

theorem canon_atBoundary {gid : Nat} (h : Canon lo s) : OnSome (Canon lo) (atBoundary s gid) := by
  unfold atBoundary
  extract_lets g
  refine of_branches onSome_none ?_
  split
  · exact onSome_some (canon_trapGroupRec h)
  · split
    · exact onSome_some (canon_trapGroup h)
    · refine of_branches (onSome_some (canon_takeCap h)) ?_
      refine of_branches (onSome_some (canon_fireTimers h)) ?_
      split
      · exact of_branches (onSome_some (canon_takeDeferred h)) onSome_none
      · exact onSome_none

end Sys2Proof.Machine
end

section
/-! What issue opportunities, the passing of time and the floating-point status keep of the canonical form (07_core_sched_traps R226-R231; 14_tenancy R432-R438; 02_numbers R72, R78). -/

namespace Sys2Proof.Machine

open Claim

variable {s : State} {lo : Nat}

theorem canon_agePipe {core p : Nat} {issued : Option Nat} (h : Canon lo s) : Canon lo (agePipe s core p issued) :=
  h.withGroups (h.groups.map fun _ hq => of_branches (P := fun q : Nat × Group => groupCanon q.2) hq hq)

theorem canon_tryGroups {runC : State → Out} {core p : Nat} {l : List Nat} (hr : ∀ t, Canon lo t → Lands lo (runC t)) (h : Canon lo s) :
    Lands lo (tryGroups runC s core p l) := by
  induction l generalizing s with
  | nil => exact lands_next (canon_agePipe h)
  | cons g l ih =>
    have hg : Lands lo (runC { s with cur := .group g }) := hr _ h
    unfold tryGroups
    split
    · next heq => exact of_branches (ih h) (lands_next (canon_agePipe (hg _ heq)))
    · exact hg

theorem canon_setHolder {core : Nat} {h : Option Nat} (h1 : Canon lo s) : Canon lo (setHolder s core h) := canon_setCore h1

theorem canon_chooseHolder {runC : State → Out} {core : Nat} {yielding : Option Nat} (h : Canon lo s) : Canon lo (chooseHolder runC s core yielding) := by
  unfold chooseHolder
  extract_lets cands
  split <;> exact canon_setHolder h

theorem canon_renewHolder {runC : State → Out} {core : Nat} (h : Canon lo s) : Canon lo (renewHolder runC s core) := by
  unfold renewHolder
  refine of_branches h ?_
  split
  · exact canon_chooseHolder h
  · exact of_branches (canon_chooseHolder h) (of_branches (canon_chooseHolder h) h)

theorem canon_renewHolders {runC : State → Out} (h : Canon lo s) : Canon lo (renewHolders runC s) :=
  of_foldl h fun _ _ ht => canon_renewHolder ht

theorem canon_renewOut {runC : State → Out} {o : Out} (ho : Lands lo o) : Lands lo (renewOut runC o) := by
  cases o with
  | next t => exact lands_next (canon_renewHolders (ho t rfl))
  | fault _ => exact ho
  | refused _ => exact ho

theorem canon_issuePipe {runC : State → Out} {core p : Nat} (hrunC : ∀ t, Canon lo t → Lands lo (runC t)) (h : Canon lo s) : Lands lo
    (issuePipe runC core p s) := by
  unfold issuePipe
  refine of_branches ?_ (canon_tryGroups hrunC h)
  extract_lets t
  have ht : Canon lo t := canon_renewHolder h
  split
  · exact of_branches (canon_renewOut (hrunC _ ht)) (lands_next ht)
  · exact lands_next ht

theorem canon_readDescriptor {qid : Nat} (h : Canon lo s) : Canon lo (readDescriptor s qid) := by
  unfold readDescriptor
  extract_lets vf v
  split
  · exact h
  · split
    · exact h
    · split
      · next heq =>
        exact canon_modQueue ((canon_readVirt h).of_ok _ heq) fun _ hq => of_branches (P := queueCanon) (queueCanon_goesTo (by exact hq) _) hq
      · exact h
      · exact canon_modQueue (of_branches (canon_noteXStop h) h) fun _ hq => hq

theorem canon_writeDescriptor {qid : Nat} (h : Canon lo s) : Canon lo (writeDescriptor s qid) := by
  unfold writeDescriptor
  extract_lets vf v q sp at' new
  refine of_branches h ?_
  split
  · next heq =>
    have ht := (canon_readVirt h).of_ok _ heq
    refine of_branches h ?_
    split
    · next heq1 =>
      have ht1 := (canon_writeVirt ht).of_ok _ heq1
      exact ht1
    · exact canon_noteXStop h
  · exact canon_noteXStop h

theorem canon_settleQueue {qid : Nat} (h : Canon lo s) : Canon lo (settleQueue s qid) := canon_modQueue h fun _ hq => of_branches hq hq

theorem canon_settleShown {qid : Nat} (h : Canon lo s) : Canon lo (settleShown s qid) := by
  unfold settleShown
  extract_lets t
  have ht : Canon lo t := canon_settleQueue h
  exact of_branches ht (canon_writeDescriptor ht)

theorem canon_takeNotice {qid : Nat} (h : Canon lo s) : OnSome (Canon lo) (takeNotice s qid) := by
  have hq : queueCanon (getQueue s qid) := queueCanon_getQueue h
  unfold takeNotice
  extract_lets q
  split
  · exact onSome_none
  · refine of_branches onSome_none (of_branches (onSome_some ?_) (onSome_some ?_))
    · exact canon_noticeHost (by exact canon_setQueue h hq)
    · exact canon_modQueue (canon_enterHandler (canon_setQueue h hq) hq.2) fun _ hq => hq

theorem canon_renewPasses {vf : Nat} {run : List Nat} (h : Canon lo s) : Canon lo (renewPasses s vf run) :=
  canon_setVf (of_foldl h fun _ _ ht => of_branches ht (canon_setSlot ht))

theorem canon_chargeQueue {vf slot qid : Nat} (h : Canon lo s) : Canon lo (chargeQueue s vf slot qid) :=
  of_branches h (canon_writeDescriptor (canon_settleQueue (of_branches h (canon_setSlot h))))

theorem canon_tryQueues {runC : State → Out} {n vf : Nat} {l : List Nat} (hr : ∀ t, Canon lo t → Lands lo (runC t)) (h : Canon lo s) :
    Lands lo (tryQueues runC s n vf l) := by
  induction l generalizing s with
  | nil => exact lands_next h
  | cons q l ih =>
    have hq : Lands lo (runC { s with cur := .queue q, qpCtx := tabPut s.qpCtx n q }) := hr _ h
    unfold tryQueues
    split
    · next heq => exact lands_next (canon_writeDescriptor (canon_takeNotice h _ heq))
    · extract_lets slot
      split
      · next heq => exact of_branches (ih h) (lands_next (canon_chargeQueue (hq _ heq)))
      · exact hq

theorem canon_issueQp {runC : State → Out} {n : Nat} (hrunC : ∀ t, Canon lo t → Lands lo (runC t)) (h : Canon lo s) : Lands lo (issueQp runC n s) := by
  unfold issueQp
  extract_lets vf t t1 qs qs1 t2
  have ht1 : Canon lo t1 := of_foldl (of_foldl h fun _ _ ht3 => canon_readDescriptor ht3) fun _ _ ht4 => canon_settleShown ht4
  exact of_branches (lands_next h) (canon_tryQueues hrunC (of_branches ht1 (canon_renewPasses ht1)))

theorem canon_issueAxp {runC : State → Out} {gid : Nat} (hrunC : ∀ t, Canon lo t → Lands lo (runC t)) (h : Canon lo s) : Lands lo
    (issueAxp runC gid s) := by
  unfold issueAxp
  split
  · exact of_branches (hrunC _ h) (lands_next h)
  · exact lands_next h

theorem canon_issueCheA {runC : State → Out} {pkg : Nat} (hrunC : ∀ t, Canon lo t → Lands lo (runC t)) (h : Canon lo s) : Lands lo
    (issueCheA runC pkg s) := by
  unfold issueCheA
  split
  · exact of_branches (lands_next h) (hrunC _ h)
  · exact lands_next h

theorem canon_issueCheX {runC : State → Out} {pkg : Nat} (hrunC : ∀ t, Canon lo t → Lands lo (runC t)) (h : Canon lo s) : Lands lo
    (issueCheX runC pkg s) := by
  unfold issueCheX
  split
  · exact of_branches (lands_next h) (hrunC _ h)
  · exact lands_next h

theorem canon_issueAt {runC : State → Out} {p : Place} (hrunC : ∀ t, Canon lo t → Lands lo (runC t)) (h : Canon lo s) : Lands lo (issueAt runC p s) := by
  unfold issueAt
  refine of_branches (lands_next h) ?_
  split
  · exact of_branches (lands_next h) (canon_issuePipe hrunC h)
  · exact of_branches (lands_next h) (canon_renewOut (canon_issueAxp hrunC h))
  · exact canon_renewOut (canon_issueQp hrunC h)
  · exact canon_renewOut (canon_issueCheA hrunC h)
  · exact canon_renewOut (canon_issueCheX hrunC h)

theorem groupCanon_elapseGroup {n gid : Nat} {g : Group} (hg : groupCanon g) : groupCanon (elapseGroup s n gid g) :=
  of_branches hg hg

theorem canon_fireWaiting (h : Canon lo s) : Canon lo (fireWaiting s) := of_foldl h fun _ _ ht => of_branches (canon_fireTimers ht) ht

theorem teamCanon_elapseTeam {n : Nat} {t : Team} (ht : teamCanon t) : teamCanon (elapseTeam s n t) := by
  unfold elapseTeam
  extract_lets t1
  have ht1 : teamCanon t1 := of_branches ht ht
  split <;> exact ht1

theorem canon_growPasses {n : Nat} (h : Canon lo s) : Canon lo (growPasses s n) := by
  unfold growPasses
  refine of_foldl h ?_
  intro _ _ ht
  split
  · exact of_branches ht (canon_setSlot ht)
  · exact ht

theorem canon_observeDraw {raw : Nat} (h : Canon lo s) : Canon lo (observeDraw s raw) := h

theorem canon_observeVf {vf raw : Nat} (h : Canon lo s) : Canon lo (observeVf s vf raw) := canon_setVf h

theorem canon_observeDraws (h : Canon lo s) : Canon lo (observeDraws s) := by
  unfold observeDraws
  extract_lets raw m
  have hraw : ∀ (s : State), Canon lo s → Canon lo (raw s).2 := fun _ ht => ht
  exact of_foldl (canon_observeDraw (hraw _ h)) fun _ _ ht1 => canon_observeVf (hraw _ ht1)

/-- The parts of a state that change as time passes. -/
theorem Canon.withTables (h : Canon lo s) {groups : Tab Group} {teams : Tab Team} {queues : Tab QCtx} {time : Nat} {rings : Tab Ring}
    {snapshots : List Snapshot} (hg : tabAll groupCanon groups) (ht : tabAll teamCanon teams) (hq : tabAll queueCanon queues) :
    Canon lo { s with time := time, groups := groups, teams := teams, queues := queues, rings := rings, snapshots := snapshots } :=
  ⟨h.1, h.2.1, hg, hq, ht, h.clusters, h.ids⟩

theorem canon_elapse {n : Nat} (h : Canon lo s) : Canon lo (elapse n s) := by
  unfold elapse
  extract_lets t u
  have ht : Canon lo t := canon_growPasses h
  refine canon_tryRecords (canon_fireWaiting ?_)
  have hu : Canon lo u := by
    refine ht.withTables (ht.groups.map fun _ hp => ?_) (ht.teams.map fun _ hp => ?_) (ht.queues.map fun _ hp => ?_)
    · exact groupCanon_elapseGroup hp
    · exact teamCanon_elapseTeam hp
    · exact of_branches (P := queueCanon) hp hp
  split
  · exact hu
  · exact canon_observeDraws hu

/-! ## Status registers of floating point -/

/-- What FCSR holds in a lane is within its mask (R72). -/
theorem groupCanon.withFcsr {g : Group} (hg : groupCanon g) (lane : Nat) (w : Word) :
    groupCanon { g with fcsr := tabSet g.fcsr lane (w &&& fcsrMask) 0 } := by
  refine ⟨hg.1, tabCanon_tabSet _ _ _ _ hg.2.1, fun x hx => ?_, hg.2.2.2⟩
  unfold tabSet at hx
  split at hx
  · exact hg.2.2.1 x (mem_tabErase hx)
  · rcases mem_tabPut hx with rfl | hx
    · simp [BitVec.and_assoc]
    · exact hg.2.2.1 x hx

theorem groupCanon.withMfr {g : Group} (hg : groupCanon g) {w : Word} (hw : w &&& mfrMask = w) : groupCanon { g with mfr := w } :=
  ⟨hg.1, hg.2.1, hg.2.2.1, hw, hg.2.2.2.2⟩

theorem canon_setFcsr {lane : Nat} {w : Word} (h : Canon lo s) : Canon lo (setFcsr s lane w) := by
  unfold setFcsr
  split
  · exact canon_modGroup h fun _ hg => hg.withFcsr lane w
  · exact h

theorem flags_and_mfrMask (f : Flags) : f.setWidth 32 &&& mfrMask = f.setWidth 32 := by
  revert f; decide

theorem canon_orMfr {gid : Nat} {f : Flags} (h : Canon lo s) : Canon lo (orMfr s gid f) :=
  canon_modGroup h fun g hg => hg.withMfr (by rw [BitVec.and_or_distrib_right, hg.2.2.2.1, flags_and_mfrMask])

theorem canon_orFcsr {lane : Nat} {f : Flags} (h : Canon lo s) : Canon lo (orFcsr s lane f) := of_branches h (canon_setFcsr h)

theorem canon_orFcsrAll {lanes : List Nat} {f : Flags} (h : Canon lo s) : Canon lo (orFcsrAll s lanes f) := of_foldl h fun _ _ ht => canon_orFcsr ht

theorem canon_putLanes {d : Nat} {lanes : List Nat} {f : Nat → Word} (h : Canon lo s) : Canon lo (putLanes s d lanes f) :=
  of_foldl h fun _ _ ht => canon_writeField ht

theorem canon_putPairs {d : Nat} {lanes : List Nat} {f : Nat → DWord} (h : Canon lo s) : Canon lo (putPairs s d lanes f) :=
  of_foldl h fun _ _ ht => canon_writePair ht

theorem canon_putPreds {p : Nat} {lanes : List Nat} {f : Nat → Bool} (h : Canon lo s) : Canon lo (putPreds s p lanes f) :=
  of_foldl h fun _ _ ht => canon_setRegs ht (regsCanon_writeP (regsCanon_regsOf ht))

theorem canon_finish {us : List Use} {len : Nat} (h : Canon lo s) : Canon lo (finish us len s) := canon_advance (canon_popQs h)

theorem canon_runOp {opn : Nat} {b : BitVec 7} {us : List Use} {len : Nat} {body : State} (h : Canon lo s) (hbody : Canon lo body) : Lands lo
    (runOp s opn b us len body) :=
  canon_run h (returns_ok (canon_finish hbody))

theorem canon_writeA {f : BitVec 7} {w : DWord} (h : Canon lo s) : Canon lo (writeA s f w) := by
  unfold writeA
  split
  · split
    · exact canon_setTask h
    · exact h
  · exact h

theorem canon_lane0 {opn : Nat} {b : BitVec 7} {us : List Use} {len : Nat} {d : BitVec 7} {f : Nat → Word} (h : Canon lo s) : Lands lo (lane0 s opn b us len d f) :=
  canon_runOp h (canon_putLanes h)

theorem canon_lane1 {opn : Nat} {us : List Use} {len : Nat} {d a : BitVec 7} {f : Word → Word} (h : Canon lo s) : Lands lo (lane1 s opn us len d a f) :=
  canon_lane0 h

theorem canon_lane2 {opn : Nat} {us : List Use} {len : Nat} {d a b : BitVec 7} {f : Word → Word → Word} (h : Canon lo s) : Lands lo (lane2 s opn us len d a b f) :=
  canon_lane0 h

theorem canon_lane3 {opn : Nat} {us : List Use} {d a b : BitVec 7} {f : Word → Word → Word → Word} (h : Canon lo s) : Lands lo (lane3 s opn us d a b f) :=
  canon_lane0 h

theorem canon_lane2w {opn : Nat} {us : List Use} {d a b : BitVec 7} {f : (w : Nat) → BitVec w → BitVec w → BitVec w} (h : Canon lo s) : Lands lo
    (lane2w s opn us d a b f) :=
  of_branches (canon_runOp h (canon_writeA h)) (canon_lane2 h)

theorem canon_lane1w {opn : Nat} {b : BitVec 7} {us : List Use} {d a : BitVec 7} {f : (w : Nat) → BitVec w → BitVec w} (h : Canon lo s) : Lands lo
    (lane1w s opn b us d a f) :=
  of_branches (canon_runOp h (canon_writeA h)) (canon_lane0 h)

theorem canon_pair0 {opn : Nat} {b : BitVec 7} {us : List Use} {d : BitVec 7} {f : Nat → DWord} (h : Canon lo s) : Lands lo (pair0 s opn b us d f) :=
  canon_runOp h (canon_putPairs h)

theorem canon_pred0 {opn : Nat} {b : BitVec 7} {us : List Use} {p : BitVec 7} {f : Nat → Bool} (h : Canon lo s) : Lands lo (pred0 s opn b us p f) :=
  canon_runOp h (canon_putPreds h)

theorem canon_predCmp {opn : Nat} {us : List Use} {p a b : BitVec 7} {c : Cond} (h : Canon lo s) : Lands lo (predCmp s opn us p a b c) :=
  canon_pred0 h

theorem canon_predCmp64 {opn : Nat} {us : List Use} {p a b : BitVec 7} {c : Cond} (h : Canon lo s) : Lands lo (predCmp64 s opn us p a b c) :=
  canon_pred0 h

theorem canon_fpFlags {uniform : Bool} {lanes : List Nat} {f : Nat → Flags} (h : Canon lo s) : Canon lo (fpFlags s uniform lanes f) :=
  of_branches (canon_orFcsrAll h) (of_foldl h fun _ _ ht => canon_orFcsr ht)

theorem canon_fp0 {opn : Nat} {b : BitVec 7} {us : List Use} {len : Nat} {d : BitVec 7} {f : Nat → FpCtl → Nat × Flags} (h : Canon lo s) : Lands lo
    (fp0 s opn b us len d f) :=
  canon_runOp h (canon_fpFlags (canon_putLanes h))

theorem canon_fp1 {opn : Nat} {b : BitVec 7} {us : List Use} {d a : BitVec 7} {f : FpCtl → Nat → Nat × Flags} (h : Canon lo s) : Lands lo (fp1 s opn b us d a f) :=
  canon_fp0 h

theorem canon_fp2 {opn : Nat} {us : List Use} {len : Nat} {d a b : BitVec 7} {f : FpCtl → Nat → Nat → Nat × Flags} (h : Canon lo s) : Lands lo
    (fp2 s opn us len d a b f) :=
  canon_fp0 h

theorem canon_fp3 {opn : Nat} {us : List Use} {d a b : BitVec 7} {f : FpCtl → Nat → Nat → Nat → Nat × Flags} (h : Canon lo s) : Lands lo (fp3 s opn us d a b f) :=
  canon_fp0 h

theorem canon_dp0 {opn : Nat} {b : BitVec 7} {us : List Use} {d : BitVec 7} {f : Nat → FpCtl → Nat × Flags} (h : Canon lo s) : Lands lo (dp0 s opn b us d f) :=
  canon_runOp h (canon_fpFlags (canon_putPairs h))

theorem canon_dp1 {opn : Nat} {b : BitVec 7} {us : List Use} {d a : BitVec 7} {f : FpCtl → Nat → Nat × Flags} (h : Canon lo s) : Lands lo (dp1 s opn b us d a f) :=
  canon_dp0 h

theorem canon_dp2 {opn : Nat} {us : List Use} {d a b : BitVec 7} {f : FpCtl → Nat → Nat → Nat × Flags} (h : Canon lo s) : Lands lo (dp2 s opn us d a b f) :=
  canon_dp0 h

theorem canon_dp3 {opn : Nat} {us : List Use} {d a b : BitVec 7} {f : FpCtl → Nat → Nat → Nat → Nat × Flags} (h : Canon lo s) : Lands lo (dp3 s opn us d a b f) :=
  canon_dp0 h

theorem canon_fpCmp0 {opn : Nat} {b : BitVec 7} {us : List Use} {p : BitVec 7} {f : Nat → FpCtl → Bool × Flags} (h : Canon lo s) : Lands lo
    (fpCmp0 s opn b us p f) :=
  canon_runOp h (canon_fpFlags (canon_putPreds h))

theorem canon_fcmp {opn : Nat} {us : List Use} {p a b : BitVec 7} {c : FCond} (h : Canon lo s) : Lands lo (fcmp s opn us p a b c) :=
  canon_fpCmp0 h

theorem canon_dcmp {opn : Nat} {us : List Use} {p a b : BitVec 7} {c : FCond} (h : Canon lo s) : Lands lo (dcmp s opn us p a b c) :=
  canon_fpCmp0 h

end Sys2Proof.Machine
end

section
/-! What … keep of the canonical form. -/

namespace Sys2Proof.Machine

open Claim

variable {s : State} {lo : Nat}

/-! ## Special registers -/

theorem canon_setGtcmp {gid : Nat} {v : DWord} (h : Canon lo s) : Canon lo (setGtcmp s gid v) := canon_modGroup h fun _ hg => hg

theorem canon_setWdl {gid : Nat} {v : DWord} (h : Canon lo s) : Canon lo (setWdl s gid v) := canon_modGroup h fun _ hg => hg

theorem canon_setGtime {gid : Nat} {v : DWord} (h : Canon lo s) : Canon lo (setGtime s gid v) := by
  unfold setGtime
  extract_lets old t
  have ht : Canon lo t := canon_modGroup h fun _ hg => hg
  exact of_branches (canon_modTeam ht fun _ hm => hm) ht

theorem regsCanon_setErm {r : RegFile} {k : Nat} {w : Word} (hr : regsCanon r) : regsCanon (setErm r k w) := hr

theorem canon_setPred {lane : Nat} {w : Word} (h : Canon lo s) : Canon lo (setPred s lane w) :=
  of_foldl h fun _ _ ht => canon_setRegs ht (regsCanon_writeP (regsCanon_regsOf ht))

theorem canon_setSrGroup {n : Nat} {w : Word} (h : Canon lo s) : Canon lo (setSrGroup s n w) := by
  unfold setSrGroup
  split
  · exact canon_modGroup h fun _ hg => hg.withMfr (by simp [BitVec.and_assoc])
  · exact canon_setRegs h (regsCanon_setErm (regsCanon_regsOf h))
  · exact canon_setRegs h (regsCanon_setErm (regsCanon_regsOf h))
  · exact canon_setRegs h (regsCanon_setErm (regsCanon_regsOf h))
  · exact canon_setRegs h (regsCanon_setErm (regsCanon_regsOf h))
  · exact h

theorem canon_setSrGroupPair {n : Nat} {w : DWord} (h : Canon lo s) : Canon lo (setSrGroupPair s n w) := by
  unfold setSrGroupPair
  extract_lets gid
  split
  · exact canon_setGtime h
  · exact canon_setGtcmp h
  · exact canon_setWdl h
  · exact h

theorem canon_deliverHeld {vf : Nat} (h : Canon lo s) : Canon lo (deliverHeld s vf) := by
  unfold deliverHeld
  split
  · exact canon_setVf (canon_modQueue h fun _ hq1 => hq1)
  · exact h

theorem canon_writeHvctx {vf : Nat} {w : Word} (h : Canon lo s) : Canon lo (writeHvctx s vf w) := canon_deliverHeld (canon_setVf h)

theorem canon_noticeQueue {qid : Nat} {n : Notice} (h : Canon lo s) : Canon lo (noticeQueue s qid n) := canon_modQueue h fun _ hq => hq

theorem canon_holdNotice {c : SavedCtx} {n : Notice} (h : Canon lo s) : Canon lo (holdNotice s c n) := canon_homeWrite h

theorem canon_noticeIssuer {g : Grid} {n : Notice} (h : Canon lo s) : Canon lo (noticeIssuer s g n) := by
  unfold noticeIssuer
  refine of_branches (canon_noticeQueue h) ?_
  split
  · exact canon_holdNotice h
  · exact h

theorem canon_passGh {vf : Nat} {gh : Word} (h : Canon lo s) : Canon lo (passGh s vf gh) := by
  unfold passGh
  split
  · split
    · exact of_branches (canon_noticeIssuer h) h
    · exact h
  · exact h

theorem canon_restartRing {vf pkg : Nat} (h : Canon lo s) : Canon lo (restartRing s vf pkg) := of_branches (canon_setVf (canon_setRing h)) h

theorem canon_setProcSlot {p : PSlot} (h : Canon lo s) : Canon lo (setProcSlot s p) := canon_setSlot h

theorem canon_setSrQueue {n : Nat} {w : Word} (h : Canon lo s) : Canon lo (setSrQueue s n w) := by
  unfold setSrQueue
  split
  · exact canon_modQueue h fun _ hq => hq
  · exact of_branches (canon_restartRing h) h
  · exact canon_passGh h
  · exact canon_writeHvctx h
  · exact h

theorem canon_setRoots {new : PSlot} (h : Canon lo s) : Canon lo (setRoots s new) := by
  unfold setRoots
  extract_lets old follow issuer t
  have ht : Canon lo t := h.mapWorks fun _ => rfl
  exact canon_setProcSlot ht

theorem canon_setSrQueuePair {n : Nat} {w : DWord} (h : Canon lo s) : Canon lo (setSrQueuePair s n w) := by
  unfold setSrQueuePair
  extract_lets v x
  split
  · exact canon_setRoots h
  · exact canon_setRoots h
  · exact canon_setProcSlot h
  · exact canon_modQueue h fun _ hq => hq
  · exact canon_setVf h
  · exact canon_setVf h
  · exact h

theorem canon_setSrPlat {n : Nat} {w : Word} (h : Canon lo s) : Canon lo (setSrPlat s n w) :=
  of_branches (canon_modQueue h fun _ hq => hq) (of_branches (canon_setVf h)
      (of_branches (canon_setVf h) (of_branches (canon_setVf h) (of_branches (canon_setVf h)
      (of_branches h (of_branches (canon_setVf h) (of_branches h (of_branches h
      (of_branches h (of_branches h (of_branches h (of_branches h (of_branches h (of_branches h (of_branches h h)))))))))))))))

theorem canon_setSrPlatPair {n : Nat} {w : DWord} (h : Canon lo s) : Canon lo (setSrPlatPair s n w) :=
  of_branches (canon_setVf h) (of_branches (canon_setVf h) h)

theorem canon_setSrWord {n : Nat} {w : Word} (h : Canon lo s) : Canon lo (setSrWord s n w) :=
  of_branches (canon_setSrGroup h) (of_branches (canon_setSrQueue h) (canon_setSrPlat h))

theorem canon_setSrPair {n : Nat} {w : DWord} (h : Canon lo s) : Canon lo (setSrPair s n w) :=
  of_branches (canon_setSrGroupPair h) (of_branches (canon_setSrQueuePair h) (canon_setSrPlatPair h))

theorem canon_setSrLane {n lane : Nat} {w : Word} (h : Canon lo s) : Canon lo (setSrLane s n lane w) :=
  of_branches (canon_setFcsr h) (canon_setPred h)

theorem canon_srdBody {d : BitVec 7} {n : Nat} (h : Canon lo s) : Returns (Canon lo) (srdBody s d n) := by
  unfold srdBody
  refine Returns.then fun _ => ?_
  refine Returns.then fun _ => ?_
  refine Returns.then fun _ => ?_
  refine returns_ok ?_
  split
  · exact canon_putLanes h
  · exact canon_writeSReg h
  · exact canon_writeSPair h

theorem canon_swrBody {d : BitVec 7} {n : Nat} (h : Canon lo s) : Returns (Canon lo) (swrBody s d n) := by
  unfold swrBody
  refine Returns.then fun _ => ?_
  refine Returns.then fun _ => ?_
  refine Returns.then fun _ => ?_
  refine returns_ok ?_
  split
  · exact of_foldl h fun _ _ ht => canon_setSrLane ht
  · exact canon_setSrWord h
  · exact canon_setSrPair h

/-! ## Accesses to memory -/

theorem canon_locate {core : Option Nat} {sp : Space} {ea : Nat} {t : Target} {n : Nat} {k : Acc} (h : Canon lo s) : Returns (fun r => Canon lo r.2)
    (locate s core sp ea t n k) := by
  unfold locate
  split
  · exact returns_ok h
  · exact of_branches (returns_ok h) (returns_error _)
  · split
    · next heq =>
      have ht1 := (canon_translateRun h).of_ok _ heq
      exact returns_ok ht1
    · exact returns_error _

theorem canon_element {w : Want} {lane privLane ea : Nat} (h : Canon lo s) : Returns (fun r => Canon lo r.2) (element s w lane privLane ea) := by
  unfold element
  refine Returns.then fun x => ?_
  extract_lets jp jp1
  have hjp : ∀ (x : Unit), Returns (fun r => Canon lo r.2) (jp x) := by
    intro _
    unfold jp
    refine Returns.bind (canon_locate h) fun _ hp => ?_
    dsimp -zeta only
    split
    · exact returns_error _
    · exact returns_ok hp
  have hjp1 : ∀ (x : Unit), Returns (fun r => Canon lo r.2) (jp1 x) := fun _ => of_branches (returns_error _) (hjp ())
  exact of_branches (returns_error _) (hjp1 ())

theorem canon_eachLane {α : Type} {f : State → Nat → Except Stop (α × State)} {l : List Nat}
    (hf : ∀ t x, Canon lo t → Returns (fun r => Canon lo r.2) (f t x)) (h : Canon lo s) : Returns (fun r => Canon lo r.2) (eachLane f l s) := by
  induction l generalizing s with
  | nil => exact returns_ok h
  | cons x l ih =>
    unfold eachLane
    split
    · next heq => exact (ih ((hf _ _ h).of_ok _ heq)).bind fun _ hr => returns_ok hr
    · exact returns_error _
    · exact (ih h).bind fun _ hr => returns_ok hr

theorem canon_elementsIn {w : Want} {uniform : Bool} {lanes : List Nat} {ea : Nat → Nat} (h : Canon lo s) : Returns (fun r => Canon lo r.2)
    (elementsIn s w uniform lanes ea) := by
  unfold elementsIn
  extract_lets f t
  refine Returns.bind (canon_eachLane (fun _ _ ht1 => canon_element ht1) (of_branches (canon_freeNat h) h)) fun _ hp => ?_
  dsimp -zeta only
  split
  · exact of_branches (returns_error _) (of_branches (returns_ok hp) (returns_error _))
  · exact returns_ok hp

theorem canon_elements {w : Want} {uniform : Bool} {ea : Nat → Nat} (h : Canon lo s) : Returns (fun r => Canon lo r.2) (elements s w uniform ea) :=
  canon_elementsIn h

theorem canon_noteErrors {m : Met} (h : Canon lo s) : Canon lo (noteErrors s m) := of_foldl h fun _ _ ht => canon_noteError ht

theorem canon_completeLanes {us : List Use} {len : Nat} {uniform : Bool} {m : Met} (h : Canon lo s) : Canon lo (completeLanes us len uniform m s) := by
  unfold completeLanes
  split
  · exact canon_laneFault (canon_popQsFault (canon_noteErrors h))
  · exact canon_finish h

theorem canon_stamp (h : Canon lo s) : Canon lo (stamp s).2 := h

theorem canon_applyAcquire {core : Nat} {sc : Scope} (h : Canon lo s) : Canon lo (applyAcquire s core sc) := h

theorem canon_acquireCur {sc : Scope} (h : Canon lo s) : Canon lo (acquireCur s sc) := by
  unfold acquireCur
  split
  · exact canon_applyAcquire h
  · exact h

theorem canon_writeWords {d lane : Nat} {ws : List Word} (h : Canon lo s) : Canon lo (writeWords s d lane ws) :=
  of_foldl (P := fun p : State × Nat => Canon lo p.1) h fun _ _ hp => canon_writeField hp

theorem canon_writePart {kind : AccKind} {d : Nat} {p : AccPart} (h : Canon lo s) : Canon lo (writePart s kind d p) := by
  unfold writePart
  extract_lets t
  have ht : Canon lo t := canon_writeWords h
  split
  · exact canon_setRegs ht (regsCanon_writeP (regsCanon_regsOf ht))
  · exact ht

theorem canon_addPending {kind : AccKind} {core dst n : Nat} {parts : List AccPart} {strong : Bool} {acq rel : Option Scope}
    {pages : List PageUse} (h : Canon lo s) : Canon lo (addPending s kind core dst n parts strong acq rel pages) := by
  unfold addPending
  exact canon_markEmpty (h.withNextId (Nat.le_succ _))

theorem canon_issueLoad {dst n : Nat} {signed strong : Bool} {acq : Option Scope} {uniform : Bool} {es : List Elem} (h : Canon lo s) : Returns (Canon lo)
    (issueLoad s dst n signed strong acq uniform es) := by
  unfold issueLoad
  split
  · exact returns_ok (canon_addPending h)
  · refine of_branches (returns_error _) ?_
    refine of_branches (returns_error _) ?_
    extract_lets parts t
    have ht : Canon lo t := of_foldl h fun _ _ ht1 => canon_writePart ht1
    refine of_branches ?_ (returns_ok (canon_addPending h))
    refine returns_ok ?_
    split
    · exact canon_applyAcquire ht
    · exact ht

theorem canon_enqueue {gid : Nat} {e : StoreEnt} (h : Canon lo s) : Returns (Canon lo) (enqueue s gid e) :=
  of_branches (returns_error _) (returns_ok (canon_modGroup (canon_stamp h) fun _ hg => hg))

theorem canon_storeHome {strong : Bool} {es : List Elem} {val : Nat → List Byte} (h : Canon lo s) : Returns (Canon lo) (storeHome s strong es val) := by
  unfold storeHome
  extract_lets ls open'
  refine of_branches (returns_error _) ?_
  refine of_branches (returns_error _) ?_
  split
  · exact returns_ok (canon_logError h)
  · exact returns_ok (of_foldl h fun _ _ ht => canon_locWrites ht)

theorem canon_issueStore {kind : StoreKind} {strong : Bool} {rel : Option Scope} {uniform : Bool} {es : List Elem} {val : Nat → List Byte} (h : Canon lo s)
    : Returns (Canon lo) (issueStore s kind strong rel uniform es val) := by
  unfold issueStore
  split
  · exact of_branches (returns_ok h) (canon_enqueue h)
  · exact canon_storeHome h

theorem canon_updateCopy {core : Nat} {w : Loc × Byte} (h : Canon lo s) : Canon lo (updateCopy s core w) := by
  unfold updateCopy
  split
  · exact canon_setCore h
  · exact h

theorem canon_keepCombined {pa : Nat} (h : Canon lo s) : Canon lo (keepCombined s pa) := canon_keepBlock h

theorem canon_redLocal {core pa op width : Nat} {val : List Byte} (h : Canon lo s) : Canon lo (redLocal s core pa op width val) := by
  unfold redLocal
  extract_lets line t same t1 c old new t2
  have ht : Canon lo t := canon_keepCombined h
  have ht2 : Canon lo t2 := canon_setCore (canon_markInval (of_branches ht (canon_recallLine ht)))
  exact of_branches ht2 (canon_recallLine ht2)

theorem canon_dropLine {core line : Nat} (h : Canon lo s) : Canon lo (dropLine s core line) := h

theorem canon_leavePart {core : Nat} {e : StoreEnt} {p : StPart} (h : Canon lo s) : Canon lo (leavePart s core e p) := by
  unfold leavePart
  split
  · exact canon_setTag h
  · extract_lets val toOut one
    have htoOut : ∀ (s : State), Canon lo s → Canon lo (toOut s) := fun _ ht => canon_setCore (canon_stamp ht)
    split
    · exact canon_locWrites h
    · exact of_branches (canon_redLocal h) (htoOut _ (canon_dropLine h))
    · exact htoOut _ h
  · refine of_foldl h ?_
    intro _ _ ht1
    split
    · exact canon_locWrites ht1
    · exact canon_setCore (of_foldl (canon_stamp ht1) fun _ _ ht2 => canon_updateCopy ht2)

theorem canon_performCore {gid : Nat} (h : Canon lo s) : Canon lo (performCore s gid) := by
  unfold performCore
  extract_lets core
  split
  · exact h
  · refine of_branches h ?_
    split
    · split
      · extract_lets t t1
        have ht : Canon lo t := canon_locWrites h
        have ht1 : Canon lo t1 := by
          unfold t1
          split
          · exact canon_setTag ht
          · exact ht
        exact canon_modGroup ht1 fun _ hg => hg
      · exact canon_modGroup h fun _ hg1 => hg1
    · extract_lets t2
      have ht2 : Canon lo t2 := canon_modGroup h fun _ hg2 => hg2
      exact of_branches ht2 (canon_setCore (canon_stamp ht2))
    · exact canon_modGroup (of_foldl h fun _ _ ht3 => canon_leavePart ht3) fun _ hg3 => hg3

theorem canon_redAtHome {op : Nat} {ws : List (Loc × Byte)} (h : Canon lo s) : Canon lo (redAtHome s op ws) := by
  unfold redAtHome
  extract_lets t
  have ht : Canon lo t := by
    unfold t
    split
    · exact canon_serveLine h
    · exact h
  exact canon_locWrites ht

theorem canon_performHome {core i : Nat} (h : Canon lo s) : Canon lo (performHome s core i) := by
  unfold performHome
  extract_lets k cur x
  have hx : Canon lo x := canon_setCore h
  split
  · exact h
  · refine of_branches h ?_
    extract_lets t p pa ws t1
    have ht : Canon lo t := hx
    have ht1 : Canon lo t1 := by
      unfold t1
      refine of_branches (canon_logError (canon_modGroup ht fun _ hg => hg)) ?_
      split
      · exact of_branches (canon_redLocal ht) (canon_redAtHome ht)
      · exact canon_redAtHome ht
      · exact ht
      · exact canon_locWrites ht
    exact ht1

theorem canon_fillLine {core line : Nat} (h : Canon lo s) : Canon lo (fillLine s core line) := by
  unfold fillLine
  extract_lets t x
  have ht : Canon lo t := canon_serveLine (canon_countReq h)
  exact of_branches ht (canon_setCore ht)

theorem canon_loadNow {locs : List Loc} (h : Canon lo s) : Returns (fun r => Canon lo r.2) (loadNow s locs) :=
  of_branches (returns_error _) (of_branches (returns_error _) (returns_ok (of_foldl h fun _ _ ht => canon_fillLine ht)))

theorem canon_sampleLoad {p : Pending} {x : AccPart} (h : Canon lo s) : Canon lo (sampleLoad s p x).2 :=
  of_foldl h fun _ _ ht => of_branches (canon_serveLine (canon_dropLine (canon_countReq ht))) (of_branches ht (canon_fillLine ht))

theorem canon_sampleAtomic {p : Pending} {x : AccPart} (h : Canon lo s) : Canon lo (sampleAtomic s p x).2 := by
  unfold sampleAtomic
  dsimp only
  refine canon_locWrites ?_
  split
  · exact canon_serveLine (canon_dropLine h)
  · exact h

theorem canon_samplePart {p : Pending} {x : AccPart} (h : Canon lo s) : Canon lo (samplePart s p x).2 := by
  unfold samplePart
  split
  · exact h
  · split
    · exact canon_sampleLoad h
    · exact h
    · exact h
    · exact canon_sampleAtomic h

theorem canon_setPending {p : Pending} (h : Canon lo s) : Canon lo (setPending s p) := h

theorem canon_samples {p : Pending} {l : List Nat} (h : Canon lo s) : Canon lo (samples s p l).2 := by
  induction l generalizing s p with
  | nil => exact h
  | cons i r ih =>
    unfold samples
    split
    · exact ih h
    · split
      · exact ih h
      · split
        · exact h
        · exact ih (canon_setPending (canon_samplePart h))

theorem canon_returnAccess {p : Pending} (h : Canon lo s) : Canon lo (returnAccess s p) := by
  unfold returnAccess
  extract_lets t t1 t2
  have ht : Canon lo t := h
  have ht1 : Canon lo t1 := of_foldl ht fun _ _ ht3 => canon_writePart ht3
  have ht2 : Canon lo t2 := canon_setRegs ht1 (of_foldl (regsCanon_regsOf ht1) fun _ _ hr => regsCanon_setEmpty hr)
  refine of_branches ht ?_
  split
  · exact canon_applyAcquire ht2
  · exact ht2

theorem canon_samplesAll {n i : Nat} {p : Pending} (h : Canon lo s) : Canon lo (samplesAll n s p i).2 := by
  induction n generalizing s p i with
  | zero => exact h
  | succ n ih =>
    have hs : Canon lo (samples s p (sameParts p i)).2 := canon_samples h
    unfold samplesAll
    exact of_branches (P := fun r : Pending × State => Canon lo r.2) (ih hs) hs

theorem canon_loadReturn {id : Nat} {part : Option Nat} (h : Canon lo s) : Canon lo (loadReturn s id part) := by
  unfold loadReturn
  split
  · exact h
  · split
    · exact canon_samples h
    · exact of_branches (canon_returnAccess (canon_samplesAll h)) (canon_samplesAll h)

end Sys2Proof.Machine
end

section
/-! What accesses to memory, barriers, the copy engine and its operations keep of the canonical form (05_memory_model; 03_group R107, R242; 06_async_engines). -/

namespace Sys2Proof.Machine

open Claim

variable {s : State} {lo : Nat}

/-! ## Memory instructions -/

theorem canon_failedReport {us : List Use} {sc : Scope} {len : Nat} (h : Canon lo s) : OnSome (Canon lo) (failedReport s us sc len) := by
  unfold failedReport
  split
  · split
    · exact of_branches (onSome_some (canon_laneFault (canon_popQsFault (canon_modGroup h fun _ hg => hg)))) onSome_none
    · exact onSome_none
  · exact onSome_none

theorem canon_loadOp {opn : Nat} {raw : BitVec 7} {us : List Use} {d b : BitVec 7} {n : Nat} {off : ℤ} {signed strong : Bool} {acq : Option Scope}
    (h : Canon lo s) : Lands lo (loadOp s opn raw us d b n off signed strong acq) := by
  unfold loadOp
  refine canon_run h ?_
  refine Returns.then fun _ => ?_
  refine Returns.bind (canon_elements h) fun _ hp => ?_
  dsimp -zeta only
  extract_lets acq1
  split
  · next heq => exact returns_ok ((onSome_bind fun _ => canon_failedReport hp) _ heq)
  · exact Returns.bind (canon_issueLoad hp) fun _ ht1 => returns_ok (canon_completeLanes ht1)

theorem canon_storeOp {opn : Nat} {raw : BitVec 7} {us : List Use} {d b : BitVec 7} {n : Nat} {off : ℤ} {strong : Bool} {rel : Option Scope}
    (h : Canon lo s) : Lands lo (storeOp s opn raw us d b n off strong rel) := by
  unfold storeOp
  refine canon_run h ?_
  refine Returns.then fun _ => ?_
  extract_lets covered
  refine Returns.bind (canon_elements h) fun _ hp => ?_
  dsimp -zeta only
  extract_lets rel1
  split
  · next heq => exact returns_ok ((onSome_bind fun _ => canon_failedReport hp) _ heq)
  · exact Returns.bind (canon_issueStore hp) fun _ ht1 => returns_ok (canon_completeLanes ht1)

theorem canon_feSteps {gid : Nat} {store : Bool} {d : BitVec 7} {val : Nat → List Byte} {l : List Elem} (h : Canon lo s) :
    Canon lo (feSteps gid store d val l s).1 := by
  induction l generalizing s with
  | nil => exact h
  | cons e r ih =>
    unfold feSteps
    split
    · exact ih h
    · split
      · exact ih h
      · split
        · exact h
        · exact ih (canon_modGroup (canon_setTag (of_branches (canon_locWrites h) (canon_writeField h))) fun _ hg => hg)

theorem canon_feBody {store : Bool} {us : List Use} {d b o : BitVec 7} (h : Canon lo s) : Returns (Canon lo) (feBody s store us d b o) := by
  unfold feBody
  refine Returns.then fun _ => ?_
  split
  · exact Returns.bind (canon_elementsIn (canon_endRegion h)) fun _ hp => of_branches (returns_error _)
        (of_branches (returns_error _) (of_branches (returns_error _) (of_branches
        (returns_ok (canon_completeLanes (canon_modGroup (canon_feSteps hp) fun _ hg => hg)))
        (returns_ok (canon_modGroup (canon_feSteps hp) fun _ hg1 => hg1)))))
  · exact returns_error _

theorem canon_dropL1 {core line : Nat} (h : Canon lo s) : Canon lo (dropL1 s core line) := canon_dropLine (of_branches (canon_recallLine h) h)

theorem canon_cctlOp {opn : Nat} {raw : BitVec 7} {us : List Use} {a : BitVec 7} {f : State → Nat → State} (h : Canon lo s)
    (hf : ∀ t n, Canon lo t → Canon lo (f t n)) : Lands lo (cctlOp s opn raw us a f) :=
  canon_run h (Returns.then fun _ => of_branches (returns_error _) (Returns.bind (canon_elements h) fun _ hp => returns_ok
      (canon_completeLanes (of_foldl hp fun _ _ ht => hf _ _ ht))))

theorem canon_prefLane {a : BitVec 7} {l1 : Bool} {lane : Nat} (h : Canon lo s) : Canon lo (prefLane s a l1 lane) := by
  unfold prefLane
  split
  · next heq =>
    have ht := (canon_element h).of_ok _ heq
    exact of_foldl ht fun _ _ ht1 => of_branches ht1 (of_branches (canon_fillLine ht1) (canon_serveLine (canon_countReq ht1)))
  · exact h

theorem canon_fenceBody {kind : Nat} {sc : Scope} {us : List Use} (h : Canon lo s) : Returns (Canon lo) (fenceBody s kind sc us) := by
  unfold fenceBody
  split
  · extract_lets jp jp1
    have hjp : ∀ (x : Unit), Returns (Canon lo) (jp x) := by
      intro _
      unfold jp
      split
      · next heq1 => exact returns_ok ((canon_failedReport h) _ heq1)
      · exact Returns.bind (of_branches (returns_ok h) (of_branches (returns_ok h) (canon_enqueue h))) fun _ ht1 => returns_ok
            (canon_finish (of_branches ht1 (canon_acquireCur ht1)))
    have hjp1 : ∀ (x : Unit), Returns (Canon lo) (jp1 x) := fun _ => of_branches (returns_error _) (hjp ())
    exact of_branches (returns_error _) (hjp1 ())
  · exact of_branches (returns_error _) (returns_ok (canon_finish h))

theorem canon_atomicOp {opn : Nat} {raw : BitVec 7} {us : List Use} {d a : BitVec 7} {n : Nat} {kind : AccKind} {acq rel : Bool} {swap : Nat → DWord}
    (h : Canon lo s) : Lands lo (atomicOp s opn raw us d a n kind acq rel swap) := by
  unfold atomicOp
  refine canon_run h ?_
  refine Returns.then fun x => ?_
  extract_lets jp
  have hjp : ∀ (x : Unit), Returns (Canon lo) (jp x) := by
    intro _
    unfold jp
    refine Returns.bind (canon_elements (canon_endRegion h)) fun _ hp => ?_
    dsimp -zeta only
    extract_lets sc parts t
    split
    · next heq => exact returns_ok ((of_branches (canon_failedReport hp) onSome_none) _ heq)
    · exact returns_ok (canon_completeLanes (of_branches hp (canon_addPending hp)))
  exact of_branches (returns_error _) (hjp ())

theorem canon_discardCode (h : Canon lo s) : Canon lo (discardCode s) := by
  unfold discardCode
  split
  · exact canon_setCore h
  · exact h

theorem canon_dropCode {va len : Nat} (h : Canon lo s) : Canon lo (dropCode s va len) := h

theorem canon_execLdB8 {d b o : BitVec 7} (h : Canon lo s) : Lands lo (execLdB8 d b o s) := canon_loadOp h

theorem canon_execLdB8S {d b o : BitVec 7} (h : Canon lo s) : Lands lo (execLdB8S d b o s) := canon_loadOp h

theorem canon_execLdB16 {d b o : BitVec 7} (h : Canon lo s) : Lands lo (execLdB16 d b o s) := canon_loadOp h

theorem canon_execLdB16S {d b o : BitVec 7} (h : Canon lo s) : Lands lo (execLdB16S d b o s) := canon_loadOp h

theorem canon_execLdB32 {d b o : BitVec 7} (h : Canon lo s) : Lands lo (execLdB32 d b o s) := canon_loadOp h

theorem canon_execLdB64 {d b o : BitVec 7} (h : Canon lo s) : Lands lo (execLdB64 d b o s) := canon_loadOp h

theorem canon_execLdB128 {d b o : BitVec 7} (h : Canon lo s) : Lands lo (execLdB128 d b o s) := canon_loadOp h

theorem canon_execStB8 {d b o : BitVec 7} (h : Canon lo s) : Lands lo (execStB8 d b o s) := canon_storeOp h

theorem canon_execStB16 {d b o : BitVec 7} (h : Canon lo s) : Lands lo (execStB16 d b o s) := canon_storeOp h

theorem canon_execStB32 {d b o : BitVec 7} (h : Canon lo s) : Lands lo (execStB32 d b o s) := canon_storeOp h

theorem canon_execStB64 {d b o : BitVec 7} (h : Canon lo s) : Lands lo (execStB64 d b o s) := canon_storeOp h

theorem canon_execStB128 {d b o : BitVec 7} (h : Canon lo s) : Lands lo (execStB128 d b o s) := canon_storeOp h

theorem canon_execLdStrong {d a : BitVec 7} {z : BitVec 3} {s o : BitVec 2} {st : State} (hst : Canon lo st) : Lands lo (execLdStrong d a z s o st) :=
  canon_loadOp hst

theorem canon_execStStrong {d a : BitVec 7} {z : BitVec 3} {s o : BitVec 2} {st : State} (hst : Canon lo st) : Lands lo (execStStrong d a z s o st) :=
  canon_storeOp hst

theorem canon_execLdfe {d b o : BitVec 7} (h : Canon lo s) : Lands lo (execLdfe d b o s) := canon_run h (canon_feBody h)

theorem canon_execStfe {d b o : BitVec 7} (h : Canon lo s) : Lands lo (execStfe d b o s) :=
  canon_run h (of_branches (canon_feBody h) (Returns.then fun _ => Returns.bind (canon_elements (canon_endRegion h)) fun _ hp => Returns.bind
      (canon_issueStore hp) fun _ ht => returns_ok (canon_completeLanes ht)))

theorem canon_execFeset {a : BitVec 7} {f : BitVec 1} (h : Canon lo s) : Lands lo (execFeset a f s) :=
  canon_run h (Returns.then fun _ => Returns.bind (canon_elements h) fun _ hp => Returns.bind (canon_issueStore hp) fun _ ht => returns_ok (canon_completeLanes ht))

theorem canon_execFetest {p a : BitVec 7} (h : Canon lo s) : Lands lo (execFetest p a s) := by
  unfold execFetest
  refine canon_run h ?_
  refine Returns.then fun _ => ?_
  refine Returns.bind (canon_elements h) fun _ hp1 => ?_
  dsimp -zeta only
  extract_lets t
  have ht : Canon lo t := by
    unfold t
    refine of_foldl hp1 ?_
    intro _ _ ht1
    split
    · exact canon_putPreds ht1
    · exact ht1
  exact returns_ok (canon_completeLanes ht)

theorem canon_execSptest {d a : BitVec 7} (h : Canon lo s) : Lands lo (execSptest d a s) := canon_lane0 h

theorem canon_execSpcast {d a : BitVec 7} {s : BitVec 2} {g : BitVec 1} {st : State} (hst : Canon lo st) : Lands lo (execSpcast d a s g st) :=
  canon_run hst (Returns.bind (canon_eachLane (fun _ _ ht => Returns.then fun _ => returns_ok ht) hst) fun _ hp => returns_ok
      (canon_completeLanes (of_foldl hp fun _ _ ht1 => canon_writePair ht1)))

theorem canon_execPref {a : BitVec 7} {l : BitVec 2} (h : Canon lo s) : Lands lo (execPref a l s) :=
  canon_run h (of_branches (returns_error _) (returns_ok (canon_finish (of_foldl h fun _ _ ht => canon_prefLane ht))))

theorem canon_execCctlInv1 {a : BitVec 7} (h : Canon lo s) : Lands lo (execCctlInv1 a s) := canon_cctlOp h fun _ _ ht => canon_dropL1 ht

theorem canon_execCctlWb2 {a : BitVec 7} (h : Canon lo s) : Lands lo (execCctlWb2 a s) := canon_cctlOp h fun _ _ ht => canon_writeBack ht

theorem canon_execCctlEvf {a : BitVec 7} (h : Canon lo s) : Lands lo (execCctlEvf a s) := canon_cctlOp h fun _ _ ht => ht

theorem canon_execCctlInv1all (h : Canon lo s) : Lands lo (execCctlInv1all s) :=
  canon_run h (Returns.then fun _ => of_branches (returns_error _) (returns_ok (canon_finish (of_foldl h fun _ _ ht => canon_dropL1 ht))))

theorem canon_execFence {s k : BitVec 2} {st : State} (hst : Canon lo st) : Lands lo (execFence s k st) :=
  canon_run hst (canon_fenceBody hst)

theorem canon_execAtom {d a : BitVec 7} {o : BitVec 2} {w : BitVec 1} {c : BitVec 4} (h : Canon lo s) : Lands lo (execAtom d a o w c s) :=
  canon_atomicOp h

theorem canon_execCas {d a b : BitVec 7} (h : Canon lo s) : Lands lo (execCas d a b s) := canon_atomicOp h

theorem canon_execRed {d a : BitVec 7} {o : BitVec 2} {w : BitVec 1} {c : BitVec 4} (h : Canon lo s) : Lands lo (execRed d a o w c s) := by
  unfold execRed
  refine canon_run h ?_
  refine Returns.then fun _ => ?_
  refine Returns.bind (canon_elements (canon_endRegion h)) fun _ hp => ?_
  dsimp -zeta only
  extract_lets rel
  split
  · next heq => exact returns_ok ((onSome_bind fun _ => canon_failedReport hp) _ heq)
  · exact Returns.bind (canon_issueStore hp) fun _ ht1 => returns_ok (canon_completeLanes ht1)

theorem canon_execIfenceLocal (h : Canon lo s) : Lands lo (execIfenceLocal s) := canon_run h (returns_ok (canon_finish (canon_discardCode h)))

theorem canon_execIfenceDie {d a : BitVec 7} (h : Canon lo s) : Lands lo (execIfenceDie d a s) := by
  unfold execIfenceDie
  refine canon_run h ?_
  extract_lets va len act fault jp
  have hfault : ∀ (aux : Nat), Canon lo (fault aux) := fun _ => canon_laneFault h
  have hjp : ∀ (x : Unit), Returns (Canon lo) (jp x) := fun _ => of_branches (returns_ok (canon_finish (canon_discardCode h)))
      (of_branches (returns_ok (hfault _)) (of_branches (returns_ok (hfault _)) (returns_ok (canon_finish (canon_discardCode (canon_dropCode h))))))
  exact of_branches (returns_error _) (hjp ())

/-! ## Barriers -/

theorem canon_writeBar {l : Loc} {b : Bar} (h : Canon lo s) : Canon lo (writeBar s l b) := canon_locWrites h

theorem canon_barAcquire {obj : Loc} (h : Canon lo s) : Canon lo (barAcquire s obj) := by
  unfold barAcquire
  extract_lets t
  have ht : Canon lo t := canon_acquireCur h
  split
  · exact canon_setCore ht
  · exact ht

theorem canon_returnWait {gid : Nat} {obj : Loc} {dst : Nat} {st : Word} (h : Canon lo s) : Canon lo (returnWait s gid obj dst st) := by
  unfold returnWait
  extract_lets cur t t1
  have ht1 : Canon lo t1 := canon_advance (canon_barAcquire (canon_writeField h))
  exact ht1

theorem canon_recheckWaits {obj : Loc} (h : Canon lo s) : Canon lo (recheckWaits s obj) := by
  unfold recheckWaits
  extract_lets b
  refine of_foldl h ?_
  intro _ _ ht
  extract_lets g
  split
  · exact of_branches ht (of_branches (canon_trapGroup ht) (of_branches ht (canon_returnWait ht)))
  · exact ht

theorem canon_completePhase {obj : Loc} {b : Bar} (h : Canon lo s) : Canon lo (completePhase s obj b) :=
  of_branches (canon_recheckWaits (canon_writeBar h)) (canon_writeBar h)

theorem canon_addBytes {obj : Loc} {n : ℤ} (h : Canon lo s) : Canon lo (addBytes s obj n).1 := by
  unfold addBytes
  extract_lets b sum
  split
  · exact canon_recheckWaits (canon_writeBar h)
  · exact canon_completePhase h

theorem canon_releaseGroup {gid : Nat} {b : Block} {sc : Scope} (h : Canon lo s) : Canon lo (releaseGroup s gid b sc) :=
  of_branches (canon_modGroup (canon_applyAcquire h) fun _ hg => groupCanon_groupDone hg) h

theorem canon_tryTbar {tag : Nat} (h : Canon lo s) : Canon lo (tryTbar s tag) := of_branches (of_foldl h fun _ _ ht => canon_releaseGroup ht) h

theorem canon_releaseGbar {n : Nat} (h : Canon lo s) : Canon lo (releaseGbar s n) := of_foldl h fun _ _ ht => canon_releaseGroup ht

theorem canon_tryGbar {n : Nat} (h : Canon lo s) : Canon lo (tryGbar s n) := of_branches (canon_releaseGbar h) h

theorem canon_releaseStep {n : Nat} (h : Canon lo s) : Canon lo (releaseStep s n) := of_foldl h fun _ _ ht => canon_releaseGroup ht

theorem canon_tryStep {n : Nat} (h : Canon lo s) : Canon lo (tryStep s n) := of_branches (canon_releaseStep h) h

theorem canon_tryBarriers {tag : Nat} (h : Canon lo s) : Canon lo (tryBarriers s tag) := canon_tryStep (canon_tryGbar (canon_tryTbar h))

theorem canon_arriveAt {gid : Nat} {b : Block} (h : Canon lo s) : Canon lo (arriveAt s gid b) := canon_tryBarriers (canon_modGroup h fun _ hg => hg)

theorem canon_execBarinit {d a : BitVec 7} (h : Canon lo s) : Lands lo (execBarinit d a s) :=
  canon_run h (Returns.then fun _ => of_branches (returns_error _) (Returns.then fun _ => returns_ok
      (canon_finish (canon_recheckWaits (canon_writeBar (canon_locWrites h))))))

theorem canon_execBararr {d a : BitVec 7} (h : Canon lo s) : Lands lo (execBararr d a s) :=
  canon_run h (Returns.then fun _ => Returns.then fun _ => of_branches (returns_error _)
      (Returns.then fun _ => of_branches (returns_error _) (returns_ok (canon_finish (canon_completePhase (canon_writeSReg (canon_endRegion h)))))))

theorem canon_execBartx {d a : BitVec 7} (h : Canon lo s) : Lands lo (execBartx d a s) :=
  canon_run h (Returns.then fun _ => Returns.then fun _ => Returns.then fun _ => returns_ok
      (of_branches (canon_finish (canon_addBytes h)) (canon_takeTrap (canon_addBytes h))))

theorem canon_execBarwait {d a t : BitVec 7} (h : Canon lo s) : Lands lo (execBarwait d a t s) :=
  canon_run h (Returns.then fun _ => Returns.then fun _ => Returns.then fun _ => of_branches (returns_error _)
      (of_branches (returns_ok (of_branches (canon_takeDeferred h) (canon_modGroup h fun _ hg => hg)))
      (returns_ok (canon_finish (canon_barAcquire (canon_writeSReg h))))))

theorem canon_execTbar (h : Canon lo s) : Lands lo (execTbar s) :=
  canon_run h (of_branches (returns_error _) (returns_ok (canon_arriveAt (canon_endRegion h))))

theorem canon_execGbar (h : Canon lo s) : Lands lo (execGbar s) := by
  unfold execGbar
  refine canon_run h ?_
  extract_lets gid sc jp jp1
  have hjp : ∀ (x : Unit), Returns (Canon lo) (jp x) := by
    intro _
    unfold jp
    split
    · next heq => exact returns_ok ((canon_failedReport (canon_endRegion h)) _ heq)
    · exact returns_ok (canon_arriveAt (canon_endRegion h))
  have hjp1 : ∀ (x : Unit), Returns (Canon lo) (jp1 x) := fun _ => of_branches (returns_error _) (hjp ())
  exact of_branches (returns_error _) (hjp1 ())

theorem canon_execStep (h : Canon lo s) : Lands lo (execStep s) := by
  unfold execStep
  refine canon_run h ?_
  extract_lets gid jp
  have hjp : ∀ (x : Unit), Returns (Canon lo) (jp x) := by
    intro _
    unfold jp
    split
    · next heq => exact returns_ok ((canon_failedReport (canon_endRegion h)) _ heq)
    · exact returns_ok (canon_arriveAt (canon_endRegion h))
  exact of_branches (returns_error _) (hjp ())

/-! ## Works -/

/-- A work takes the identity that the state had to give. -/
theorem canon_issueWork {w : Work} (h : Canon lo s) (hw : w.id ≤ lo) : Canon lo (issueWork s w) := by
  refine canon_markEmpty (h.withWorks (fun v hv => ?_) (Nat.le_succ _))
  rcases List.mem_append.1 hv with hv | hv
  · exact (h.works v hv).trans (Nat.lt_succ_self _)
  · rw [List.mem_singleton.1 hv]
    exact Nat.lt_succ_of_le (hw.trans h.ids)

theorem canon_claimLines {work : Nat} {keys : List Nat} (h : Canon lo s) : Returns (Canon lo) (claimLines s work keys) :=
  of_branches (returns_ok (canon_addClaims h)) (returns_error _)

theorem canon_claimRest {w : Work} {ls : List Loc} (h : Canon lo s) : Returns (Canon lo) (claimRest s w ls) := by
  unfold claimRest
  split
  · exact returns_ok h
  · exact canon_claimLines h

theorem canon_workPage {w : Work} {k : Acc} {page : Nat} (h : Canon lo s) : Returns (fun r => Canon lo r.2.2) (workPage s w k page) := by
  unfold workPage
  refine of_branches (returns_error _) ?_
  split
  · exact returns_ok h
  · split
    · next heq2 =>
      have ht := (canon_translateX h).of_ok _ heq2
      exact returns_ok ht
    · exact returns_error _

theorem canon_workWaits {w : Work} {x : Wait} (h : Canon lo s) : Canon lo (workWaits s w x) := canon_setWork h

theorem canon_workPages {k : Acc} {l : List Nat} {w : Work} (h : Canon lo s) : Returns (fun r => Canon lo r.2.2) (workPages k l s w) := by
  induction l generalizing s w with
  | nil => exact returns_ok h
  | cons p r ih => exact (canon_workPage h).bind fun _ hx => (ih hx).bind fun _ hy => returns_ok hy

theorem canon_workLocs {w : Work} {ea n : Nat} {k : Acc} {perm : Win → Bool} (h : Canon lo s) :
    Returns (fun r => Canon lo r.2.2) (workLocs s w ea n k perm) := by
  unfold workLocs
  split
  · exact returns_error _
  · exact returns_ok h
  · exact of_branches (returns_ok h) (returns_error _)
  · exact (canon_workPages h).bind fun _ hp => returns_ok hp

/-! The translations of a work keep its identity. -/

theorem workPage_id (s : State) (w : Work) (k : Acc) (p : Nat) : Returns (fun r => r.2.1.id = w.id) (workPage s w k p) := by
  unfold workPage
  refine of_branches (returns_error _) ?_
  split
  · exact returns_ok rfl
  · split
    · exact returns_ok rfl
    · exact returns_error _

theorem workPages_id (k : Acc) (l : List Nat) (s : State) (w : Work) : Returns (fun r => r.2.1.id = w.id) (workPages k l s w) := by
  induction l generalizing s w with
  | nil => exact returns_ok rfl
  | cons p r ih => exact (workPage_id s w k p).bind fun x hx => (ih x.2.2 x.2.1).bind fun _ hy => returns_ok (hy.trans hx)

theorem workLocs_id (s : State) (w : Work) (ea n : Nat) (k : Acc) (perm : Win → Bool) :
    Returns (fun r => r.2.1.id = w.id) (workLocs s w ea n k perm) := by
  unfold workLocs
  split
  · exact returns_error _
  · exact returns_ok rfl
  · exact of_branches (returns_ok rfl) (returns_error _)
  · exact (workPages_id k _ s w).bind fun _ hp => returns_ok hp

theorem tryKeys_id (s : State) (w : Work) (k : Acc) (l : List (Nat × Nat)) : (tryKeys s w k l).2.1.id = w.id := by
  refine of_foldl (P := fun p : List Nat × Work × State => p.2.1.id = w.id) rfl fun p x hp => ?_
  split
  · next heq => exact ((workLocs_id ..).of_ok _ heq).trans hp
  · exact hp

theorem id_of_tryKeys {w v : Work} {k : Acc} {l : List (Nat × Nat)} {ks : List Nat} {t : State} (h : tryKeys s w k l = (ks, v, t)) : v.id = w.id :=
  (congrArg (·.2.1.id) h).symm.trans (tryKeys_id s w k l)

theorem canon_workLocsAny {w : Work} {ea n : Nat} {k : Acc} {perm : Win → Bool} (h : Canon lo s) : Returns (fun r => Canon lo r.2.2)
    (workLocsAny s w ea n k perm) := by
  unfold workLocsAny
  split
  · next heq =>
    have hv := (canon_workLocs h).of_ok _ heq
    exact returns_ok hv
  · exact returns_error _

theorem canon_tryKeys {w : Work} {k : Acc} {starts : List (Nat × Nat)} (h : Canon lo s) : Canon lo (tryKeys s w k starts).2.2 := by
  unfold tryKeys
  refine of_foldl (P := fun p : List Nat × Work × State => Canon lo p.2.2) h ?_
  intro _ _ hx
  split
  · next heq =>
    have hv := (canon_workLocs hx).of_ok _ heq
    exact hv
  · exact hx

theorem canon_keepLineBy {fetch : State → Nat → State} {w : Work} {l : Loc} (hfetch : ∀ t n, Canon lo t → Canon lo (fetch t n))
    (h : Canon lo s) : Canon lo (keepLineBy fetch s w l).2 := by
  unfold keepLineBy
  split
  · exact h
  · exact of_branches (hfetch _ _ h) h

theorem canon_keepLine {w : Work} {l : Loc} (h : Canon lo s) : Canon lo (keepLine s w l).2 :=
  canon_keepLineBy (fun _ _ ht => canon_withPolicy ht fun _ ht1 => canon_serveLine (canon_countReq ht1)) h

theorem canon_keepLines {w : Work} {ls : List Loc} (h : Canon lo s) : Canon lo (keepLines s w ls).2 :=
  of_foldl (P := fun p : Work × State => Canon lo p.2) h (fun _ _ hp => canon_keepLine hp)

theorem canon_putWork {w : Work} (h : Canon lo s) : Canon lo (putWork s w) := canon_setWork h

theorem canon_engineWrite {w : Work} {ws : List (Loc × Byte)} (h : Canon lo s) : Canon lo (engineWrite s w ws) := by
  unfold engineWrite
  extract_lets write
  have hwrite : ∀ (s : State), Canon lo s → Canon lo (write s) := by
    intro _ ht
    unfold write
    extract_lets x
    have hx : Canon lo x := canon_locWrites ht
    exact hx
  split
  · exact canon_withPolicy h hwrite
  · exact hwrite _ h

theorem canon_engineWrites {w : Work} {ws : List (Loc × Byte)} (h : Canon lo s) : Canon lo (engineWrites s w ws) :=
  of_foldl h fun _ _ ht => canon_engineWrite ht

theorem canon_writeLine {w : Work} {ws : List (Loc × Byte)} (h : Canon lo s) : Canon lo (writeLine s w ws).1 := by
  unfold writeLine
  split
  · exact h
  · dsimp -zeta only
    extract_lets t
    have ht : Canon lo t := canon_dropClaim (canon_engineWrite (canon_keepLineBy (fun _ _ ht1 => canon_recallLine ht1) h))
    split
    · exact canon_addBytes (of_branches (canon_countCopies ht) ht)
    · exact ht

theorem canon_noteTrap {w : Work} {t : Trap} {index : Nat} (h : Canon lo s) : Canon lo (noteTrap s w t index).1 := canon_noteError h

theorem canon_noteClass {w : Work} {c pa index : Nat} (h : Canon lo s) : Canon lo (noteClass s w c pa index).1 :=
  of_branches h (canon_logError h)

theorem canon_placeSegs {segs : List Seg} {w : Work} (h : Canon lo s) : Canon lo (placeSegs segs s w).2.2 := by
  unfold placeSegs
  refine of_foldl (P := fun p : List Placed × Work × State => Canon lo p.2.2) h ?_
  intro _ _ hx
  split
  · next heq =>
    have hv := (canon_workLocsAny hx).of_ok _ heq
    exact hv
  · exact of_branches hx (canon_noteError hx)
  · exact hx

theorem canon_planSegs {segs : List Seg} {w : Work} (h : Canon lo s) : Canon lo (planSegs segs s w).2.2 := by
  unfold planSegs
  dsimp -zeta only
  extract_lets all
  refine of_foldl (P := fun p : List (Loc × Byte × Nat) × Work × State => Canon lo p.2.2) (canon_placeSegs h) ?_
  intro _ _ hx
  extract_lets left bs w1
  split
  · exact hx
  · exact canon_noteClass hx

theorem canon_lineBytesOf {bs : List (Loc × Byte × Nat)} {key : Nat} (h : Canon lo s) : Canon lo (lineBytesOf s bs key).2 := by
  unfold lineBytesOf
  extract_lets mine dst f
  split
  · exact h
  · exact canon_freeNat h

theorem canon_writeSegs {segs : List Seg} {w : Work} {k : Nat} (h : Canon lo s) : Canon lo (writeSegs segs s w k) := by
  unfold writeSegs
  refine of_branches h ?_
  dsimp -zeta only
  split
  · exact canon_setWork (canon_planSegs h)
  · exact of_branches (canon_setWork (canon_planSegs h)) (canon_setWork (canon_writeLine (canon_lineBytesOf (canon_planSegs h))))

theorem canon_segKeys {w : Work} {l : List (Nat × Nat)} (h : Canon lo s) : Canon lo (segKeys s w l).2.2 := by
  refine of_foldl (P := fun p : List Nat × Work × State => Canon lo p.2.2) h fun p x hp => ?_
  split
  · next heq => exact (canon_workLocs hp).of_ok _ heq
  · exact hp

theorem segKeys_id (s : State) (w : Work) (l : List (Nat × Nat)) : (segKeys s w l).2.1.id = w.id := by
  refine of_foldl (P := fun p : List Nat × Work × State => p.2.1.id = w.id) rfl fun p x hp => ?_
  split
  · next heq => exact ((workLocs_id ..).of_ok _ heq).trans hp
  · exact hp

theorem id_of_segKeys {w v : Work} {l : List (Nat × Nat)} {ks : List Nat} {t : State} (h : segKeys s w l = (ks, v, t)) : v.id = w.id :=
  (congrArg (·.2.1.id) h).symm.trans (segKeys_id s w l)

theorem canon_fillSaved {c : SavedCtx} {field : Nat} {v : Word} (h : Canon lo s) : Canon lo (fillSaved s c field v) :=
  of_branches h (canon_homeWrite (canon_homeWrite h))

theorem canon_fillToken {w : Work} (h : Canon lo s) : Canon lo (fillToken s w) := by
  unfold fillToken
  extract_lets there t t1 v cur t2 x
  have ht : Canon lo t := canon_dropWork h
  have ht1 : Canon lo t1 := of_branches ht ht
  have hx : Canon lo x := canon_acquireCur (canon_writeField ht1)
  refine of_branches hx ?_
  split
  · split
    · exact canon_fillSaved ht1
    · exact ht1
  · exact ht1

/-! ## Copies -/

theorem canon_settleCpy {w : Work} (h : Canon lo s) : Canon lo (settleCpy s w) := canon_putWork h

theorem canon_cpyLine {w : Work} {k : Nat} (h : Canon lo s) : Canon lo (cpyLine s w k) := by
  unfold cpyLine
  split
  refine of_branches h ?_
  split
  · exact canon_workWaits h
  · split
    next hn => exact canon_settleCpy ((canon_noteTrap h).of_fst hn)
  · next heq =>
    have ht := (Returns.bind (Q := fun r => Canon lo r.2.2.2) (canon_workLocs h) fun _ hx => (canon_workLocs hx).bind fun _ hy => returns_ok hy).of_ok _ heq
    split
    · exact canon_settleCpy (canon_logError h)
    · split
      · exact h
      · next heq =>
        have hu := (canon_claimRest ht).of_ok _ heq
        exact of_branches (canon_putWork hu) (canon_settleCpy (canon_writeLine (canon_keepLines hu)))

theorem canon_gsLane {w : Work} {lane : Nat} (h : Canon lo s) : Returns (fun r => Canon lo r.2.2) (gsLane s w lane) :=
  Returns.bind (canon_workLocs h) fun _ hx => Returns.bind (canon_workLocs hx) fun _ hx1 => returns_ok hx1

theorem canon_settleGs {w : Work} (h : Canon lo s) : Canon lo (settleGs s w) := canon_putWork h

theorem canon_gsLine {w : Work} {k : Nat} (h : Canon lo s) : Canon lo (gsLine s w k) := by
  unfold gsLine
  extract_lets bs keys w1
  split
  · exact of_branches h (canon_settleGs h)
  · refine of_branches h ?_
    extract_lets mine dst pick src low
    split
    · exact canon_settleGs (canon_logError h)
    · exact of_branches (canon_putWork h) (canon_settleGs (canon_writeLine (canon_keepLines h)))

theorem gsLane_id (s : State) (w : Work) (lane : Nat) : Returns (fun r => r.2.1.id = w.id) (gsLane s w lane) :=
  (workLocs_id ..).bind fun _ hx => (workLocs_id ..).bind fun _ hy => returns_ok (hy.trans hx)

theorem canon_gsBody {kind : WorkKind} {us : List Use} {d a r : BitVec 7} (h : Canon lo s) : Returns (Canon lo) (gsBody s kind us d a r) := by
  refine h.returns ?_
  unfold gsBody
  refine Returns.then fun _ => ?_
  extract_lets +onlyGivenNames w
  split
  · exact returns_ok (canon_finish (canon_issueWork h.fresh le_rfl))
  · refine (canon_elements h.fresh).bind fun p hp => ?_
    obtain ⟨⟨es, m⟩, t⟩ := p
    refine Returns.bind (P := fun q : Work × State => q.1.id ≤ s.nextId ∧ Canon s.nextId q.2)
      (returns_foldlM ⟨le_rfl, hp⟩ fun q l hq => ?_) fun q hq => ?_
    · split
      · next heq => exact returns_ok ⟨((gsLane_id ..).of_ok _ heq).trans_le hq.1, (canon_gsLane hq.2).of_ok _ heq⟩
      · exact returns_error _
      · exact returns_ok ⟨hq.1, canon_noteError hq.2⟩
    · exact (canon_claimLines hq.2).bind fun t ht => returns_ok (canon_completeLanes (canon_settleGs (canon_issueWork ht hq.1)))

theorem canon_pushQ {gid q : Nat} {e : QEntry} (h : Canon lo s) : Canon lo (pushQ s gid q e) := canon_modGroup h fun _ hg => hg

theorem canon_loadVector {ea : Nat} (h : Canon lo s) : Returns (fun r => Canon lo r.2) (loadVector s ea) :=
  Returns.then fun _ => Returns.bind (canon_elements h) fun _ hp => Returns.bind (canon_loadNow hp) fun _ hp1 => returns_ok hp1

theorem canon_execCpy {d a : BitVec 7} (h : Canon lo s) : Lands lo (execCpy d a s) := by
  refine h.lands (canon_run h.fresh (Returns.then fun _ => ?_))
  extract_lets +onlyGivenNames w
  split
  · exact returns_ok (canon_finish (canon_issueWork h.fresh le_rfl))
  · extract_lets +onlyGivenNames v pieces
    have hv : v.id = s.nextId := rfl
    clear_value v
    split
    next hw =>
    split
    next hr =>
    have hid := (id_of_tryKeys hr).trans ((id_of_tryKeys hw).trans hv)
    exact (canon_claimLines ((canon_tryKeys ((canon_tryKeys h.fresh).of_third hw)).of_third hr)).bind fun t ht =>
      returns_ok (canon_finish (canon_settleCpy (canon_issueWork ht hid.le)))

theorem canon_execGather {d a r : BitVec 7} (h : Canon lo s) : Lands lo (execGather d a r s) := canon_run h (canon_gsBody h)

theorem canon_execScatter {d a r : BitVec 7} (h : Canon lo s) : Lands lo (execScatter d a r s) :=
  canon_run h (canon_gsBody h)

theorem canon_execToktest {p a : BitVec 7} (h : Canon lo s) : Lands lo (execToktest p a s) :=
  canon_run h (returns_ok (canon_finish (canon_putPreds h)))

theorem canon_execAxbind {a : BitVec 7} (h : Canon lo s) : Lands lo (execAxbind a s) := by
  refine canon_run h (of_branches (returns_error _) ?_)
  extract_lets +onlyGivenNames old rf t
  have hr : sliceCanon { regs := rf } := of_foldl (P := regsCanon) ⟨rfl, rfl, rfl⟩ fun _ _ hr => regsCanon_writeS hr
  have ht : Canon lo t := canon_modGroup h fun g hg => hg.withSlice (onSome_some (by exact hr))
  exact returns_ok (canon_finish ht)

theorem canon_execAstrm {a : BitVec 7} {q : BitVec 3} (h : Canon lo s) : Lands lo (execAstrm a q s) := by
  unfold execAstrm
  refine canon_run h ?_
  split
  · extract_lets st x t jp
    have hx : sliceCanon x := sliceCanon_getAxp h
    have hjp : ∀ (x : Unit), Returns (Canon lo) (jp x) := fun _ => returns_ok
        (canon_advance (canon_modGroup (of_branches h (canon_setAxp h hx)) fun _ hg => groupCanon_pumpStreams hg))
    exact of_branches (returns_error _) (hjp ())
  · exact returns_error _

theorem canon_execQpushS {a : BitVec 7} {q : BitVec 3} (h : Canon lo s) : Lands lo (execQpushS a q s) := by
  unfold execQpushS
  refine canon_run h ?_
  split
  · exact of_branches (returns_error _) (returns_ok (canon_advance (canon_pushQ h)))
  · exact returns_error _

theorem canon_execQpushM {a : BitVec 7} {q : BitVec 3} (h : Canon lo s) : Lands lo (execQpushM a q s) := by
  unfold execQpushM
  refine canon_run h ?_
  split
  · exact of_branches (returns_error _) (Returns.bind (canon_loadVector h) fun _ hp => returns_ok (canon_advance (canon_pushQ hp)))
  · exact returns_error _

end Sys2Proof.Machine
end

section
/-! What control instructions, ERET, the invalidations and launches keep of the canonical form (03_group; 13_translation; 07_core_sched_traps). -/

namespace Sys2Proof.Machine

open Claim

variable {s : State} {lo : Nat}

/-! ## Control instructions -/

theorem tabCanon_mapIcnt {g : Group} {f : Nat → Bool → Nat → Nat} (hg : groupCanon g) : tabCanon (mapIcnt g f).icnt 0 = true :=
  of_foldl (P := fun t : Tab Nat => tabCanon t 0 = true) hg.2.2.2.2.1.1 fun _ _ ht => of_branches
      (P := fun t : Tab Nat => tabCanon t 0 = true) ht (tabCanon_tabSet _ _ _ _ ht)

/-- Counts that stay in range (R95). -/
theorem groupCanon_mapIcnt {g : Group} {f : Nat → Bool → Nat → Nat} (hg : groupCanon g) (hf : ∀ l a n, n ≤ 65535 → f l a n ≤ 65535) :
    groupCanon (mapIcnt g f) := by
  have hc : ∀ p ∈ (mapIcnt g f).icnt, p.2 ≤ 65535 := by
    refine of_foldl (P := tabAll (· ≤ 65535)) hg.2.2.2.2.1.2 fun t l ht => of_branches (P := tabAll (· ≤ 65535)) ht ?_
    unfold tabSet
    exact of_branches (P := tabAll (· ≤ 65535)) (ht.erase l) (ht.put l (hf _ _ _ (tabAll.get (P := (· ≤ 65535)) hg.2.2.2.2.1.2 l (by decide))))
  exact ⟨hg.1, hg.2.1, hg.2.2.1, hg.2.2.2.1, ⟨tabCanon_mapIcnt hg, hc⟩, hg.2.2.2.2.2⟩

/-- Counts that went over the range trap (R95). -/
theorem groupCanon_mapIcnt_of_not_over {g : Group} {f : Nat → Bool → Nat → Nat} (hg : groupCanon g) (ho : ¬ icntOver (mapIcnt g f) = true) :
    groupCanon (mapIcnt g f) := by
  refine ⟨hg.1, hg.2.1, hg.2.2.1, hg.2.2.2.1, ⟨tabCanon_mapIcnt hg, fun p hp => ?_⟩, hg.2.2.2.2.2⟩
  simp only [icntOver, List.any_eq_true, decide_eq_true_eq, not_exists, not_and, not_lt] at ho
  exact ho p hp

theorem canon_structured {g : Group} {taken : Bool} {i : BitVec 14} (h : Canon lo s) (hg : groupCanon g) : Canon lo (structured s g taken i) := by
  unfold structured
  extract_lets gid t
  have ht : Canon lo t := canon_setGroup h hg
  exact of_branches (canon_goTo ht) (canon_advance ht)

theorem groupCanon_curGroup (h : Canon lo s) : groupCanon (curGroup s) := groupCanon_getGroup h

theorem canon_execJmp {o : BitVec 20} (h : Canon lo s) : Lands lo (execJmp o s) := canon_run h (returns_ok (canon_jumpTo h))

theorem canon_execCall {o : BitVec 20} (h : Canon lo s) : Lands lo (execCall o s) := canon_run h (returns_ok (canon_jumpTo (canon_writeSPair h)))

theorem canon_execJmpuZ {d : BitVec 7} {i : BitVec 14} (h : Canon lo s) : Lands lo (execJmpuZ d i s) :=
  canon_run h (returns_ok (of_branches (canon_jumpTo h) (canon_advance h)))

theorem canon_execJmpuNz {d : BitVec 7} {i : BitVec 14} (h : Canon lo s) : Lands lo (execJmpuNz d i s) :=
  canon_run h (returns_ok (of_branches (canon_jumpTo h) (canon_advance h)))

theorem canon_execRet {a : BitVec 7} (h : Canon lo s) : Lands lo (execRet a s) :=
  canon_run h (of_branches (returns_error _) (returns_ok (canon_jumpTo h)))

theorem canon_execIfp {p : BitVec 7} {i : BitVec 14} (h : Canon lo s) : Lands lo (execIfp p i s) := by
  refine canon_run h ?_
  extract_lets g g'
  split
  · exact returns_error _
  · next ho => exact returns_ok (canon_structured h (groupCanon_mapIcnt_of_not_over (groupCanon_curGroup h) ho))

theorem canon_execElseOp {i : BitVec 14} (h : Canon lo s) : Lands lo (execElseOp i s) :=
  canon_run h (returns_ok (canon_structured h (groupCanon_mapIcnt (groupCanon_curGroup h) fun _ _ _ hn => by split_ifs <;> omega)))

theorem canon_execFi (h : Canon lo s) : Lands lo (execFi s) :=
  canon_run h (returns_ok (canon_structured h (groupCanon_mapIcnt (groupCanon_curGroup h) fun _ _ _ hn => by split_ifs <;> omega)))

theorem canon_execLoop {i : BitVec 14} (h : Canon lo s) : Lands lo (execLoop i s) := by
  refine canon_run h ?_
  extract_lets g g'
  refine of_branches (returns_ok (canon_structured h (groupCanon_curGroup h))) ?_
  split
  · exact returns_error _
  · next ho => exact returns_ok (canon_structured h (groupCanon_mapIcnt_of_not_over (groupCanon_curGroup h) ho))

theorem canon_execEndl {i : BitVec 14} (h : Canon lo s) : Lands lo (execEndl i s) := by
  have hg : groupCanon (mapIcnt (curGroup s) fun _ act n => if act then n else if n = 1 then 0 else n) :=
    groupCanon_mapIcnt (groupCanon_curGroup h) fun _ _ _ hn => by split_ifs <;> omega
  exact canon_run h (of_branches (returns_ok (canon_structured h hg))
    (returns_ok (canon_structured h (groupCanon_mapIcnt hg fun _ _ _ hn => by split_ifs <;> omega))))

theorem canon_execBrkp {p : BitVec 7} {n : BitVec 6} (h : Canon lo s) : Lands lo (execBrkp p n s) :=
  canon_run h (returns_ok (canon_structured h (groupCanon_mapIcnt (groupCanon_curGroup h) fun _ _ _ hn => by split_ifs <;> omega)))

theorem canon_execContp {p : BitVec 7} {n : BitVec 6} (h : Canon lo s) : Lands lo (execContp p n s) :=
  canon_run h (returns_ok (canon_structured h (groupCanon_mapIcnt (groupCanon_curGroup h) fun _ _ _ hn => by split_ifs <;> omega)))

theorem canon_execExit (h : Canon lo s) : Lands lo (execExit s) := by
  unfold execExit
  refine canon_run h ?_
  refine returns_ok ?_
  split
  · extract_lets t
    have ht : Canon lo t := canon_advance (of_branches (canon_modGroup (canon_endRegion h) fun _ hg => hg) h)
    exact of_branches (canon_tryBarriers (canon_modGroup ht fun _ hg1 => hg1)) ht
  · refine canon_advance ?_
    refine canon_setAxp h ?_
    extract_lets x
    have hx : sliceCanon x := sliceCanon_getAxp h
    exact hx
  · exact h

theorem canon_execYield (h : Canon lo s) : Lands lo (execYield s) := canon_run h (returns_ok (canon_setCore (canon_advance h)))

theorem canon_execNop (h : Canon lo s) : Lands lo (execNop s) := canon_run h (returns_ok (canon_advance h))

theorem canon_execRegion (h : Canon lo s) : Lands lo (execRegion s) :=
  canon_run h (returns_ok (canon_advance (canon_modGroup (canon_endRegion h) fun _ hg => hg)))

theorem canon_execSrd {d : BitVec 7} {i : BitVec 14} (h : Canon lo s) : Lands lo (execSrd d i s) :=
  canon_run h (Returns.bind (canon_srdBody h) fun _ ht => returns_ok (canon_advance ht))

theorem canon_execSwr {d : BitVec 7} {i : BitVec 14} (h : Canon lo s) : Lands lo (execSwr d i s) :=
  canon_run h (Returns.bind (canon_swrBody h) fun _ ht => returns_ok (canon_advance ht))

theorem canon_execTrap {i : BitVec 14} (h : Canon lo s) : Lands lo (execTrap i s) := canon_run h (returns_ok (canon_takeTrap (canon_endRegion h)))

/-! ## ERET and barriers of a core -/

theorem canon_deliverNotice {gid : Nat} (h : Canon lo s) : Canon lo (deliverNotice s gid) := by
  unfold deliverNotice
  extract_lets g grid t
  have ht : Canon lo t := canon_modGroup h fun _ hg1 => hg1
  split
  · extract_lets n
    refine of_branches (canon_noticeHost ht) ?_
    split
    · exact ht
    · exact canon_noticeIssuer ht
  · exact h

theorem groupCanon_resumeGroup {g : Group} {pc : DWord} (hg : groupCanon g) : groupCanon (resumeGroup g pc) :=
  hg.withSlice (hg.axp.map fun _ ha => ha)

theorem canon_handlerSeen {gid : Nat} (h : Canon lo s) : Canon lo (handlerSeen s gid) := canon_fenceWalks (canon_applyAcquire h)

theorem canon_eretForm {us : List Use} {d a : BitVec 7} {form : State → Nat → TrapRec → Except Stop (Nat × State)} (h : Canon lo s)
    (hform : ∀ t n r, Canon lo t → Returns (fun r => Canon lo r.2) (form t n r)) : Returns (Canon lo)
    (eretForm s us d a form) := by
  unfold eretForm
  split
  · exact returns_ok (canon_finish (canon_writeSReg h))
  · exact Returns.bind (hform _ _ _ (canon_handlerSeen (canon_deliverNotice h))) fun _ hp => returns_ok (canon_finish (canon_writeSReg (of_branches hp h)))

theorem groupCanon_resumeAgain {g : Group} {pc : DWord} {only : Option Mask} (hg : groupCanon g) : groupCanon (resumeAgain g pc only) :=
  (groupCanon_endRegionG (groupCanon_resumeGroup hg) : groupCanon (endRegionG (resumeGroup g pc)))

theorem canon_execEretResume {d a : BitVec 7} (h : Canon lo s) : Lands lo (execEretResume d a s) :=
  canon_run h (canon_eretForm h fun _ _ _ ht => of_branches (returns_ok ht) (returns_ok (canon_modGroup ht fun _ hg => groupCanon_resumeAgain hg)))

theorem canon_execEretSkip {d a : BitVec 7} (h : Canon lo s) : Lands lo (execEretSkip d a s) := by
  unfold execEretSkip
  refine canon_run h ?_
  refine canon_eretForm h ?_
  intro _ _ _ ht
  refine of_branches (returns_ok ht) ?_
  split
  · exact returns_error _
  · exact returns_ok ht
  · next heq2 =>
    have ht2 := (canon_fetchHalfword (by exact ht)).of_ok _ heq2
    exact returns_ok (canon_modGroup ht2 fun _ hg => groupCanon_endRegionG (groupCanon_resumeGroup hg))

theorem canon_execEretRegion {d a : BitVec 7} (h : Canon lo s) : Lands lo (execEretRegion d a s) := by
  unfold execEretRegion
  refine canon_run h ?_
  refine canon_eretForm h ?_
  intro _ _ _ ht
  refine of_branches (returns_ok ht) ?_
  refine returns_ok ?_
  refine canon_modGroup ht ?_
  intro _ hg
  extract_lets x2
  have hx2 : groupCanon x2 := groupCanon_resumeGroup hg
  exact hx2

theorem canon_execEretAbort {d a : BitVec 7} (h : Canon lo s) : Lands lo (execEretAbort d a s) :=
  canon_run h (canon_eretForm h fun _ _ _ ht => returns_ok (canon_tryBarriers (canon_modGroup ht fun _ hg => groupCanon_endGroup hg)))

theorem canon_execEretSelf (h : Canon lo s) : Lands lo (execEretSelf s) :=
  canon_run h (of_branches (returns_error _) (returns_ok (canon_jumpTo (canon_modQueue h fun _ hq =>
    ⟨hq.1, (Nat.min_le_right _ _).trans hq.2⟩))))

/-! ## Invalidations and migrations -/

theorem canon_revokeLease {n : Nat} {l : Lease} (h : Canon lo s) : Canon lo (revokeLease s n l) := by
  unfold revokeLease
  extract_lets +onlyGivenNames g t u
  have ht : Canon lo t := canon_setGrid h
  have hu : Canon lo u := ht.mapWorks fun w => by split <;> rfl
  refine of_foldl hu fun v pkg hv => ?_
  extract_lets r t
  have ht : Canon lo t := canon_setRing hv
  split
  · exact of_branches (canon_revokeTask ht) ht
  · exact ht

theorem canon_pendLeases {v : Inval} (h : Canon lo s) : Canon lo (pendLeases s v) := h

theorem canon_startInval {a : Agent} {self : Option Nat} {v : Inval} (h : Canon lo s) : Canon lo (startInval s a self v) := by
  unfold startInval
  extract_lets +onlyGivenNames inSq inOut inPend hit inWorks v take clean t u
  have ht : Canon lo t := by
    refine (h.mapWorks (f := take) fun w => ?_).withQueues (queues := t.queues) (of_branches (h.queues.map fun p hp => ?_) h.queues)
    · exact apply_ite Work.id _ _ _ |>.trans (ite_self _)
    · split
      · exact of_branches (P := fun q : Nat × QCtx => queueCanon q.2) hp hp
      · exact hp
  exact canon_pendLeases (v := v) (of_branches (canon_fenceWalks ht) ht)

theorem canon_dropInval {id : Nat} (h : Canon lo s) : Canon lo (dropInval s id) := h

theorem canon_invalBody {us : List Use} {v : State → Inval} (h : Canon lo s) : Returns (Canon lo) (invalBody s us v) := by
  unfold invalBody
  split
  · exact of_branches (returns_ok (canon_finish (canon_dropInval h))) (returns_error _)
  · exact returns_ok (canon_waitOn (canon_startInval (h.withNextId (Nat.le_succ _))))

theorem canon_migAccess {w : Work} {old : Bool} {off : Nat} (h : Canon lo s) : Returns (fun r => Canon lo r.2) (migAccess s w old off) := by
  unfold migAccess
  extract_lets base pa walk
  have hwalk : ∀ (wk : Walker), Returns (fun r => Canon lo r.2) (walk wk) := fun _ => Returns.bind (canon_hostLookup h) fun _ hp => of_branches
      (returns_error _) (Returns.then fun _ => returns_ok hp)
  refine of_branches (returns_ok h) ?_
  refine Returns.bind (hwalk _) fun _ hp1 => ?_
  dsimp -zeta only
  split
  · next heq => exact returns_ok ((canon_setAD hp1) _ heq)
  · exact Returns.bind (hwalk _) fun _ hp2 => returns_ok (OnSome.getD (canon_setAD hp2) hp2)

theorem canon_migStart {w : Work} (h : Canon lo s) : Returns (fun r => Canon lo r.2) (migStart s w) := by
  unfold migStart
  split
  · exact returns_ok h
  · split
    · exact returns_ok h
    · exact returns_ok h
    · exact returns_ok (canon_noteXStop h)
    · exact of_branches (returns_ok h) (returns_error _)

theorem canon_migLeaf {w : Work} (h : Canon lo s) : Canon lo (migLeaf s w).2 := canon_serveLine h

theorem canon_migPut {w : Work} {e : Nat} (h : Canon lo s) : Canon lo (migPut s w e) := by
  unfold migPut
  extract_lets x
  have hx : Canon lo x := canon_homeWrite h
  exact hx

theorem canon_migUndo {w : Work} {cause index : Nat} (h : Canon lo s) : Canon lo (migUndo s w cause index) :=
  canon_setWork (canon_dropClaims (canon_migPut (canon_migLeaf h)))

theorem canon_migFinish {w : Work} (h : Canon lo s) : Canon lo (migFinish s w) := canon_setWork h

theorem canon_migInvalidate {w : Work} {stage : Nat} (h : Canon lo s) : Canon lo (migInvalidate s w stage) :=
  canon_setWork (canon_startInval (h.withNextId (Nat.le_succ _)))

theorem canon_migCopy {w : Work} {k : Nat} (h : Canon lo s) : Canon lo (migCopy s w k) := by
  unfold migCopy
  split
  · next heq =>
    have ht := (Returns.bind (Q := fun r => Canon lo r.2) (canon_migAccess h) fun _ hp => Returns.bind (canon_migAccess hp) fun _ hp1 => returns_ok hp1).of_ok _ heq
    refine of_branches (canon_migUndo ht) ?_
    refine of_branches ht ?_
    split
    · exact canon_migUndo (canon_logError ht)
    · extract_lets t1 t2 chunk w1
      have ht2 : Canon lo t2 := canon_engineWrite (canon_serveLine (canon_countReq ht))
      exact of_branches (of_branches (canon_setWork ht2) (canon_setWork (canon_dropClaims ht2))) (canon_setWork ht2)
  · exact canon_migUndo (canon_noteXStop h)
  · exact of_branches (canon_migUndo h) (canon_workWaits h)

theorem canon_migStep {w : Work} {k : Nat} (h : Canon lo s) : Canon lo (migStep s w k) := by
  unfold migStep
  refine of_branches h ?_
  split
  · dsimp -zeta only
    refine of_branches (canon_setWork (canon_migLeaf h)) ?_
    extract_lets t
    have ht : Canon lo t := canon_migPut (canon_migLeaf h)
    exact canon_migInvalidate (of_branches (of_foldl ht fun _ _ ht1 => canon_revokeLease ht1) ht)
  · split
    · exact of_branches (canon_setWork (canon_dropInval h)) h
    · exact h
  · extract_lets ls
    refine of_branches (canon_setWork h) ?_
    split
    · next heq5 => exact canon_setWork ((canon_claimLines h).of_ok _ heq5)
    · exact h
  · exact of_branches h (canon_migCopy h)
  · exact canon_migInvalidate (canon_migPut (canon_migLeaf h))
  · split
    · exact of_branches (canon_migFinish (canon_dropClaims (canon_dropInval h))) h
    · exact h

theorem migLeafStart_id (s : State) (w : Work) (st : Stage1) : (migLeafStart s w st).id = w.id := by
  unfold migLeafStart
  split
  · extract_lets _ v
    have hv : v.id = w.id := rfl
    clear_value v
    refine of_branches (P := fun x : Work => x.id = w.id) hv ?_
    split
    · exact hv
    · exact of_branches (P := fun x : Work => x.id = w.id) hv (of_branches (P := fun x : Work => x.id = w.id) hv
          (of_branches (P := fun x : Work => x.id = w.id) hv hv))
  · rfl

theorem migStart_id (s : State) (w : Work) : Returns (fun r => r.1.id = w.id) (migStart s w) := by
  unfold migStart
  split
  · exact returns_ok rfl
  · split
    · exact returns_ok rfl
    · exact returns_ok (migLeafStart_id ..)
    · exact returns_ok rfl
    · exact of_branches (returns_ok rfl) (returns_error _)

theorem canon_migrateBody {d a : BitVec 7} {force host : Bool} (h : Canon lo s) : Returns (Canon lo) (migrateBody s d a force host) := by
  refine h.returns (Returns.then fun _ => ?_)
  extract_lets +onlyGivenNames w vf
  exact ((canon_migStart h.fresh).and (migStart_id s { w with vf := vf })).bind fun _ hr =>
    returns_ok (canon_advance (canon_issueWork hr.1 hr.2.le))

theorem canon_longValue {dst : Nat} {bs : List Byte} (h : Canon lo s) : Canon lo (longValue s dst bs) := canon_addPending h

theorem canon_execTfencePt {s : BitVec 2} {st : State} (hst : Canon lo st) : Lands lo (execTfencePt s st) := by
  unfold execTfencePt
  refine canon_run hst ?_
  extract_lets jp
  have hjp : ∀ (x : Unit), Returns (Canon lo) (jp x) := fun _ => returns_ok (canon_finish (of_branches (canon_fenceWalks hst) hst))
  split
  · exact of_branches (returns_error _) (hjp ())
  · exact hjp ()

theorem canon_execTfenceWalk (h : Canon lo s) : Lands lo (execTfenceWalk s) := by
  unfold execTfenceWalk
  refine canon_run h ?_
  refine returns_ok ?_
  refine canon_finish ?_
  split
  · exact canon_modGroup h fun _ hg => hg
  · exact h

theorem canon_execTfenceInv {a : BitVec 7} {e : BitVec 1} {s : BitVec 2} {g : BitVec 1} {st : State} (hst : Canon lo st) : Lands lo (execTfenceInv a e s g st) :=
  canon_run hst (Returns.then fun _ => canon_invalBody hst)

theorem canon_execMigrate {d a : BitVec 7} {f h : BitVec 1} (h1 : Canon lo s) : Lands lo (execMigrate d a f h s) :=
  canon_run h1 (canon_migrateBody h1)

theorem canon_execPtq {d a : BitVec 7} {k : BitVec 2} {h : BitVec 1} (h1 : Canon lo s) : Lands lo (execPtq d a k h s) := by
  unfold execPtq
  refine canon_run h1 ?_
  extract_lets acc r t jp
  have ht : Canon lo t := by
    unfold t
    split
    · exact canon_noteXStop h1
    · exact h1
  have hjp : ∀ (x : Unit), Returns (Canon lo) (jp x) := fun _ => returns_ok (canon_finish (canon_longValue ht))
  exact of_branches (returns_error _) (hjp ())

theorem canon_execRnginv {a : BitVec 7} {s : BitVec 2} {h : BitVec 1} {st : State} (hst : Canon lo st) : Lands lo (execRnginv a s h st) :=
  canon_run hst (of_branches (returns_error _) (Returns.then fun _ => canon_invalBody hst))

theorem canon_execLeaseq {d a : BitVec 7} (h : Canon lo s) : Lands lo (execLeaseq d a s) :=
  canon_run h (returns_ok (canon_finish (canon_longValue h)))

theorem canon_execTfenceInvComplete {id : Nat} (h : Canon lo s) : Lands lo (execTfenceInvComplete id s) := by
  unfold execTfenceInvComplete
  split
  · exact of_branches (lands_next h) (lands_next h)
  · exact lands_next h

theorem canon_execLeaseTimeout {grid n : Nat} (h : Canon lo s) : Lands lo (execLeaseTimeout grid n s) := by
  unfold execLeaseTimeout
  split
  · split
    · exact of_branches (lands_next (canon_revokeLease h)) (lands_next h)
    · exact lands_next h
  · exact lands_next h

theorem canon_execMigrationLimit {who : Watched} (h : Canon lo s) : Lands lo (execMigrationLimit who s) := by
  unfold execMigrationLimit
  extract_lets +onlyGivenNames due works
  have hworks : ∀ t mine, Canon lo t → Canon lo (works t mine) := fun _ _ ht => ht.mapWorks fun w => apply_ite Work.id _ _ _ |>.trans (ite_self _)
  clear_value works
  split
  · exact lands_next (of_branches h (hworks _ _ (canon_modGroup h fun _ hg => hg.withSlice (hg.axp.map fun _ ha => ha))))
  · exact lands_next (of_branches h (hworks _ _ (canon_modQueue h fun _ hq => hq)))

/-! ## Launches -/

theorem canon_launchGrid {w : Work} (h : Canon lo s) : Returns (fun r => Canon lo r.2) (launchGrid s w) := by
  unfold launchGrid
  extract_lets read x jp
  have hread : ∀ (s : State) (va n : Nat), Canon lo s → Returns (fun r => Canon lo r.2) (read s va n) := by
    intro _ _ _ ht
    unfold read
    split
    · next heq =>
      have hr := (canon_readVirt ht).of_ok _ heq
      exact returns_ok hr
    · exact returns_error _
    · exact of_branches (returns_error _) (returns_error _)
  have hjp : ∀ (x : Unit), Returns (fun r => Canon lo r.2) (jp x) := by
    intro _
    unfold jp
    refine Returns.bind (hread _ _ _ h) fun _ hp => ?_
    dsimp -zeta only
    extract_lets jp1
    have hjp1 : ∀ (x : Unit), Returns (fun r => Canon lo r.2) (jp1 x) := fun _ => Returns.bind (hread _ _ _ hp) fun _ hp1 => Returns.bind
        (of_branches (returns_ok hp1) (hread _ _ _ hp1)) fun _ hp2 => of_branches (returns_error _)
        (of_branches (returns_error _) (of_branches (returns_error _) (of_branches (returns_error _) (of_branches (returns_error _) (returns_ok hp2)))))
    split
    · exact returns_error _
    · exact hjp1 ()
  split
  · exact returns_error _
  · exact hjp ()

theorem canon_pinLease {g : Grid} {l : Lease} (h : Canon lo s) : Returns (fun r => Canon lo r.2) (pinLease s g l) :=
  Returns.bind (canon_translateRun h) fun _ hp => returns_ok hp

theorem canon_failLaunch {n cause index : Nat} (h : Canon lo s) : Canon lo (failLaunch s n cause index) := by
  unfold failLaunch
  extract_lets t
  have ht : Canon lo t := h
  split
  · exact canon_setWork ht
  · exact ht

theorem canon_prefetchDemands {g : Grid} (h : Canon lo s) : Canon lo (prefetchDemands s g) := by
  unfold prefetchDemands
  refine of_foldl h ?_
  intro _ _ ht
  refine of_foldl ht ?_
  intro _ _ ht1
  split
  · next heq =>
    have ht2 := (canon_lookupBoth ht1).of_ok _ heq
    exact ht2
  · exact ht1

theorem canon_pinLeases {g : Grid} {l acc : List Lease} (h : Canon lo s) {ls : List Lease} {t : State} (hp : pinLeases s g l acc = .ok ls t) : Canon lo t := by
  induction l generalizing s acc with
  | nil => cases hp; exact h
  | cons x r ih =>
    unfold pinLeases at hp
    split at hp
    · next heq => exact ih ((canon_pinLease h).of_ok _ heq) hp
    · exact nomatch hp

theorem canon_startGrid {n : Nat} (h : Canon lo s) : Canon lo (startGrid s n) := by
  unfold startGrid
  extract_lets +onlyGivenNames g
  refine of_branches h ?_
  split
  · exact canon_failLaunch (canon_noteXStop h)
  · split
    · exact of_branches (canon_failLaunch h) (canon_workWaits h)
    · exact h
  · next heq =>
    refine of_branches (canon_failLaunch h) (of_branches h ?_)
    exact of_foldl (canon_prefetchDemands (canon_setGrid (canon_pinLeases h heq))) fun _ _ ht => canon_pendLeases ht

theorem canon_execLaunch {d a : BitVec 7} (h : Canon lo s) : Lands lo (execLaunch d a s) := by
  refine h.lands (canon_run h.fresh (Returns.then fun _ => ?_))
  extract_lets +onlyGivenNames w
  split
  · exact returns_error _
  · refine returns_ok (canon_advance (canon_issueWork ?_ le_rfl))
    split
    · exact canon_noteXStop h.fresh
    · exact h.fresh
  · next heq =>
    have ht := (canon_launchGrid h.fresh).of_ok _ heq
    exact returns_ok (canon_advance (canon_startGrid (canon_setGrid (canon_issueWork ht le_rfl))))

theorem canon_execGridOfferReceived {grid modn : Nat} {accept : Bool} (h : Canon lo s) : Lands lo (execGridOfferReceived grid modn accept s) :=
  of_branches (lands_next h) (lands_next (canon_startGrid (canon_setGrid h)))

theorem canon_execPlacementLimit {grid : Nat} (h : Canon lo s) : Lands lo (execPlacementLimit grid s) :=
  of_branches (lands_next h) (lands_next (canon_failLaunch h))

end Sys2Proof.Machine
end

section
/-! What queue contexts, the reprogramming of the array, operations across lanes and the matrix unit keep of the canonical form (14_tenancy R447-R452; 10_array; 04_isa; 06_async_engines). -/

namespace Sys2Proof.Machine

open Claim

variable {s : State} {lo : Nat}

/-! ## Queue contexts -/

theorem canon_semaphore {a : BitVec 7} {k : Acc} (h : Canon lo s) : Returns (fun r => Canon lo r.2) (semaphore s a k) :=
  Returns.then fun _ => Returns.bind (canon_elements h) fun _ hp => of_branches (returns_error _) (of_branches (returns_error _) (returns_ok hp))

theorem canon_readWord64 {ls : List Loc} (h : Canon lo s) : Canon lo (readWord64 s ls).2 := of_foldl h fun _ _ ht => canon_serveLine ht

theorem canon_writeWord64 {ls : List Loc} {v : DWord} (h : Canon lo s) : Canon lo (writeWord64 s ls v) := canon_locWrites h

theorem canon_abandon {qid : Nat} (h : Canon lo s) : Canon lo (abandon s qid) := h.withQueues (h.queues.mod qid fun _ hq => hq)

theorem canon_accessStop {x : XStop} (h : Canon lo s) : Returns (fun r => Canon lo r.2) (accessStop s x) := by
  unfold accessStop
  split
  · exact returns_ok (canon_noteXStop h)
  · exact of_branches (returns_ok h) (returns_error _)

theorem canon_readImage {addr : Nat} (h : Canon lo s) : Returns (fun r => Canon lo r.2) (readImage s addr) :=
  Returns.bind (canon_readVirt h) fun _ hp => Returns.bind (canon_readVirt hp) fun _ hp1 => returns_ok hp1

theorem regsCanon_withErm {r : RegFile} (hr : regsCanon r) (e : BitVec 128) : regsCanon { r with erm := e } := hr

theorem canon_loadQueue {vf slot : Nat} {i : QueueImage} {pas : List Nat} (h : Canon lo s) : Canon lo (loadQueue s vf slot i pas) := by
  unfold loadQueue
  extract_lets +onlyGivenNames old qid r0 regs c t
  have hr : regsCanon regs :=
    of_foldl (P := regsCanon) (of_foldl (P := regsCanon) ⟨rfl, rfl, rfl⟩ fun _ _ hr => regsCanon_writeS hr) fun _ _ hr => of_branches hr hr
  have hc : queueCanon c := ⟨regsCanon_withErm hr _, by dsimp only [c]; split <;> decide⟩
  have ht : Canon lo t := h.withNextId (Nat.le_succ _)
  exact canon_modQueue (canon_readDescriptor (canon_setQueue ht hc)) fun _ hq => queueCanon_goesTo hq _

theorem canon_loadSlot {vf slot : Nat} {i : SlotImage} {pas : Nat → List Nat} (h : Canon lo s) : Canon lo (loadSlot s vf slot i pas) := by
  unfold loadSlot
  extract_lets t t1
  have ht1 : Canon lo t1 := of_foldl (canon_setSlot h) fun _ _ ht2 => canon_loadQueue ht2
  exact of_branches (of_foldl ht1 fun _ _ ht3 => canon_deliverHeld ht3) ht1

theorem canon_eraseQueue {qid : Nat} (h : Canon lo s) : Canon lo { s with queues := tabErase s.queues qid } := h.withQueues (h.queues.erase qid)

theorem canon_unloadSlot {vf slot : Nat} {addr : Option Nat} (h : Canon lo s) : Canon lo (unloadSlot s vf slot addr) := by
  unfold unloadSlot
  extract_lets +onlyGivenNames p qs
  refine canon_setVf (of_foldl h fun t q ht => ?_)
  extract_lets qid c u v
  have hu : Canon lo u := canon_abandon ht
  have hv : Canon lo v := by
    dsimp only [v]
    split
    · exact hu
    · exact hu
  exact canon_eraseQueue hv

theorem canon_saveSlot {vf slot addr : Nat} (h : Canon lo s) : Returns (Canon lo) (saveSlot s vf slot addr) :=
  Returns.map (canon_writeVirt h) fun _ hp => hp

theorem canon_endStatus {us : List Use} {d : BitVec 7} {st : Nat} (h : Canon lo s) : Canon lo (endStatus s us d st) :=
  canon_finish (canon_writeSReg h)

theorem canon_endFault {us : List Use} {d : BitVec 7} {x : XStop} (h : Canon lo s) : Returns (Canon lo) (endFault s us d x) :=
  Returns.bind (canon_accessStop h) fun _ hp => returns_ok (canon_endStatus hp)

theorem canon_rollBack {qid slot : Nat} (h : Canon lo s) : Canon lo (rollBack s qid slot) := by
  unfold rollBack
  extract_lets c n addr junk t
  have ht : Canon lo t := by
    unfold t
    split
    · next heq =>
      have ht1 := (canon_writeVirt (by exact h)).of_ok _ heq
      exact ht1
    · exact h
  exact canon_modQueue ht fun _ hq => hq

theorem canon_ctxswBody {us : List Use} {d a : BitVec 7} (h : Canon lo s) : Returns (Canon lo) (ctxswBody s us d a) := by
  unfold ctxswBody
  extract_lets qid vf b slot clear
  have hclear : ∀ (t : State), Canon lo t → Canon lo (clear t) := fun _ ht => canon_modQueue ht fun _ hq => hq
  refine of_branches (returns_ok (canon_endStatus (hclear _ h))) ?_
  refine of_branches (returns_ok (canon_endStatus (hclear _ h))) ?_
  split
  · exact canon_endFault (hclear _ h)
  · next heq1 =>
    have ht1 := (canon_readImage h).of_ok _ heq1
    refine of_branches (returns_ok (canon_endStatus (hclear _ h))) ?_
    refine of_branches (returns_ok (canon_waitOn (canon_modQueue ht1 fun _ hq1 => hq1))) ?_
    refine of_branches (returns_ok (canon_rollBack h)) ?_
    refine of_branches (returns_ok (canon_waitOn h)) ?_
    split
    · exact canon_endFault (hclear _ h)
    · next heq3 => exact returns_ok (canon_loadSlot (canon_unloadSlot ((canon_saveSlot (canon_endStatus (hclear _ ht1))).of_ok _ heq3)))

theorem canon_setDecode {slot : Nat} {new : Option (Nat × List Word)} (h : Canon lo s) : Canon lo (setDecode s slot new) := h

theorem canon_dectabResult {b : List Word} {clr : Bool} (h : Canon lo s) : Returns (fun r => Canon lo r.2) (dectabResult s b clr) := by
  unfold dectabResult
  extract_lets w slot
  refine of_branches (returns_ok h) ?_
  refine of_branches (returns_ok h) ?_
  refine of_branches (returns_ok (canon_setDecode h)) ?_
  refine of_branches (returns_ok h) ?_
  refine of_branches (returns_ok h) ?_
  split
  · exact Returns.bind (canon_accessStop h) fun _ hp => returns_ok hp
  · next heq1 =>
    have ht := (canon_readVirt h).of_ok _ heq1
    extract_lets es
    split
    · exact returns_ok ht
    · exact returns_ok (canon_setDecode ht)

theorem canon_qossetResult {b : List Word} (h : Canon lo s) : Canon lo (qossetResult s b).2 := by
  unfold qossetResult
  extract_lets w vf x t
  split
  · exact h
  · split
    · exact h
    · exact canon_setVf h

theorem canon_execQwait {d a : BitVec 7} {c : BitVec 2} {e : BitVec 1} (h : Canon lo s) : Lands lo (execQwait d a c e s) :=
  canon_run h (Returns.bind (canon_semaphore h) fun _ hp => returns_ok (of_branches
      (canon_finish (of_branches (canon_writeWord64 (canon_readWord64 hp)) (canon_readWord64 hp))) (canon_waitOn (canon_readWord64 hp))))

theorem canon_execQsig {d a : BitVec 7} {s : BitVec 1} {st : State} (hst : Canon lo st) : Lands lo (execQsig d a s st) :=
  canon_run hst (of_branches (returns_error _) (Returns.bind (canon_semaphore hst) fun _ hp => returns_ok (canon_finish (canon_writeWord64 (canon_readWord64 hp)))))

theorem canon_execQjmp {o : BitVec 20} (h : Canon lo s) : Lands lo (execQjmp o s) :=
  canon_run h (of_branches (returns_error _) (of_branches (returns_ok (canon_modQueue h fun _ hq1 => hq1)) (returns_ok (canon_jumpTo h))))

theorem canon_execQstopStop {a : BitVec 7} (h : Canon lo s) : Lands lo (execQstopStop a s) := by
  unfold execQstopStop
  refine canon_run h ?_
  refine Returns.then fun _ => ?_
  extract_lets u
  have hu : Canon lo u := canon_finish h
  exact of_branches (returns_ok hu) (returns_ok (canon_writeDescriptor (canon_modQueue (canon_abandon hu) fun _ hq => hq)))

theorem canon_execQstopStart {a : BitVec 7} (h : Canon lo s) : Lands lo (execQstopStart a s) := by
  unfold execQstopStart
  refine canon_run h ?_
  refine Returns.then fun _ => ?_
  extract_lets u
  have hu : Canon lo u := canon_finish h
  exact of_branches (returns_ok hu) (returns_ok (canon_writeDescriptor (canon_modQueue hu fun _ hq => hq)))

theorem canon_execCtxsw {d a : BitVec 7} (h : Canon lo s) : Lands lo (execCtxsw d a s) := canon_run h (canon_ctxswBody h)

theorem canon_execCtxsv {d a : BitVec 7} {f : BitVec 1} (h : Canon lo s) : Lands lo (execCtxsv d a f s) := by
  unfold execCtxsv
  refine canon_run h ?_
  extract_lets vf b slot me stopped t
  have ht : Canon lo t := canon_modQueue h fun _ hq => hq
  refine of_branches (returns_ok (canon_endStatus ht)) ?_
  refine of_branches (returns_ok (canon_endStatus ht)) ?_
  refine of_branches (returns_ok (canon_waitOn (canon_modQueue h fun _ hq1 => hq1))) ?_
  split
  · exact canon_endFault ht
  · next heq1 =>
    have ht1 := (canon_saveSlot (canon_endStatus ht)).of_ok _ heq1
    exact returns_ok (of_branches (canon_unloadSlot ht1) (of_foldl ht1 fun _ _ ht2 => canon_abandon ht2))

theorem canon_execCtxld {d a : BitVec 7} (h : Canon lo s) : Lands lo (execCtxld d a s) := by
  unfold execCtxld
  refine canon_run h ?_
  extract_lets vf b slot
  refine of_branches (returns_ok (canon_endStatus h)) ?_
  refine of_branches (returns_ok (canon_endStatus h)) ?_
  split
  · exact canon_endFault h
  · next heq1 =>
    have ht := (canon_readImage h).of_ok _ heq1
    exact returns_ok (of_branches (canon_endStatus h) (canon_loadSlot (canon_endStatus ht)))

theorem canon_execDectabLoad {d a : BitVec 7} (h : Canon lo s) : Lands lo (execDectabLoad d a s) :=
  canon_run h (Returns.bind (canon_dectabResult h) fun _ hp => returns_ok (canon_endStatus hp))

theorem canon_execDectabClr {d a : BitVec 7} (h : Canon lo s) : Lands lo (execDectabClr d a s) :=
  canon_run h (Returns.bind (canon_dectabResult h) fun _ hp => returns_ok (canon_endStatus hp))

theorem canon_execHvcall {i : BitVec 14} (h : Canon lo s) : Lands lo (execHvcall i s) :=
  canon_run h (of_branches (returns_error _) (of_branches (returns_error _) (of_branches (returns_error _) (returns_ok (canon_enterHandler h (by decide))))))

theorem canon_execQosset {d a : BitVec 7} (h : Canon lo s) : Lands lo (execQosset d a s) :=
  canon_run h (returns_ok (canon_endStatus (canon_qossetResult h)))

theorem canon_execCtxswRollback {qid : Nat} (h : Canon lo s) : Lands lo (execCtxswRollback qid s) := by
  unfold execCtxswRollback
  split
  · exact lands_next (of_branches (canon_rollBack h) h)
  · exact lands_next h

/-! ## Reprogramming -/

theorem canon_setArrTile {n : Nat} {t : Tile} (h : Canon lo s) : Canon lo (setArrTile s n t) := h

theorem canon_setGrant {vf i : Nat} {ws : List Word} (h : Canon lo s) : Canon lo (setGrant s vf i ws) := canon_setVf h

theorem canon_putCairn {die : Nat} {c : Cairn} (h : Canon lo s) : Canon lo (putCairn s die c) := h

theorem canon_dropCairns {die tile : Nat} (h : Canon lo s) : Canon lo (dropCairns s die tile) := h

theorem canon_rowStep {die tile row : Nat} {bs : List Byte} (h : Canon lo s) : Canon lo (rowStep s die tile row bs) := by
  unfold rowStep
  extract_lets n t put dig fail t1 back lv
  have hput : ∀ (s : State) (kind : Nat) (body : List Byte), Canon lo s → Canon lo (put s kind body) := fun _ _ _ ht2 => canon_putCairn ht2
  have hfail : Canon lo fail.2 := canon_freeBool h
  exact of_branches (hput _ _ _ h) (of_branches (canon_setArrTile (hput _ _ _ h))
      (of_branches (canon_setArrTile (hput _ _ _ hfail)) (canon_setArrTile (hput _ _ _ hfail))))

theorem canon_stageRow {w : Work} {row : Nat} (h : Canon lo s) : Canon lo (stageRow s w row) := by
  rw [show @stageRow = delta% @stageRow from rfl]
  beta_reduce
  extract_lets die n len lost
  have hlost : ∀ (s : State) (w : Work) (c : Nat), Canon lo s → Canon lo (lost s w c) := fun _ _ _ ht => canon_setWork (canon_setArrTile ht)
  split
  · exact canon_workWaits h
  · exact hlost _ _ _ (canon_noteError h)
  · next heq2 =>
    have hv := (canon_workLocs h).of_ok _ heq2
    split
    · exact hlost _ _ _ (canon_logError hv)
    · exact of_branches h (canon_setWork (of_foldl (canon_keepLines hv) fun _ _ ht4 => canon_putCairn ht4))

theorem canon_arprogStep {w : Work} (h : Canon lo s) : Canon lo (arprogStep s w) := by
  unfold arprogStep
  extract_lets die row x
  refine of_branches h ?_
  refine of_branches (canon_stageRow h) ?_
  split
  · exact canon_setWork (canon_setArrTile h)
  · extract_lets t
    have ht : Canon lo t := canon_rowStep h
    exact of_branches (canon_setWork (canon_logError ht)) (of_branches ht (canon_setWork ht))

theorem canon_commitTile {w : Work} (h : Canon lo s) : Canon lo (commitTile s w) := by
  unfold commitTile
  extract_lets die tile n t committed digs t1 t2
  split
  · exact canon_setWork h
  · exact canon_setWork (canon_setArrTile (canon_dropCairns (canon_putCairn h)))

theorem canon_commitGrant {w : Work} (h : Canon lo s) : Canon lo (commitGrant s w) := by
  rw [show @commitGrant = delta% @commitGrant from rfl]
  beta_reduce
  extract_lets -underBinder vf i
  split
  · exact of_branches (canon_setWork h) (canon_workWaits h)
  · split
    · exact canon_setWork (canon_noteXStop h)
    · exact h
  · next heq2 =>
    have ht := (canon_readVirt h).of_ok _ heq2
    exact of_branches (canon_setWork h) (of_branches (canon_setWork h) (of_branches (canon_setWork h) (canon_setWork (canon_setGrant ht))))

theorem canon_commitRevoke {w : Work} (h : Canon lo s) : Canon lo (commitRevoke s w) := canon_setWork (canon_setGrant h)

theorem canon_arcommitStep {w : Work} (h : Canon lo s) : Canon lo (arcommitStep s w) :=
  of_branches h (of_branches (canon_commitTile h) (of_branches (canon_commitGrant h) (of_branches (canon_commitRevoke h) (of_branches h (canon_setWork h)))))

theorem canon_arcommitBody {us : List Use} {d a : BitVec 7} {op : Nat} (h : Canon lo s) : Returns (Canon lo) (arcommitBody s us d a op) := by
  unfold arcommitBody
  refine h.returns ?_
  refine Returns.then fun _ => ?_
  extract_lets w
  split
  · exact returns_ok (canon_finish (canon_issueWork h.fresh le_rfl))
  · exact returns_ok (canon_finish (canon_arcommitStep (canon_issueWork h.fresh le_rfl)))

theorem canon_replayTile {die tile : Nat} (h : Canon lo s) : Canon lo (replayTile s die tile) := by
  unfold replayTile
  extract_lets n t cs
  refine of_branches (canon_setArrTile h) ?_
  split
  · exact h
  · exact of_branches (canon_setArrTile h) (canon_rowStep h)

theorem canon_replayDie {die : Nat} (h : Canon lo s) : OnSome (Canon lo) (replayDie s die) :=
  OnSome.map (P := fun _ => True) (fun _ _ => trivial) fun _ _ => canon_replayTile h

theorem canon_replaySteps {n die : Nat} (h : Canon lo s) : Canon lo (replaySteps n s die) := by
  induction n generalizing s with
  | zero => exact h
  | succ n ih =>
    unfold replaySteps
    split
    · next heq => exact ih (canon_replayDie h _ heq)
    · exact h

theorem canon_replayAll {die : Nat} (h : Canon lo s) : Canon lo (replayAll s die) := canon_replaySteps h

theorem canon_execArprog {d a : BitVec 7} (h : Canon lo s) : Lands lo (execArprog d a s) := by
  unfold execArprog
  refine h.lands ?_
  refine canon_run h.fresh ?_
  refine Returns.then fun _ => ?_
  extract_lets -underBinder w
  split
  · exact returns_ok (canon_finish (canon_issueWork h.fresh le_rfl))
  · exact returns_ok (canon_finish (canon_setArrTile (canon_dropCairns (canon_issueWork h.fresh le_rfl))))

theorem canon_execArcommitTile {d a : BitVec 7} (h : Canon lo s) : Lands lo (execArcommitTile d a s) :=
  canon_run h (canon_arcommitBody h)

theorem canon_execArcommitGrant {d a : BitVec 7} (h : Canon lo s) : Lands lo (execArcommitGrant d a s) :=
  canon_run h (canon_arcommitBody h)

theorem canon_execArcommitRevoke {d a : BitVec 7} (h : Canon lo s) : Lands lo (execArcommitRevoke d a s) :=
  canon_run h (canon_arcommitBody h)

theorem canon_execArstat {d a : BitVec 7} (h : Canon lo s) : Lands lo (execArstat d a s) := by
  refine h.lands (canon_run h.fresh (Returns.then fun _ => ?_))
  extract_lets +onlyGivenNames w
  cases arstatBad w with
  | some x => exact returns_ok (canon_finish (canon_issueWork h.fresh le_rfl))
  | none =>
    rcases hk : segKeys s w [(w.pair 2, 64)] with ⟨ks, v, t⟩
    exact (canon_claimLines ((canon_segKeys h.fresh).of_third hk)).bind fun u hu => returns_ok (canon_finish (canon_issueWork hu (id_of_segKeys hk).le))

theorem canon_execJournalBackgroundRow {die tile : Nat} (h : Canon lo s) : Lands lo (execJournalBackgroundRow die tile s) := by
  unfold execJournalBackgroundRow
  split
  · exact lands_next (canon_rowStep h)
  · exact lands_next h

/-! ## Operations across lanes -/

theorem canon_cvtBody {d a : BitVec 7} {c : BitVec 6} {opt : Bool} (h : Canon lo s) : Canon lo (cvtBody s d a c opt) :=
  canon_fpFlags (of_branches (canon_putPairs h) (canon_putLanes h))

theorem canon_shfl {opn : Nat} {us : List Use} {d a b : BitVec 7} {src : Nat → Word → Nat} (h : Canon lo s) : Lands lo (shfl s opn us d a b src) :=
  canon_lane0 h

theorem canon_execCvt {d a : BitVec 7} {c : BitVec 6} {o : BitVec 1} (h : Canon lo s) : Lands lo (execCvt d a c o s) :=
  canon_run h (returns_ok (canon_finish (canon_cvtBody h)))

theorem canon_execCvtbPack {d a : BitVec 7} {f : BitVec 3} (h : Canon lo s) : Lands lo (execCvtbPack d a f s) :=
  canon_runOp h (canon_fpFlags (canon_putLanes h))

theorem canon_execCvtbUnpack {d a : BitVec 7} {f : BitVec 3} (h : Canon lo s) : Lands lo (execCvtbUnpack d a f s) :=
  canon_runOp h (canon_fpFlags (canon_putLanes h))

theorem canon_execCblook {d a b : BitVec 7} (h : Canon lo s) : Lands lo (execCblook d a b s) := canon_lane0 h

theorem canon_execShflIdx {d a b : BitVec 7} (h : Canon lo s) : Lands lo (execShflIdx d a b s) := canon_shfl h

theorem canon_execShflUp {d a b : BitVec 7} (h : Canon lo s) : Lands lo (execShflUp d a b s) := canon_shfl h

theorem canon_execShflDn {d a b : BitVec 7} (h : Canon lo s) : Lands lo (execShflDn d a b s) := canon_shfl h

theorem canon_execShflXor {d a b : BitVec 7} (h : Canon lo s) : Lands lo (execShflXor d a b s) := canon_shfl h

theorem canon_execVoteAny {p : BitVec 7} {q : BitVec 3} {n : BitVec 1} (h : Canon lo s) : Lands lo (execVoteAny p q n s) := canon_pred0 h

theorem canon_execVoteAll {p : BitVec 7} {q : BitVec 3} {n : BitVec 1} (h : Canon lo s) : Lands lo (execVoteAll p q n s) := canon_pred0 h

theorem canon_execVoteBal {d : BitVec 7} {q : BitVec 3} {n : BitVec 1} (h : Canon lo s) : Lands lo (execVoteBal d q n s) :=
  canon_runOp h (canon_writePair h)

theorem canon_execRedx {d a : BitVec 7} {o : BitVec 4} (h : Canon lo s) : Lands lo (execRedx d a o s) :=
  canon_runOp h (canon_orFcsrAll (canon_writeField h))

theorem canon_execScan {d a : BitVec 7} {o : BitVec 4} {e : BitVec 1} (h : Canon lo s) : Lands lo (execScan d a o e s) :=
  canon_runOp h (canon_orFcsrAll (canon_putLanes h))

theorem canon_execMatchOp {d a : BitVec 7} {l w : BitVec 1} (h : Canon lo s) : Lands lo (execMatchOp d a l w s) :=
  of_branches (canon_runOp h (canon_putPairs h)) (canon_runOp h (canon_writePair h))

/-! ## The matrix unit -/

theorem tabRising_tabMod {α : Type} {t : Tab α} {k : Nat} {f : α → α} (h : tabRising t = true) : tabRising (tabMod t k f) = true := by
  induction t with
  | nil => exact h
  | cons p r ih =>
    obtain ⟨j, b⟩ := p
    obtain ⟨hf, hr⟩ := (tabRising_cons _ _).1 h
    unfold tabMod
    split
    · exact (tabRising_cons _ _).2 ⟨hf, hr⟩
    · refine (tabRising_cons _ _).2 ⟨fun q hq => ?_, ih hr⟩
      obtain hq | ⟨x, hx, rfl⟩ := mem_tabMod hq
      · exact hf q hq
      · exact hf x hx

theorem tabRising_filter {α : Type} {t : Tab α} {f : Nat × α → Bool} (h : tabRising t = true) : tabRising (t.filter f) = true := by
  induction t with
  | nil => exact h
  | cons p r ih =>
    obtain ⟨hf, hr⟩ := (tabRising_cons _ _).1 h
    rw [List.filter_cons]
    split
    · exact (tabRising_cons _ _).2 ⟨fun q hq => hf q (List.mem_filter.1 hq).1, ih hr⟩
    · exact ih hr

section
variable {m : Team} (hm : teamCanon m)
include hm

theorem teamCanon.slots : tabRising m.slots = true := hm.2.1
theorem teamCanon.tiles : tabRising m.tiles = true := hm.2.2

theorem teamCanon.withSlots {slots : Tab OpSlot} (hs : tabRising slots = true) : teamCanon { m with slots := slots } := ⟨hm.1, hs, hm.2.2⟩

theorem teamCanon.withTiles {tiles : Tab AccTile} (ht : tabRising tiles = true) : teamCanon { m with tiles := tiles } := ⟨hm.1, hm.2.1, ht⟩

end

theorem canon_putSlot {tag n : Nat} {sl : OpSlot} (h : Canon lo s) : Canon lo (putSlot s tag n sl) :=
  canon_modTeam h fun _ ht => ht.withSlots (tabRising_tabPut _ _ _ ht.slots)

theorem canon_putTile {tag n : Nat} {a : AccTile} (h : Canon lo s) : Canon lo (putTile s tag n a) :=
  canon_modTeam h fun _ hm => hm.withTiles (tabRising_tabPut _ _ _ hm.tiles)

theorem canon_queueMatrix {k : MatrixKind} (h : Canon lo s) : Returns (Canon lo) (queueMatrix s k) :=
  of_branches (returns_error _) (returns_ok (canon_setCore h))

theorem canon_mmaBody {sparse : Bool} {us : List Use} {a b tile : Nat} {shape : BitVec 7} (h : Canon lo s) : Returns (Canon lo)
    (mmaBody s sparse us a b tile shape) :=
  Returns.then fun _ => Returns.then fun _ => Returns.bind (canon_queueMatrix h) fun _ ht => returns_ok (canon_finish ht)

theorem canon_runMma {gid : Nat} {sparse : Bool} {a b tile m n k : Nat} (h : Canon lo s) : Canon lo (runMma s gid sparse a b tile m n k) :=
  canon_orMfr (canon_putTile h)

theorem canon_runAccrd {gid tile row half : Nat} {f32 : Bool} {dst : Nat} (h : Canon lo s) : Canon lo (runAccrd s gid tile row half f32 dst) := by
  unfold runAccrd
  extract_lets t vs cur t1 rs t2
  have ht1 : Canon lo t1 := h
  have ht2 : Canon lo t2 := of_branches (canon_orMfr (canon_putLanes ht1)) (canon_putPairs ht1)
  exact ht2

theorem canon_runAccwr {gid tile row half : Nat} {f32 : Bool} {vals : List DWord} (h : Canon lo s) : Canon lo (runAccwr s gid tile row half f32 vals) :=
  canon_orMfr (canon_putTile h)

theorem canon_runAccst {gid tile work : Nat} (h : Canon lo s) : Canon lo (runAccst s gid tile work) := by
  unfold runAccst
  split
  · exact h
  · exact of_branches (canon_setWork (canon_dropClaims (canon_logError h))) (canon_orMfr (canon_setWork h))

theorem canon_matrixStep {core : Nat} (h : Canon lo s) : Canon lo (matrixStep s core) := by
  unfold matrixStep
  split
  · exact h
  · extract_lets x1 t
    have ht : Canon lo t := canon_setCore h
    split
    · exact canon_runMma ht
    · exact canon_putTile ht
    · exact canon_runAccrd ht
    · exact canon_runAccwr ht
    · exact canon_runAccst ht

theorem canon_accstLine {w : Work} {k : Nat} (h : Canon lo s) : Canon lo (accstLine s w k) := of_branches h (canon_writeSegs h)

theorem canon_failSlot {tag slot : Nat} (h : Canon lo s) : Canon lo (failSlot s tag slot) :=
  canon_modTeam h fun _ hm => hm.withSlots (tabRising_tabMod hm.slots)

theorem canon_subtractBar {w : Work} {n : Nat} (h : Canon lo s) : Canon lo (subtractBar s w n) := by
  unfold subtractBar
  split
  · exact canon_addBytes h
  · exact h

theorem canon_ldslotEnd {w : Work} {n : Nat} (h : Canon lo s) : Canon lo (ldslotEnd s w n) := by
  unfold ldslotEnd
  dsimp only
  split
  · exact canon_setWork (canon_failSlot h)
  · exact canon_subtractBar (canon_setWork (canon_putSlot h))

theorem canon_ldslotSettle {w : Work} (h : Canon lo s) : Canon lo (ldslotSettle s w) :=
  of_branches (canon_setWork (canon_failSlot h)) (canon_setWork h)

theorem canon_ldslotRow {w : Work} {k : Nat} (h : Canon lo s) : Canon lo (ldslotRow s w k) := by
  unfold ldslotRow
  refine of_branches h ?_
  split
  · exact canon_workWaits h
  · split
    · next heq2 => exact canon_ldslotSettle ((canon_noteTrap h).of_fst heq2)
  · next heq3 =>
    have hv := (canon_workLocs h).of_ok _ heq3
    split
    · exact canon_ldslotSettle (canon_logError hv)
    · refine of_branches h ?_
      split
      · next heq6 =>
        have ht3 := (canon_keepLines hv).of_snd heq6
        exact of_branches (canon_ldslotEnd ht3) (canon_ldslotSettle (canon_subtractBar ht3))

theorem canon_cbloadStep {w : Work} (h : Canon lo s) : Canon lo (cbloadStep s w) := by
  unfold cbloadStep
  extract_lets slot
  refine of_branches h ?_
  split
  · exact canon_workWaits h
  · exact canon_setWork (canon_noteError h)
  · next heq2 =>
    have hv := (canon_workLocs h).of_ok _ heq2
    split
    · exact canon_setWork (canon_logError hv)
    · exact of_branches h (canon_subtractBar (canon_setWork (canon_modTeam (canon_keepLines hv) fun _ hm => hm.withSlots (tabRising_tabMod hm.slots))))

theorem canon_execShape {d : BitVec 7} {c : BitVec 3} (h : Canon lo s) : Lands lo (execShape d c s) :=
  canon_run h (of_branches (returns_error _) (returns_ok (canon_finish (canon_writeSReg
      (of_branches (canon_modTeam h fun _ hm => hm.withTiles (tabRising_filter hm.tiles)) h)))))

theorem canon_execSlclaim {d a : BitVec 7} (h : Canon lo s) : Lands lo (execSlclaim d a s) :=
  canon_run h (Returns.then fun _ => of_branches (returns_error _) (returns_ok
      (canon_finish (canon_writeSReg (of_branches (canon_modTeam h fun _ hm1 => of_foldl hm1 fun _ _ hm2 => hm2.withSlots
      (tabRising_tabPut _ _ _ hm2.slots)) h)))))

theorem canon_execSlrel {a : BitVec 7} (h : Canon lo s) : Lands lo (execSlrel a s) :=
  canon_run h (Returns.then fun _ => of_branches (returns_error _) (returns_ok
      (canon_finish (canon_modTeam h fun _ hm1 => hm1.withSlots (tabRising_filter hm1.slots)))))

theorem canon_execLdslot {d a : BitVec 7} (h : Canon lo s) : Lands lo (execLdslot d a s) := by
  unfold execLdslot
  refine h.lands ?_
  refine canon_run h.fresh ?_
  extract_lets -underBinder w w1 tag slot
  split
  · exact returns_error _
  · extract_lets -underBinder jp
    have hjp : ∀ (x : Unit), Returns (Canon s.nextId) (jp x) := by
      intro _
      unfold jp
      refine Returns.then fun _ => ?_
      split
      · exact returns_ok (canon_finish (canon_issueWork (canon_putSlot h.fresh) le_rfl))
      · extract_lets -underBinder w2
        split
        · next heq4 => exact returns_ok (canon_finish (canon_issueWork (canon_putSlot ((canon_tryKeys h.fresh).of_third heq4)) (id_of_tryKeys heq4).le))
    exact of_branches (returns_error _) (hjp ())

theorem canon_execCbload {d a : BitVec 7} (h : Canon lo s) : Lands lo (execCbload d a s) := by
  refine h.lands (canon_run h.fresh ?_)
  extract_lets +onlyGivenNames w slot w1 tag
  split
  · exact returns_error _
  · refine Returns.then fun _ => ?_
    extract_lets +onlyGivenNames t
    have ht : Canon s.nextId t := canon_putSlot h.fresh
    cases cbloadParam s w1 with
    | some x => exact returns_ok (canon_finish (canon_issueWork ht le_rfl))
    | none =>
      rcases hk : tryKeys t _ Acc.read _ with ⟨ks, v, u⟩
      exact returns_ok (canon_finish (canon_issueWork ((canon_tryKeys ht).of_third hk) (id_of_tryKeys hk).le))

theorem canon_execMma {s : BitVec 4} {a : BitVec 7} {b : BitVec 4} {t : BitVec 2} {st : State} (hst : Canon lo st) : Lands lo (execMma s a b t st) :=
  canon_run hst (canon_mmaBody hst)

theorem canon_execMmas {s : BitVec 4} {a : BitVec 7} {b : BitVec 4} {t : BitVec 2} {st : State} (hst : Canon lo st) : Lands lo (execMmas s a b t st) :=
  canon_run hst (canon_mmaBody hst)

theorem canon_execAccz {t : BitVec 2} {m : BitVec 1} (h : Canon lo s) : Lands lo (execAccz t m s) :=
  canon_run h (Returns.then fun _ => Returns.bind (canon_queueMatrix h) fun _ ht1 => returns_ok (canon_finish ht1))

theorem canon_execAccrd {d a : BitVec 7} {t : BitVec 2} {f : BitVec 1} (h : Canon lo s) : Lands lo (execAccrd d a t f s) :=
  canon_run h (Returns.then fun _ => Returns.then fun _ => Returns.bind (canon_queueMatrix h) fun _ ht1 => returns_ok (canon_finish (canon_markEmpty ht1)))

theorem canon_execAccwr {d a : BitVec 7} {t : BitVec 2} {f : BitVec 1} (h : Canon lo s) : Lands lo (execAccwr d a t f s) :=
  canon_run h (Returns.then fun _ => Returns.bind (canon_queueMatrix h) fun _ ht1 => returns_ok (canon_finish ht1))

theorem canon_execAccst {d a : BitVec 7} {t : BitVec 2} {z : BitVec 1} {o : BitVec 4} (h : Canon lo s) : Lands lo (execAccst d a t z o s) := by
  unfold execAccst
  refine h.lands ?_
  refine canon_run h.fresh ?_
  refine Returns.then fun _ => ?_
  refine Returns.then fun _ => ?_
  extract_lets -underBinder w
  split
  · exact returns_ok (canon_finish (canon_issueWork h.fresh le_rfl))
  · extract_lets -underBinder w1
    split
    · next heq2 =>
      exact Returns.bind (canon_claimLines ((canon_segKeys h.fresh).of_third heq2)) fun _ ht2 => Returns.bind
        (canon_queueMatrix ht2) fun _ ht3 => returns_ok (canon_finish (canon_issueWork ht3 (id_of_segKeys heq2).le))

end Sys2Proof.Machine
end

section
/-! What the scheduler, residence and the events from outside keep of the canonical form (07_core_sched_traps; 14_tenancy; 15_platform). -/

namespace Sys2Proof.Machine

open Claim

variable {s : State} {lo : Nat}

/-! ## Residence, placement and what comes from outside -/

theorem canon_withSat {n c : Nat} (h : Canon lo s) : OnSome (Canon lo) (withSat s n c) := by
  unfold withSat
  extract_lets g k
  have hk : clusterCanon k := clusterCanon_getCluster h
  refine of_branches (onSome_some h) ?_
  split
  · exact onSome_none
  · exact onSome_some (canon_setGrid (canon_setCluster h hk))

theorem sliceCanon_new (num : Nat) (pc : DWord) : sliceCanon { num := num, pc := pc } := regsCanon_default

theorem groupCanon_newGroup {g : Grid} {i p0 slot axp : Nat} : groupCanon (newGroup g i p0 slot axp) := by
  have hs : tabCanon ((g.args.zipIdx).foldl (fun t a => tabSet t a.2 a.1 0) []) 0 = true :=
    of_foldl (P := fun t : Tab Word => tabCanon t 0 = true) rfl fun _ _ ht => tabCanon_tabSet _ _ _ _ ht
  refine ⟨⟨rfl, hs, rfl⟩, rfl, fun _ hx => (nomatch hx), groupCanon_default.2.2.2.1, ⟨rfl, fun _ hx => (nomatch hx)⟩, ?_⟩
  exact of_branches (P := OnSome sliceCanon) onSome_none (onSome_some (sliceCanon_new _ _))

theorem canon_startGroups {g : Grid} {tag core p0 : Nat} (h : Canon lo s) : Canon lo (startGroups s g tag core p0) :=
  of_foldl h fun _ _ ht => canon_setGroup ht groupCanon_newGroup

theorem canon_chooseIndex {g : Grid} (h : Canon lo s) : Canon lo (chooseIndex s g).2 := by
  unfold chooseIndex
  extract_lets total taken f
  split
  · exact h
  · exact canon_freeNat h

theorem canon_startGang {n : Nat} (h : Canon lo s) : Canon lo (startGang s n) :=
  of_branches (h.withTeams (h.teams.map fun _ hp => of_branches (P := fun p : Nat × Team => teamCanon p.2) hp hp)) h

theorem canon_freshCode {core : Nat} (h : Canon lo s) : Canon lo (freshCode s core) := canon_setCore h

theorem canon_placeTeam {n core p0 tag : Nat} (h : Canon lo s) : Canon lo (placeTeam s n core p0 tag) := by
  unfold placeTeam
  extract_lets +onlyGivenNames g
  split
  extract_lets +onlyGivenNames t u v
  next hc =>
  have hu : Canon lo u := canon_startGroups (canon_freshCode ((canon_chooseIndex h).of_snd hc))
  have hv : Canon lo v := hu.withTeams (hu.teams.put tag ⟨rfl, rfl, rfl⟩)
  exact canon_startGang (canon_setGrid hv)

theorem canon_leaveCore {tag : Nat} {r : Residence} (h : Canon lo s) : Canon lo (leaveCore s tag r) := canon_modTeam h fun _ hm => hm

theorem canon_preemptTeam {tag : Nat} (h : Canon lo s) : Canon lo (preemptTeam s tag) :=
  of_branches h (of_branches (canon_modTeam h fun _ hm => hm) (of_branches (canon_modTeam h fun _ hm1 => hm1) (canon_modTeam h fun _ hm2 => hm2)))

theorem canon_flushTeam {tag : Nat} (h : Canon lo s) : Canon lo (flushTeam s tag) :=
  of_branches (canon_modTeam (canon_startGroups h) fun _ _ => ⟨rfl, rfl, rfl⟩) h

theorem tabCanon_filter {α : Type} [DecidableEq α] {t : Tab α} {d : α} {f : Nat × α → Bool} (h : tabCanon t d = true) :
    tabCanon (t.filter f) d = true := by
  obtain ⟨hr, hd⟩ := (tabCanon_iff t d).1 h
  exact (tabCanon_iff _ d).2 ⟨tabRising_filter hr, fun p hp => hd p (List.mem_filter.1 hp).1⟩

theorem groupCanon_keepRegs {e : LiveEntry} {g : Group} (hg : groupCanon g) : groupCanon (keepRegs e g) :=
  hg.withRegs ⟨tabCanon_filter hg.1.1, tabCanon_filter hg.1.2.1, hg.1.2.2⟩

theorem canon_discardDead {tag : Nat} (h : Canon lo s) : Canon lo (discardDead s tag) := by
  unfold discardDead
  extract_lets +onlyGivenNames g at' maps t
  have ht : Canon lo t := by
    refine of_foldl h fun u m hu => ?_
    split
    · exact canon_modGroup hu fun _ hg => groupCanon_keepRegs hg
    · exact hu
  exact of_branches (canon_modTeam ht fun _ hm => ⟨tabCanon_filter hm.1, hm.2⟩) ht

theorem canon_keepTeam {tag : Nat} (h : Canon lo s) : Canon lo (keepTeam s tag).2 := by
  unfold keepTeam
  extract_lets f
  have hf : Canon lo f.2 := canon_freeBool h
  exact of_branches (canon_modTeam hf fun _ hm => hm) (canon_leaveCore hf)

theorem canon_spillTeam {tag : Nat} (h : Canon lo s) : Canon lo (spillTeam s tag) := canon_leaveCore (of_branches (canon_discardDead h) h)

theorem canon_spillUntil {fits : State → Bool} {l : List Nat} (h : Canon lo s) : Canon lo (spillUntil fits s l) := by
  induction l generalizing s with
  | nil => exact h
  | cons t r ih => exact of_branches h (ih (canon_spillTeam h))

theorem canon_repeatWaits {tag : Nat} (h : Canon lo s) : Canon lo (repeatWaits s tag) := by
  unfold repeatWaits
  extract_lets again
  have hagain : ∀ (g : Group), groupCanon g → groupCanon (again g) := by
    intro _ hg
    unfold again
    split <;> exact hg
  exact canon_tryBarriers (of_foldl h fun _ _ ht => canon_modGroup ht hagain)

theorem canon_takeSlots {tag core : Nat} (h : Canon lo s) : Canon lo (takeSlots s tag core) :=
  of_foldl h fun _ _ ht => canon_modGroup ht fun _ hg => hg

theorem canon_seatTeam {tag core p0 : Nat} (h : Canon lo s) : Canon lo (seatTeam s tag core p0) := by
  unfold seatTeam
  refine canon_modTeam (of_foldl (canon_freshCode h) fun t gid ht => canon_modGroup ht fun g hg => ?_) fun _ hm => hm
  exact hg.withSlice (hg.axp.map fun _ ha => ha)

theorem canon_resumeTeam {tag core : Nat} (h : Canon lo s) : Canon lo (resumeTeam s tag core) := by
  unfold resumeTeam
  extract_lets t n
  have ht : Canon lo t := canon_applyAcquire h
  exact of_branches (canon_startGang (canon_modTeam ht fun _ hm => hm)) (canon_repeatWaits (canon_modTeam ht fun _ hm1 => hm1))

theorem canon_repeatGang {n : Nat} (h : Canon lo s) : Canon lo (repeatGang s n) := of_branches h (of_foldl h fun _ _ ht => canon_repeatWaits ht)

theorem canon_retireGroup {gid : Nat} (h : Canon lo s) : Canon lo (retireGroup s gid) := by
  unfold retireGroup
  extract_lets +onlyGivenNames tag t n
  have ht : Canon lo t := h.withGroups (h.groups.erase gid)
  exact canon_tryStep (canon_tryGbar (of_branches (canon_setGrid (ht.withTeams (ht.teams.erase tag))) (canon_tryTbar ht)))

theorem canon_queueFaulted {qid : Nat} {t : Trap} (h : Canon lo s) : Canon lo (queueFaulted s qid t) := by
  unfold queueFaulted
  extract_lets t1
  have ht1 : Canon lo t1 := canon_modQueue h fun _ hq => hq
  exact canon_writeDescriptor (canon_noticeHost ht1)

theorem canon_execGtcmpWrite {gid : Nat} {v : BitVec 64} (h : Canon lo s) : Lands lo (execGtcmpWrite gid v s) :=
  lands_next (of_branches (canon_setGtcmp h) h)

theorem canon_execWdlWrite {gid : Nat} {v : BitVec 64} (h : Canon lo s) : Lands lo (execWdlWrite gid v s) :=
  lands_next (of_branches (canon_setWdl h) h)

theorem canon_execMfrAccess {gid : Nat} {v : Option (BitVec 32)} (h : Canon lo s) : Lands lo (execMfrAccess gid v s) := by
  unfold execMfrAccess
  split
  · exact lands_next (of_branches (canon_modGroup h fun _ hg => hg.withMfr (by simp [BitVec.and_assoc])) h)
  · exact lands_next h

theorem canon_execChrctlRestart {vf pkg : Nat} (h : Canon lo s) : Lands lo (execChrctlRestart vf pkg s) := lands_next (canon_restartRing h)

theorem canon_execPassgh {vf : Nat} {gh : BitVec 32} (h : Canon lo s) : Lands lo (execPassgh vf gh s) := lands_next (canon_passGh h)

theorem canon_execHvctxWrite {vf : Nat} {v : BitVec 32} (h : Canon lo s) : Lands lo (execHvctxWrite vf v s) := lands_next (canon_writeHvctx h)

theorem canon_execGtcmpFire {gid : Nat} (h : Canon lo s) : Lands lo (execGtcmpFire gid s) := lands_next (of_branches (canon_fireTimers h) h)

theorem canon_execWdlFire {gid : Nat} (h : Canon lo s) : Lands lo (execWdlFire gid s) := lands_next (of_branches (canon_fireTimers h) h)

theorem canon_execHangWatchdog {who : Watched} (h : Canon lo s) : Lands lo (execHangWatchdog who s) := by
  unfold execHangWatchdog
  split
  · exact of_branches (lands_next (canon_trapGroup (canon_modGroup h fun _ hg => hg))) (lands_next h)
  · exact of_branches (lands_next (canon_queueFaulted h)) (lands_next h)

theorem canon_execDetTeamTimeCap {tag : Nat} (h : Canon lo s) : Lands lo (execDetTeamTimeCap tag s) :=
  of_branches (lands_next h) (lands_next (of_foldl (of_foldl (canon_modTeam h fun _ hm => hm) fun _ _ ht1 => canon_modGroup ht1 fun _ hg => hg) fun _ _ ht2 => canon_takeCap ht2))

theorem canon_execPreemptionRequest {tag : Nat} (h : Canon lo s) : Lands lo (execPreemptionRequest tag s) :=
  lands_next (of_branches h (of_branches (of_foldl h fun _ _ ht => canon_flushTeam ht)
      (of_branches (of_foldl h fun _ _ ht1 => canon_flushTeam (canon_preemptTeam ht1)) h)))

theorem canon_execSaveAtTbar {tag : Nat} (h : Canon lo s) : Lands lo (execSaveAtTbar tag s) := by
  unfold execSaveAtTbar
  refine of_branches ?_ (lands_next h)
  dsimp -zeta only
  extract_lets f
  have hf : Canon lo f.2 := canon_freeBool (canon_keepTeam h)
  exact lands_next (of_branches (of_branches (canon_discardDead hf) hf) (canon_discardDead (canon_keepTeam h)))

theorem canon_execForcedSave {tag : Nat} (h : Canon lo s) : Lands lo (execForcedSave tag s) := by
  unfold execForcedSave
  extract_lets t u
  have hu : Canon lo u := canon_modTeam h fun _ hm => hm
  exact of_branches (lands_next h) (lands_next (of_branches (canon_keepTeam hu) hu))

theorem canon_execTeamPlacement {grid core p0 tag : Nat} (h : Canon lo s) : Lands lo (execTeamPlacement grid core p0 tag s) := by
  unfold execTeamPlacement
  extract_lets g fits u
  refine of_branches (lands_next h) ?_
  split
  · exact lands_next h
  · next heq1 => exact lands_next (canon_placeTeam ((canon_withSat (canon_spillUntil h)) _ heq1))

theorem canon_execTeamRestore {tag core p0 : Nat} (h : Canon lo s) : Lands lo (execTeamRestore tag core p0 s) := by
  unfold execTeamRestore
  extract_lets t n u
  have hu : Canon lo u := canon_spillUntil h
  refine of_branches (lands_next h) ?_
  split
  · exact of_branches (lands_next (canon_repeatGang (canon_resumeTeam (canon_takeSlots h)))) (lands_next h)
  · exact of_branches (lands_next (canon_repeatGang (canon_resumeTeam (canon_seatTeam hu)))) (lands_next h)
  · exact of_branches (lands_next (canon_repeatGang (canon_resumeTeam (canon_seatTeam hu)))) (lands_next h)
  · exact lands_next h

theorem canon_execVictimEviction {tag : Nat} (h : Canon lo s) : Lands lo (execVictimEviction tag s) :=
  of_branches (lands_next (canon_leaveCore h)) (lands_next h)

theorem canon_execGroupRetirement {gid : Nat} (h : Canon lo s) : Lands lo (execGroupRetirement gid s) :=
  of_branches (lands_next (canon_retireGroup h)) (lands_next h)

theorem canon_execGridRetirement {grid : Nat} (h : Canon lo s) : Lands lo (execGridRetirement grid s) := by
  unfold execGridRetirement
  refine of_branches ?_ (lands_next h)
  extract_lets st t
  have ht : Canon lo t := h
  refine lands_next ?_
  split
  · exact canon_setWork ht
  · exact ht

theorem canon_execStepBarrierComplete {grid : Nat} {change : StepChange} (h : Canon lo s) : Lands lo (execStepBarrierComplete grid change s) :=
  of_branches (lands_next (canon_releaseStep (canon_setGrid h))) (lands_next h)

theorem canon_execTeamBarrierComplete {b : BarrierOf} (h : Canon lo s) : Lands lo (execTeamBarrierComplete b s) := by
  unfold execTeamBarrierComplete
  split
  · exact lands_next (canon_tryTbar h)
  · exact lands_next (of_branches (canon_releaseGbar h) h)

theorem canon_execTrapNotice {gid : Nat} (h : Canon lo s) : Lands lo (execTrapNotice gid s) := lands_next (of_branches (canon_deliverNotice h) h)

/-! ## The Cheyenne rings -/

theorem canon_weakRead {pa n : Nat} (h : Canon lo s) : Canon lo (weakRead s pa n).2 := by
  unfold weakRead
  extract_lets home low f
  split
  · exact h
  · exact canon_freeBool h

theorem canon_putLpddr {line : Nat} {bs : List Byte} (h : Canon lo s) : Canon lo (putLpddr s line bs) := h

theorem canon_weakWrite {pa : Nat} {bs : List Byte} (h : Canon lo s) : Canon lo (weakWrite s pa bs) := canon_putLpddr h

theorem canon_weakLand {pa : Nat} {bs : List Byte} (h : Canon lo s) : Canon lo (weakLand s pa bs) := by
  unfold weakLand
  extract_lets t
  have ht : Canon lo t := canon_homeWrite h
  split
  · exact canon_putLpddr ht
  · exact ht

theorem canon_strongRead {pa n : Nat} (h : Canon lo s) : Canon lo (strongRead s pa n).2 := canon_serveLine (canon_countReq h)

theorem canon_readPas {pas : List Nat} {strong : Bool} (h : Canon lo s) : Canon lo (readPas s pas strong).2 := by
  unfold readPas
  extract_lets r
  have hr : Canon lo r.2 := by
    unfold r
    refine of_foldl (P := fun p : List Byte × State => Canon lo p.2) h ?_
    intro _ _ hp
    extract_lets r1
    have hr1 : Canon lo r1.2 := by
      unfold r1
      split
      · exact canon_strongRead hp
      · exact canon_weakRead hp
    exact hr1
  exact hr

theorem canon_addTask {pkg vf : Nat} {t : ChTask} (h : Canon lo s) : Canon lo (addTask s pkg vf t) := canon_setRing h

theorem canon_beginQuantum {pkg vf : Nat} (h : Canon lo s) : Canon lo (beginQuantum s pkg vf) := h

/-- Bytes that a task loads come from a canonical state. -/
theorem canon_loadBytes {t : ChTask} {va n : Nat} {bs : List Byte} {u : State} (h : Canon lo s) (hl : loadBytes s t va n = .ok bs u) : Canon lo u := by
  unfold loadBytes at hl
  split at hl
  · exact nomatch hl
  · split at hl
    · exact nomatch hl
    · split at hl
      · exact nomatch hl
      · cases hl
        exact canon_readPas h

theorem canon_startTask {pkg vf : Nat} {t : ChTask} {w : Work} (h : Canon lo s) : Canon lo (startTask s pkg vf t w) := by
  unfold startTask
  extract_lets +onlyGivenNames alen xlen
  split
  · exact h
  · exact canon_failLoad h
  · next heq =>
    have h1 := canon_loadBytes h heq
    split
    · exact h
    · exact canon_failLoad h1
    · next heq =>
      have h2 := canon_loadBytes h1 heq
      split
      · exact h
      · exact canon_failLoad h2
      · next heq =>
        have h3 := canon_loadBytes h2 heq
        split
        · exact canon_faultTask h3
        · exact canon_faultTask h3
        · exact canon_setTask h3

theorem canon_pushFetch {pkg vf : Nat} {t : ChTask} {strong : Bool} {idx va : Nat} (h : Canon lo s) : Canon lo (pushFetch s pkg vf t strong idx va) := by
  unfold pushFetch
  split
  · exact canon_faultTask h
  · exact canon_setTask h

theorem canon_popStore {pkg vf : Nat} {t : ChTask} {strong : Bool} {idx va : Nat} (h : Canon lo s) : Canon lo (popStore s pkg vf t strong idx va) := by
  unfold popStore
  split
  · exact h
  · split
    · exact canon_faultTask h
    · exact canon_setTask h

theorem canon_streamVa {t : ChTask} {store : Bool} {st : ChStream} {bs : List Byte} {u : State} (h : Canon lo s)
    (hl : streamVa s t store st = .ok bs u) : Canon lo u := by
  unfold streamVa at hl
  split at hl
  · cases hl
    exact h
  · split at hl
    · exact nomatch hl
    · split at hl
      · exact nomatch hl
      · split at hl
        · exact nomatch hl
        · cases hl
          exact canon_readPas h

theorem canon_streamBeat {pkg vf : Nat} {t : ChTask} {store : Bool} (h : Canon lo s) : Canon lo (streamBeat s pkg vf t store) := by
  unfold streamBeat
  split
  · exact h
  · refine of_branches h ?_
    split
    · exact h
    · exact canon_faultTask (of_branches (canon_logError h) h)
    · next heq =>
      have ht := canon_streamVa h heq
      exact of_branches (canon_popStore ht) (canon_pushFetch ht)

theorem canon_landFetch {pkg vf : Nat} {t : ChTask} {k : Nat} (h : Canon lo s) : Canon lo (landFetch s pkg vf t k) := by
  unfold landFetch
  split
  · exact h
  · refine of_branches h ?_
    split
    · exact canon_faultTask (canon_logError h)
    · refine of_branches h ?_
      extract_lets r
      have hr : Canon lo r.2 := by
        unfold r
        split
        · exact canon_strongRead h
        · exact canon_weakRead h
      exact canon_setTask hr

theorem canon_moveStore {pkg vf : Nat} {t : ChTask} {k : Nat} (h : Canon lo s) : Canon lo (moveStore s pkg vf t k) := by
  unfold moveStore
  split
  · exact h
  · refine of_branches h ?_
    split
    · exact canon_faultTask (canon_logError h)
    · exact of_branches (canon_setTask (canon_weakWrite h)) (of_branches h (canon_setTask (of_branches (canon_homeWrite h) (canon_weakLand h))))

theorem canon_chePiece {w : Work} {k : Nat} (h : Canon lo s) : Canon lo (chePiece s w k) := by
  unfold chePiece
  extract_lets pkg
  split
  · exact h
  · exact of_branches (of_branches (canon_streamBeat h) h) (of_branches (canon_landFetch h) (canon_moveStore h))

theorem canon_startStream {store : Bool} {count : Nat} {mk : ChTask → ChStream} (h : Canon lo s) : Returns (Canon lo) (startStream s store count mk) := by
  unfold startStream
  split
  · exact returns_error _
  · exact of_branches (returns_error _) (of_branches (returns_ok (canon_advance h)) (returns_ok (canon_advance (canon_setTask h))))

theorem canon_badTask {w : Work} {i : Nat} (h : Canon lo s) (hw : w.id ≤ lo) : Canon lo (badTask s w i) :=
  of_branches (canon_issueWork h hw) (canon_writeRingRecord (canon_haltRing (canon_setRing (canon_issueWork h hw))))

theorem canon_execChlaunch {d a : BitVec 7} (h : Canon lo s) : Lands lo (execChlaunch d a s) := by
  unfold execChlaunch
  refine h.lands ?_
  refine canon_run h.fresh ?_
  refine Returns.then fun _ => ?_
  extract_lets -underBinder w
  split
  · exact returns_ok (canon_finish (canon_badTask h.fresh le_rfl))
  · exact of_branches (returns_error _) (returns_ok (canon_finish (canon_addTask (canon_issueWork h.fresh le_rfl))))

theorem canon_execAstm {b a : BitVec 7} {c : BitVec 4} {k t : BitVec 1} (h : Canon lo s) : Lands lo (execAstm b a c k t s) :=
  canon_run h (Returns.then fun _ => canon_startStream h)

theorem canon_execAgat {l a : BitVec 7} {k t : BitVec 1} (h : Canon lo s) : Lands lo (execAgat l a k t s) :=
  canon_run h (Returns.then fun _ => canon_startStream h)

theorem canon_execAqp {a : BitVec 7} {t : BitVec 1} (h : Canon lo s) : Lands lo (execAqp a t s) := by
  unfold execAqp
  refine canon_run h ?_
  refine Returns.then fun _ => ?_
  split
  · exact returns_error _
  · refine of_branches (returns_error _) ?_
    extract_lets va
    split
    · exact returns_error _
    · exact returns_ok (canon_advance (canon_pushFetch h))

theorem canon_execAstq {a : BitVec 7} {t : BitVec 1} (h : Canon lo s) : Lands lo (execAstq a t s) := by
  unfold execAstq
  refine canon_run h ?_
  refine Returns.then fun _ => ?_
  split
  · exact returns_error _
  · refine of_branches (returns_error _) ?_
    extract_lets va
    split
    · exact returns_error _
    · exact returns_ok (canon_advance (canon_popStore h))

theorem canon_execXpop {d : BitVec 7} (h : Canon lo s) : Lands lo (execXpop d s) := by
  unfold execXpop
  refine canon_run h ?_
  split
  · exact returns_error _
  · split
    · split
      · exact returns_ok (canon_advance (canon_setTask h))
      · exact returns_error _
    · exact returns_error _

theorem canon_execXop {d a : BitVec 7} {o : BitVec 3} {y : BitVec 2} (h : Canon lo s) : Lands lo (execXop d a o y s) := by
  unfold execXop
  refine canon_run h ?_
  refine Returns.then fun _ => ?_
  split
  · exact returns_error _
  · exact returns_ok (canon_advance (canon_setTask h))

theorem canon_execXpush {a : BitVec 7} (h : Canon lo s) : Lands lo (execXpush a s) := by
  unfold execXpush
  refine canon_run h ?_
  refine Returns.then fun _ => ?_
  split
  · exact returns_error _
  · exact of_branches (returns_error _) (returns_ok (canon_advance (canon_setTask h)))

theorem canon_execChend (h : Canon lo s) : Lands lo (execChend s) := by
  unfold execChend
  refine canon_run h ?_
  split
  · exact of_branches (returns_error _) (returns_ok (canon_setTask h))
  · exact returns_ok (canon_setTask h)
  · exact returns_error _

theorem canon_execCheTaskStart {pkg vf : Nat} (h : Canon lo s) : Lands lo (execCheTaskStart pkg vf s) := by
  unfold execCheTaskStart
  split
  · exact lands_next h
  · refine of_branches (lands_next h) ?_
    extract_lets u
    have hu : Canon lo u := of_branches h (canon_beginQuantum h)
    refine of_branches (lands_next hu) ?_
    refine of_branches (lands_next (canon_revokeTask hu)) ?_
    refine of_branches (lands_next (canon_setTask hu)) ?_
    split
    · exact lands_next (canon_startTask hu)
    · exact lands_next h

theorem canon_execCheTaskEnd {pkg vf : Nat} (h : Canon lo s) : Lands lo (execCheTaskEnd pkg vf s) := by
  unfold execCheTaskEnd
  split
  · exact lands_next h
  · exact of_branches (lands_next (canon_endWork (canon_setRing h))) (lands_next h)

theorem canon_execCheQuantumExpiry {pkg : Nat} (h : Canon lo s) : Lands lo (execCheQuantumExpiry pkg s) := by
  unfold execCheQuantumExpiry
  extract_lets vf
  split
  · exact lands_next h
  · refine of_branches (lands_next h) ?_
    split
    · exact lands_next h
    · exact lands_next (canon_beginQuantum h)

theorem canon_execCheTaskWatchdog {pkg vf : Nat} (h : Canon lo s) : Lands lo (execCheTaskWatchdog pkg vf s) := by
  unfold execCheTaskWatchdog
  split
  · exact lands_next h
  · refine of_branches (lands_next h) ?_
    refine of_branches (lands_next (canon_faultTask h)) ?_
    refine of_branches (lands_next (canon_faultTask h)) ?_
    extract_lets f
    have hf : Canon lo f.2 := canon_freeBool h
    exact lands_next (of_branches (canon_faultTask hf) (canon_faultTask hf))

end Sys2Proof.Machine
end

section
/-! What the sequence engine and the array keep of the canonical form (08_sequence; 10_array). -/

namespace Sys2Proof.Machine

open Claim

variable {s : State} {lo : Nat}

/-! ## The sequence engine -/

theorem canon_sqeLocs {w : Work} {ea n : Nat} {k : Acc} {index : Option Nat} (h : Canon lo s) : Returns (fun r => Canon lo r.2.2) (sqeLocs s w ea n k index) := by
  unfold sqeLocs
  split
  · next heq =>
    have hv := (canon_workLocs h).of_ok _ heq
    split
    · exact returns_error _
    · exact returns_ok hv
  · exact returns_error _
  · exact returns_error _

theorem canon_sqeUpdate {w : Work} {ea n : Nat} {index : Option Nat} (h : Canon lo s) : Returns (fun r => Canon lo r.2.2) (sqeUpdate s w ea n index) :=
  Returns.bind (canon_sqeLocs h) fun _ hx => canon_sqeLocs hx

theorem canon_sqeBytes {w : Work} {ls : List Loc} (h : Canon lo s) : Returns (fun r => Canon lo r.2) (sqeBytes s w ls) :=
  of_branches (returns_error _) (returns_ok (of_foldl h fun _ _ ht => canon_serveLine (canon_countReq ht)))

theorem canon_sqeRead {w : Work} {ea n : Nat} {index : Option Nat} (h : Canon lo s) : Returns (fun r => Canon lo r.2.2) (sqeRead s w ea n index) :=
  Returns.bind (canon_sqeLocs h) fun _ hx => Returns.bind (canon_sqeBytes hx) fun _ hp1 => returns_ok hp1

theorem canon_sqeCommit {w : Work} {ws : List (Loc × Byte)} (h : Canon lo s) : Returns (Canon lo) (sqeCommit s w ws) :=
  of_branches (returns_error _) (returns_ok (canon_setWork (canon_dropClaims (canon_engineWrites h))))

theorem canon_sqeFail {w : Work} {cause : Nat} {index : Option Nat} {err : Nat × Nat} (h : Canon lo s) : Canon lo (sqeFail s w cause index err) := by
  unfold sqeFail
  extract_lets f t t1
  have ht : Canon lo t := of_branches (canon_freeNat h) h
  exact canon_setWork (canon_dropClaims (of_branches (canon_logError ht) ht))

theorem canon_satWrite {c i : Nat} {v : BitVec 36} (h : Canon lo s) : Canon lo (satWrite s c i v) := by
  unfold satWrite
  refine canon_setCluster h ?_
  extract_lets x
  have hx : clusterCanon x := clusterCanon_getCluster h
  exact hx

theorem canon_scaccTable {w : Work} (h : Canon lo s) : Canon lo (scaccTable s w) := by
  unfold scaccTable
  dsimp -zeta only
  extract_lets c lanes t
  have ht : Canon lo t := of_foldl h fun _ _ ht1 => canon_satWrite ht1
  split <;> exact canon_setWork (canon_dropClaims ht)

theorem canon_scrdOp {w : Work} (h : Canon lo s) : Returns (Canon lo) (scrdOp s w) :=
  Returns.then fun _ => Returns.bind (canon_sqeLocs h) fun _ hx => canon_sqeCommit hx

theorem canon_scclrOp {w : Work} (h : Canon lo s) : Returns (Canon lo) (scclrOp s w) := by
  unfold scclrOp
  dsimp -zeta only
  refine Returns.then fun _ => ?_
  refine Returns.then fun _ => ?_
  refine Returns.then fun _ => ?_
  extract_lets c k lo
  have hk : clusterCanon k := clusterCanon_getCluster h
  exact canon_sqeCommit (canon_setCluster h hk)

theorem canon_topkOp {w : Work} (h : Canon lo s) : Returns (Canon lo) (topkOp s w) :=
  Returns.then fun _ => Returns.then fun _ => Returns.then fun _ => Returns.then fun _ => Returns.bind
      (of_branches (returns_ok h) (canon_sqeRead h)) fun _ hx => Returns.bind (canon_sqeLocs hx) fun _ hx1 => canon_sqeCommit hx1

theorem canon_survOp {w : Work} (h : Canon lo s) : Returns (Canon lo) (survOp s w) := by
  unfold survOp
  extract_lets t f c
  refine Returns.then fun _ => ?_
  refine Returns.then fun _ => ?_
  refine Returns.then fun _ => ?_
  refine Returns.then fun _ => ?_
  refine Returns.bind (canon_sqeRead h) fun _ hx => ?_
  dsimp -zeta only
  extract_lets keep
  split
  · exact returns_error _
  · exact Returns.bind (canon_sqeUpdate hx) fun _ hx1 => Returns.bind (canon_sqeBytes hx1) fun _ hp2 => canon_sqeCommit hp2

theorem canon_confwOp {w : Work} (h : Canon lo s) : Returns (Canon lo) (confwOp s w) := by
  unfold confwOp
  refine Returns.then fun x => ?_
  refine Returns.then fun _ => ?_
  refine Returns.then fun _ => ?_
  dsimp -zeta only
  extract_lets lanes open' jp
  have hjp : ∀ (x : Unit), Returns (Canon lo) (jp x) := fun _ => Returns.then fun _ => Returns.then fun _ => canon_sqeCommit h
  split
  · exact returns_error _
  · exact hjp ()

theorem canon_scaccMass {w : Work} (h : Canon lo s) : Returns (Canon lo) (scaccMass s w) := by
  unfold scaccMass
  refine Returns.then fun _ => ?_
  dsimp -zeta only
  refine Returns.then fun x => ?_
  extract_lets lanes jp
  have hjp : ∀ (x : Unit), Returns (Canon lo) (jp x) := fun _ => Returns.bind
      (returns_foldlM h fun _ _ hx => Returns.bind (canon_sqeUpdate hx) fun _ hx1 => returns_ok hx1) fun _ hx2 => Returns.bind
      (canon_sqeBytes hx2) fun _ hp4 => canon_sqeCommit hp4
  split
  · exact returns_error _
  · exact hjp ()

theorem canon_scaccOp {w : Work} (h : Canon lo s) : Returns (Canon lo) (scaccOp s w) :=
  of_branches (Returns.then fun _ => returns_ok (canon_scaccTable h)) (of_branches (canon_scaccMass h) (returns_error _))

theorem canon_unmaskOp {w : Work} (h : Canon lo s) : Returns (Canon lo) (unmaskOp s w) :=
  Returns.then fun _ => Returns.then fun _ => Returns.then fun _ => Returns.then fun _ => Returns.then fun _ => of_branches (canon_sqeCommit h)
      (Returns.bind (canon_sqeLocs h) fun _ hx => canon_sqeCommit hx)

theorem canon_dirtyOp {w : Work} (h : Canon lo s) : Returns (Canon lo) (dirtyOp s w) :=
  Returns.then fun _ => Returns.then fun _ => Returns.then fun _ => Returns.then fun _ => Returns.then fun _ => Returns.then fun _ => Returns.bind (of_branches (returns_ok h) (canon_sqeRead h)) fun _ hx => Returns.bind (canon_sqeLocs hx) fun _ hx1 => canon_sqeCommit hx1

theorem canon_pxBucket {w : Work} (h : Canon lo s) : Returns (fun r => Canon lo r.2.2) (pxBucket s w) :=
  Returns.bind (canon_sqeRead h) fun _ hx => Returns.then fun _ => returns_ok hx

theorem canon_pxOp {w : Work} (h : Canon lo s) : Returns (Canon lo) (pxOp s w) := by
  rw [show @pxOp = delta% @pxOp from rfl]
  beta_reduce
  extract_lets jp
  have hjp : ∀ (x : Unit), Returns (Canon lo) (jp x) := fun _ => Returns.then fun _ => Returns.bind (canon_pxBucket h) fun _ hx => Returns.bind
      (of_branches (canon_sqeLocs hx) (canon_sqeUpdate hx)) fun _ hx1 => Returns.bind (canon_sqeLocs hx1) fun _ hx2 => of_branches
      (returns_error _) (of_branches (returns_error _) (returns_ok (canon_setWork
      (canon_dropClaims (canon_engineWrites (of_foldl hx2 fun _ _ ht => canon_serveLine ht))))))
  split
  · exact returns_error _
  · exact hjp ()

theorem canon_compactForward {w : Work} (h : Canon lo s) : Returns (Canon lo) (compactForward s w) := by
  rw [show @compactForward = delta% @compactForward from rfl]
  beta_reduce
  extract_lets jp
  have hjp : ∀ (x : Unit), Returns (Canon lo) (jp x) := by
    intro _
    unfold jp
    refine Returns.bind (canon_sqeRead h) fun _ hx => ?_
    dsimp -zeta only
    extract_lets page
    refine Returns.then fun _ => ?_
    split
    · exact returns_error _
    · exact Returns.then fun _ => of_branches (returns_error _) (returns_ok (canon_addTask (canon_setWork hx)))
  split
  · exact returns_error _
  · exact hjp ()

theorem canon_cmpFail {w : Work} {cause index va : Nat} {err : Nat × Nat} (h : Canon lo s) : Canon lo (cmpFail s w cause index va err) :=
  canon_failTask (canon_dropClaims (of_branches (canon_logError h) h))

theorem canon_cmpSubtract {w : Work} {n : Nat} (h : Canon lo s) : Canon lo (cmpSubtract s w n) := by
  unfold cmpSubtract
  split
  · exact canon_addBytes h
  · exact h

theorem canon_cmpClaim {w : Work} (h : Canon lo s) : OnSome (Canon lo) (cmpClaim s w) := by
  unfold cmpClaim
  extract_lets lines t
  have ht : Canon lo t := h
  split
  · next heq => exact onSome_some ((canon_claimLines ht).of_ok _ heq)
  · exact onSome_none

theorem canon_cmpReadTable {w : Work} (h : Canon lo s) : Canon lo (cmpReadTable s w) := by
  unfold cmpReadTable
  extract_lets +onlyGivenNames old step
  have hstep : ∀ l : List Nat, Returns (fun r => Canon lo r.2.2.2) (l.foldl step (.ok (false, 0, w, s))) := by
    intro l
    refine of_foldl (P := Returns fun r : Bool × Nat × Work × State => Canon lo r.2.2.2) (returns_ok h) fun acc b hacc => ?_
    refine hacc.bind fun r hr => ?_
    obtain ⟨busy, sum, w, t⟩ := r
    dsimp only
    cases cmpAccess t w (w.pair 0 + 16 * b) 16 false false with
    | failed c k => exact returns_error _
    | busy => exact returns_ok hr
    | ok pas => exact returns_ok (canon_readPas (s := t) hr)
  clear_value step
  split
  · exact canon_cmpFail h
  · exact h
  · next heq =>
    have ht : Canon lo _ := (hstep _).of_ok _ heq
    dsimp only at ht
    split
    · exact canon_cmpFail ht
    · split
      · exact h
      · next heq =>
        have hu := canon_cmpClaim ht _ heq
        exact canon_setWork hu

theorem canon_cmpMoveLine {w : Work} {k : Nat} (h : Canon lo s) : Canon lo (cmpMoveLine s w k) := by
  unfold cmpMoveLine
  extract_lets cur src dst n w1
  refine of_branches h ?_
  dsimp -zeta only
  split
  · exact canon_cmpFail h
  · exact canon_cmpFail h
  · extract_lets t last t1
    have ht : Canon lo t := canon_cmpSubtract (canon_engineWrites (canon_readPas h))
    have ht1 : Canon lo t1 := of_branches (canon_dropClaim ht) ht
    exact of_branches (canon_setWork ht1) (canon_setWork ht1)
  · exact h

theorem canon_cmpFreeLine {w : Work} {k : Nat} (h : Canon lo s) : Canon lo (cmpFreeLine s w k) := by
  unfold cmpFreeLine
  extract_lets bs dst w1
  refine of_branches h ?_
  dsimp -zeta only
  split
  · exact canon_cmpFail h
  · exact h
  · exact canon_setWork (canon_dropClaim (canon_cmpSubtract (canon_engineWrites h)))

theorem canon_cmpWriteTable {w : Work} {pkg : Nat} {t : ChTask} (h : Canon lo s) : Canon lo (cmpWriteTable s w pkg t) := by
  unfold cmpWriteTable
  extract_lets table whole accs ws t1
  split
  · exact canon_cmpFail h
  · exact of_branches h (canon_setTask (canon_cmpSubtract (canon_dropClaims (canon_engineWrites h))))

theorem canon_compactPiece {w : Work} {k : Nat} (h : Canon lo s) : Canon lo (compactPiece s w k) := by
  unfold compactPiece
  extract_lets pkg
  split
  · exact h
  · refine of_branches h ?_
    split
    · exact canon_cmpReadTable h
    · exact canon_cmpMoveLine h
    · exact canon_cmpFreeLine h
    · exact canon_cmpWriteTable h
    · exact h

theorem canon_sqeLocal {w : Work} (h : Canon lo s) : Returns (Canon lo) (sqeLocal s w) := by
  unfold sqeLocal
  split
  · exact canon_confwOp h
  · exact canon_scaccOp h
  · exact canon_scrdOp h
  · exact canon_scclrOp h
  · exact canon_topkOp h
  · exact canon_survOp h
  · exact canon_unmaskOp h
  · exact canon_dirtyOp h
  · exact canon_compactForward h
  · exact returns_ok (canon_setWork h)

theorem canon_sqeHead {c : Nat} (h : Canon lo s) : Canon lo (sqeHead s c) := by
  unfold sqeHead
  extract_lets k
  split
  · exact h
  · extract_lets pop
    have hpop : ∀ (s : State), Canon lo s → Canon lo (pop s) := by
      intro _ ht
      unfold pop
      refine canon_setCluster ht ?_
      extract_lets x1
      have hx1 : clusterCanon x1 := clusterCanon_getCluster ht
      exact hx1
    split
    · exact hpop _ h
    · split
      · next heq4 => exact hpop _ ((canon_sqeLocal h).of_ok _ heq4)
      · exact h
      · exact canon_workWaits h
      · exact hpop _ (canon_sqeFail h)

theorem canon_sqeIssue {kind : WorkKind} {us : List Use} {d a : BitVec 7} {n : Nat} {lanes : Option (Nat × Nat)} (h : Canon lo s) :
    Returns (Canon lo) (sqeIssue s kind us d a n lanes) := by
  refine h.returns (Returns.then fun _ => ?_)
  extract_lets +onlyGivenNames w0 w1
  have hw1 : w1.id = s.nextId := by
    dsimp only [w1]
    split
    · rfl
    · rfl
  clear_value w1
  refine of_branches (returns_ok (canon_finish (canon_issueWork h.fresh hw1.le))) ?_
  extract_lets +onlyGivenNames c
  refine of_branches (returns_error _) ?_
  extract_lets +onlyGivenNames w2
  have hw2 : w2.id = s.nextId := (apply_ite Work.id _ _ _).trans ((ite_self _).trans hw1)
  clear_value w2
  rcases segKeys s w2 (sqeStarts s w2) with ⟨ks, v, t⟩
  refine (canon_claimLines h.fresh).bind fun t ht => ?_
  extract_lets t1 t2
  have ht2 : Canon s.nextId t2 := canon_issueWork (of_branches (of_foldl ht fun _ _ hu => canon_dropCopies hu) ht) hw2.le
  exact returns_ok (canon_finish (canon_setCluster ht2 (clusterCanon_getCluster ht2)))

theorem canon_posEntry {lane ea : Nat} (h : Canon lo s) : Returns (fun r => Canon lo r.2) (posEntry s lane ea) :=
  Returns.bind (canon_element h) fun _ hp => Returns.bind (canon_loadNow hp) fun _ hp1 => returns_ok hp1

theorem canon_posLane {table nblk slotb lane p : Nat} (h : Canon lo s) : Returns (fun r => Canon lo r.2) (posLane s table nblk slotb lane p) :=
  of_branches (returns_ok h) (Returns.bind (canon_posEntry h) fun _ hp1 => of_branches (returns_ok hp1)
      (of_branches (returns_ok hp1) (Returns.bind (canon_posEntry hp1) fun _ hp2 => of_branches (returns_ok hp2) (returns_ok hp2))))

theorem canon_dmapLane {row n lane p : Nat} (h : Canon lo s) : Returns (fun r => Canon lo r.2) (dmapLane s row n lane p) :=
  of_branches (returns_ok h) (Returns.bind (canon_element h) fun _ hp1 => Returns.bind (canon_loadNow hp1) fun _ hp2 => returns_ok hp2)

theorem canon_laneLoad {us : List Use} {d p n : Nat} {f : State → Nat → Except Stop ((Nat × List Byte × Bool) × State)} (h : Canon lo s)
    (hf : ∀ t n, Canon lo t → Returns (fun r => Canon lo r.2) (f t n)) : Returns (Canon lo) (laneLoad s us d p n f) :=
  Returns.then fun _ => Returns.bind (canon_eachLane hf h) fun _ hp1 => returns_ok (canon_completeLanes (of_branches hp1 (canon_addPending hp1)))

theorem canon_execConfw {d a v : BitVec 7} (h : Canon lo s) : Lands lo (execConfw d a v s) := canon_run h (canon_sqeIssue h)

theorem canon_execScacc {d a v : BitVec 7} (h : Canon lo s) : Lands lo (execScacc d a v s) := canon_run h (canon_sqeIssue h)

theorem canon_execScrd {d a : BitVec 7} (h : Canon lo s) : Lands lo (execScrd d a s) := canon_run h (canon_sqeIssue h)

theorem canon_execScclr {d a : BitVec 7} (h : Canon lo s) : Lands lo (execScclr d a s) := canon_run h (canon_sqeIssue h)

theorem canon_execTopk {d a : BitVec 7} (h : Canon lo s) : Lands lo (execTopk d a s) := canon_run h (canon_sqeIssue h)

theorem canon_execPosxl {d a : BitVec 7} {p m : BitVec 3} (h : Canon lo s) : Lands lo (execPosxl d a p m s) :=
  canon_run h (canon_laneLoad h fun _ _ ht => Returns.bind (canon_posLane ht) fun _ hp1 => returns_ok hp1)

theorem canon_execSurv {d a : BitVec 7} (h : Canon lo s) : Lands lo (execSurv d a s) := canon_run h (canon_sqeIssue h)

theorem canon_execCompact {d a : BitVec 7} (h : Canon lo s) : Lands lo (execCompact d a s) := canon_run h (canon_sqeIssue h)

theorem canon_execPxfind {d a : BitVec 7} (h : Canon lo s) : Lands lo (execPxfind d a s) := canon_run h (canon_sqeIssue h)

theorem canon_execPxins {d a : BitVec 7} (h : Canon lo s) : Lands lo (execPxins d a s) :=
  canon_run h (of_branches (returns_error _) (canon_sqeIssue h))

theorem canon_execPxrel {d a : BitVec 7} (h : Canon lo s) : Lands lo (execPxrel d a s) :=
  canon_run h (of_branches (returns_error _) (canon_sqeIssue h))

theorem canon_execUnmask {d a : BitVec 7} (h : Canon lo s) : Lands lo (execUnmask d a s) := canon_run h (canon_sqeIssue h)

theorem canon_execDirty {d a : BitVec 7} (h : Canon lo s) : Lands lo (execDirty d a s) := canon_run h (canon_sqeIssue h)

theorem canon_execDmaprd {d a : BitVec 7} {p m : BitVec 3} (h : Canon lo s) : Lands lo (execDmaprd d a p m s) :=
  canon_run h (canon_laneLoad h fun _ _ ht => Returns.bind (canon_dmapLane ht) fun _ hp1 => returns_ok hp1)

theorem canon_execSqeOperation {cluster : Nat} (h : Canon lo s) : Lands lo (execSqeOperation cluster s) := lands_next (canon_sqeHead h)

theorem canon_execPxBucketUpdate {work : Nat} (h : Canon lo s) : Lands lo (execPxBucketUpdate work s) := by
  unfold execPxBucketUpdate
  split
  · exact lands_next h
  · refine of_branches (lands_next h) ?_
    split
    · next heq2 => exact lands_next ((canon_pxOp h).of_ok _ heq2)
    · exact lands_next h
    · exact lands_next (canon_workWaits h)
    · exact lands_next (canon_sqeFail h)

/-! ## The array -/

theorem canon_rawCode {bounded : Bool} {g o : XR} {bound : Nat} {exact : ℤ} (h : Canon lo s) : Canon lo (rawCode s bounded g o bound exact).2 := by
  unfold rawCode
  extract_lets q t near
  have ht : Canon lo t := h
  split <;> exact ht

theorem canon_segCode {w : Work} {d : Drive} {t n : Nat} {g o : XR} {exact : ℤ} (h : Canon lo s) : Canon lo (segCode s w d t n g o exact).2 := by
  unfold segCode
  split
  · exact h
  · split
    · split
      · exact h
      · exact canon_rawCode h
    · exact canon_rawCode h

theorem canon_columnOut {w : Work} {d : Drive} {h bcol : List XR} {c : Nat} (h1 : Canon lo s) : Canon lo (columnOut s w d h bcol c).2 :=
  of_foldl (P := fun p : XR × State => Canon lo p.2) h1 (fun _ _ hp => canon_segCode hp)

theorem canon_rowOut {w : Work} {d : Drive} {h acol : List XR} {k : Nat} (h1 : Canon lo s) : Canon lo (rowOut s w d h acol k).2 :=
  of_foldl (P := fun p : XR × State => Canon lo p.2) h1 (fun _ _ hp => canon_segCode hp)

theorem canon_weakLocs {ls : List Loc} (h : Canon lo s) : Canon lo (weakLocs s ls).2 := by
  unfold weakLocs
  extract_lets r
  have hr : Canon lo r.2 := by
    unfold r
    refine of_foldl (P := fun p : List Byte × State => Canon lo p.2) h ?_
    intro _ _ hp
    split
    · exact canon_weakRead hp
    · exact hp
  exact hr

theorem canon_workRead {w : Work} {ea n : Nat} {strong : Bool} (h : Canon lo s) : Returns (fun r => Canon lo r.2.2) (workRead s w ea n strong) := by
  unfold workRead
  refine Returns.bind (canon_workLocs h) fun _ hx => ?_
  dsimp -zeta only
  split
  · exact returns_error _
  · exact of_branches (of_branches (returns_error _) (returns_ok (of_foldl hx fun _ _ ht => canon_serveLine (canon_countReq ht)))) (returns_ok (canon_weakLocs hx))

theorem canon_bfRows {w : Work} {a str m : Nat} {rows : List Nat} (h : Canon lo s) : Returns (fun r => Canon lo r.2.2) (bfRows s w a str m rows) :=
  returns_foldlM h fun _ _ hx => Returns.bind (canon_workRead hx) fun _ hx1 => returns_ok hx1

theorem canon_adapterTerms {w : Work} {d : Drive} {outs : List Nat} (h : Canon lo s) : Returns (fun r => Canon lo r.2.2.2) (adapterTerms s w d outs) :=
  of_branches (returns_ok h) (of_branches (Returns.bind (canon_bfRows h) fun _ hx => Returns.bind (canon_bfRows hx) fun _ hx1 => returns_ok hx1)
      (Returns.bind (canon_bfRows h) fun _ hx2 => Returns.bind (canon_bfRows hx2) fun _ hx3 => returns_ok hx3))

theorem canon_lyVector {w : Work} {v : Nat} (h : Canon lo s) : Returns (fun r => Canon lo r.2.2) (lyVector s w v) := by
  unfold lyVector
  split
  · exact returns_ok h
  · exact Returns.bind (canon_workRead h) fun _ hx => Returns.bind (canon_workRead hx) fun _ hx1 => returns_ok hx1

theorem canon_lyResults {w : Work} {v j : Nat} (h : Canon lo s) : Returns (fun r => Canon lo r.2.2) (lyResults s w v j) := by
  refine (canon_lyVector h).bind fun p hp => ?_
  obtain ⟨vb, w, t⟩ := p
  dsimp -zeta only
  extract_lets +onlyGivenNames n per outs
  split
  · exact returns_error _
  · refine of_branches (returns_ok hp) ?_
    refine (canon_adapterTerms hp).bind fun q hq => ?_
    obtain ⟨h', bs, w, t⟩ := q
    extract_lets r
    have hr : Canon lo r.2 := by
      refine of_foldl (P := fun p : List Byte × State => Canon lo p.2) hq fun u o hu => ?_
      exact of_branches (P := fun p : XR × State => Canon lo p.2) (canon_rowOut hu) (canon_columnOut hu)
    exact returns_ok hr

theorem canon_lySettle {w : Work} (h : Canon lo s) : Canon lo (lySettle s w) := canon_setWork h

theorem canon_layerLine {w : Work} {k : Nat} (h : Canon lo s) : Canon lo (layerLine s w k) := by
  unfold layerLine
  extract_lets v j
  refine of_branches h ?_
  split
  · exact of_branches h (canon_lySettle (canon_weakLand h))
  · split
    · exact canon_workWaits h
    · exact canon_lySettle (canon_noteError h)
    · next heq4 =>
      have hv := (Returns.bind (Q := fun r => Canon lo r.2.2.2) (canon_lyResults h) fun _ hx => Returns.bind
          (canon_workLocs hx) fun _ hx1 => returns_ok hx1).of_ok _ heq4
      split
      · exact canon_lySettle (canon_logError h)
      · split
        · exact canon_setWork (canon_weakWrite hv)
        · exact canon_lySettle (canon_locWrites hv)

theorem canon_layerBody {kind : WorkKind} {us : List Use} {d a : BitVec 7} {mods bit : Nat} (h : Canon lo s) :
    Returns (Canon lo) (layerBody s kind us d a mods bit) := by
  refine h.returns ?_
  unfold layerBody
  extract_lets +onlyGivenNames cal
  refine of_branches (returns_error _) (Returns.then fun _ => ?_)
  extract_lets +onlyGivenNames w0
  refine Returns.then fun g => ?_
  extract_lets +onlyGivenNames x
  refine Returns.then fun _ => ?_
  extract_lets +onlyGivenNames ts
  refine Returns.then fun _ => ?_
  extract_lets +onlyGivenNames w1
  split
  · exact returns_ok (canon_finish (canon_issueWork h.fresh le_rfl))
  · extract_lets held w2 w3
    have hw : w3.id = s.nextId := by
      dsimp only [w3]
      split
      · rfl
      · rfl
    exact returns_ok (canon_finish (canon_issueWork h.fresh hw.le))

theorem canon_issueRun {us : List Use} {w : Work} {ea n : Nat} (h : Canon lo s) (hw : w.id ≤ lo) : Returns (Canon lo) (issueRun s us w ea n) := by
  unfold issueRun
  extract_lets +onlyGivenNames f w
  rcases hk : segKeys f.2 _ _ with ⟨ks, v, t⟩
  exact (canon_claimLines ((canon_segKeys (canon_freeNat h)).of_third hk)).bind fun u hu =>
    returns_ok (canon_finish (canon_issueWork hu ((id_of_segKeys hk).trans_le hw)))

theorem canon_runLine {w : Work} {k ea : Nat} {f : State → Work → Except Stop (List Byte × Work × State)} (h : Canon lo s)
    (hf : ∀ t w, Canon lo t → Returns (fun r => Canon lo r.2.2) (f t w)) : Canon lo (runLine s w k ea f) := by
  unfold runLine
  refine of_branches h ?_
  refine of_branches (canon_writeSegs h) ?_
  split
  · next heq =>
    have hv := (hf _ _ h).of_ok _ heq
    exact canon_setWork hv
  · exact canon_workWaits h
  · exact canon_setWork (canon_dropClaims (canon_noteError h))

theorem canon_arxqLine {w : Work} {k : Nat} (h : Canon lo s) : Canon lo (arxqLine s w k) := canon_runLine h fun _ _ ht => returns_ok ht

theorem canon_adpsetStep {w : Work} (h : Canon lo s) : Canon lo (adpsetStep s w) := of_branches h (canon_setWork (canon_setGrid h))

theorem canon_calsetStep {w : Work} (h : Canon lo s) : Canon lo (calsetStep s w) := of_branches h (canon_setWork (canon_setGrid h))

theorem canon_calrdLine {w : Work} {k : Nat} (h : Canon lo s) : Canon lo (calrdLine s w k) := canon_runLine h fun _ _ ht => returns_ok ht

theorem canon_almrunBytes {w : Work} (h : Canon lo s) : Returns (fun r => Canon lo r.2.2) (almrunBytes s w) :=
  Returns.bind (canon_workRead h) fun _ hx => returns_ok (of_foldl (P := fun p : List Byte × State => Canon lo p.2) hx
      (fun _ _ hp1 => of_foldl (P := fun p : List Byte × State => Canon lo p.2) hp1 (fun _ _ hp2 => canon_rawCode hp2)))

theorem canon_almrunLine {w : Work} {k : Nat} (h : Canon lo s) : Canon lo (almrunLine s w k) := canon_runLine h fun _ _ ht => canon_almrunBytes ht

theorem canon_almfitBytes {w : Work} (h : Canon lo s) : Returns (fun r => Canon lo r.2.2) (almfitBytes s w) :=
  Returns.bind (canon_workRead h) fun _ hx => Returns.bind (canon_workRead hx) fun _ hx1 => returns_ok hx1

theorem canon_almfitLine {w : Work} {k : Nat} (h : Canon lo s) : Canon lo (almfitLine s w k) := canon_runLine h fun _ _ ht => canon_almfitBytes ht

theorem canon_installSet {gen : Nat} {p : Publication} (h : Canon lo s) : Canon lo (installSet gen s p) := of_branches h (canon_setArrTile h)

theorem canon_execLayerf {d a : BitVec 7} {f l s : BitVec 1} {st : State} (hst : Canon lo st) : Lands lo (execLayerf d a f l s st) :=
  canon_run hst (canon_layerBody hst)

theorem canon_execLayert {d a : BitVec 7} {f l s : BitVec 1} {st : State} (hst : Canon lo st) : Lands lo (execLayert d a f l s st) :=
  canon_run hst (canon_layerBody hst)

theorem canon_execLayerd {d a : BitVec 7} {s : BitVec 1} {st : State} (hst : Canon lo st) : Lands lo (execLayerd d a s st) :=
  canon_run hst (canon_layerBody hst)

theorem canon_execArxq {d a : BitVec 7} (h : Canon lo s) : Lands lo (execArxq d a s) := by
  unfold execArxq
  refine h.lands ?_
  refine canon_run h.fresh ?_
  refine Returns.then fun _ => ?_
  extract_lets w
  split
  · exact returns_ok (canon_finish (canon_issueWork h.fresh le_rfl))
  · exact canon_issueRun h.fresh le_rfl

theorem canon_execAdpset {d a : BitVec 7} (h : Canon lo s) : Lands lo (execAdpset d a s) := by
  unfold execAdpset
  refine h.lands ?_
  refine canon_run h.fresh ?_
  refine Returns.then fun _ => ?_
  extract_lets w
  split <;> exact returns_ok (canon_finish (canon_issueWork h.fresh le_rfl))

theorem canon_execCalset {d a : BitVec 7} (h : Canon lo s) : Lands lo (execCalset d a s) := by
  unfold execCalset
  refine h.lands ?_
  refine canon_run h.fresh ?_
  refine Returns.then fun _ => ?_
  extract_lets w
  split <;> exact returns_ok (canon_finish (canon_issueWork h.fresh le_rfl))

theorem canon_execCalrd {d a : BitVec 7} (h : Canon lo s) : Lands lo (execCalrd d a s) := by
  unfold execCalrd
  refine h.lands ?_
  refine canon_run h.fresh ?_
  refine Returns.then fun _ => ?_
  extract_lets w
  refine Returns.then fun _ => ?_
  extract_lets x2 w1
  split
  · exact returns_ok (canon_finish (canon_issueWork h.fresh le_rfl))
  · exact canon_issueRun h.fresh le_rfl

theorem canon_execAlmrun {d a : BitVec 7} {f : BitVec 1} (h : Canon lo s) : Lands lo (execAlmrun d a f s) := by
  unfold execAlmrun
  refine h.lands ?_
  refine canon_run h.fresh ?_
  extract_lets w jp
  have hjp : ∀ (x : Unit), Returns (Canon s.nextId) (jp x) := by
    intro _
    unfold jp
    refine Returns.then fun _ => ?_
    refine Returns.then fun _ => ?_
    extract_lets x3 ts held w1
    refine Returns.then fun _ => ?_
    refine Returns.then fun _ => ?_
    refine Returns.then fun _ => ?_
    split
    · exact returns_ok (canon_finish (canon_issueWork h.fresh le_rfl))
    · exact canon_issueRun h.fresh le_rfl
  exact of_branches (returns_error _) (hjp ())

theorem canon_execAlmfit {d a : BitVec 7} (h : Canon lo s) : Lands lo (execAlmfit d a s) := by
  unfold execAlmfit
  refine h.lands ?_
  refine canon_run h.fresh ?_
  refine Returns.then fun _ => ?_
  extract_lets w
  split
  · exact returns_ok (canon_finish (canon_issueWork h.fresh le_rfl))
  · exact canon_issueRun h.fresh le_rfl

theorem canon_execAlmanacPublication {sets : List Publication} (h : Canon lo s) : Lands lo (execAlmanacPublication sets s) :=
  of_branches (lands_next (of_foldl h fun _ _ ht => canon_installSet ht)) (lands_next h)

end Sys2Proof.Machine
end

section
/-! What the platform keeps of the canonical form: its start, management, faults and the links (15_platform). -/

namespace Sys2Proof.Machine

open Claim

variable {s : State} {lo : Nat}

/-! ## The platform -/

theorem canon_restarted {mem : List Host.Cell} (h : Canon lo s) (hm : Memory.wf mem = true) : Canon lo (restarted s mem) :=
  ⟨hm, fun _ hx => (nomatch hx), tabAll_nil, tabAll_nil, tabAll_nil, tabAll_nil, h.ids⟩

theorem canon_enterCamp0 (h : Canon lo s) : Canon lo (enterCamp0 s) := h

theorem queueCanon_firmwareContext {n level : Nat} (hl : level ≤ 3) : queueCanon (firmwareContext s n level) := ⟨regsCanon_default, hl⟩

theorem canon_startFirmware (h : Canon lo s) : Canon lo (startFirmware s) := by
  unfold startFirmware
  extract_lets +onlyGivenNames free t slot x u
  have hu : Canon lo u := canon_setVf (by exact h)
  exact hu.withQueues ((hu.queues.put _ (queueCanon_firmwareContext (by decide))).put _ (queueCanon_firmwareContext (by decide)))

theorem canon_wakeTiles (h : Canon lo s) : Canon lo (wakeTiles s) := h

theorem canon_tearJournal (h : Canon lo s) : Canon lo (tearJournal s) := by
  unfold tearJournal
  refine of_foldl h ?_
  intro _ _ ht
  extract_lets f x
  have hf : Canon lo f.2 := canon_freeBool ht
  split <;> exact hf

theorem canon_trigger (h : Canon lo s) : Canon lo (trigger s).2 := by
  unfold trigger
  split
  · exact h
  · split <;> exact h

theorem canon_flushL2 (h : Canon lo s) : Canon lo (flushL2 s) := by
  unfold flushL2
  extract_lets lines x
  have hx : Canon lo x := of_foldl h fun _ _ ht => canon_l2Leave ht
  exact hx

theorem canon_hostPage {wk : Walker} {vf page : Nat} {k : Acc} (h : Canon lo s) :
    Returns (OnSome fun r => Canon lo r.2) (hostPage wk s vf page k) :=
  (canon_hostLookup h).bind fun _ hx => of_branches (returns_error _) (Returns.then fun _ => returns_ok ((canon_setAD hx).map fun _ ht => ht))

theorem canon_hostPages {vf : Nat} {k : Acc} {l : List Nat} (h : Canon lo s) : Returns (fun r => Canon lo r.2) (hostPages vf k l s) := by
  induction l generalizing s with
  | nil => exact returns_ok h
  | cons p r ih =>
    unfold hostPages
    refine (canon_hostPage h).bind fun x hx => ?_
    extract_lets jp
    have hjp : ∀ y, Canon lo y.2 → Returns (fun r => Canon lo r.2) (jp y) := fun _ hy => (ih hy).bind fun _ hz => returns_ok hz
    clear_value jp
    split
    · exact hjp _ (hx _ rfl)
    · refine (canon_hostPage h).bind fun y hy => ?_
      split
      · exact hjp _ (hy _ rfl)
      · exact returns_error _

theorem canon_frameLocs {vf gpa n : Nat} {k : Acc} (h : Canon lo s) : Returns (fun r => Canon lo r.2) (frameLocs s vf gpa n k) := by
  unfold frameLocs
  refine Returns.bind (canon_hostPages h) fun _ hp => ?_
  dsimp -zeta only
  extract_lets ls
  split
  · exact returns_error _
  · exact returns_ok hp

theorem canon_frameWrite {f : Arrival} (h : Canon lo s) : OnSome (Canon lo) (frameWrite s f) := by
  unfold frameWrite
  refine of_branches (onSome_some h) ?_
  refine of_branches (onSome_some h) ?_
  split
  · exact of_branches (onSome_some h) onSome_none
  · exact onSome_some (canon_noteXStop h)
  · next heq2 =>
    have ht := (canon_frameLocs h).of_ok _ heq2
    exact of_branches onSome_none (onSome_some (canon_locWrites ht))

theorem canon_deliver {k : Nat} (h : Canon lo s) : Canon lo (deliver k s) := by
  unfold deliver
  split
  · exact h
  · refine of_branches h ?_
    split
    · next heq2 =>
      have ht := (canon_frameWrite h) _ heq2
      exact ht
    · exact h

theorem canon_serveRemote {r : RemoteReq} (h : Canon lo s) : Canon lo (serveRemote s r).2 := by
  unfold serveRemote
  split
  · extract_lets -underBinder t old
    have ht : Canon lo t := canon_serveLine h
    split
    · exact ht
    · exact canon_homeWrite ht
    · exact canon_homeWrite ht
    · exact of_branches (canon_homeWrite ht) ht

theorem canon_keepCounts {t : State} (ht : Canon lo t) : Canon lo (keepCounts s t) := ht

theorem canon_applyScale {aux : Word} {ms : List Nat} {put : Vf → Nat → Vf} (h : Canon lo s) : Canon lo (applyScale s aux ms put) := by
  unfold applyScale
  extract_lets t
  have ht : Canon lo t := of_foldl h fun _ _ ht1 => canon_setVf ht1
  exact canon_noticeHost ht

theorem canon_scaleClusters (h : Canon lo s) : Canon lo (scaleClusters s) := of_branches h (canon_applyScale h)

theorem canon_scaleBandwidth (h : Canon lo s) : Canon lo (scaleBandwidth s) := of_branches h (canon_applyScale h)

theorem canon_sendReply {port : Nat} {bytes : Option (List Byte)} (h : Canon lo s) : Canon lo (sendReply s port bytes) := of_branches h h

theorem canon_failOut {port core : Nat} {e : StoreEnt} (h : Canon lo s) : Canon lo (failOut port core s e) := by
  unfold failOut
  extract_lets i f p pa x t
  have hf : Canon lo f.2 := canon_freeNat h
  exact of_branches h (of_branches (canon_logError (canon_modGroup (canon_setCore hf) fun _ hg => hg)) (of_branches (canon_performHome hf) hf))

theorem canon_failPending {port : Nat} {p : Pending} (h : Canon lo s) : Canon lo (failPending port s p) := by
  unfold failPending
  split
  · exact h
  · extract_lets f pa x2 t t1 x3
    have hf : Canon lo f.2 := canon_freeBool h
    have ht : Canon lo t := hf
    have hx3 : Canon lo x3 := canon_takeTrap (canon_setRegs ht (of_foldl (regsCanon_regsOf ht) fun _ _ hr => regsCanon_setEmpty hr))
    exact of_branches hf hx3

theorem canon_failWork {w : Work} {cls : Nat} (h : Canon lo s) : Canon lo (failWork s w cls) := by
  unfold failWork
  extract_lets f index
  have hf : Canon lo f.2 := canon_freeNat h
  refine of_branches h ?_
  split
  · exact canon_setWork hf
  · split
    · exact of_branches (canon_faultTask h) h
    · exact h
  · split
    · exact of_branches (canon_failTask (canon_dropClaims hf)) h
    · exact h
  · exact canon_setWork (canon_dropClaims hf)
  · exact canon_setWork (canon_dropClaims hf)
  · exact canon_setWork (canon_dropClaims hf)
  · exact canon_setWork (canon_dropClaims hf)
  · exact canon_setWork (canon_dropClaims hf)
  · exact canon_setWork (canon_dropClaims hf)
  · exact h
  · exact h
  · exact h
  · exact h
  · exact h
  · exact h
  · exact canon_setWork (canon_dropClaims h)

theorem canon_failWorkVia {port : Nat} {w : Work} (h : Canon lo s) : Canon lo (failWorkVia port s w) := by
  unfold failWorkVia
  refine of_branches ?_ h
  extract_lets f
  have hf : Canon lo f.2 := canon_freeBool h
  exact of_branches (canon_failWork hf) hf

theorem canon_strikeReg {a : Agent} {f lane : Nat} (h : Canon lo s) : Canon lo (strikeReg s a f lane) := by
  unfold strikeReg
  extract_lets bit hit task
  have hhit : ∀ r, regsCanon r → regsCanon (hit r) := fun _ hr => of_branches (P := regsCanon) hr hr
  have htask : ∀ p v n, Canon lo (task p v n) := by
    intro p v n
    dsimp only [task]
    split
    · exact of_branches (canon_setTask h) h
    · exact h
  clear_value hit task
  split
  · exact h.withGroups (h.groups.mod _ fun _ hg => hg.withRegs (hhit _ hg.1))
  · exact h.withGroups (h.groups.mod _ fun _ hg => hg.withSlice (hg.axp.map fun _ ha => hhit _ ha))
  · exact h.withQueues (h.queues.mod _ fun _ hq => ⟨hhit _ hq.1, hq.2⟩)
  · exact htask _ _ _
  · exact htask _ _ _

theorem canon_strikeTag {line : Nat} (h : Canon lo s) : Canon lo (strikeTag s line) := by
  unfold strikeTag
  refine of_branches h ?_
  extract_lets t t1
  have ht : Canon lo t := canon_recallLine (canon_dropCopies h)
  have ht1 : Canon lo t1 := of_branches ht ht
  exact canon_logError ht1

theorem canon_strike {x : Strike} (h : Canon lo s) : Canon lo (strike x s) := by
  unfold strike
  split
  · exact canon_strikeReg h
  · exact h
  · exact canon_modTeam h fun _ hm => hm.withSlots (tabRising_tabMod hm.slots)
  · exact canon_modTeam h fun _ hm1 => hm1.withTiles (tabRising_tabMod hm1.tiles)
  · exact canon_strikeTag h
  · exact h
  · exact canon_logError h
  · exact of_branches h (of_branches h h)
  · exact of_branches h h

theorem canon_moduleChange {m : Nat} {up : Bool} (h : Canon lo s) : Canon lo (moduleChange m up s) := of_branches h h

theorem canon_outside {x : Outside} (h : Canon lo s) : Canon lo (outside x s) := by
  unfold outside
  split
  · exact h
  · exact h
  · exact of_branches h h
  · exact of_branches h (of_branches h h)
  · exact canon_deliver h
  · exact of_branches (OnSome.getD (canon_replayDie h) h) h
  · exact of_branches h h

theorem canon_endTasks {pkg vf n : Nat} (h : Canon lo s) : Canon lo (endTasks pkg vf n s) := by
  induction n generalizing s with
  | zero => exact h
  | succ n ih =>
    unfold endTasks
    split
    · exact h
    · exact ih (canon_revokeTask h)

theorem canon_revokeAll {vf : Nat} (h : Canon lo s) : Canon lo (revokeAll s vf) := canon_setVf h

theorem clusterCanon_clearGranule {k : Cluster} {g : Nat} (hk : clusterCanon k) : clusterCanon (clearGranule k g) := tabCanon_filter hk

theorem canon_clearGranules {vf : Nat} (h : Canon lo s) : Canon lo (clearGranules s vf) :=
  h.withClusters (h.clusters.map fun _ hp => of_foldl (P := clusterCanon) hp fun _ _ hk => clusterCanon_clearGranule hk)

theorem canon_stopQueues {vf : Nat} (h : Canon lo s) : Canon lo (stopQueues s vf) :=
  of_foldl h fun _ _ ht => canon_writeDescriptor (canon_modQueue (canon_abandon ht) fun _ hq => hq)

theorem canon_unserved {vf : Nat} (h : Canon lo s) : Canon lo (unserved s vf) :=
  of_branches h (of_foldl h fun _ _ ht => of_branches (canon_modQueue (canon_abandon ht) fun _ hq => hq) ht)

theorem canon_execStarfix {d : BitVec 7} (h : Canon lo s) : Lands lo (execStarfix d s) := by
  unfold execStarfix
  refine canon_run h ?_
  refine of_branches (returns_ok (canon_finish (canon_writeSReg h))) ?_
  split
  · next heq => exact returns_ok (canon_finish (canon_writeSReg ((canon_trigger h).of_snd heq)))
  · next heq1 => exact returns_ok (canon_finish (canon_writeSReg ((canon_trigger h).of_snd heq1)))

theorem canon_execHalt (h : Canon lo s) : Lands lo (execHalt s) := by
  unfold execHalt
  refine canon_run h ?_
  extract_lets t t1
  have ht : Canon lo t := h
  have ht1 : Canon lo t1 := canon_flushL2 ht
  exact of_branches (returns_ok (canon_waitOn ht)) (returns_ok (canon_finish ht1))

theorem canon_execQueueDoorbell {qid : Nat} {tail : BitVec 32} (h : Canon lo s) : Lands lo (execQueueDoorbell qid tail s) := by
  unfold execQueueDoorbell
  refine of_branches (lands_next h) ?_
  refine of_branches (lands_next (canon_modQueue h fun _ hq => hq)) ?_
  refine of_branches (lands_next h) ?_
  split
  · next heq =>
    have ht := (canon_writeVirt h).of_ok _ heq
    exact lands_next (canon_readDescriptor ht)
  · exact lands_next (canon_noteXStop h)

theorem canon_execPowerGood (h : Canon lo s) : Lands lo (execPowerGood s) :=
  lands_next (of_branches (canon_enterCamp0 (canon_restarted h h.1)) h)

theorem canon_execCamp1 {modn : BitVec 9} {mem : BitVec 4} {routes : List Nat} (h : Canon lo s) : Lands lo (execCamp1 modn mem routes s) :=
  of_branches (lands_next (of_foldl (canon_startFirmware (canon_wakeTiles h)) fun _ _ ht => canon_replayAll ht)) (lands_next h)

theorem canon_execSummit (h : Canon lo s) : Lands lo (execSummit s) := lands_next (of_branches h h)

theorem canon_execManagementReset (h : Canon lo s) : Lands lo (execManagementReset s) := by
  refine of_branches ?_ (lands_next h)
  extract_lets f t
  have hm : Memory.wf (if f.1 then s.mem else []) = true := of_branches (P := fun m : List Host.Cell => Memory.wf m = true) h.1 rfl
  have ht : Canon lo t := canon_restarted (s := f.2) (canon_freeBool h) hm
  exact lands_next (canon_enterCamp0 (s := { t with time := s.time }) ht)

theorem canon_execStarfixTriggerPin (h : Canon lo s) : Lands lo (execStarfixTriggerPin s) := lands_next (of_branches (canon_trigger h) h)

theorem canon_execManagementStarfix (h : Canon lo s) : Lands lo (execManagementStarfix s) := lands_next (of_branches (canon_trigger h) h)

theorem canon_execSnapshotRead {seq : Nat} (h : Canon lo s) : Lands lo (execSnapshotRead seq s) := by
  unfold execSnapshotRead
  split
  · exact lands_next (of_branches h h)
  · exact lands_next h

theorem canon_execAttestationRequest {vf : Option Nat} {nonce : List (BitVec 8)} (h : Canon lo s) : Lands lo (execAttestationRequest vf nonce s) :=
  lands_next (of_branches h h)

theorem canon_execHealthRequest (h : Canon lo s) : Lands lo (execHealthRequest s) := lands_next (of_branches h h)

theorem canon_execUetWriteReceived {hdr : UetHeader} {va : BitVec 64} {bytes : List (BitVec 8)} (h : Canon lo s) : Lands lo (execUetWriteReceived hdr va bytes s) :=
  of_branches (lands_next h) (lands_next (canon_deliver h))

theorem canon_execUetReadReceived {mac : BitVec 48} {va : BitVec 64} {len : Nat} (h : Canon lo s) : Lands lo (execUetReadReceived mac va len s) := by
  unfold execUetReadReceived
  extract_lets e answer
  have hanswer : ∀ (s : State) (bs : Option (List Byte)), Canon lo s → Canon lo (answer s bs) := fun _ _ ht => ht
  refine of_branches (lands_next h) ?_
  refine of_branches (lands_next (hanswer _ _ h)) ?_
  split
  · exact lands_next h
  · exact lands_next (hanswer _ _ (canon_noteXStop h))
  · next heq2 =>
    have ht1 := (canon_frameLocs h).of_ok _ heq2
    exact of_branches (lands_next h) (lands_next (canon_keepCounts (hanswer _ _ (of_foldl ht1 fun _ _ ht2 => canon_serveLine ht2))))

theorem canon_execRemoteRequestReceived {r : PortReq} (h : Canon lo s) : Lands lo (execRemoteRequestReceived r s) := by
  unfold execRemoteRequestReceived
  extract_lets p covers
  refine of_branches (lands_next h) ?_
  split
  · exact of_branches (lands_next (canon_keepCounts (canon_sendReply (canon_serveRemote h)))) (lands_next (canon_keepCounts (canon_sendReply (canon_logError h))))
  · exact lands_next (canon_keepCounts (canon_sendReply (canon_serveRemote h)))

theorem canon_execVlHold {port vl : Nat} {hold : Bool} (h : Canon lo s) : Lands lo (execVlHold port vl hold s) :=
  lands_next (of_branches h (of_branches h h))

theorem canon_execQpQuantumExpiry {qp : Nat} (h : Canon lo s) : Lands lo (execQpQuantumExpiry qp s) := by
  unfold execQpQuantumExpiry
  dsimp only
  refine of_branches (lands_next h) ?_
  refine of_branches (lands_next h) ?_
  split
  · exact lands_next h
  · exact of_branches (lands_next h) (lands_next (canon_unserved h))

theorem canon_execPatrolScrub {line : Nat} {err : ScrubError} (h : Canon lo s) : Lands lo (execPatrolScrub line err s) := by
  unfold execPatrolScrub
  extract_lets dirty cls
  refine of_branches (lands_next h) ?_
  split
  · exact lands_next h
  · exact lands_next (canon_logError h)
  · exact lands_next (canon_logError (canon_strike h))

theorem canon_execThrottleDeeper {vf : Option Nat} {draw : BitVec 16} (h : Canon lo s) : Lands lo (execThrottleDeeper vf draw s) := by
  unfold execThrottleDeeper
  split
  · exact of_branches (lands_next (canon_observeDraw h)) (lands_next h)
  · exact of_branches (lands_next (canon_observeVf h)) (lands_next h)

theorem canon_execThrottleBack {vf : Option Nat} {draw : BitVec 16} (h : Canon lo s) : Lands lo (execThrottleBack vf draw s) := by
  unfold execThrottleBack
  split
  · exact of_branches (lands_next h) (lands_next h)
  · exact of_branches (lands_next (canon_setVf h)) (lands_next h)

theorem canon_execResourceRetirement {channel : Bool} {n : Nat} (h : Canon lo s) : Lands lo (execResourceRetirement channel n s) := by
  unfold execResourceRetirement
  refine of_branches (of_branches (lands_next h) (lands_next (canon_scaleBandwidth h))) ?_
  refine of_branches (lands_next h) ?_
  refine lands_next ?_
  refine canon_scaleClusters ?_
  refine canon_setCluster h ?_
  extract_lets x
  have hx : clusterCanon x := clusterCanon_getCluster h
  exact hx

theorem canon_execPortRetirement {port : Nat} (h : Canon lo s) : Lands lo (execPortRetirement port s) := by
  unfold execPortRetirement
  extract_lets t t1 t2
  have ht2 : Canon lo t2 := of_foldl (of_foldl (of_foldl h fun _ _ ht3 => of_foldl ht3 fun _ _ ht4 => canon_failOut ht4) fun _ _ ht5 => canon_failPending ht5) fun _ _ ht6 => canon_failWorkVia ht6
  exact lands_next ht2

theorem canon_execUcieLinkRetrain {die : Nat} {work : Option Nat} (h : Canon lo s) : Lands lo (execUcieLinkRetrain die work s) := by
  unfold execUcieLinkRetrain
  refine of_branches (lands_next h) ?_
  extract_lets t
  have ht : Canon lo t := h
  split
  · exact lands_next (canon_logError ht)
  · extract_lets layer arr t1
    have ht1 : Canon lo t1 := canon_logError ht
    exact of_branches (lands_next h) (of_branches (lands_next (canon_failWork ht1))
        (of_branches (lands_next (canon_lySettle ht1)) (lands_next (canon_setWork (canon_dropClaims ht1)))))

theorem canon_execL2LineEviction {line : Nat} (h : Canon lo s) : Lands lo (execL2LineEviction line s) := lands_next (of_branches h (canon_l2Leave h))

theorem canon_execPowerFailure (h : Canon lo s) : Lands lo (execPowerFailure s) :=
  lands_next (of_branches h (canon_tearJournal (canon_restarted h rfl)))

theorem canon_execVfOpen {vf : Nat} {cfg : VfConfig} (h : Canon lo s) : Lands lo (execVfOpen vf cfg s) :=
  of_branches (lands_next h) (lands_next (canon_setVf (canon_loadSlot (canon_writeHvctx (canon_setVf h)))))

theorem canon_execVfClose {vf : Nat} (h : Canon lo s) : Lands lo (execVfClose vf s) := by
  unfold execVfClose
  refine of_branches (lands_next h) ?_
  extract_lets t f t1 t2 t3 t4 t5 x
  have ht1 : Canon lo t1 := of_foldl (canon_freeNat (canon_stopQueues h)) fun _ _ hu => canon_endGrid hu
  have ht2 : Canon lo t2 := of_foldl ht1 fun _ _ hu => canon_endTasks hu
  have ht3 : Canon lo t3 := canon_clearGranules (canon_revokeAll ht2)
  have ht4 : Canon lo t4 := of_foldl ht3 fun _ _ hu => canon_unloadSlot hu
  clear_value t4
  have ht5 : Canon lo t5 := ht4
  exact of_branches (lands_next ht2) (lands_next (canon_setVf ht5))

theorem canon_execGranuleAssignment {cluster granule : Nat} {vf : Option Nat} (h : Canon lo s) : Lands lo (execGranuleAssignment cluster granule vf s) := by
  unfold execGranuleAssignment
  refine of_branches (lands_next h) ?_
  extract_lets k
  have hk : clusterCanon k := clusterCanon_getCluster h
  split
  · exact lands_next (canon_setCluster h hk)
  · refine of_branches (lands_next h) ?_
    extract_lets c
    have hc : clusterCanon c := of_branches hk (clusterCanon_clearGranule hk)
    exact lands_next (canon_setCluster h hc)

end Sys2Proof.Machine
end

section
/-! What collective operations and the scheduler's events keep of the canonical form (15_platform; 07_core_sched_traps). -/

namespace Sys2Proof.Machine

open Claim

variable {s : State} {lo : Nat}

/-! ## Collective operations -/

theorem canon_setColl {c : Coll} (h : Canon lo s) : Canon lo (setColl s c) := h

/-! In this group the proofs name a page walk by a variable (`⟨f, f = workLocs, …⟩`): the kernel would otherwise unfold it, and the
products of large literals in it, where it compares two forms of one match. -/

theorem canon_claimColl {c : Coll} (h : Canon lo s) : Canon lo (claimColl s c) := by
  unfold claimColl
  obtain ⟨keysOf, hf, hk⟩ : ∃ f, f = segKeys ∧ ∀ t w l, Canon lo t → Canon lo (f t w l).2.2 := ⟨_, rfl, fun _ _ _ => canon_segKeys⟩
  rw [← hf]
  extract_lets one
  have hone : ∀ t id, Canon lo t → Returns (Canon lo) (one t id) := by
    intro t id ht
    unfold one
    split
    · exact returns_ok ht
    · exact canon_claimLines (canon_setWork (hk _ _ _ ht))
  split
  · next heq => exact canon_setColl ((returns_foldlM h fun _ _ ht => hone _ _ ht).of_ok _ heq)
  · exact h

theorem canon_startColl {c : Coll} {w : Work} (h : Canon lo s) : Canon lo (startColl s c w) := canon_claimColl (canon_setColl h)

theorem canon_gathered {c : Coll} (h : Canon lo s) : Canon lo (gathered s c) := by
  unfold gathered
  dsimp only
  split
  · exact h
  · refine of_branches h ?_
    refine of_branches (canon_setColl (of_foldl h fun _ _ ht => canon_endWork ht)) ?_
    refine of_branches (canon_setColl (of_foldl h fun _ _ ht1 => canon_endWork ht1)) ?_
    split
    · exact canon_startColl h
    · exact canon_setColl h

theorem canon_joinColl {w : Work} {k : Nat} (h : Canon lo s) (hw : w.id ≤ lo) : Canon lo (joinColl s w k) := by
  unfold joinColl
  split
  · exact canon_gathered (s := { issueWork s w with colls := _ }) (canon_issueWork h hw)
  · exact of_branches (canon_issueWork h hw) (of_branches (canon_issueWork h hw) (canon_gathered (canon_setColl (canon_issueWork h hw))))

theorem canon_joinAway {grid tag k rank : Nat} {params : List Nat} (h : Canon lo s) : Canon lo (joinAway s grid tag k rank params) := by
  unfold joinAway
  extract_lets m
  split
  · exact canon_gathered (s := { s with nextId := s.nextId + 1, colls := _ }) (h.withNextId (Nat.le_succ _))
  · exact of_branches h (canon_gathered (canon_setColl h))

theorem canon_collRead {c : Coll} {w : Work} {need : Nat × Nat × Nat} (h : Canon lo s) : Returns (fun r => Canon lo r.2) (collRead s c w need) := by
  unfold collRead
  obtain ⟨locsOf, hf, hl⟩ : ∃ f, f = workLocs ∧ ∀ t w ea n k perm, Canon lo t → Returns (fun r => Canon lo r.2.2) (f t w ea n k perm) :=
    ⟨_, rfl, fun _ _ _ _ _ _ => canon_workLocs⟩
  rw [← hf]
  dsimp -zeta only
  split
  · exact returns_ok h
  · extract_lets idx
    split
    · exact returns_error _
    · exact returns_error _
    · next heq =>
      have ht := (hl _ _ _ _ _ _ h).of_ok _ heq
      split
      · exact returns_error _
      · exact of_branches (returns_error _) (returns_ok (canon_setWork (canon_keepLines ht)))

theorem canon_collReads {c : Coll} {w : Work} {l : List (Nat × Nat × Nat)} (h : Canon lo s) : Returns (fun r => Canon lo r.2) (collReads s c w l) := by
  induction l generalizing s with
  | nil => exact returns_ok h
  | cons x r ih => exact (canon_collRead h).bind fun _ hx => (ih hx).bind fun _ hy => returns_ok hy

theorem canon_settleColl {c : Coll} (h : Canon lo s) : Canon lo (settleColl s c) := of_foldl h fun _ _ ht => of_branches (canon_setWork ht) ht

theorem canon_noteColl {c : Coll} {ids : List Nat} {cause index : Nat} {err : Nat × Nat} {vf : Nat} (h : Canon lo s) : Canon lo
    (noteColl s c ids cause index err vf) := by
  unfold noteColl
  extract_lets t
  refine canon_settleColl ?_
  refine of_foldl (of_branches (canon_logError h) h) ?_
  intro _ _ ht1
  split
  · exact of_branches ht1 (canon_setWork ht1)
  · exact ht1

theorem canon_collLine {w : Work} {k : Nat} (h : Canon lo s) : Canon lo (collLine s w k) := by
  unfold collLine
  obtain ⟨locsOf, hf, hl⟩ : ∃ f, f = workLocs ∧ ∀ t w ea n k perm, Canon lo t → Returns (fun r => Canon lo r.2.2) (f t w ea n k perm) :=
    ⟨_, rfl, fun _ _ _ _ _ _ => canon_workLocs⟩
  rw [← hf]
  split
  · exact h
  · extract_lets d
    dsimp -zeta only
    extract_lets idx
    refine of_branches h (of_branches (canon_claimColl h) (of_branches h ?_))
    split
    · exact h
    · exact canon_noteColl h
    · next heq =>
      have ht := (canon_collReads h).of_ok _ heq
      extract_lets w1
      split
      · exact canon_workWaits h
      · exact canon_noteColl ht
      · next heq =>
        have hu := (hl _ _ _ _ _ _ ht).of_ok _ heq
        split
        · exact canon_noteColl hu
        · exact of_branches h (canon_settleColl (canon_setWork (canon_writeLine hu)))

theorem canon_execColl {d a : BitVec 7} {o y : BitVec 2} {x : BitVec 1} (h : Canon lo s) : Lands lo (execColl d a o y x s) := by
  unfold execColl
  refine h.lands ?_
  refine canon_run h.fresh ?_
  extract_lets -underBinder jp
  have hjp : ∀ (x : Unit), Returns (Canon s.nextId) (jp x) := by
    intro _
    unfold jp
    refine Returns.then fun _ => ?_
    extract_lets -underBinder w key g n t
    have ht : Canon s.nextId t := canon_setGrid h.fresh
    split
    · exact returns_ok (canon_finish (canon_issueWork ht le_rfl))
    · exact returns_ok (canon_finish (canon_joinColl ht le_rfl))
  exact of_branches (returns_error _) (hjp ())

theorem canon_execCollGatherTimeout {inst : Nat} (h : Canon lo s) : Lands lo (execCollGatherTimeout inst s) := by
  unfold execCollGatherTimeout
  split
  · exact lands_next h
  · exact of_branches (lands_next h) (lands_next (of_foldl (canon_setColl h) fun _ _ ht => canon_endWork ht))

theorem canon_abroad {n : Nat} {what : Abroad} (h : Canon lo s) : Canon lo (abroad n what s) := by
  unfold abroad
  extract_lets g guest
  cases what with
  | offered home g' =>
    dsimp only
    split
    · exact h
    · next hn =>
      have hn : s.nextId ≤ n + 1 := by
        simp only [not_or, not_lt] at hn
        omega
      exact canon_setGrid (h.withNextId hn)
  | started ms => exact of_branches (canon_startGrid (canon_setGrid h)) h
  | released => exact of_branches h (of_branches (canon_endGrid h) h)
  | placed m i => exact of_branches (canon_repeatGang (canon_startGang (canon_setGrid h))) h
  | retired i =>
    dsimp only
    split
    · exact canon_tryStep (canon_tryGbar (canon_setGrid h))
    · exact h
  | notice nt => exact of_branches (canon_noticeIssuer h) h
  | coll tag k rank ps => exact of_branches (canon_joinAway h) h
  | read tag k rank =>
    dsimp only
    split
    · exact canon_settleColl (canon_setColl h)
    · exact h

/-! ## Events -/

theorem canon_whileRunning {t : State} (h : Canon lo s) (ht : Canon lo t) : Lands lo (whileRunning s t) := lands_next (of_branches ht h)

theorem canon_engineLine {w : Work} {k : Nat} (h : Canon lo s) : Canon lo (engineLine s w k) := by
  unfold engineLine
  split
  · exact canon_cpyLine h
  · exact canon_gsLine h
  · exact canon_gsLine h
  · exact canon_ldslotRow h
  · exact canon_cbloadStep h
  · exact canon_accstLine h
  · exact canon_layerLine h
  · exact canon_layerLine h
  · exact canon_layerLine h
  · exact canon_arxqLine h
  · exact canon_adpsetStep h
  · exact canon_calsetStep h
  · exact canon_calrdLine h
  · exact canon_almrunLine h
  · exact canon_almfitLine h
  · exact canon_compactPiece h
  · exact canon_chePiece h
  · exact canon_migStep h
  · exact canon_startGrid h
  · exact canon_arprogStep h
  · exact canon_arcommitStep h
  · exact canon_writeSegs h
  · exact canon_collLine h
  · exact h
  · exact h
  · exact h
  · exact h
  · exact h
  · exact h
  · exact h
  · exact h
  · exact h
  · exact h
  · exact h
  · exact h
  · exact h
  · exact h
  · exact h

theorem canon_execLoadDataReturn {gid id : Nat} {part : Option Nat} (h : Canon lo s) : Lands lo (execLoadDataReturn gid id part s) := by
  unfold execLoadDataReturn
  refine canon_whileRunning h ?_
  split
  · exact of_branches (canon_loadReturn h) h
  · exact h

theorem canon_execStorePerform {st : StoreStage} (h : Canon lo s) : Lands lo (execStorePerform st s) := by
  unfold execStorePerform
  refine canon_whileRunning h ?_
  split
  · exact canon_performCore h
  · exact canon_performHome h

theorem canon_execEngineLineWrite {work piece : Nat} (h : Canon lo s) : Lands lo (execEngineLineWrite work piece s) := by
  unfold execEngineLineWrite
  refine canon_whileRunning h ?_
  split
  · exact canon_engineLine h
  · exact h

theorem canon_execEngineTokenFill {work : Nat} (h : Canon lo s) : Lands lo (execEngineTokenFill work s) := by
  unfold execEngineTokenFill
  refine canon_whileRunning h ?_
  split
  · exact of_branches (canon_fillToken h) h
  · exact h

theorem canon_execMatrixUnitOperation {core : Nat} (h : Canon lo s) : Lands lo (execMatrixUnitOperation core s) :=
  canon_whileRunning h (canon_matrixStep h)

end Sys2Proof.Machine
end

section
/-! What the arithmetic of lanes keeps of the canonical form (04_isa). -/

namespace Sys2Proof.Machine

open Claim

variable {s : State} {lo : Nat}

/-! ## Floating point -/

theorem canon_halfFp {us : List Use} {d : BitVec 6} {a : BitVec 5} {f : FpCtl → Nat → Nat → Nat × Flags} (h : Canon lo s) : Lands lo (halfFp s us d a f) :=
  canon_fp2 h

theorem canon_approx1 {opn : Nat} {us : List Use} {d a : BitVec 7} {op : ApproxOp} (h : Canon lo s) : Lands lo (approx1 s opn us d a op) :=
  canon_fp1 h

theorem canon_packed2 {opn : Nat} {us : List Use} {d a b : BitVec 7} {f : FpCtl → Nat → Nat → Nat × Flags} (h : Canon lo s) : Lands lo (packed2 s opn us d a b f) :=
  canon_fp2 h

theorem canon_packed3 {opn : Nat} {us : List Use} {d a b : BitVec 7} {f : FpCtl → Nat → Nat → Nat → Nat × Flags} (h : Canon lo s) : Lands lo
    (packed3 s opn us d a b f) :=
  canon_fp3 h

theorem canon_execFadd16 {d : BitVec 6} {a : BitVec 5} (h : Canon lo s) : Lands lo (execFadd16 d a s) := canon_halfFp h

theorem canon_execFsub16 {d : BitVec 6} {a : BitVec 5} (h : Canon lo s) : Lands lo (execFsub16 d a s) := canon_halfFp h

theorem canon_execFmul16 {d : BitVec 6} {a : BitVec 5} (h : Canon lo s) : Lands lo (execFmul16 d a s) := canon_halfFp h

theorem canon_execFmax16 {d : BitVec 6} {a : BitVec 5} (h : Canon lo s) : Lands lo (execFmax16 d a s) := canon_halfFp h

theorem canon_execFadd {d a b : BitVec 7} (h : Canon lo s) : Lands lo (execFadd d a b s) := canon_fp2 h

theorem canon_execFsub {d a b : BitVec 7} (h : Canon lo s) : Lands lo (execFsub d a b s) := canon_fp2 h

theorem canon_execFmul {d a b : BitVec 7} (h : Canon lo s) : Lands lo (execFmul d a b s) := canon_fp2 h

theorem canon_execFfma {d a b : BitVec 7} (h : Canon lo s) : Lands lo (execFfma d a b s) := canon_fp3 h

theorem canon_execFdiv {d a b : BitVec 7} (h : Canon lo s) : Lands lo (execFdiv d a b s) := canon_fp2 h

theorem canon_execFmin {d a b : BitVec 7} (h : Canon lo s) : Lands lo (execFmin d a b s) := canon_fp2 h

theorem canon_execFmax {d a b : BitVec 7} (h : Canon lo s) : Lands lo (execFmax d a b s) := canon_fp2 h

theorem canon_execFcpys {d a b : BitVec 7} (h : Canon lo s) : Lands lo (execFcpys d a b s) := canon_fp2 h

theorem canon_execFsqrt {d a : BitVec 7} {r : BitVec 3} (h : Canon lo s) : Lands lo (execFsqrt d a r s) := canon_fp1 h

theorem canon_execFabs {d a : BitVec 7} (h : Canon lo s) : Lands lo (execFabs d a s) := canon_fp1 h

theorem canon_execFneg {d a : BitVec 7} (h : Canon lo s) : Lands lo (execFneg d a s) := canon_fp1 h

theorem canon_execFclass {d a : BitVec 7} (h : Canon lo s) : Lands lo (execFclass d a s) := canon_fp1 h

theorem canon_execFrint {d a : BitVec 7} {r : BitVec 3} (h : Canon lo s) : Lands lo (execFrint d a r s) := canon_fp1 h

theorem canon_execFrcp {d a : BitVec 7} (h : Canon lo s) : Lands lo (execFrcp d a s) := canon_approx1 h

theorem canon_execFrsq {d a : BitVec 7} (h : Canon lo s) : Lands lo (execFrsq d a s) := canon_approx1 h

theorem canon_execFex2 {d a : BitVec 7} (h : Canon lo s) : Lands lo (execFex2 d a s) := canon_approx1 h

theorem canon_execFlg2 {d a : BitVec 7} (h : Canon lo s) : Lands lo (execFlg2 d a s) := canon_approx1 h

theorem canon_execFsin {d a : BitVec 7} (h : Canon lo s) : Lands lo (execFsin d a s) := canon_approx1 h

theorem canon_execFcos {d a : BitVec 7} (h : Canon lo s) : Lands lo (execFcos d a s) := canon_approx1 h

theorem canon_execFcmpEq {p a b : BitVec 7} (h : Canon lo s) : Lands lo (execFcmpEq p a b s) := canon_fcmp h

theorem canon_execFcmpNe {p a b : BitVec 7} (h : Canon lo s) : Lands lo (execFcmpNe p a b s) := canon_fcmp h

theorem canon_execFcmpLt {p a b : BitVec 7} (h : Canon lo s) : Lands lo (execFcmpLt p a b s) := canon_fcmp h

theorem canon_execFcmpLe {p a b : BitVec 7} (h : Canon lo s) : Lands lo (execFcmpLe p a b s) := canon_fcmp h

theorem canon_execFcmpGt {p a b : BitVec 7} (h : Canon lo s) : Lands lo (execFcmpGt p a b s) := canon_fcmp h

theorem canon_execFcmpGe {p a b : BitVec 7} (h : Canon lo s) : Lands lo (execFcmpGe p a b s) := canon_fcmp h

theorem canon_execFcmpUn {p a b : BitVec 7} (h : Canon lo s) : Lands lo (execFcmpUn p a b s) := canon_fcmp h

theorem canon_execDadd {d a b : BitVec 7} (h : Canon lo s) : Lands lo (execDadd d a b s) := canon_dp2 h

theorem canon_execDsub {d a b : BitVec 7} (h : Canon lo s) : Lands lo (execDsub d a b s) := canon_dp2 h

theorem canon_execDmul {d a b : BitVec 7} (h : Canon lo s) : Lands lo (execDmul d a b s) := canon_dp2 h

theorem canon_execDfma {d a b : BitVec 7} (h : Canon lo s) : Lands lo (execDfma d a b s) := canon_dp3 h

theorem canon_execDdiv {d a b : BitVec 7} (h : Canon lo s) : Lands lo (execDdiv d a b s) := canon_dp2 h

theorem canon_execDsqrt {d a : BitVec 7} {r : BitVec 3} (h : Canon lo s) : Lands lo (execDsqrt d a r s) := canon_dp1 h

theorem canon_execDcmpEq {p a b : BitVec 7} (h : Canon lo s) : Lands lo (execDcmpEq p a b s) := canon_dcmp h

theorem canon_execDcmpNe {p a b : BitVec 7} (h : Canon lo s) : Lands lo (execDcmpNe p a b s) := canon_dcmp h

theorem canon_execDcmpLt {p a b : BitVec 7} (h : Canon lo s) : Lands lo (execDcmpLt p a b s) := canon_dcmp h

theorem canon_execDcmpLe {p a b : BitVec 7} (h : Canon lo s) : Lands lo (execDcmpLe p a b s) := canon_dcmp h

theorem canon_execDcmpGt {p a b : BitVec 7} (h : Canon lo s) : Lands lo (execDcmpGt p a b s) := canon_dcmp h

theorem canon_execDcmpGe {p a b : BitVec 7} (h : Canon lo s) : Lands lo (execDcmpGe p a b s) := canon_dcmp h

theorem canon_execDcmpUn {p a b : BitVec 7} (h : Canon lo s) : Lands lo (execDcmpUn p a b s) := canon_dcmp h

theorem canon_execHadd2Bf16 {d a b : BitVec 7} (h : Canon lo s) : Lands lo (execHadd2Bf16 d a b s) := canon_packed2 h

theorem canon_execHadd2Fp16 {d a b : BitVec 7} (h : Canon lo s) : Lands lo (execHadd2Fp16 d a b s) := canon_packed2 h

theorem canon_execHmul2Bf16 {d a b : BitVec 7} (h : Canon lo s) : Lands lo (execHmul2Bf16 d a b s) := canon_packed2 h

theorem canon_execHmul2Fp16 {d a b : BitVec 7} (h : Canon lo s) : Lands lo (execHmul2Fp16 d a b s) := canon_packed2 h

theorem canon_execHfma2Bf16 {d a b : BitVec 7} (h : Canon lo s) : Lands lo (execHfma2Bf16 d a b s) := canon_packed3 h

theorem canon_execHfma2Fp16 {d a b : BitVec 7} (h : Canon lo s) : Lands lo (execHfma2Fp16 d a b s) := canon_packed3 h

/-! ## Integers -/

theorem canon_half2 {us : List Use} {d : BitVec 6} {a : BitVec 5} {f : Word → Word → Word} (h : Canon lo s) : Lands lo (half2 s us d a f) :=
  canon_lane2 h

theorem canon_shiftI {opn : Nat} {us : List Use} {d a i : BitVec 7} {f : (w : Nat) → BitVec w → BitVec w} (h : Canon lo s) : Lands lo (shiftI s opn us d a i f) :=
  of_branches (canon_done h (returns_error _)) (canon_lane1w h)

theorem canon_execMov16 {d : BitVec 6} {a : BitVec 5} (h : Canon lo s) : Lands lo (execMov16 d a s) := by
  unfold execMov16
  refine of_branches ?_ (canon_lane1 h)
  split
  · exact of_branches (lands_next (canon_advance h)) (canon_done h (returns_error _))
  · exact canon_run h (returns_ok (canon_advance h))

theorem canon_execAdd16 {d : BitVec 6} {a : BitVec 5} (h : Canon lo s) : Lands lo (execAdd16 d a s) := canon_half2 h

theorem canon_execSub16 {d : BitVec 6} {a : BitVec 5} (h : Canon lo s) : Lands lo (execSub16 d a s) := canon_half2 h

theorem canon_execMulLo16 {d : BitVec 6} {a : BitVec 5} (h : Canon lo s) : Lands lo (execMulLo16 d a s) := canon_half2 h

theorem canon_execAnd16 {d : BitVec 6} {a : BitVec 5} (h : Canon lo s) : Lands lo (execAnd16 d a s) := canon_half2 h

theorem canon_execOr16 {d : BitVec 6} {a : BitVec 5} (h : Canon lo s) : Lands lo (execOr16 d a s) := canon_half2 h

theorem canon_execXor16 {d : BitVec 6} {a : BitVec 5} (h : Canon lo s) : Lands lo (execXor16 d a s) := canon_half2 h

theorem canon_execShl16 {d : BitVec 6} {a : BitVec 5} (h : Canon lo s) : Lands lo (execShl16 d a s) := canon_half2 h

theorem canon_execShr16 {d : BitVec 6} {a : BitVec 5} (h : Canon lo s) : Lands lo (execShr16 d a s) := canon_half2 h

theorem canon_execSar16 {d : BitVec 6} {a : BitVec 5} (h : Canon lo s) : Lands lo (execSar16 d a s) := canon_half2 h

theorem canon_execMinS16 {d : BitVec 6} {a : BitVec 5} (h : Canon lo s) : Lands lo (execMinS16 d a s) := canon_half2 h

theorem canon_execMaxS16 {d : BitVec 6} {a : BitVec 5} (h : Canon lo s) : Lands lo (execMaxS16 d a s) := canon_half2 h

theorem canon_execAdd {d a b : BitVec 7} (h : Canon lo s) : Lands lo (execAdd d a b s) := canon_lane2w h

theorem canon_execSub {d a b : BitVec 7} (h : Canon lo s) : Lands lo (execSub d a b s) := canon_lane2w h

theorem canon_execMulLo {d a b : BitVec 7} (h : Canon lo s) : Lands lo (execMulLo d a b s) := canon_lane2w h

theorem canon_execMulHiS {d a b : BitVec 7} (h : Canon lo s) : Lands lo (execMulHiS d a b s) := canon_lane2 h

theorem canon_execMulHiU {d a b : BitVec 7} (h : Canon lo s) : Lands lo (execMulHiU d a b s) := canon_lane2 h

theorem canon_execMulwS {d a b : BitVec 7} (h : Canon lo s) : Lands lo (execMulwS d a b s) := canon_pair0 h

theorem canon_execMulwU {d a b : BitVec 7} (h : Canon lo s) : Lands lo (execMulwU d a b s) := canon_pair0 h

theorem canon_execMad {d a b : BitVec 7} (h : Canon lo s) : Lands lo (execMad d a b s) := canon_lane3 h

theorem canon_execAnd {d a b : BitVec 7} (h : Canon lo s) : Lands lo (execAnd d a b s) := canon_lane2w h

theorem canon_execOr {d a b : BitVec 7} (h : Canon lo s) : Lands lo (execOr d a b s) := canon_lane2w h

theorem canon_execXor {d a b : BitVec 7} (h : Canon lo s) : Lands lo (execXor d a b s) := canon_lane2w h

theorem canon_execAndn {d a b : BitVec 7} (h : Canon lo s) : Lands lo (execAndn d a b s) := canon_lane2w h

theorem canon_execShl {d a b : BitVec 7} (h : Canon lo s) : Lands lo (execShl d a b s) := canon_lane2w h

theorem canon_execShr {d a b : BitVec 7} (h : Canon lo s) : Lands lo (execShr d a b s) := canon_lane2w h

theorem canon_execSar {d a b : BitVec 7} (h : Canon lo s) : Lands lo (execSar d a b s) := canon_lane2w h

theorem canon_execRotl {d a b : BitVec 7} (h : Canon lo s) : Lands lo (execRotl d a b s) := canon_lane2 h

theorem canon_execMinS {d a b : BitVec 7} (h : Canon lo s) : Lands lo (execMinS d a b s) := canon_lane2 h

theorem canon_execMinU {d a b : BitVec 7} (h : Canon lo s) : Lands lo (execMinU d a b s) := canon_lane2w h

theorem canon_execMaxS {d a b : BitVec 7} (h : Canon lo s) : Lands lo (execMaxS d a b s) := canon_lane2 h

theorem canon_execMaxU {d a b : BitVec 7} (h : Canon lo s) : Lands lo (execMaxU d a b s) := canon_lane2w h

theorem canon_execPerm {d a b : BitVec 7} (h : Canon lo s) : Lands lo (execPerm d a b s) := canon_lane3 h

theorem canon_execBfx {d a b : BitVec 7} (h : Canon lo s) : Lands lo (execBfx d a b s) := canon_lane2 h

theorem canon_execBfi {d a b : BitVec 7} (h : Canon lo s) : Lands lo (execBfi d a b s) := canon_lane3 h

theorem canon_execAbs {d a : BitVec 7} (h : Canon lo s) : Lands lo (execAbs d a s) := canon_lane1 h

theorem canon_execNeg {d a : BitVec 7} (h : Canon lo s) : Lands lo (execNeg d a s) := canon_lane1 h

theorem canon_execClz {d a : BitVec 7} (h : Canon lo s) : Lands lo (execClz d a s) := canon_lane1 h

theorem canon_execPopc {d a : BitVec 7} (h : Canon lo s) : Lands lo (execPopc d a s) := canon_lane1 h

theorem canon_execBrev {d a : BitVec 7} (h : Canon lo s) : Lands lo (execBrev d a s) := canon_lane1 h

theorem canon_execMov {d a : BitVec 7} (h : Canon lo s) : Lands lo (execMov d a s) := canon_lane1w h

theorem canon_execAddi {d a i : BitVec 7} (h : Canon lo s) : Lands lo (execAddi d a i s) := canon_lane1w h

theorem canon_execAndi {d a i : BitVec 7} (h : Canon lo s) : Lands lo (execAndi d a i s) := canon_lane1w h

theorem canon_execOri {d a i : BitVec 7} (h : Canon lo s) : Lands lo (execOri d a i s) := canon_lane1w h

theorem canon_execXori {d a i : BitVec 7} (h : Canon lo s) : Lands lo (execXori d a i s) := canon_lane1w h

theorem canon_execShli {d a i : BitVec 7} (h : Canon lo s) : Lands lo (execShli d a i s) := canon_shiftI h

theorem canon_execShri {d a i : BitVec 7} (h : Canon lo s) : Lands lo (execShri d a i s) := canon_shiftI h

theorem canon_execSari {d a i : BitVec 7} (h : Canon lo s) : Lands lo (execSari d a i s) := canon_shiftI h

theorem canon_execLi {d : BitVec 7} {i : BitVec 14} (h : Canon lo s) : Lands lo (execLi d i s) :=
  of_branches (canon_runOp h (canon_writeA h)) (canon_lane0 h)

theorem canon_execLui {d : BitVec 7} {i : BitVec 14} (h : Canon lo s) : Lands lo (execLui d i s) :=
  of_branches (canon_runOp h (canon_writeA h)) (canon_lane0 h)

theorem canon_execCmpEq {p a b : BitVec 7} (h : Canon lo s) : Lands lo (execCmpEq p a b s) := canon_predCmp h

theorem canon_execCmpNe {p a b : BitVec 7} (h : Canon lo s) : Lands lo (execCmpNe p a b s) := canon_predCmp h

theorem canon_execCmpLtS {p a b : BitVec 7} (h : Canon lo s) : Lands lo (execCmpLtS p a b s) := canon_predCmp h

theorem canon_execCmpLeS {p a b : BitVec 7} (h : Canon lo s) : Lands lo (execCmpLeS p a b s) := canon_predCmp h

theorem canon_execCmpGtS {p a b : BitVec 7} (h : Canon lo s) : Lands lo (execCmpGtS p a b s) := canon_predCmp h

theorem canon_execCmpGeS {p a b : BitVec 7} (h : Canon lo s) : Lands lo (execCmpGeS p a b s) := canon_predCmp h

theorem canon_execCmpLtU {p a b : BitVec 7} (h : Canon lo s) : Lands lo (execCmpLtU p a b s) := canon_predCmp h

theorem canon_execCmpLeU {p a b : BitVec 7} (h : Canon lo s) : Lands lo (execCmpLeU p a b s) := canon_predCmp h

theorem canon_execCmpGtU {p a b : BitVec 7} (h : Canon lo s) : Lands lo (execCmpGtU p a b s) := canon_predCmp h

theorem canon_execCmpGeU {p a b : BitVec 7} (h : Canon lo s) : Lands lo (execCmpGeU p a b s) := canon_predCmp h

theorem canon_execAdd64 {d a b : BitVec 7} (h : Canon lo s) : Lands lo (execAdd64 d a b s) := canon_pair0 h

theorem canon_execSub64 {d a b : BitVec 7} (h : Canon lo s) : Lands lo (execSub64 d a b s) := canon_pair0 h

theorem canon_execShl64 {d a b : BitVec 7} (h : Canon lo s) : Lands lo (execShl64 d a b s) := canon_pair0 h

theorem canon_execShr64 {d a b : BitVec 7} (h : Canon lo s) : Lands lo (execShr64 d a b s) := canon_pair0 h

theorem canon_execCmp64Eq {p a b : BitVec 7} (h : Canon lo s) : Lands lo (execCmp64Eq p a b s) := canon_predCmp64 h

theorem canon_execCmp64Ne {p a b : BitVec 7} (h : Canon lo s) : Lands lo (execCmp64Ne p a b s) := canon_predCmp64 h

theorem canon_execCmp64LtS {p a b : BitVec 7} (h : Canon lo s) : Lands lo (execCmp64LtS p a b s) := canon_predCmp64 h

theorem canon_execCmp64LeS {p a b : BitVec 7} (h : Canon lo s) : Lands lo (execCmp64LeS p a b s) := canon_predCmp64 h

theorem canon_execCmp64GtS {p a b : BitVec 7} (h : Canon lo s) : Lands lo (execCmp64GtS p a b s) := canon_predCmp64 h

theorem canon_execCmp64GeS {p a b : BitVec 7} (h : Canon lo s) : Lands lo (execCmp64GeS p a b s) := canon_predCmp64 h

theorem canon_execCmp64LtU {p a b : BitVec 7} (h : Canon lo s) : Lands lo (execCmp64LtU p a b s) := canon_predCmp64 h

theorem canon_execCmp64LeU {p a b : BitVec 7} (h : Canon lo s) : Lands lo (execCmp64LeU p a b s) := canon_predCmp64 h

theorem canon_execCmp64GtU {p a b : BitVec 7} (h : Canon lo s) : Lands lo (execCmp64GtU p a b s) := canon_predCmp64 h

theorem canon_execCmp64GeU {p a b : BitVec 7} (h : Canon lo s) : Lands lo (execCmp64GeU p a b s) := canon_predCmp64 h

theorem canon_execSel {p : BitVec 3} {d a b : BitVec 7} (h : Canon lo s) : Lands lo (execSel p d a b s) := canon_lane0 h

end Sys2Proof.Machine
end

section
/-! Every step keeps the canonical form: instructions, the fetched word, and the next choice of the agenda (01_encoding R38; 02_identity R32). -/

namespace Sys2Proof.Machine

open Claim

variable {s : State} {lo : Nat}

/-- Every instruction and event keeps it: one lemma per arm of `exec`. -/
theorem canon_exec (i : Instr) (h : Canon lo s) : Lands lo (exec i s) :=
  match i with
  | .mov16 .. => canon_execMov16 h | .add16 .. => canon_execAdd16 h | .sub16 .. => canon_execSub16 h | .mulLo16 .. => canon_execMulLo16 h
  | .and16 .. => canon_execAnd16 h | .or16 .. => canon_execOr16 h | .xor16 .. => canon_execXor16 h | .shl16 .. => canon_execShl16 h
  | .shr16 .. => canon_execShr16 h | .sar16 .. => canon_execSar16 h | .minS16 .. => canon_execMinS16 h | .maxS16 .. => canon_execMaxS16 h
  | .fadd16 .. => canon_execFadd16 h | .fsub16 .. => canon_execFsub16 h | .fmul16 .. => canon_execFmul16 h | .fmax16 .. => canon_execFmax16 h
  | .add .. => canon_execAdd h | .sub .. => canon_execSub h | .mulLo .. => canon_execMulLo h | .mulHiS .. => canon_execMulHiS h
  | .mulHiU .. => canon_execMulHiU h | .mulwS .. => canon_execMulwS h | .mulwU .. => canon_execMulwU h | .mad .. => canon_execMad h
  | .and .. => canon_execAnd h | .or .. => canon_execOr h | .xor .. => canon_execXor h | .andn .. => canon_execAndn h | .shl .. => canon_execShl h
  | .shr .. => canon_execShr h | .sar .. => canon_execSar h | .rotl .. => canon_execRotl h | .minS .. => canon_execMinS h | .minU .. => canon_execMinU h
  | .maxS .. => canon_execMaxS h | .maxU .. => canon_execMaxU h | .perm .. => canon_execPerm h | .bfx .. => canon_execBfx h | .bfi .. => canon_execBfi h
  | .abs .. => canon_execAbs h | .neg .. => canon_execNeg h | .clz .. => canon_execClz h | .popc .. => canon_execPopc h | .brev .. => canon_execBrev h
  | .mov .. => canon_execMov h | .addi .. => canon_execAddi h | .andi .. => canon_execAndi h | .ori .. => canon_execOri h | .xori .. => canon_execXori h
  | .shli .. => canon_execShli h | .shri .. => canon_execShri h | .sari .. => canon_execSari h | .li .. => canon_execLi h | .lui .. => canon_execLui h
  | .cmpEq .. => canon_execCmpEq h | .cmpNe .. => canon_execCmpNe h | .cmpLtS .. => canon_execCmpLtS h | .cmpLeS .. => canon_execCmpLeS h
  | .cmpGtS .. => canon_execCmpGtS h | .cmpGeS .. => canon_execCmpGeS h | .cmpLtU .. => canon_execCmpLtU h | .cmpLeU .. => canon_execCmpLeU h
  | .cmpGtU .. => canon_execCmpGtU h | .cmpGeU .. => canon_execCmpGeU h | .add64 .. => canon_execAdd64 h | .sub64 .. => canon_execSub64 h
  | .shl64 .. => canon_execShl64 h | .shr64 .. => canon_execShr64 h | .cmp64Eq .. => canon_execCmp64Eq h | .cmp64Ne .. => canon_execCmp64Ne h
  | .cmp64LtS .. => canon_execCmp64LtS h | .cmp64LeS .. => canon_execCmp64LeS h | .cmp64GtS .. => canon_execCmp64GtS h | .cmp64GeS .. => canon_execCmp64GeS h
  | .cmp64LtU .. => canon_execCmp64LtU h | .cmp64LeU .. => canon_execCmp64LeU h | .cmp64GtU .. => canon_execCmp64GtU h | .cmp64GeU .. => canon_execCmp64GeU h
  | .sel .. => canon_execSel h | .fadd .. => canon_execFadd h | .fsub .. => canon_execFsub h | .fmul .. => canon_execFmul h | .ffma .. => canon_execFfma h
  | .fdiv .. => canon_execFdiv h | .fmin .. => canon_execFmin h | .fmax .. => canon_execFmax h | .fcpys .. => canon_execFcpys h
  | .fsqrt .. => canon_execFsqrt h | .fabs .. => canon_execFabs h | .fneg .. => canon_execFneg h | .fclass .. => canon_execFclass h
  | .frint .. => canon_execFrint h | .frcp .. => canon_execFrcp h | .frsq .. => canon_execFrsq h | .fex2 .. => canon_execFex2 h | .flg2 .. => canon_execFlg2 h
  | .fsin .. => canon_execFsin h | .fcos .. => canon_execFcos h | .fcmpEq .. => canon_execFcmpEq h | .fcmpNe .. => canon_execFcmpNe h
  | .fcmpLt .. => canon_execFcmpLt h | .fcmpLe .. => canon_execFcmpLe h | .fcmpGt .. => canon_execFcmpGt h | .fcmpGe .. => canon_execFcmpGe h
  | .fcmpUn .. => canon_execFcmpUn h | .dadd .. => canon_execDadd h | .dsub .. => canon_execDsub h | .dmul .. => canon_execDmul h
  | .dfma .. => canon_execDfma h | .ddiv .. => canon_execDdiv h | .dsqrt .. => canon_execDsqrt h | .dcmpEq .. => canon_execDcmpEq h
  | .dcmpNe .. => canon_execDcmpNe h | .dcmpLt .. => canon_execDcmpLt h | .dcmpLe .. => canon_execDcmpLe h | .dcmpGt .. => canon_execDcmpGt h
  | .dcmpGe .. => canon_execDcmpGe h | .dcmpUn .. => canon_execDcmpUn h | .hadd2Bf16 .. => canon_execHadd2Bf16 h | .hadd2Fp16 .. => canon_execHadd2Fp16 h
  | .hmul2Bf16 .. => canon_execHmul2Bf16 h | .hmul2Fp16 .. => canon_execHmul2Fp16 h | .hfma2Bf16 .. => canon_execHfma2Bf16 h
  | .hfma2Fp16 .. => canon_execHfma2Fp16 h | .cvt .. => canon_execCvt h | .cvtbPack .. => canon_execCvtbPack h | .cvtbUnpack .. => canon_execCvtbUnpack h
  | .cblook .. => canon_execCblook h | .shflIdx .. => canon_execShflIdx h | .shflUp .. => canon_execShflUp h | .shflDn .. => canon_execShflDn h
  | .shflXor .. => canon_execShflXor h | .voteAny .. => canon_execVoteAny h | .voteAll .. => canon_execVoteAll h | .voteBal .. => canon_execVoteBal h
  | .redx .. => canon_execRedx h | .scan .. => canon_execScan h | .matchOp .. => canon_execMatchOp h | .jmp .. => canon_execJmp h
  | .call .. => canon_execCall h | .jmpuZ .. => canon_execJmpuZ h | .jmpuNz .. => canon_execJmpuNz h | .ret .. => canon_execRet h | .ifp .. => canon_execIfp h
  | .elseOp .. => canon_execElseOp h | .fi => canon_execFi h | .loop .. => canon_execLoop h | .endl .. => canon_execEndl h | .brkp .. => canon_execBrkp h
  | .contp .. => canon_execContp h | .exit => canon_execExit h | .yield => canon_execYield h | .nop => canon_execNop h | .region => canon_execRegion h
  | .step => canon_execStep h | .srd .. => canon_execSrd h | .swr .. => canon_execSwr h | .trap .. => canon_execTrap h | .ldB8 .. => canon_execLdB8 h
  | .ldB8S .. => canon_execLdB8S h | .ldB16 .. => canon_execLdB16 h | .ldB16S .. => canon_execLdB16S h | .ldB32 .. => canon_execLdB32 h
  | .ldB64 .. => canon_execLdB64 h | .ldB128 .. => canon_execLdB128 h | .stB8 .. => canon_execStB8 h | .stB16 .. => canon_execStB16 h
  | .stB32 .. => canon_execStB32 h | .stB64 .. => canon_execStB64 h | .stB128 .. => canon_execStB128 h | .ldStrong .. => canon_execLdStrong h
  | .stStrong .. => canon_execStStrong h | .ldfe .. => canon_execLdfe h | .stfe .. => canon_execStfe h | .feset .. => canon_execFeset h
  | .fetest .. => canon_execFetest h | .sptest .. => canon_execSptest h | .spcast .. => canon_execSpcast h | .pref .. => canon_execPref h
  | .cctlInv1 .. => canon_execCctlInv1 h | .cctlWb2 .. => canon_execCctlWb2 h | .cctlEvf .. => canon_execCctlEvf h | .cctlInv1all => canon_execCctlInv1all h
  | .fence .. => canon_execFence h | .atom .. => canon_execAtom h | .cas .. => canon_execCas h | .red .. => canon_execRed h
  | .ifenceLocal => canon_execIfenceLocal h | .ifenceDie .. => canon_execIfenceDie h | .cpy .. => canon_execCpy h | .gather .. => canon_execGather h
  | .scatter .. => canon_execScatter h | .toktest .. => canon_execToktest h | .axbind .. => canon_execAxbind h | .astrm .. => canon_execAstrm h
  | .qpushS .. => canon_execQpushS h | .qpushM .. => canon_execQpushM h | .barinit .. => canon_execBarinit h | .bararr .. => canon_execBararr h
  | .bartx .. => canon_execBartx h | .barwait .. => canon_execBarwait h | .tbar => canon_execTbar h | .gbar => canon_execGbar h
  | .shape .. => canon_execShape h | .slclaim .. => canon_execSlclaim h | .slrel .. => canon_execSlrel h | .ldslot .. => canon_execLdslot h
  | .cbload .. => canon_execCbload h | .mma .. => canon_execMma h | .mmas .. => canon_execMmas h | .accz .. => canon_execAccz h
  | .accrd .. => canon_execAccrd h | .accwr .. => canon_execAccwr h | .accst .. => canon_execAccst h | .layerf .. => canon_execLayerf h
  | .layert .. => canon_execLayert h | .layerd .. => canon_execLayerd h | .arxq .. => canon_execArxq h | .adpset .. => canon_execAdpset h
  | .calset .. => canon_execCalset h | .calrd .. => canon_execCalrd h | .almrun .. => canon_execAlmrun h | .almfit .. => canon_execAlmfit h
  | .confw .. => canon_execConfw h | .scacc .. => canon_execScacc h | .scrd .. => canon_execScrd h | .scclr .. => canon_execScclr h
  | .topk .. => canon_execTopk h | .posxl .. => canon_execPosxl h | .surv .. => canon_execSurv h | .compact .. => canon_execCompact h
  | .pxfind .. => canon_execPxfind h | .pxins .. => canon_execPxins h | .pxrel .. => canon_execPxrel h | .unmask .. => canon_execUnmask h
  | .dirty .. => canon_execDirty h | .dmaprd .. => canon_execDmaprd h | .chlaunch .. => canon_execChlaunch h | .astm .. => canon_execAstm h
  | .agat .. => canon_execAgat h | .aqp .. => canon_execAqp h | .astq .. => canon_execAstq h | .xpop .. => canon_execXpop h | .xop .. => canon_execXop h
  | .xpush .. => canon_execXpush h | .chend => canon_execChend h | .tfencePt .. => canon_execTfencePt h | .tfenceWalk => canon_execTfenceWalk h
  | .tfenceInv .. => canon_execTfenceInv h | .migrate .. => canon_execMigrate h | .ptq .. => canon_execPtq h | .rnginv .. => canon_execRnginv h
  | .leaseq .. => canon_execLeaseq h | .launch .. => canon_execLaunch h | .qwait .. => canon_execQwait h | .qsig .. => canon_execQsig h
  | .qjmp .. => canon_execQjmp h | .qstopStop .. => canon_execQstopStop h | .qstopStart .. => canon_execQstopStart h | .ctxsw .. => canon_execCtxsw h
  | .ctxsv .. => canon_execCtxsv h | .ctxld .. => canon_execCtxld h | .arprog .. => canon_execArprog h | .arcommitTile .. => canon_execArcommitTile h
  | .arcommitGrant .. => canon_execArcommitGrant h | .arcommitRevoke .. => canon_execArcommitRevoke h | .arstat .. => canon_execArstat h
  | .dectabLoad .. => canon_execDectabLoad h | .dectabClr .. => canon_execDectabClr h | .hvcall .. => canon_execHvcall h | .qosset .. => canon_execQosset h
  | .eretResume .. => canon_execEretResume h | .eretSkip .. => canon_execEretSkip h | .eretRegion .. => canon_execEretRegion h
  | .eretAbort .. => canon_execEretAbort h | .eretSelf => canon_execEretSelf h | .starfix .. => canon_execStarfix h | .halt => canon_execHalt h
  | .coll .. => canon_execColl h | .gtcmpWrite .. => canon_execGtcmpWrite h | .wdlWrite .. => canon_execWdlWrite h | .mfrAccess .. => canon_execMfrAccess h
  | .chrctlRestart .. => canon_execChrctlRestart h | .passgh .. => canon_execPassgh h | .hvctxWrite .. => canon_execHvctxWrite h
  | .queueDoorbell .. => canon_execQueueDoorbell h | .powerGood => canon_execPowerGood h | .camp1 .. => canon_execCamp1 h
  | .journalBackgroundRow .. => canon_execJournalBackgroundRow h | .summit => canon_execSummit h | .managementReset => canon_execManagementReset h
  | .starfixTriggerPin => canon_execStarfixTriggerPin h | .managementStarfix => canon_execManagementStarfix h | .snapshotRead .. => canon_execSnapshotRead h
  | .attestationRequest .. => canon_execAttestationRequest h | .healthRequest => canon_execHealthRequest h
  | .uetWriteReceived .. => canon_execUetWriteReceived h | .uetReadReceived .. => canon_execUetReadReceived h
  | .remoteRequestReceived .. => canon_execRemoteRequestReceived h | .vlHold .. => canon_execVlHold h | .gtcmpFire .. => canon_execGtcmpFire h
  | .wdlFire .. => canon_execWdlFire h | .hangWatchdog .. => canon_execHangWatchdog h | .detTeamTimeCap .. => canon_execDetTeamTimeCap h
  | .cheTaskWatchdog .. => canon_execCheTaskWatchdog h | .leaseTimeout .. => canon_execLeaseTimeout h | .migrationLimit .. => canon_execMigrationLimit h
  | .placementLimit .. => canon_execPlacementLimit h | .collGatherTimeout .. => canon_execCollGatherTimeout h | .ctxswRollback .. => canon_execCtxswRollback h
  | .preemptionRequest .. => canon_execPreemptionRequest h | .saveAtTbar .. => canon_execSaveAtTbar h | .forcedSave .. => canon_execForcedSave h
  | .teamPlacement .. => canon_execTeamPlacement h | .teamRestore .. => canon_execTeamRestore h | .victimEviction .. => canon_execVictimEviction h
  | .groupRetirement .. => canon_execGroupRetirement h | .gridRetirement .. => canon_execGridRetirement h
  | .stepBarrierComplete .. => canon_execStepBarrierComplete h | .teamBarrierComplete .. => canon_execTeamBarrierComplete h
  | .qpQuantumExpiry .. => canon_execQpQuantumExpiry h | .cheQuantumExpiry .. => canon_execCheQuantumExpiry h | .cheTaskStart .. => canon_execCheTaskStart h
  | .cheTaskEnd .. => canon_execCheTaskEnd h | .almanacPublication .. => canon_execAlmanacPublication h | .patrolScrub .. => canon_execPatrolScrub h
  | .throttleDeeper .. => canon_execThrottleDeeper h | .throttleBack .. => canon_execThrottleBack h | .resourceRetirement .. => canon_execResourceRetirement h
  | .portRetirement .. => canon_execPortRetirement h | .ucieLinkRetrain .. => canon_execUcieLinkRetrain h | .loadDataReturn .. => canon_execLoadDataReturn h
  | .storePerform .. => canon_execStorePerform h | .engineLineWrite .. => canon_execEngineLineWrite h | .engineTokenFill .. => canon_execEngineTokenFill h
  | .matrixUnitOperation .. => canon_execMatrixUnitOperation h | .sqeOperation .. => canon_execSqeOperation h
  | .pxBucketUpdate .. => canon_execPxBucketUpdate h | .tfenceInvComplete .. => canon_execTfenceInvComplete h
  | .l2LineEviction .. => canon_execL2LineEviction h | .trapNotice .. => canon_execTrapNotice h | .powerFailure => canon_execPowerFailure h
  | .vfOpen .. => canon_execVfOpen h | .vfClose .. => canon_execVfClose h | .granuleAssignment .. => canon_execGranuleAssignment h
  | .gridOfferReceived .. => canon_execGridOfferReceived h

/-! ## The fetched word -/

theorem canon_done_error {x : Stop} (h : Canon lo s) : Lands lo (done s (.error x)) := canon_done h (returns_error _)

section
variable {ex : Nat → BitVec 7 → BitVec 7 → BitVec 7 → State → Option Out} {hx : BitVec 16 → State → Option Out}
  (hex : ∀ op d a b t, Canon lo t → OnSome (Lands lo) (ex op d a b t)) (hhx : ∀ w t, Canon lo t → OnSome (Lands lo) (hx w t))
include hex hhx

theorem canon_runCode {c : Code} (h : Canon lo s) : Lands lo (runCode ex hx c s) := by
  unfold runCode
  split
  · exact (hhx _ _ h).getD (canon_done_error h)
  · refine of_branches ?_ ?_
    · split <;> exact canon_done_error (by exact h)
    · split
      · exact canon_done_error h
      · exact of_branches (canon_done_error h) (of_branches (canon_done_error h) ((hex _ _ _ _ _ h).getD (canon_done_error h)))

theorem canon_runFetched (h : Canon lo s) : Lands lo (runFetched ex hx s) := by
  unfold runFetched
  split
  · exact canon_done_error h
  · next heq => exact canon_runCode hex hhx ((canon_fetch h).of_ok _ heq)

theorem canon_runNext (h : Canon lo s) : Lands lo (runNext ex hx s) := by
  unfold runNext
  split
  · split
    · next heq => exact lands_next (canon_atBoundary h _ heq)
    · exact canon_runFetched hex hhx h
  · exact canon_runFetched hex hhx h

end

theorem canon_execWord (op : Nat) (d a b : BitVec 7) (h : Canon lo s) : OnSome (Lands lo) (execWord op d a b s) := by
  unfold execWord
  cases decodeFields op d a b with
  | none => exact onSome_none
  | some i => exact onSome_some (canon_exec i h)

theorem canon_execHalf (w : BitVec 16) (h : Canon lo s) : OnSome (Lands lo) (execHalf w s) := by
  unfold execHalf
  cases decodeHalf w with
  | none => exact onSome_none
  | some i => exact onSome_some (canon_exec i h)

/-! ## The step -/

theorem canon_step (h : Canon lo s) : Lands lo (step s) := by
  have hrun : ∀ t, Canon lo t → Lands lo (runNext execWord execHalf t) := fun _ =>
    canon_runNext (fun op d a b _ => canon_execWord op d a b) fun w _ => canon_execHalf w
  have hs : Canon lo (settleWalks { s with steps := s.steps + 1 }) := canon_settleWalks h
  unfold step stepWith
  extract_lets t
  split
  · exact canon_renewOut (canon_exec _ hs)
  · exact canon_issueAt hrun hs
  · exact canon_renewOut (lands_next (canon_elapse hs))
  · exact lands_next (canon_dropL1 hs)
  · exact lands_next (canon_strike hs)
  · exact lands_next (canon_moduleChange hs)
  · exact lands_next (canon_outside hs)
  · exact canon_renewOut (lands_next (canon_abroad hs))
  · exact canon_issueAt hrun hs

end Sys2Proof.Machine
end

section
/-! The canonical form of the claim is the invariant of the step. -/

namespace Sys2Proof.Machine

open Claim

/-- The claim's canonical form is the invariant, with the identities given out so far as the bound. -/
theorem canon_of_canonical {s : State} (h : Claim.canonical s) : Canon s.nextId s := by
  obtain ⟨hmem, hworks, hgroups, hqueues, hteams, hclusters⟩ := h
  exact ⟨hmem, hworks, hgroups, hqueues, hteams, hclusters, le_rfl⟩

theorem Canon.canonical {lo : Nat} {s : State} (h : Canon lo s) : Claim.canonical s := by
  obtain ⟨hmem, hworks, hgroups, hqueues, hteams, hclusters, -⟩ := h
  exact ⟨hmem, hworks, hgroups, hqueues, hteams, hclusters⟩

end Sys2Proof.Machine

namespace Sys2Proof.Claim

open Machine

/-- Settles O60: the canonical form, strengthened by a bound below which identities are given out, is kept by every operation of the model, so by every instruction, every event and every choice of the agenda. -/
theorem everyStepKeepsCanonicalForm : Obligations.EveryStepKeepsCanonicalForm := by
  unfold Obligations.EveryStepKeepsCanonicalForm
  intro s t hs hst
  exact (canon_step (canon_of_canonical hs) t hst).canonical

end Sys2Proof.Claim
end

section
/-! Writes from outside: of the registers of a group, of a ring's control, and what reaches a queue context (02_numbers R78; 03_group R93, R94; 14_tenancy R433-R435). -/

namespace Sys2Proof.Machine

open Claim

variable {s : State}

theorem groupOnly_modGroup (gid : Nat) (f : Group → Group) : groupOnly gid s (modGroup s gid f) :=
  ⟨rfl, fun _ hg => tabFind_tabPut_other _ _ hg⟩

/-- A write from outside that changes one group is seen in that group alone. -/
theorem next_modGroup {o : Out} {gid : Nat} {f : Group → Group} (ho : o = .next (modGroup s gid f)) :
    ∃ t, o = .next t ∧ groupOnly gid s t ∧ getGroup t gid = f (getGroup s gid) :=
  ⟨_, ho, groupOnly_modGroup gid f, getGroup_modGroup_same s gid f⟩

/-- What reaches a queue context changes the queue contexts alone. -/
theorem next_modQueue {o : Out} {qid : Nat} {f : QCtx → QCtx} (ho : o = .next (modQueue s qid f)) :
    ∃ t, o = .next t ∧ t = { s with queues := t.queues } ∧ getQueue t qid = f (getQueue s qid) :=
  ⟨_, ho, rfl, getQueue_modQueue_same s qid f⟩

section
variable {gid : Nat} (hg : (tabFind s.groups gid).isSome = true)
include hg

theorem exec_gtcmpWrite (v : DWord) : exec (.gtcmpWrite gid v) s = .next (modGroup s gid (fun g => { g with gtcmp := v })) :=
  congrArg _ (if_pos hg)

theorem exec_wdlWrite (v : DWord) : exec (.wdlWrite gid v) s = .next (modGroup s gid (fun g => { g with wdl := v })) :=
  congrArg _ (if_pos hg)

theorem exec_mfrAccess_some (hm : matrixBusy s gid = false) (w : Word) :
    exec (.mfrAccess gid (some w)) s = .next (modGroup s gid (fun g => { g with mfr := w &&& mfrMask })) :=
  congrArg _ (if_pos ⟨hg, by rw [hm]; rfl⟩)

theorem exec_trapNotice : exec (.trapNotice gid) s = .next (deliverNotice s gid) := congrArg _ (if_pos hg)

end

/-! ## The ring's halt -/

theorem exec_chrctlRestart {pkg : Nat} (vf : Nat) (hp : pkg < Config.packages) :
    exec (.chrctlRestart vf pkg) s = .next (setVf (setRing s pkg vf { getRing s pkg vf with halted := false }) vf
      { getVf s vf with chhalt := (getVf s vf).chhalt &&& ~~~(BitVec.ofNat 48 (2 ^ pkg)) }) := congrArg _ (if_pos hp)

/-! ## PASSGH -/

section
variable {vf gid : Nat} {gh : Word} {r : TrapRec} (hh : groupOfHandle s gh = some gid) (hr : (getGroup s gid).trap = some r)
  (hvf : (gridOf s gid).vf = vf) (hhv : r.hv = true)
include hh hr hvf hhv

theorem exec_passgh : exec (.passgh vf gh) s = .next (noticeIssuer s (gridOf s gid) (noticeOf gid r)) := by
  have hp : passGh s vf gh = noticeIssuer s (gridOf s gid) (noticeOf gid r) := by simp only [passGh, hh, hr, hvf, hhv, and_self, if_true]
  exact congrArg _ hp

end

theorem noticeIssuer_loaded {g : Grid} {n : Notice} {c : QCtx} (hc : tabFind s.queues g.qid = some c) (hi : c.inst = g.inst) :
    noticeIssuer s g n = modQueue s g.qid (fun c => { c with notices := c.notices ++ [n] }) := by
  simp only [noticeIssuer, hc, hi, decide_true, if_true, noticeQueue]

theorem noticeIssuer_saved {g : Grid} {n : Notice} {c : SavedCtx} (hq : tabFind s.queues g.qid = none)
    (hc : s.saved.find? (fun c => decide (c.vf = g.vf) && decide (c.inst = g.inst)) = some c) : noticeIssuer s g n = holdNotice s c n := by
  simp only [noticeIssuer, hq, hc, Bool.false_eq_true, if_false]

/-! ## Doorbells -/

section
variable {qid : Nat} {w : Word} (hq : (tabFind s.queues qid).isSome = true)
include hq

theorem exec_queueDoorbell_host (hv : qid / 64 = hostVf) : exec (.queueDoorbell qid w) s = .next (modQueue s qid (fun q => { q with tail := w.toNat })) := by
  rw [show exec (.queueDoorbell qid w) s = execQueueDoorbell qid w s from rfl, execQueueDoorbell, if_neg (by simp [Option.isSome_iff_ne_none.1 hq]), if_pos hv]

theorem exec_queueDoorbell_table {r : Unit} {u : State} (hv : qid / 64 ≠ hostVf) (ht : (getVf s (qid / 64)).qtab ≠ 0)
    (hw : writeVirt s (slotSpace s (qid / 64) 0 1) ((getVf s (qid / 64)).qtab.toNat + 64 * (qid % 64) + 12) (leBytes 4 w.toNat) = .ok (r, u)) :
    exec (.queueDoorbell qid w) s = .next (readDescriptor u qid) := by
  rw [show exec (.queueDoorbell qid w) s = execQueueDoorbell qid w s from rfl, execQueueDoorbell, if_neg (by simp [Option.isSome_iff_ne_none.1 hq]),
    if_neg hv, if_neg ht, hw]

end

end Sys2Proof.Machine

namespace Sys2Proof.Claim

open Machine

/-- Settles O49: each write from outside is one update of the group, ring, VF or queue context that it names. -/
theorem controlWritesAct : Obligations.ControlWritesAct := by
  unfold Obligations.ControlWritesAct
  intro gid vf pkg qid v w gh s
  refine ⟨fun hg => ⟨?gtcmp, ?wdl, ?mfr, rfl, exec_trapNotice hg⟩, ?restart, ?passgh, rfl, fun hq => ⟨?host, ?table⟩⟩
  case gtcmp => exact next_modGroup (exec_gtcmpWrite hg v)
  case wdl => exact next_modGroup (exec_wdlWrite hg v)
  case mfr => exact fun hm => next_modGroup (exec_mfrAccess_some hg hm w)
  case restart => exact fun hp => ⟨_, exec_chrctlRestart vf hp, rfl, getRing_setRing_same .., congrArg Vf.chhalt (getVf_setVf_same ..)⟩
  case passgh =>
    intro g r hh hr hvf hhv
    have hpass := exec_passgh hh hr hvf hhv
    constructor
    · intro c hc hi
      exact next_modQueue (hpass.trans (congrArg _ (noticeIssuer_loaded hc hi)))
    · intro c hq hc
      exact hpass.trans (congrArg _ (noticeIssuer_saved hq (hvf ▸ hc)))
  case host => exact fun hv => next_modQueue (exec_queueDoorbell_host hq hv)
  case table => exact fun u hv ht ⟨r, hw⟩ => exec_queueDoorbell_table hq hv ht hw

end Sys2Proof.Claim
end

section
/-! Rounding is correct in the formats of infinities (02_numbers R70, R75): the magnitudes in order of their codes, the exponent of a value, and the two integers that a value lies between. -/

namespace Sys2Proof.Machine

/-! ## Values as rationals -/

/-- The rational num / den. -/
def ratio (num den : Nat) : ℚ := num / den

theorem scalePow_pos {num den : Nat} (e : Int) (hd : 0 < den) : 0 < (scalePow num den e).2 := by
  unfold scalePow
  split <;> positivity

theorem ratio_scalePow (num den : Nat) (e : Int) : ratio (scalePow num den e).1 (scalePow num den e).2 = ratio num den * 2 ^ e := by
  unfold ratio scalePow
  split
  · next he =>
    obtain ⟨n, rfl⟩ := Int.eq_ofNat_of_zero_le he
    simp only [Int.toNat_natCast, zpow_natCast, Nat.cast_mul, Nat.cast_pow, Nat.cast_ofNat]
    ring
  · next he =>
    obtain ⟨n, hn⟩ := Int.eq_ofNat_of_zero_le (by omega : 0 ≤ -e)
    have hen : e = -(n : Int) := by omega
    simp only [hen, neg_neg, Int.toNat_natCast, zpow_neg, zpow_natCast, Nat.cast_mul, Nat.cast_pow, Nat.cast_ofNat]
    rw [div_mul_eq_div_div, div_eq_mul_inv (_ / _)]

theorem ratio_le_iff {a b num den : Nat} (hb : 0 < b) (hd : 0 < den) : ratio a b ≤ ratio num den ↔ a * den ≤ num * b := by
  unfold ratio
  rw [div_le_div_iff₀ (by exact_mod_cast hb) (by exact_mod_cast hd)]
  exact_mod_cast Iff.rfl

theorem abs_ratio_sub {a b num den : Nat} (hb : 0 < b) (hd : 0 < den) :
    |ratio num den - ratio a b| = (((num * b : Int) - a * den).natAbs : ℚ) / (den * b) := by
  have hd' : (0 : ℚ) < den := by exact_mod_cast hd
  have hb' : (0 : ℚ) < b := by exact_mod_cast hb
  unfold ratio
  rw [div_sub_div _ _ hd'.ne' hb'.ne', abs_div, abs_of_pos (mul_pos hd' hb'), Nat.cast_natAbs]
  push_cast
  ring_nf

theorem abs_ratio_sub_le_iff {a b a' b' num den : Nat} (hb : 0 < b) (hb' : 0 < b') (hd : 0 < den) :
    |ratio num den - ratio a b| ≤ |ratio num den - ratio a' b'| ↔
      ((num * b : Int) - a * den).natAbs * b' ≤ ((num * b' : Int) - a' * den).natAbs * b := by
  have hdq : (0 : ℚ) < den := by exact_mod_cast hd
  have hbq : (0 : ℚ) < b := by exact_mod_cast hb
  have hbq' : (0 : ℚ) < b' := by exact_mod_cast hb'
  rw [abs_ratio_sub hb hd, abs_ratio_sub hb' hd, div_le_div_iff₀ (by positivity) (by positivity), mul_left_comm, mul_left_comm _ _ (b : ℚ),
    mul_le_mul_iff_right₀ hdq]
  exact_mod_cast Iff.rfl

/-! ## Codes in order -/

/-- The quantum of the subnormal magnitudes, 2 to this power (R60). -/
def quantum (f : Fmt) : Int := 1 - f.bias - f.m

/-- The value of a finite magnitude (R60). -/
def codeValue (f : Fmt) (c : Nat) : ℚ :=
  (if c / 2 ^ f.m = 0 then c else 2 ^ f.m + c % 2 ^ f.m : Nat) * 2 ^ ((if c / 2 ^ f.m = 0 then 1 else (c / 2 ^ f.m : Nat) : Int) - f.bias - f.m)

/-- Codes of one exponent lie evenly, and the next exponent's first code goes on the same row. -/
theorem codeValue_row (f : Fmt) {j k : Nat} (hk : k ≤ 2 ^ (f.m + 1)) (hj : j = 0 ∨ 2 ^ f.m ≤ k) :
    codeValue f (j * 2 ^ f.m + k) = k * 2 ^ (j + quantum f) := by
  have hpos : 0 < 2 ^ f.m := by positivity
  rw [pow_succ] at hk
  unfold codeValue quantum
  rcases lt_or_ge k (2 ^ f.m) with hlt | hge
  · obtain rfl : j = 0 := by omega
    rw [Nat.zero_mul, Nat.zero_add, Nat.div_eq_of_lt hlt, if_pos rfl, if_pos rfl]
    congr 2
    push_cast
    ring
  · obtain ⟨r, rfl⟩ := Nat.exists_eq_add_of_le hge
    rcases lt_or_ge r (2 ^ f.m) with hr | hr
    · have hc : j * 2 ^ f.m + (2 ^ f.m + r) = r + (j + 1) * 2 ^ f.m := by ring
      rw [hc, Nat.add_mul_div_right _ _ hpos, Nat.add_mul_mod_self_right, Nat.div_eq_of_lt hr, Nat.mod_eq_of_lt hr, Nat.zero_add,
        if_neg (by omega), if_neg (by omega)]
      congr 2
      push_cast
      ring
    · obtain rfl : r = 2 ^ f.m := by omega
      have hc : j * 2 ^ f.m + (2 ^ f.m + 2 ^ f.m) = (j + 2) * 2 ^ f.m := by ring
      rw [hc, Nat.mul_div_cancel _ hpos, Nat.mul_mod_left, if_neg (by omega), if_neg (by omega)]
      have hq : ((j + 2 : Nat) : Int) - f.bias - f.m = (j + (1 - f.bias - f.m)) + 1 := by push_cast; ring
      rw [hq, zpow_add_one₀ (by norm_num)]
      push_cast
      ring

/-- Every code stands in a row with its successor. -/
theorem exists_row (f : Fmt) (c : Nat) : ∃ j k, c = j * 2 ^ f.m + k ∧ k < 2 ^ (f.m + 1) ∧ (j = 0 ∨ 2 ^ f.m ≤ k) := by
  have hpos : 0 < 2 ^ f.m := by positivity
  have hdiv := Nat.div_add_mod' c (2 ^ f.m)
  have hmod := Nat.mod_lt c hpos
  rw [pow_succ]
  rcases Nat.eq_zero_or_pos (c / 2 ^ f.m) with h0 | h1
  · refine ⟨0, c, by ring, ?_, .inl rfl⟩
    rw [h0] at hdiv
    omega
  · obtain ⟨j, hj⟩ := Nat.exists_eq_add_of_lt h1
    rw [hj, Nat.zero_add] at hdiv
    exact ⟨j, 2 ^ f.m + c % 2 ^ f.m, by linarith, by omega, .inr (by omega)⟩

theorem codeValue_strictMono (f : Fmt) : StrictMono (codeValue f) := by
  refine strictMono_nat_of_lt_succ fun c => ?_
  obtain ⟨j, k, rfl, hk, hj⟩ := exists_row f c
  rw [codeValue_row f hk.le hj, Nat.add_assoc, codeValue_row f hk (hj.imp_right fun h => h.trans k.le_succ)]
  have hq : (0 : ℚ) < 2 ^ (j + quantum f) := by positivity
  gcongr
  exact k.lt_succ_self

/-! ## Formats of infinities -/

/-- A format whose codes above the largest finite one are its infinity and its NaNs (R59, R61). -/
structure HasInfinity (f : Fmt) : Prop where
  beyond : f.beyond = .infinity
  room : f.infCode < 2 ^ (f.eb + f.m)

theorem hasInfinity_of_mem {f : Fmt} (h : f ∈ [fp64, fp32, fp16, bf16]) : HasInfinity f := by
  simp only [List.mem_cons, List.not_mem_nil, or_false] at h
  rcases h with rfl | rfl | rfl | rfl <;> exact ⟨rfl, by decide⟩

section
variable {f : Fmt} (hf : HasInfinity f)
include hf

theorem isNeg_signed (neg : Bool) {c : Nat} (hc : c ≤ f.infCode) : f.isNeg (f.signed neg c) = neg := by
  have hlt := hc.trans_lt hf.room
  cases neg
  · simp [Fmt.isNeg, Fmt.signed, Nat.div_eq_of_lt hlt]
  · simp [Fmt.isNeg, Fmt.signed, Nat.add_div_left, Nat.div_eq_of_lt hlt]

theorem mag_signed (neg : Bool) {c : Nat} (hc : c ≤ f.infCode) : f.mag (f.signed neg c) = c := by
  have hlt := hc.trans_lt hf.room
  cases neg
  · simp [Fmt.mag, Fmt.signed, Nat.mod_eq_of_lt hlt]
  · simp [Fmt.mag, Fmt.signed, Nat.mod_eq_of_lt hlt]

/-- A finite code decodes to its value. -/
theorem decode_finite {c : Nat} (hc : c ≤ f.maxCode) : ∃ a b, f.decode c = .fin false a b ∧ 0 < b ∧ ratio a b = codeValue f c := by
  have hinf : c < f.infCode := Nat.lt_succ_of_le hc
  have hsigned : f.signed false c = c := Nat.zero_add c
  have hmag : f.mag c = c := (congrArg f.mag hsigned).symm.trans (mag_signed hf false hinf.le)
  have hneg : f.isNeg c = false := (congrArg f.isNeg hsigned).symm.trans (isNeg_signed hf false hinf.le)
  have hnan : f.isNaN c = false := by simp [Fmt.isNaN, hf.beyond, hmag, hinf.le]
  have hval : ∀ k q, ratio (scalePow k 1 q).1 (scalePow k 1 q).2 = k * 2 ^ q := fun k q => by rw [ratio_scalePow, ratio, Nat.cast_one, div_one]
  unfold Fmt.decode codeValue
  rw [hnan, hmag, hneg, if_neg Bool.false_ne_true, if_neg fun h => hinf.ne h.2]
  dsimp only
  generalize (if c / 2 ^ f.m = 0 then c else 2 ^ f.m + c % 2 ^ f.m) = k
  split
  · next hk => exact ⟨0, 1, rfl, one_pos, by rw [hk]; simp [ratio]⟩
  · exact ⟨_, _, rfl, scalePow_pos _ one_pos, hval _ _⟩

end

/-! ## The exponent of a value -/

/-- floorLog2 names the power of two at or below a value (R70). -/
theorem floorLog2_spec {num den : Nat} (hn : 0 < num) (hd : 0 < den) :
    (2 : ℚ) ^ floorLog2 num den ≤ ratio num den ∧ ratio num den < 2 ^ (floorLog2 num den + 1) := by
  have hdq : (0 : ℚ) < den := by exact_mod_cast hd
  have hpow : ∀ e : Int, (0 : ℚ) < 2 ^ e := fun e => by positivity
  have hnum : (2 : ℚ) ^ (num.log2 : Int) ≤ num ∧ (num : ℚ) < 2 ^ ((num.log2 : Int) + 1) :=
    ⟨by exact_mod_cast Nat.log2_self_le hn.ne', by exact_mod_cast Nat.lt_log2_self⟩
  have hden : (2 : ℚ) ^ (den.log2 : Int) ≤ den ∧ (den : ℚ) < 2 ^ ((den.log2 : Int) + 1) :=
    ⟨by exact_mod_cast Nat.log2_self_le hd.ne', by exact_mod_cast Nat.lt_log2_self⟩
  obtain ⟨e, he⟩ : ∃ e : Int, e = num.log2 - den.log2 := ⟨_, rfl⟩
  have hlow : (2 : ℚ) ^ (e - 1) < ratio num den := by
    rw [ratio, lt_div_iff₀ hdq]
    calc (2 : ℚ) ^ (e - 1) * den < 2 ^ (e - 1) * 2 ^ ((den.log2 : Int) + 1) := (mul_lt_mul_iff_right₀ (hpow _)).2 hden.2
      _ = 2 ^ (num.log2 : Int) := by rw [← zpow_add₀ two_ne_zero, he]; congr 1; ring
      _ ≤ num := hnum.1
  have hhigh : ratio num den < 2 ^ (e + 1) := by
    rw [ratio, div_lt_iff₀ hdq]
    calc (num : ℚ) < 2 ^ ((num.log2 : Int) + 1) := hnum.2
      _ = 2 ^ (e + 1) * 2 ^ (den.log2 : Int) := by rw [← zpow_add₀ two_ne_zero, he]; congr 1; ring
      _ ≤ 2 ^ (e + 1) * den := (mul_le_mul_iff_right₀ (hpow _)).2 hden.1
  have hcmp : (scalePow num den (-e)).1 < (scalePow num den (-e)).2 ↔ ratio num den < 2 ^ e := by
    have hp : (0 : ℚ) < (scalePow num den (-e)).2 := by exact_mod_cast scalePow_pos (num := num) (-e) hd
    rw [← Nat.cast_lt (α := ℚ), ← div_lt_one hp, ← ratio, ratio_scalePow, zpow_neg, ← div_eq_mul_inv, div_lt_one (hpow e)]
  unfold floorLog2
  rw [← he]
  dsimp only
  split
  · next h => exact ⟨hlow.le, by rw [sub_add_cancel]; exact hcmp.1 h⟩
  · next h => exact ⟨not_lt.1 (hcmp.not.1 h), hhigh⟩

/-! ## The two integers beside a value -/

section
variable {a b : Nat} (hb : 0 < b)
include hb

theorem ratio_eq_div_add_mod : ratio a b = (a / b : Nat) + (a % b : Nat) / b := by
  have hbq : (b : ℚ) ≠ 0 := by exact_mod_cast hb.ne'
  rw [ratio, div_eq_iff hbq, add_mul, div_mul_cancel₀ _ hbq]
  exact_mod_cast (Nat.div_add_mod' a b).symm

theorem ratio_between : ((a / b : Nat) : ℚ) ≤ ratio a b ∧ ratio a b < (a / b : Nat) + 1 := by
  have hbq : (0 : ℚ) < b := by exact_mod_cast hb
  have hmod : ((a % b : Nat) : ℚ) / b < 1 := (div_lt_one hbq).2 (by exact_mod_cast Nat.mod_lt a hb)
  have hnonneg : (0 : ℚ) ≤ ((a % b : Nat) : ℚ) / b := by positivity
  rw [ratio_eq_div_add_mod hb]
  constructor <;> linarith

/-- To nearest: one of the two, and the nearer (R70). -/
theorem roundQ_rne (neg : Bool) :
    ((roundQ neg a b .rne).1 = a / b ∧ ratio a b - (a / b : Nat) ≤ (a / b : Nat) + 1 - ratio a b) ∨
    ((roundQ neg a b .rne).1 = a / b + 1 ∧ (a / b : Nat) + 1 - ratio a b ≤ ratio a b - (a / b : Nat)) := by
  have hbq : (0 : ℚ) < b := by exact_mod_cast hb
  rw [ratio_eq_div_add_mod hb]
  unfold roundQ
  dsimp only
  split
  · next hup =>
    have hhalf : b ≤ 2 * (a % b) := by
      simp only [Bool.or_eq_true, Bool.and_eq_true, decide_eq_true_eq] at hup
      omega
    have : (1 : ℚ) / 2 ≤ ((a % b : Nat) : ℚ) / b := by
      rw [div_le_div_iff₀ two_pos hbq]
      exact_mod_cast (by omega : 1 * b ≤ a % b * 2)
    exact .inr ⟨rfl, by linarith⟩
  · next hup =>
    have hhalf : 2 * (a % b) ≤ b := by
      simp only [Bool.or_eq_true, Bool.and_eq_true, decide_eq_true_eq] at hup
      omega
    have : ((a % b : Nat) : ℚ) / b ≤ 1 / 2 := by
      rw [div_le_div_iff₀ hbq two_pos]
      exact_mod_cast (by omega : a % b * 2 ≤ 1 * b)
    exact .inl ⟨rfl, by linarith⟩

end

/-! ## The code that rounding chooses -/

/-- The power of two that rounding counts a value in (R70). -/
def roundExp (f : Fmt) (num den : Nat) : Int := max (floorLog2 num den - f.m) (quantum f)

/-- The value in units of that power. -/
def roundUnits (f : Fmt) (num den : Nat) : Nat × Nat := scalePow num den (-roundExp f num den)

/-- How many rows above the first one the value lies. -/
def roundRow (f : Fmt) (num den : Nat) : Nat := (roundExp f num den - quantum f).toNat

/-- The magnitude that rounding chooses, before R75 looks for an overflow. -/
def roundedMag (f : Fmt) (rm : Rm) (neg : Bool) (num den : Nat) : Nat :=
  roundRow f num den * 2 ^ f.m + (roundQ neg (roundUnits f num den).1 (roundUnits f num den).2 rm).1

/-- The magnitude at or below the value. -/
def magBelow (f : Fmt) (num den : Nat) : Nat := roundRow f num den * 2 ^ f.m + (roundUnits f num den).1 / (roundUnits f num den).2

theorem roundFP_fst {f : Fmt} {rm : Rm} {neg : Bool} {num den : Nat} (hf : HasInfinity f) (hn : 0 < num) :
    (roundFP (.fin neg num den) f rm false).1 =
      f.signed neg (if f.maxCode < roundedMag f rm neg num den then overflowMag f rm neg false else roundedMag f rm neg num den) := by
  have hb : ¬ f.beyond = .nan := by rw [hf.beyond]; decide
  simp only [roundFP, roundSat, if_neg hn.ne', roundFin, hb, and_false, if_false, Bool.false_and, Bool.false_eq_true]
  unfold roundedMag roundRow roundUnits roundExp quantum
  split <;> rfl

section
variable (f : Fmt) {num den : Nat} (hn : 0 < num) (hd : 0 < den)

theorem roundExp_eq : roundExp f num den = roundRow f num den + quantum f := by
  unfold roundRow
  have : quantum f ≤ roundExp f num den := le_max_right _ _
  omega

theorem ratio_roundUnits : ratio num den = ratio (roundUnits f num den).1 (roundUnits f num den).2 * 2 ^ roundExp f num den := by
  rw [roundUnits, ratio_scalePow, mul_assoc, ← zpow_add₀ two_ne_zero, neg_add_cancel, zpow_zero, mul_one]

include hd

theorem roundUnits_pos : 0 < (roundUnits f num den).2 := scalePow_pos _ hd

include hn

theorem units_lt : (roundUnits f num den).1 / (roundUnits f num den).2 < 2 ^ (f.m + 1) := by
  have hexp : floorLog2 num den - f.m ≤ roundExp f num den := le_max_left _ _
  have hpow : (0 : ℚ) < 2 ^ roundExp f num den := by positivity
  have hx : ratio num den < 2 ^ ((f.m : Int) + 1) * 2 ^ roundExp f num den := by
    rw [← zpow_add₀ two_ne_zero]
    exact (floorLog2_spec hn hd).2.trans_le (zpow_le_zpow_right₀ one_le_two (by omega))
  rw [ratio_roundUnits f, mul_lt_mul_iff_left₀ hpow] at hx
  exact_mod_cast (ratio_between (roundUnits_pos f hd)).1.trans_lt hx

theorem units_ge : roundRow f num den = 0 ∨ 2 ^ f.m ≤ (roundUnits f num den).1 / (roundUnits f num den).2 := by
  have hpow : (0 : ℚ) < 2 ^ roundExp f num den := by positivity
  rcases le_total (floorLog2 num den - f.m) (quantum f) with hle | hge
  · left
    rw [roundRow, roundExp, max_eq_right hle, sub_self, Int.toNat_zero]
  · right
    have hx : (2 : ℚ) ^ (f.m : Int) * 2 ^ roundExp f num den ≤ ratio num den := by
      rw [← zpow_add₀ two_ne_zero, roundExp, max_eq_left hge, add_sub_cancel]
      exact (floorLog2_spec hn hd).1
    rw [ratio_roundUnits f, mul_le_mul_iff_left₀ hpow] at hx
    exact Nat.lt_succ_iff.1 (by exact_mod_cast hx.trans_lt (ratio_between (roundUnits_pos f hd)).2)

theorem codeValue_magBelow : codeValue f (magBelow f num den) = ((roundUnits f num den).1 / (roundUnits f num den).2 : Nat) * 2 ^ roundExp f num den := by
  rw [magBelow, codeValue_row f (units_lt f hn hd).le (units_ge f hn hd), roundExp_eq]

theorem codeValue_magBelow_succ :
    codeValue f (magBelow f num den + 1) = (((roundUnits f num den).1 / (roundUnits f num den).2 : Nat) + 1) * 2 ^ roundExp f num den := by
  rw [magBelow, Nat.add_assoc, codeValue_row f (units_lt f hn hd) ((units_ge f hn hd).imp_right fun h => h.trans (Nat.le_succ _)), roundExp_eq,
    Nat.cast_succ]

/-- A value lies between the code below it and that code's successor. -/
theorem magBelow_spec : codeValue f (magBelow f num den) ≤ ratio num den ∧ ratio num den < codeValue f (magBelow f num den + 1) := by
  obtain ⟨hlow, hhigh⟩ := ratio_between (a := (roundUnits f num den).1) (roundUnits_pos f hd)
  have hpow : (0 : ℚ) < 2 ^ roundExp f num den := by positivity
  rw [codeValue_magBelow f hn hd, codeValue_magBelow_succ f hn hd, ratio_roundUnits f]
  exact ⟨by gcongr, by gcongr⟩

theorem codeValue_le_iff {c : Nat} : codeValue f c ≤ ratio num den ↔ c ≤ magBelow f num den := by
  obtain ⟨hlow, hhigh⟩ := magBelow_spec f hn hd
  constructor
  · exact fun h => Nat.lt_succ_iff.1 ((codeValue_strictMono f).lt_iff_lt.1 (h.trans_lt hhigh))
  · exact fun h => ((codeValue_strictMono f).monotone h).trans hlow

/-- Rounding to nearest chooses the nearer of the two codes beside the value. -/
theorem roundedMag_rne (neg : Bool) :
    (roundedMag f .rne neg num den = magBelow f num den ∧
      ratio num den - codeValue f (magBelow f num den) ≤ codeValue f (magBelow f num den + 1) - ratio num den) ∨
    (roundedMag f .rne neg num den = magBelow f num den + 1 ∧
      codeValue f (magBelow f num den + 1) - ratio num den ≤ ratio num den - codeValue f (magBelow f num den)) := by
  have hpow : (0 : ℚ) < 2 ^ roundExp f num den := by positivity
  rw [codeValue_magBelow f hn hd, codeValue_magBelow_succ f hn hd, ratio_roundUnits f, ← sub_mul, ← sub_mul, mul_le_mul_iff_left₀ hpow, mul_le_mul_iff_left₀ hpow]
  unfold roundedMag magBelow
  rcases roundQ_rne (a := (roundUnits f num den).1) (roundUnits_pos f hd) neg with ⟨hk, hle⟩ | ⟨hk, hle⟩
  · exact .inl ⟨by rw [hk], hle⟩
  · exact .inr ⟨by rw [hk, Nat.add_assoc], hle⟩

theorem roundedMag_rne_nearest (neg : Bool) (c : Nat) :
    |ratio num den - codeValue f (roundedMag f .rne neg num den)| ≤ |ratio num den - codeValue f c| := by
  obtain ⟨hlow, hhigh⟩ := magBelow_spec f hn hd
  have hc : codeValue f c ≤ codeValue f (magBelow f num den) ∨ codeValue f (magBelow f num den + 1) ≤ codeValue f c :=
    (Nat.lt_or_ge (magBelow f num den) c).symm.imp (fun h => (codeValue_strictMono f).monotone h) fun h => (codeValue_strictMono f).monotone h
  have habove := le_abs_self (ratio num den - codeValue f c)
  have hbelow := neg_le_abs (ratio num den - codeValue f c)
  rcases roundedMag_rne f hn hd neg with ⟨hk, hle⟩ | ⟨hk, hle⟩
  · rw [hk, abs_of_nonneg (sub_nonneg.2 hlow)]
    rcases hc with hc | hc <;> linarith
  · rw [hk, abs_of_nonpos (sub_nonpos.2 hhigh.le)]
    rcases hc with hc | hc <;> linarith

end

/-! ## Both modes -/

section
variable {f : Fmt} (hf : HasInfinity f) {num den : Nat} (hn : 0 < num) (hd : 0 < den) (neg : Bool)
include hf hn

/-- Towards zero, the largest finite code stands for every value beyond it (R75). -/
theorem roundFP_rtz_fst : (roundFP (.fin neg num den) f .rtz false).1 = f.signed neg (min f.maxCode (magBelow f num den)) := by
  rw [roundFP_fst hf hn]
  congr 1
  split
  · next h => exact (min_eq_left (Nat.le_of_lt h)).symm
  · next h => exact (min_eq_right (not_lt.1 h)).symm

/-- To nearest, a magnitude beyond the largest finite one becomes the infinity (R75). -/
theorem roundFP_rne_fst : (roundFP (.fin neg num den) f .rne false).1 = f.signed neg (min f.infCode (roundedMag f .rne neg num den)) := by
  rw [roundFP_fst hf hn]
  congr 1
  split
  · next h => rw [min_eq_left (a := f.infCode) (Nat.succ_le_of_lt h), overflowMag, hf.beyond]; rfl
  · next h => exact (min_eq_right ((not_lt.1 h).trans f.maxCode.le_succ)).symm

include hd

/-- Towards zero: the largest finite code that does not exceed the value (R70, R75). -/
theorem roundFP_rtz_largest :
    let r := (roundFP (.fin neg num den) f .rtz false).1
    f.isNeg r = neg ∧ ∃ a b : Nat, f.decode (f.mag r) = .fin false a b ∧ 0 < b ∧ a * den ≤ num * b ∧
      ∀ m a' b' : Nat, m ≤ f.maxCode → f.decode m = .fin false a' b' → a' * den ≤ num * b' → a' * b ≤ a * b' := by
  have hc := min_le_left f.maxCode (magBelow f num den)
  have hinf := hc.trans f.maxCode.le_succ
  obtain ⟨a, b, hdec, hb, hval⟩ := decode_finite hf hc
  dsimp only
  rw [roundFP_rtz_fst hf hn, isNeg_signed hf neg hinf, mag_signed hf neg hinf]
  refine ⟨rfl, a, b, hdec, hb, (ratio_le_iff hb hd).1 ?_, fun m a' b' hm hdec' hle => ?_⟩
  · rw [hval]
    exact (codeValue_le_iff f hn hd).2 (min_le_right _ _)
  · obtain ⟨a', b', hdec'', hb', hval'⟩ := decode_finite hf hm
    obtain ⟨-, rfl, rfl⟩ := XR.fin.inj (hdec'.symm.trans hdec'')
    rw [← ratio_le_iff hb' hd, hval', codeValue_le_iff f hn hd] at hle
    rw [← ratio_le_iff hb' hb, hval, hval']
    exact (codeValue_strictMono f).monotone (le_min hm hle)

/-- To nearest: no finite code lies nearer to the value than a finite result (R70). -/
theorem roundFP_rne_nearest :
    let r := (roundFP (.fin neg num den) f .rne false).1
    f.isNeg r = neg ∧ (f.mag r ≤ f.maxCode → ∃ a b : Nat, f.decode (f.mag r) = .fin false a b ∧ 0 < b ∧
      ∀ m a' b' : Nat, m ≤ f.maxCode → f.decode m = .fin false a' b' →
        ((num * b : Int) - a * den).natAbs * b' ≤ ((num * b' : Int) - a' * den).natAbs * b) := by
  have hinf := min_le_left f.infCode (roundedMag f .rne neg num den)
  dsimp only
  rw [roundFP_rne_fst hf hn, isNeg_signed hf neg hinf, mag_signed hf neg hinf]
  refine ⟨rfl, fun hfin => ?_⟩
  have hmag : min f.infCode (roundedMag f .rne neg num den) = roundedMag f .rne neg num den := by
    unfold Fmt.infCode at hfin ⊢
    omega
  rw [hmag] at hfin ⊢
  obtain ⟨a, b, hdec, hb, hval⟩ := decode_finite hf hfin
  refine ⟨a, b, hdec, hb, fun m a' b' hm hdec' => ?_⟩
  obtain ⟨a', b', hdec'', hb', hval'⟩ := decode_finite hf hm
  obtain ⟨-, rfl, rfl⟩ := XR.fin.inj (hdec'.symm.trans hdec'')
  rw [← abs_ratio_sub_le_iff hb hb' hd, hval, hval']
  exact roundedMag_rne_nearest f hn hd neg m

end

end Sys2Proof.Machine

namespace Sys2Proof.Claim

open Machine

/-- Settles O13: codes stand in the order of their values, and rounding chooses between the two codes beside the value. -/
theorem roundingIsCorrect : Obligations.RoundingIsCorrect := by
  unfold Obligations.RoundingIsCorrect
  intro f hmem neg num den hn hd
  have hf := hasInfinity_of_mem hmem
  exact ⟨roundFP_rtz_largest hf hn hd neg, roundFP_rne_nearest hf hn hd neg⟩

end Sys2Proof.Claim
end

section
/-! What an instruction leaves of a context that holds registers - a group, an access slice or a queue context - when it writes registers and goes on or transfers control (01_encoding R34, R39; 03_group R102; 14_tenancy R433). -/

namespace Sys2Proof.Machine

open Claim

/-! ## Updates of one entry -/

theorem tabPut_tabPut {α : Type} (t : Tab α) (k : Nat) (a b : α) : tabPut (tabPut t k a) k b = tabPut t k b := by
  induction t with
  | nil => simp [tabPut]
  | cons p r ih =>
    obtain ⟨j, c⟩ := p
    simp only [tabPut]
    by_cases hj : j = k
    · simp [hj, tabPut]
    · by_cases hk : k < j
      · simp [hj, hk, tabPut]
      · simp [hj, hk, tabPut, ih]

theorem setGroup_setGroup (s : State) (n : Nat) (g h : Group) : setGroup (setGroup s n g) n h = setGroup s n h := by
  simp only [setGroup, tabPut_tabPut]

theorem setQueue_setQueue (s : State) (n : Nat) (q r : QCtx) : setQueue (setQueue s n q) n r = setQueue s n r := by
  simp only [setQueue, tabPut_tabPut]

/-- Two changes of a group are one. -/
theorem modGroup_modGroup (s : State) (n : Nat) (f g : Group → Group) : modGroup (modGroup s n f) n g = modGroup s n (g ∘ f) := by
  simp only [modGroup, getGroup_setGroup_same, setGroup_setGroup, Function.comp_apply]

@[simp] theorem getAxp_setAxp (s : State) (gid : Nat) (a : Axp) : getAxp (setAxp s gid a) gid = a := by
  simp only [getAxp, setAxp, getGroup_modGroup_same, Option.getD_some]

@[simp] theorem setAxp_cur (s : State) (gid : Nat) (a : Axp) : (setAxp s gid a).cur = s.cur := rfl

theorem setAxp_setAxp (s : State) (gid : Nat) (a b : Axp) : setAxp (setAxp s gid a) gid b = setAxp s gid b := by
  simp only [setAxp, modGroup_modGroup, Function.comp_def]

theorem getGroup_setAxp (s : State) (gid : Nat) (a : Axp) : getGroup (setAxp s gid a) gid = { getGroup s gid with axp := some a } :=
  getGroup_modGroup_same ..

/-! ## The PC of a queue context (14_tenancy R433) -/

theorem queuePc_goesTo (q : QCtx) (pc : DWord) : queuePc (q.goesTo pc) = pc := by
  unfold QCtx.goesTo
  split
  · next h =>
    simp only [inRing, Bool.and_eq_true, decide_eq_true_eq] at h
    obtain ⟨⟨hlow, -⟩, -⟩ := h
    simp only [queuePc, Bool.false_eq_true, if_false]
    have hpc := pc.isLt
    apply BitVec.eq_of_toNat_eq
    rw [BitVec.toNat_add, BitVec.toNat_ofNat]
    omega
  · rfl

theorem goesTo_eq (q : QCtx) (pc : DWord) :
    q.goesTo pc = { q with pc := (q.goesTo pc).pc, head := (q.goesTo pc).head, away := (q.goesTo pc).away } := by
  unfold QCtx.goesTo
  split <;> rfl

theorem queuePc_goesOn (q : QCtx) (len : Nat) : queuePc (q.goesOn len) = queueNext q len := by
  unfold QCtx.goesOn queueNext
  split
  · exact queuePc_goesTo ..
  · next h => simp [queuePc, h]

theorem goesOn_eq (q : QCtx) (len : Nat) : q.goesOn len = { q with
    pc := (q.goesOn len).pc, head := (q.goesOn len).head, away := (q.goesOn len).away,
    state := .running, wait := none, wdog := 0, mlimit := false, mwait := none } := by
  unfold QCtx.goesOn
  split
  · rw [goesTo_eq]
  · rfl

/-- The registers do not enter where a queue context goes. -/
theorem goesTo_regs (q : QCtx) (r : RegFile) (pc : DWord) : ({ q with regs := r } : QCtx).goesTo pc = { q.goesTo pc with regs := r } := by
  unfold QCtx.goesTo inRing
  split <;> rfl

theorem goesOn_regs (q : QCtx) (r : RegFile) (len : Nat) : ({ q with regs := r } : QCtx).goesOn len = { q.goesOn len with regs := r } := by
  unfold QCtx.goesOn
  split
  · rw [goesTo_regs]
  · rfl

/-! ## The registers of a context that holds some -/

/-- A group, an access slice or a queue context executes. -/
theorem onRegisters_iff {s : State} : onRegisters s ↔ (∃ gid, s.cur = .group gid) ∨ (∃ gid, s.cur = .axp gid) ∨ ∃ qid, s.cur = .queue qid := by
  unfold onRegisters
  cases s.cur <;> simp

theorem setRegs_axp {s : State} {gid : Nat} (hg : s.cur = .axp gid) (r : RegFile) : setRegs s r = setAxp s gid { getAxp s gid with regs := r } := by
  simp only [setRegs, hg]

theorem setRegs_queue {s : State} {qid : Nat} (hq : s.cur = .queue qid) (r : RegFile) : setRegs s r = setQueue s qid { getQueue s qid with regs := r } := by
  simp only [setRegs, hq, modQueue]

theorem setRegs_setRegs (s : State) (r r' : RegFile) : setRegs (setRegs s r) r' = setRegs s r' := by
  cases hc : s.cur with
  | group gid => rw [setRegs_group ((setRegs_cur s r).trans hc), setRegs_group hc, setRegs_group hc, setGroup_setGroup, getGroup_setGroup_same]
  | axp gid => rw [setRegs_axp ((setRegs_cur s r).trans hc), setRegs_axp hc, setRegs_axp hc, setAxp_setAxp, getAxp_setAxp]
  | queue qid => rw [setRegs_queue ((setRegs_cur s r).trans hc), setRegs_queue hc, setRegs_queue hc, setQueue_setQueue, getQueue_setQueue_same]
  | cheA p v => simp only [setRegs, hc]
  | cheX p v => simp only [setRegs, hc]

theorem goTo_axp (s : State) (gid : Nat) (pc : DWord) (hc : s.cur = .axp gid) :
    goTo s pc = setAxp s gid { getAxp s gid with pc := pc, mlimit := false, mwait := none } := by
  simp only [goTo, hc]

theorem goTo_queue (s : State) (qid : Nat) (pc : DWord) (hc : s.cur = .queue qid) :
    goTo s pc = setQueue s qid { (getQueue s qid).goesTo pc with state := .running, wait := none, wdog := 0, mlimit := false, mwait := none } := by
  simp only [goTo, hc, modQueue]

theorem advance_queue (s : State) (qid len : Nat) (hc : s.cur = .queue qid) : advance len s = setQueue s qid ((getQueue s qid).goesOn len) := by
  simp only [advance, hc, modQueue]

/-- A group and an access slice go on as to any address. -/
theorem advance_eq_goTo {s : State} (hx : onRegisters s) (hq : ∀ qid, s.cur ≠ .queue qid) (len : Nat) : advance len s = goTo s (nextPc s len) := by
  rcases onRegisters_iff.1 hx with ⟨gid, hc⟩ | ⟨gid, hc⟩ | ⟨qid, hc⟩
  · simp only [advance, nextPc, hc]
  · simp only [advance, nextPc, hc]
  · exact absurd hc (hq qid)

theorem goTo_setRegs_group {s : State} {gid : Nat} (hc : s.cur = .group gid) (r : RegFile) (pc : DWord) :
    goTo (setRegs s r) pc = setGroup s gid (groupDone { getGroup s gid with regs := r } pc) := by
  rw [goTo_group _ gid pc ((setRegs_cur s r).trans hc), setRegs_group hc, setGroup_setGroup, getGroup_setGroup_same]

theorem goTo_setRegs_axp {s : State} {gid : Nat} (hc : s.cur = .axp gid) (r : RegFile) (pc : DWord) :
    goTo (setRegs s r) pc = setAxp s gid { getAxp s gid with regs := r, pc := pc, mlimit := false, mwait := none } := by
  rw [goTo_axp _ gid pc ((setRegs_cur s r).trans hc), setRegs_axp hc, setAxp_setAxp, getAxp_setAxp]

theorem goTo_setRegs_queue {s : State} {qid : Nat} (hc : s.cur = .queue qid) (r : RegFile) (pc : DWord) :
    goTo (setRegs s r) pc = setQueue s qid { (getQueue s qid).goesTo pc with
      regs := r, state := .running, wait := none, wdog := 0, mlimit := false, mwait := none } := by
  rw [goTo_queue _ qid pc ((setRegs_cur s r).trans hc), setRegs_queue hc, setQueue_setQueue, getQueue_setQueue_same, goesTo_regs]

theorem advance_setRegs_queue {s : State} {qid : Nat} (hc : s.cur = .queue qid) (r : RegFile) (len : Nat) :
    advance len (setRegs s r) = setQueue s qid { (getQueue s qid).goesOn len with regs := r } := by
  rw [advance_queue _ qid len ((setRegs_cur s r).trans hc), setRegs_queue hc, setQueue_setQueue, getQueue_setQueue_same, goesOn_regs]

section
variable {s : State} (hx : onRegisters s) (r : RegFile)
include hx

theorem regsOf_setRegs : regsOf (setRegs s r) = r := by
  rcases onRegisters_iff.1 hx with ⟨gid, hc⟩ | ⟨gid, hc⟩ | ⟨qid, hc⟩
  · exact regsOf_setRegs_group s r gid hc
  · exact regsOf_setRegs_axp s r gid hc
  · exact regsOf_setRegs_queue s r qid hc

theorem onRegisters_setRegs : onRegisters (setRegs s r) := by
  unfold onRegisters at hx ⊢
  rw [setRegs_cur]
  exact hx

theorem nextPc_setRegs (len : Nat) : nextPc (setRegs s r) len = nextPc s len := by
  rcases onRegisters_iff.1 hx with ⟨gid, hc⟩ | ⟨gid, hc⟩ | ⟨qid, hc⟩
  · simp only [nextPc, pcOf, setRegs_cur, hc]
    rw [setRegs_group hc, getGroup_setGroup_same]
  · simp only [nextPc, pcOf, setRegs_cur, hc]
    rw [setRegs_axp hc, getAxp_setAxp]
  · simp only [nextPc, setRegs_cur, hc]
    rw [setRegs_queue hc, getQueue_setQueue_same]
    rfl

/-- Writing the registers as they are changes nothing once the context goes on. -/
theorem goTo_setRegs_self (pc : DWord) : goTo (setRegs s (regsOf s)) pc = goTo s pc := by
  rcases onRegisters_iff.1 hx with ⟨gid, hc⟩ | ⟨gid, hc⟩ | ⟨qid, hc⟩
  · rw [goTo_setRegs_group hc, goTo_group s gid pc hc, regsOf, hc]
  · rw [goTo_setRegs_axp hc, goTo_axp s gid pc hc, regsOf, hc]
  · rw [goTo_setRegs_queue hc, goTo_queue s qid pc hc, regsOf, hc, goesTo_eq]

theorem advance_setRegs_self (len : Nat) : advance len (setRegs s (regsOf s)) = advance len s := by
  by_cases hq : ∃ qid, s.cur = .queue qid
  · obtain ⟨qid, hc⟩ := hq
    rw [advance_setRegs_queue hc, advance_queue s qid len hc, regsOf, hc, goesOn_eq]
  · rw [not_exists] at hq
    rw [advance_eq_goTo hx hq, advance_eq_goTo (onRegisters_setRegs hx _) (by simpa only [setRegs_cur] using hq), nextPc_setRegs hx, goTo_setRegs_self hx]

theorem regsOf_goTo (pc : DWord) : regsOf (goTo (setRegs s r) pc) = r := by
  rcases onRegisters_iff.1 hx with ⟨gid, hc⟩ | ⟨gid, hc⟩ | ⟨qid, hc⟩
  · rw [goTo_setRegs_group hc, regsOf, setGroup_cur, hc]
    exact congrArg Group.regs (getGroup_setGroup_same ..)
  · rw [goTo_setRegs_axp hc, regsOf, setAxp_cur, hc]
    exact congrArg Axp.regs (getAxp_setAxp ..)
  · rw [goTo_setRegs_queue hc, regsOf, setQueue_cur, hc]
    exact congrArg QCtx.regs (getQueue_setQueue_same ..)

theorem pcOf_goTo (pc : DWord) : pcOf (goTo (setRegs s r) pc) = pc := by
  rcases onRegisters_iff.1 hx with ⟨gid, hc⟩ | ⟨gid, hc⟩ | ⟨qid, hc⟩
  · rw [goTo_setRegs_group hc, pcOf, setGroup_cur, hc]
    exact congrArg Group.pc (getGroup_setGroup_same ..)
  · rw [goTo_setRegs_axp hc, pcOf, setAxp_cur, hc]
    exact congrArg Axp.pc (getAxp_setAxp ..)
  · rw [goTo_setRegs_queue hc, pcOf, setQueue_cur, hc]
    exact (congrArg queuePc (getQueue_setQueue_same ..)).trans (queuePc_goesTo _ pc)

/-- Writing registers and transferring control changes nothing outside the context. -/
theorem contextOnly_goTo (i : Instr) (pc : DWord) : contextOnly i false s (goTo (setRegs s r) pc) := by
  rcases onRegisters_iff.1 hx with ⟨gid, hc⟩ | ⟨gid, hc⟩ | ⟨qid, hc⟩
  · rw [goTo_setRegs_group hc]
    refine ⟨rfl, fun k hk _ => tabFind_tabPut_other _ _ fun e => hk (e ▸ hc), fun _ _ => rfl, ?_⟩
    rw [hc]
    simp only [getGroup_setGroup_same]
    exact ⟨rfl, fun _ => ⟨rfl, rfl⟩, fun _ => rfl⟩
  · rw [goTo_setRegs_axp hc]
    refine ⟨rfl, fun k _ hk => tabFind_tabPut_other _ _ fun e => hk (e ▸ hc), fun _ _ => rfl, ?_⟩
    rw [hc]
    simp only [getGroup_setAxp, getAxp_setAxp]
  · rw [goTo_setRegs_queue hc]
    refine ⟨rfl, fun _ _ _ => rfl, fun k hk => tabFind_tabPut_other _ _ fun e => hk (e ▸ hc), ?_⟩
    rw [hc, goesTo_eq]
    simp only [getQueue_setQueue_same]

/-- A context that writes registers and goes on: its registers, its PC, and nothing outside it. -/
theorem advance_setRegs (i : Instr) (len : Nat) : regsOf (advance len (setRegs s r)) = r ∧ pcOf (advance len (setRegs s r)) = nextPc s len ∧
    contextOnly i false s (advance len (setRegs s r)) := by
  by_cases hq : ∃ qid, s.cur = .queue qid
  · obtain ⟨qid, hc⟩ := hq
    rw [advance_setRegs_queue hc]
    refine ⟨?regs, ?pc, rfl, fun _ _ _ => rfl, fun k hk => tabFind_tabPut_other _ _ fun e => hk (e ▸ hc), ?own⟩
    case regs =>
      rw [regsOf, setQueue_cur, hc]
      exact congrArg QCtx.regs (getQueue_setQueue_same ..)
    case pc =>
      rw [pcOf, setQueue_cur, nextPc, hc]
      exact (congrArg queuePc (getQueue_setQueue_same ..)).trans (queuePc_goesOn _ len)
    case own =>
      rw [hc, goesOn_eq]
      simp only [getQueue_setQueue_same]
  · rw [not_exists] at hq
    rw [advance_eq_goTo (onRegisters_setRegs hx r) (by simpa only [setRegs_cur] using hq), nextPc_setRegs hx]
    exact ⟨regsOf_goTo hx r _, pcOf_goTo hx r _, contextOnly_goTo hx r i _⟩

end

end Sys2Proof.Machine
end

section
/-! Proofs of the statement on jumps (03_group R102): which registers an instruction leaves as they were, and what it leaves when it transfers control. -/

namespace Sys2Proof.Machine

open Claim

/-! ## What an instruction leaves of the registers -/

/-- Of the registers in r only those that w names differ in r', and none becomes empty or full. -/
structure KeepsBut (w : Nat → Nat → Prop) (r r' : RegFile) : Prop where
  values : ∀ n l, l < 64 → n < 128 → ¬namesQ n → ¬w n l → r'.read n l = r.read n l
  full : ∀ n, n < 128 → ¬namesQ n → r'.isEmpty n = r.isEmpty n
  erm : r'.erm = r.erm

theorem KeepsBut.refl (w : Nat → Nat → Prop) (r : RegFile) : KeepsBut w r r := ⟨fun _ _ _ _ _ _ => rfl, fun _ _ _ => rfl, rfl⟩

theorem KeepsBut.trans {w : Nat → Nat → Prop} {r r' r'' : RegFile} (h : KeepsBut w r r') (h' : KeepsBut w r' r'') : KeepsBut w r r'' where
  values n l hl hn hq hw := (h'.values n l hl hn hq hw).trans (h.values n l hl hn hq hw)
  full n hn hq := (h'.full n hn hq).trans (h.full n hn hq)
  erm := h'.erm.trans h.erm

theorem KeepsBut.mono {w w' : Nat → Nat → Prop} {r r' : RegFile} (h : KeepsBut w r r') (hw : ∀ n l, l < 64 → w n l → w' n l) : KeepsBut w' r r' :=
  ⟨fun n l hl hn hq hn' => h.values n l hl hn hq fun hwn => hn' (hw n l hl hwn), h.full, h.erm⟩

theorem writesOnly_of_keepsBut {w : Nat → Nat → Prop} {s t : State} (h : KeepsBut w (regsOf s) (regsOf t)) : writesOnly w s t :=
  ⟨fun n l hl hn hq hw => by rw [readField_eq _ _ hq, readField_eq _ _ hq]; exact h.values n l hl hn hq hw,
   fun n hn hq => by rw [isEmptyField_eq _ hq, isEmptyField_eq _ hq]; exact h.full n hn hq, h.erm⟩

/-- A write of a full register changes that register alone. -/
theorem keepsBut_put {r : RegFile} (hr : regsRising r) {f l : Nat} (w : Word) (hq : ¬namesQ f) (hl : l < 64) (hfull : r.isEmpty f = false) :
    KeepsBut (fun n m => n = f ∧ (96 ≤ f ∨ m = l)) r (r.put f l w) where
  values n m hm _ _ hn := by rw [read_put hr w hq hl hm, if_neg hn]
  full n hn _ := by
    rw [isEmpty_put r f l w hn]
    by_cases h : f = n
    · subst h; simp [hfull]
    · simp [h]
  erm := put_erm ..

/-- What writing a pair leaves of a register file (01_encoding R28). -/
def RegFile.putPair (r : RegFile) (f lane : Nat) (w : DWord) : RegFile := (r.put f lane (w.extractLsb' 0 32)).put (f + 1) lane (w.extractLsb' 32 32)

@[simp] theorem putPair_p (r : RegFile) (f l : Nat) (w : DWord) : (r.putPair f l w).p = r.p := (put_p ..).trans (put_p ..)

theorem writePair_eq {s : State} (hx : onRegisters s) (f lane : Nat) (w : DWord) : writePair s f lane w = setRegs s ((regsOf s).putPair f lane w) := by
  rw [writePair, writeField_eq, writeField_eq, regsOf_setRegs hx, setRegs_setRegs]
  rfl

section
variable {r : RegFile} (hr : regsRising r) {f l : Nat} (w : DWord) (hq : ¬namesQ f ∧ ¬namesQ (f + 1)) (hl : l < 64)
include hr hq hl

theorem keepsBut_putPair (hf : f + 1 < 128) (hfull : r.isEmpty f = false ∧ r.isEmpty (f + 1) = false) :
    KeepsBut (fun n m => (n = f ∨ n = f + 1) ∧ (96 ≤ n ∨ m = l)) r (r.putPair f l w) := by
  obtain ⟨hq0, hq1⟩ := hq
  have hlow := keepsBut_put hr (w.extractLsb' 0 32) hq0 hl hfull.1
  have hhigh := keepsBut_put (regsRising_put hr f l (w.extractLsb' 0 32)) (w.extractLsb' 32 32) hq1 hl (by rw [hlow.full _ hf hq1]; exact hfull.2)
  refine (hlow.mono fun n m _ h => ?_).trans (hhigh.mono fun n m _ h => ?_)
  · obtain ⟨rfl, h⟩ := h
    exact ⟨.inl rfl, h⟩
  · obtain ⟨rfl, h⟩ := h
    exact ⟨.inr rfl, h⟩

theorem read_putPair (hf : f ≠ 127) : (r.putPair f l w).read f l = w.extractLsb' 0 32 ∧ (r.putPair f l w).read (f + 1) l = kept (f + 1) (w.extractLsb' 32 32) := by
  obtain ⟨hq0, hq1⟩ := hq
  have hr' := regsRising_put hr f l (w.extractLsb' 0 32)
  constructor
  · rw [RegFile.putPair, read_put hr' _ hq1 hl hl, if_neg (by omega), read_put hr _ hq0 hl hl, if_pos ⟨rfl, .inr rfl⟩, kept, if_neg hf]
  · rw [RegFile.putPair, read_put hr' _ hq1 hl hl, if_pos ⟨rfl, .inr rfl⟩]

end

/-! ## Instructions that have passed their checks -/

/-- An instruction whose checks pass comes to what its body comes to. -/
theorem exec_of_canIssue {i : Instr} {s : State} {opn : Nat} {us : List Use} {body : Except Stop State} (h : canIssue i s)
    (he : exec i s = run s opn 0 us body) (hopn : i.opn = opn := by rfl) (huses : uses i = us := by rfl)
    (hlevel : lowestLevel opn (mod7 i) = lowestLevel opn 0 := by rfl) : exec i s = .next (settle s body) := by
  obtain ⟨hstops, hready⟩ := h
  rw [hopn] at hstops hready
  rw [huses] at hready
  have hready' : ready s opn 0 us = .ok () := by
    rw [← hready]
    simp only [ready_eq, guardOp, hlevel]
  rw [he, run_ready s opn 0 us body hstops hready']

/-- A context that transfers control after a change of its registers. -/
theorem transfersTo_goTo {i : Instr} {s : State} {r : RegFile} {w : Nat → Nat → Prop} (hx : onRegisters s) (hr : KeepsBut w (regsOf s) r)
    (hp : r.p = (regsOf s).p) (pc : DWord) : transfersTo i pc w s (goTo (setRegs s r) pc) :=
  ⟨pcOf_goTo hx r pc, writesOnly_of_keepsBut (by rwa [regsOf_goTo hx]), by rw [regsOf_goTo hx, hp], contextOnly_goTo hx r i pc⟩

theorem transfersTo_jumpTo {i : Instr} {s : State} {w : Nat → Nat → Prop} (hx : onRegisters s) (pc : DWord) : transfersTo i pc w s (jumpTo s pc) := by
  rw [jumpTo, ← goTo_setRegs_self hx]
  exact transfersTo_goTo hx (.refl _ _) rfl pc

/-- One that goes on. -/
theorem transfersTo_advance {i : Instr} {s : State} {w : Nat → Nat → Prop} (hx : onRegisters s) (len : Nat) :
    transfersTo i (nextPc s len) w s (advance len s) := by
  obtain ⟨hregs, hpc, hctx⟩ := advance_setRegs hx (regsOf s) i len
  rw [advance_setRegs_self hx] at hregs hpc hctx
  exact ⟨hpc, writesOnly_of_keepsBut (by rw [hregs]; exact .refl _ _), by rw [hregs], hctx⟩

theorem relPc_eq_relative (s : State) (off : Int) : relPc s off = relative s off := by
  rw [relPc, relative, BitVec.ofInt_add]
  congr 1
  exact (BitVec.ofInt_natCast ..).symm ▸ (BitVec.ofNat_toNat ..).symm ▸ (BitVec.setWidth_eq _).symm

/-! ## The jumps (R102) -/

theorem execCall_transfers {o : BitVec 20} {s : State} (h : runs (.call o) s) : ∃ t, exec (.call o) s = .next t ∧
    readField t 124 0 = (pcOf s + 4).extractLsb' 0 32 ∧ readField t 125 0 = (pcOf s + 4).extractLsb' 32 32 ∧
    transfersTo (.call o) (relative s o.toInt) (fun r _ => r = 124 ∨ r = 125) s t := by
  obtain ⟨hx, hr, hissue⟩ := h
  obtain ⟨-, hready⟩ := id hissue
  obtain ⟨-, hread⟩ := checks_of_ready hready
  obtain ⟨-, hfull⟩ := full_of_readCheck hread
  have hfull' : (regsOf s).isEmpty 124 = false ∧ (regsOf s).isEmpty 125 = false := 
    have hmem : 124 ∈ Uses.call.flatMap Use.targets ∧ 125 ∈ Uses.call.flatMap Use.targets := by decide
    ⟨hfull 124 hmem.1, hfull 125 hmem.2⟩
  refine ⟨_, exec_of_canIssue hissue rfl, ?_⟩
  rw [settle_ok, relPc_eq_relative, writeSPair, writePair_eq hx, jumpTo]
  obtain ⟨hlow, hhigh⟩ := read_putPair hr (f := 124) (l := 0) (pcOf s + 4) (by decide) (by decide) (by decide)
  refine ⟨?_, ?_, transfersTo_goTo hx ((keepsBut_putPair hr _ (by decide) (by decide) (by decide) hfull').mono fun n m _ hn => hn.1) (putPair_p ..) _⟩
  · rw [readField_eq _ _ (by decide), regsOf_goTo hx]
    exact hlow
  · rw [readField_eq _ _ (by decide), regsOf_goTo hx]
    exact hhigh

/-- A branch that a condition decides goes to its target or on. -/
theorem transfersTo_branch {i : Instr} {s : State} {w : Nat → Nat → Prop} {c : Prop} [Decidable c] (hx : onRegisters s) (off : Int) :
    transfersTo i (if c then relative s off else nextPc s 4) w s (if c then jumpTo s (relPc s off) else advance 4 s) := by
  rw [relPc_eq_relative]
  split
  · exact transfersTo_jumpTo hx _
  · exact transfersTo_advance hx 4

end Sys2Proof.Machine

namespace Sys2Proof.Claim

open Machine

/-- Settles O17: a transfer changes the PC of its context alone, and CALL the pair S28:S29 too. -/
theorem jumpsTransferTheContext : Obligations.JumpsTransferTheContext := by
  unfold Obligations.JumpsTransferTheContext
  refine ⟨fun o d i s => ⟨fun ⟨hx, _, h⟩ => ?jmp, execCall_transfers, fun ⟨hx, _, h⟩ => ?jmpuZ, fun ⟨hx, _, h⟩ => ?jmpuNz⟩, fun a s ⟨hx, _, h⟩ => ⟨fun heven => ?ret, fun hodd => ?odd⟩⟩
  case jmp =>
    refine ⟨_, exec_of_canIssue h rfl, ?_⟩
    rw [settle_ok, relPc_eq_relative]
    exact transfersTo_jumpTo hx _
  case jmpuZ => exact ⟨_, exec_of_canIssue h rfl, transfersTo_branch hx _⟩
  case jmpuNz =>
    refine ⟨_, exec_of_canIssue h rfl, ?_⟩
    rw [settle_ok, ← ite_not]
    exact transfersTo_branch hx _
  case ret =>
    refine ⟨_, exec_of_canIssue h rfl, ?_⟩
    rw [readSPair, heven, if_neg Bool.false_ne_true, settle_ok]
    exact transfersTo_jumpTo hx _
  case odd =>
    refine (exec_of_canIssue h rfl).trans ?_
    rw [readSPair, hodd, if_pos rfl]
    rfl

end Sys2Proof.Claim
end

section
/-! Proof that the statement on NOP, YIELD and REGION fails: YIELD lists its group in the table of groups, and a group that the table did not list before counts among those of its core only then. -/

namespace Sys2Proof.Claim

open Machine

/-- Group 0 executes without an entry of its own, on a core whose grid 0 is a .det one. -/
def unlistedDet : State := { grids := [(0, { noGrid with det := true })] }

/-- Going on lists the group: its core then runs a .det grid, where it ran nothing before. -/
theorem coreIsDet_advance_unlistedDet : coreIsDet (advance 4 unlistedDet) 0 = true ∧ coreGroups unlistedDet 0 = [] := by decide

/-- Refutes O20: in `unlistedDet` YIELD gives core 0 up, because the core's grid is looked up after the group is listed, while no group of the state before belongs to the core. -/
theorem not_nopYieldAndRegion : ¬ Obligations.NopYieldAndRegion := by
  unfold Obligations.NopYieldAndRegion
  intro h
  obtain ⟨hcontrol, -⟩ := h
  obtain ⟨-, -, hyield⟩ := hcontrol unlistedDet
  have hissue : canIssue .yield unlistedDet := ⟨rfl, rfl⟩
  obtain ⟨t, ht, -, -, -, -, hcore⟩ := hyield 0 rfl hissue
  obtain ⟨hdet, hnone⟩ := coreIsDet_advance_unlistedDet
  have ht' : t = setCore (advance 4 unlistedDet) 0 { getCore (advance 4 unlistedDet) 0 with yielded := coreIsDet (advance 4 unlistedDet) 0 } :=
    Host.Outcome.next.inj (ht.symm.trans (exec_of_canIssue hissue rfl))
  have hyielded : (getCore t 0).yielded = true := by rw [ht', getCore_setCore_same, hdet]
  have hkept : (getCore t 0).yielded = false := by
    have hcore0 : getCore t 0 = _ := hcore
    rw [hcore0, show coreOfGroup unlistedDet 0 = 0 from rfl, hnone]
    rfl
  rw [hyielded] at hkept
  exact absurd hkept (by decide)

end Sys2Proof.Claim
end

section
/-! Proofs of the statement on structured control (03_group R95, R96): the ICNT table after an instruction, which lanes are active under it, and where the group goes. -/

namespace Sys2Proof.Machine

open Claim

/-! ## Entries of canonical tables -/

theorem mem_of_tabFind {α : Type} {t : Tab α} {k : Nat} {a : α} (h : tabFind t k = some a) : (k, a) ∈ t := by
  induction t with
  | nil => cases h
  | cons p r ih =>
    obtain ⟨j, b⟩ := p
    simp only [tabFind] at h
    split at h
    · next hj => cases h; rw [hj]; exact List.mem_cons_self
    · split at h
      · cases h
      · exact List.mem_cons_of_mem _ (ih h)

theorem tabFind_of_mem {α : Type} {t : Tab α} (ht : tabRising t = true) {k : Nat} {a : α} (h : (k, a) ∈ t) : tabFind t k = some a := by
  induction t with
  | nil => cases h
  | cons p r ih =>
    obtain ⟨j, b⟩ := p
    obtain ⟨hfrom, hr⟩ := (tabRising_cons _ _).1 ht
    rcases List.mem_cons.1 h with h | h
    · cases h; simp [tabFind]
    · have hj : j + 1 ≤ k := hfrom _ h
      simp only [tabFind]
      rw [if_neg (by omega), if_neg (by omega), ih hr h]

/-- A canonical table lists the keys whose value is not the default. -/
theorem tabGet_ne_iff {α : Type} [DecidableEq α] {t : Tab α} {d : α} (ht : tabCanon t d = true) (k : Nat) : tabGet t k d ≠ d ↔ ∃ p ∈ t, p.1 = k := by
  obtain ⟨hrising, hne⟩ := (tabCanon_iff t d).1 ht
  constructor
  · intro h
    unfold tabGet at h
    cases hf : tabFind t k with
    | none => rw [hf] at h; exact absurd rfl h
    | some a => exact ⟨(k, a), mem_of_tabFind hf, rfl⟩
  · rintro ⟨⟨j, a⟩, hp, rfl⟩
    rw [tabGet, tabFind_of_mem hrising hp]
    exact hne _ hp

/-- Setting the keys of a list that a test lets through. -/
theorem tabGet_foldl_tabSet {skip : Nat → Bool} {v : Nat → Nat} (ls : List Nat) {t : Tab Nat} (ht : tabRising t = true) (k : Nat) :
    tabGet (ls.foldl (fun t l => if skip l then t else tabSet t l (v l) 0) t) k 0 = if k ∈ ls ∧ skip k = false then v k else tabGet t k 0 := by
  induction ls generalizing t with
  | nil => simp
  | cons l ls ih =>
    rw [List.foldl_cons]
    cases hs : skip l with
    | true =>
      rw [if_pos rfl, ih ht]
      by_cases hkl : k = l
      · subst hkl; simp [hs]
      · simp [hkl]
    | false =>
      rw [if_neg Bool.false_ne_true, ih (tabRising_tabSet _ _ _ ht), tabGet_tabSet _ _ _ _ _ ht]
      by_cases hkl : k = l
      · subst hkl; simp [hs]
      · simp [hkl]

/-! ## The lanes of a mask -/

theorem getLsbD_two_pow (n : Nat) {l : Nat} (hl : l < 64) : (BitVec.ofNat 64 (2 ^ n)).getLsbD l = decide (n = l) := by
  rw [BitVec.getLsbD_ofNat, Nat.testBit_two_pow]
  simp [hl]

theorem getLsbD_icntMask (g : Group) {l : Nat} (hl : l < 64) : (icntMask g).getLsbD l = g.icnt.any (fun p => decide (p.1 = l)) := by
  have hfold : ∀ (t : Tab Nat) (m : Mask), (t.foldl (fun m p => m ||| BitVec.ofNat 64 (2 ^ p.1)) m).getLsbD l =
      (m.getLsbD l || t.any (fun p => decide (p.1 = l))) := fun t => by
    induction t with
    | nil => simp
    | cons p r ih =>
      intro m
      rw [List.foldl_cons, ih, BitVec.getLsbD_or, getLsbD_two_pow _ hl, List.any_cons, Bool.or_assoc]
  rw [icntMask, hfold, show (0 : Mask).getLsbD l = false from BitVec.getLsbD_zero, Bool.false_or]

theorem exists_lane_iff {m : Mask} : m ≠ 0 ↔ ∃ l, l < 64 ∧ m.getLsbD l = true := by
  constructor
  · intro h
    by_contra hno
    refine h (BitVec.eq_of_getLsbD_eq fun l hl => ?_)
    rw [show (0 : Mask).getLsbD l = false from BitVec.getLsbD_zero, Bool.eq_false_iff]
    exact fun hm => hno ⟨l, hl, hm⟩
  · rintro ⟨l, -, hl⟩ rfl
    simp at hl

theorem anyActive_iff (g : Group) : anyActive g = true ↔ ∃ l, l < 64 ∧ activeAt g l = true := by
  rw [anyActive, decide_eq_true_eq, exists_lane_iff]
  rfl

/-- A lane is active when it may be and its ICNT is 0 (R86). -/
theorem activeAt_eq {g : Group} (hg : tabCanon g.icnt 0 = true) {l : Nat} (hl : l < 64) : activeAt g l = (eligibleAt g l && decide (icntAt g l = 0)) := by
  have hicnt : (icntMask g).getLsbD l = decide (icntAt g l ≠ 0) := by
    rw [getLsbD_icntMask g hl, Bool.eq_iff_iff, decide_eq_true_iff, List.any_eq_true, icntAt, tabGet_ne_iff hg]
    simp only [decide_eq_true_eq]
  unfold activeAt activeMask eligibleAt doneAt
  cases g.only with
  | none =>
    simp only [BitVec.getLsbD_and, BitVec.getLsbD_not, hicnt, hl, decide_true, Bool.true_and, decide_not, Bool.not_not]
    ac_rfl
  | some m =>
    simp only [BitVec.getLsbD_and, BitVec.getLsbD_not, hicnt, hl, decide_true, Bool.true_and, decide_not, Bool.not_not]
    ac_rfl

/-! ## ICNT after a structured instruction -/

section
variable {g : Group} (hg : tabCanon g.icnt 0 = true) (f : Nat → Bool → Nat → Nat)

/-- What a structured instruction gives lane l, if it has not exited. -/
def newIcnt (g : Group) (f : Nat → Bool → Nat → Nat) (l : Nat) : Nat := f l (activeAt g l) (icntAt g l)

/-- Only the ICNT table changes. -/
theorem mapIcnt_eq : mapIcnt g f = { g with icnt := (mapIcnt g f).icnt } := rfl

include hg

theorem tabGet_mapIcnt (l : Nat) : tabGet (mapIcnt g f).icnt l 0 = if l < 64 ∧ doneAt g l = false then newIcnt g f l else icntAt g l := by
  rw [mapIcnt, tabGet_foldl_tabSet _ (tabRising_of_canon hg)]
  simp only [List.mem_range]
  rfl

theorem icntAt_mapIcnt {l : Nat} (hl : l < 64) : icntAt (mapIcnt g f) l = icntAfter g (newIcnt g f) l := by
  rw [icntAt, tabGet_mapIcnt hg, icntAfter]
  cases doneAt g l <;> simp [hl]

theorem icnt_mapIcnt_canon : tabCanon (mapIcnt g f).icnt 0 = true :=
  of_foldl (P := fun t : Tab Nat => tabCanon t 0 = true) hg fun _ _ ht => of_branches
    (P := fun t : Tab Nat => tabCanon t 0 = true) ht (tabCanon_tabSet _ _ _ _ ht)

theorem anyActive_mapIcnt : anyActive (mapIcnt g f) = true ↔ someActive g (newIcnt g f) := by
  rw [anyActive_iff, someActive]
  refine exists_congr fun l => and_congr_right fun hl => ?_
  rw [activeAt_eq (icnt_mapIcnt_canon hg f) hl, icntAt_mapIcnt hg f hl, show eligibleAt (mapIcnt g f) l = eligibleAt g l from rfl,
    Bool.and_eq_true, decide_eq_true_eq]
  refine and_congr_right fun he => ?_
  simp only [eligibleAt, Bool.and_eq_true, Bool.not_eq_true'] at he
  rw [icntAfter, he.1, if_neg Bool.false_ne_true]

/-- An ICNT beyond 65,535 is one that the instruction gives (R96). -/
theorem icntOver_mapIcnt (hmax : ∀ p ∈ g.icnt, p.2 ≤ 65535) :
    icntOver (mapIcnt g f) = true ↔ ∃ l, l < 64 ∧ doneAt g l = false ∧ 65535 < newIcnt g f l := by
  have hold (l : Nat) : icntAt g l ≤ 65535 := tabAll.get (P := (· ≤ 65535)) hmax l (by decide)
  rw [icntOver, List.any_eq_true]
  simp only [decide_eq_true_eq]
  constructor
  · rintro ⟨⟨l, n⟩, hp, hn⟩
    have hget := tabGet_mapIcnt hg f l
    rw [tabGet, tabFind_of_mem (tabRising_of_canon (icnt_mapIcnt_canon hg f)) hp, Option.getD_some] at hget
    have hbound := hold l
    split at hget
    · next h => exact ⟨l, h.1, h.2, hget ▸ hn⟩
    · dsimp only at hn
      omega
  · rintro ⟨l, hl, hd, hn⟩
    have hget : icntAt (mapIcnt g f) l = newIcnt g f l := by rw [icntAt_mapIcnt hg f hl, icntAfter, hd, if_neg Bool.false_ne_true]
    obtain ⟨⟨k, n⟩, hp, rfl⟩ := (tabGet_ne_iff (icnt_mapIcnt_canon hg f) l).1 (by
      change icntAt (mapIcnt g f) l ≠ 0
      omega)
    refine ⟨_, hp, ?_⟩
    rw [icntAt, tabGet, tabFind_of_mem (tabRising_of_canon (icnt_mapIcnt_canon hg f)) hp] at hget
    rw [Option.getD_some] at hget
    rwa [hget]

end

/-! ## Where the group goes -/

section
variable {s : State} {gid : Nat} (hcur : s.cur = .group gid)
include hcur

theorem curGroup_eq : curGroup s = getGroup s gid := by rw [curGroup, groupOfCur, hcur]

/-- A structured instruction that leaves the group g' and takes its branch or goes on. -/
theorem structured_eq {g' : Group} (hpc : g'.pc = (getGroup s gid).pc) (taken : Bool) (i : BitVec 14) :
    structured s g' taken i = setGroup s gid (groupDone g' (if taken then relative s i.toInt else (getGroup s gid).pc + 4)) := by
  have hpcOf : pcOf (setGroup s gid g') = pcOf s := by simp only [pcOf, setGroup_cur, hcur, getGroup_setGroup_same, hpc]
  have hrel : relPc (setGroup s gid g') i.toInt = relative s i.toInt := by rw [← relPc_eq_relative, relPc, relPc, hpcOf]
  unfold structured
  dsimp only
  rw [groupOfCur, hcur, hrel, goTo_group _ gid _ ((setGroup_cur ..).trans hcur), advance_group _ gid 4 ((setGroup_cur ..).trans hcur),
    getGroup_setGroup_same, setGroup_setGroup, setGroup_setGroup, hpc]
  cases taken <;> rfl

/-- It changes the ICNT table of its group and the PC, and nothing else of the module. -/
theorem structuredTo_structured {g' : Group} {new : Nat → Nat} {target : DWord} (taken : Bool) (i : BitVec 14)
    (hg' : g' = { getGroup s gid with icnt := g'.icnt }) (hnew : ∀ l, l < 64 → icntAt g' l = icntAfter (getGroup s gid) new l)
    (htarget : target = if taken then relative s i.toInt else (getGroup s gid).pc + 4) : structuredTo gid new target s (structured s g' taken i) := by
  rw [structured_eq hcur (by rw [hg']), ← htarget]
  refine ⟨⟨rfl, fun k hk => tabFind_tabPut_other _ _ hk⟩, fun l hl => ?_, ?_⟩
  · rw [getGroup_setGroup_same]
    exact hnew l hl
  · rw [getGroup_setGroup_same, hg']
    rfl

variable (hcanon : tabCanon (getGroup s gid).icnt 0 = true)
include hcanon

/-- One that changes every ICNT by f. -/
theorem structuredTo_mapIcnt (f : Nat → Bool → Nat → Nat) {target : DWord} (taken : Bool) (i : BitVec 14)
    (htarget : target = if taken then relative s i.toInt else (getGroup s gid).pc + 4) :
    structuredTo gid (newIcnt (getGroup s gid) f) target s (structured s (mapIcnt (getGroup s gid) f) taken i) :=
  structuredTo_structured hcur taken i (mapIcnt_eq f) (fun _ hl => icntAt_mapIcnt hcanon f hl) htarget

/-- IFP and ELSE: on while a lane is active, else to the target. -/
theorem structuredTo_unless (f : Nat → Bool → Nat → Nat) (i : BitVec 14) :
    let t := structured s (mapIcnt (getGroup s gid) f) (!anyActive (mapIcnt (getGroup s gid) f)) i
    (someActive (getGroup s gid) (newIcnt (getGroup s gid) f) → structuredTo gid (newIcnt (getGroup s gid) f) ((getGroup s gid).pc + 4) s t) ∧
    (¬someActive (getGroup s gid) (newIcnt (getGroup s gid) f) → structuredTo gid (newIcnt (getGroup s gid) f) (relative s i.toInt) s t) := by
  have hact := anyActive_mapIcnt hcanon f
  refine ⟨fun h => ?_, fun h => ?_⟩
  · exact structuredTo_mapIcnt hcur hcanon f _ i (by rw [hact.2 h]; rfl)
  · exact structuredTo_mapIcnt hcur hcanon f _ i (by rw [Bool.eq_false_iff.2 (fun ha => h (hact.1 ha))]; rfl)

end

/-! ## The instructions (R95, R96) -/

/-- What IFP gives a lane: an active one goes to the side that the predicate says. -/
def ifpIcnt (g : Group) (p : Nat) (l : Nat) (act : Bool) (n : Nat) : Nat := if act then (if g.regs.readP p l then 0 else 1) else n + 1

def elseIcnt (_ : Nat) (act : Bool) (n : Nat) : Nat := if act then 1 else if n = 1 then 0 else n

def loopIcnt (_ : Nat) (act : Bool) (n : Nat) : Nat := if act then n else n + 2

/-- What ENDL gives a lane: those that continued take part again. -/
def endlIcnt (_ : Nat) (act : Bool) (n : Nat) : Nat := if act then n else if n = 1 then 0 else n

/-- What ENDL gives a lane when the loop is over. -/
def leaveIcnt (_ : Nat) (_ : Bool) (n : Nat) : Nat := if 2 ≤ n then n - 2 else n

section
variable {s : State} {gid : Nat} (hcur : s.cur = .group gid) (hg : icntCanon (getGroup s gid)) {p : BitVec 7} {i : BitVec 14}
include hcur

theorem exec_ifp (h : canIssue (.ifp p i) s) :
    let g' := mapIcnt (getGroup s gid) (ifpIcnt (getGroup s gid) p.toNat)
    exec (.ifp p i) s = .next (settle s (if icntOver g' then .error (trapOf 0x02 1) else .ok (structured s g' (!anyActive g') i))) := by
  rw [exec_of_canIssue h rfl]
  simp only [show curGroup s = getGroup s gid from curGroup_eq hcur]
  rfl

theorem exec_loop (h : canIssue (.loop i) s) :
    let g := getGroup s gid
    let g' := mapIcnt g loopIcnt
    exec (.loop i) s = .next (settle s (if !anyActive g then .ok (structured s g true i) else if icntOver g' then .error (trapOf 0x02 1)
      else .ok (structured s g' false i))) := by
  rw [exec_of_canIssue h rfl]
  simp only [show curGroup s = getGroup s gid from curGroup_eq hcur]
  rfl

theorem exec_endl (h : canIssue (.endl i) s) :
    let g' := mapIcnt (getGroup s gid) endlIcnt
    exec (.endl i) s = .next (settle s (if anyActive g' then .ok (structured s g' true i) else .ok (structured s (mapIcnt g' leaveIcnt) false i))) := by
  rw [exec_of_canIssue h rfl]
  simp only [show curGroup s = getGroup s gid from curGroup_eq hcur]
  rfl

/-- LOOP with no active lane skips the loop with ICNT as it was. -/
theorem loop_skips (h : canIssue (.loop i) s) (ha : ¬∃ l, l < 64 ∧ activeAt (getGroup s gid) l = true) :
    ∃ t, exec (.loop i) s = .next t ∧ structuredTo gid (icntAt (getGroup s gid)) (relative s i.toInt) s t := by
  have hno : anyActive (getGroup s gid) = false := Bool.eq_false_iff.2 fun h => ha ((anyActive_iff _).1 h)
  refine ⟨_, (exec_loop hcur h).trans (by rw [hno, Bool.not_false, if_pos rfl, settle_ok]), ?_⟩
  exact structuredTo_structured hcur true i rfl (fun l _ => by rw [icntAfter, ite_self]) rfl

include hg

/-- IFP goes on where every count stays in range. -/
theorem exec_ifp_inRange (h : canIssue (.ifp p i) s)
    (hle : ∀ l, l < 64 → doneAt (getGroup s gid) l = false → newIcnt (getGroup s gid) (ifpIcnt (getGroup s gid) p.toNat) l ≤ 65535) :
    let g' := mapIcnt (getGroup s gid) (ifpIcnt (getGroup s gid) p.toNat)
    exec (.ifp p i) s = .next (structured s g' (!anyActive g') i) := by
  obtain ⟨hcanon, hmax⟩ := hg
  dsimp only
  rw [exec_ifp hcur h, if_neg, settle_ok]
  rw [icntOver_mapIcnt hcanon _ hmax]
  rintro ⟨l, hl, hd, hlt⟩
  exact absurd (hle l hl hd) (by omega)

theorem ifp_traps (h : canIssue (.ifp p i) s) (hover : ∃ l, l < 64 ∧ doneAt (getGroup s gid) l = false ∧ activeAt (getGroup s gid) l = false ∧
    65535 < icntAt (getGroup s gid) l + 1) : trapsWith (.ifp p i) { cause := 0x02, aux := 1 } s := by
  obtain ⟨hcanon, hmax⟩ := hg
  obtain ⟨l, hl, hd, ha, hlt⟩ := hover
  refine (exec_ifp hcur h).trans ?_
  rw [if_pos ((icntOver_mapIcnt hcanon _ hmax).2 ⟨l, hl, hd, by simpa [newIcnt, ifpIcnt, ha] using hlt⟩)]
  rfl

/-- LOOP opens where a lane is active and every count stays in range. -/
theorem exec_loop_inRange (h : canIssue (.loop i) s) (ha : anyActive (getGroup s gid) = true)
    (hle : ∀ l, l < 64 → doneAt (getGroup s gid) l = false → activeAt (getGroup s gid) l = false → icntAt (getGroup s gid) l + 2 ≤ 65535) :
    exec (.loop i) s = .next (structured s (mapIcnt (getGroup s gid) loopIcnt) false i) := by
  obtain ⟨hcanon, hmax⟩ := hg
  rw [exec_loop hcur h, ha, Bool.not_true, if_neg Bool.false_ne_true, if_neg, settle_ok]
  rw [icntOver_mapIcnt hcanon _ hmax]
  rintro ⟨l, hl, hd, hlt⟩
  have hold : icntAt (getGroup s gid) l ≤ 65535 := tabAll.get (P := (· ≤ 65535)) hmax l (by decide)
  have hle' := hle l hl hd
  unfold newIcnt loopIcnt at hlt
  cases hal : activeAt (getGroup s gid) l with
  | true => rw [hal, if_pos rfl] at hlt; omega
  | false => rw [hal, if_neg Bool.false_ne_true] at hlt; exact absurd (hle' hal) (by omega)

theorem loop_traps (h : canIssue (.loop i) s) (ha : ∃ l, l < 64 ∧ activeAt (getGroup s gid) l = true)
    (hover : ∃ l, l < 64 ∧ doneAt (getGroup s gid) l = false ∧ activeAt (getGroup s gid) l = false ∧ 65535 < icntAt (getGroup s gid) l + 2) :
    trapsWith (.loop i) { cause := 0x02, aux := 1 } s := by
  obtain ⟨hcanon, hmax⟩ := hg
  obtain ⟨l, hl, hd, hal, hlt⟩ := hover
  refine (exec_loop hcur h).trans ?_
  rw [(anyActive_iff _).2 ha, Bool.not_true, if_neg Bool.false_ne_true,
    if_pos ((icntOver_mapIcnt hcanon _ hmax).2 ⟨l, hl, hd, by simpa [newIcnt, loopIcnt, hal] using hlt⟩)]
  rfl

theorem loop_opens (h : canIssue (.loop i) s)
    (hle : ∀ l, l < 64 → doneAt (getGroup s gid) l = false → activeAt (getGroup s gid) l = false → icntAt (getGroup s gid) l + 2 ≤ 65535) :
    ∃ t, exec (.loop i) s = .next t ∧
      ((∃ l, l < 64 ∧ activeAt (getGroup s gid) l = true) → structuredTo gid (newIcnt (getGroup s gid) loopIcnt) ((getGroup s gid).pc + 4) s t) ∧
      ((¬∃ l, l < 64 ∧ activeAt (getGroup s gid) l = true) → structuredTo gid (icntAt (getGroup s gid)) (relative s i.toInt) s t) := by
  by_cases ha : ∃ l, l < 64 ∧ activeAt (getGroup s gid) l = true
  · exact ⟨_, exec_loop_inRange hcur hg h ((anyActive_iff _).2 ha) hle, fun _ => structuredTo_mapIcnt hcur hg.1 _ false i rfl, fun hno => absurd ha hno⟩
  · obtain ⟨t, ht, hto⟩ := loop_skips hcur h ha
    exact ⟨t, ht, fun h => absurd h ha, fun _ => hto⟩

/-- ENDL goes back while a lane is active, and else leaves the loop. -/
theorem endl_repeats_or_leaves (h : canIssue (.endl i) s) :
    let new := newIcnt (getGroup s gid) endlIcnt
    ∃ t, exec (.endl i) s = .next t ∧ (someActive (getGroup s gid) new → structuredTo gid new (relative s i.toInt) s t) ∧
      (¬someActive (getGroup s gid) new → structuredTo gid (fun l => if 2 ≤ new l then new l - 2 else new l) ((getGroup s gid).pc + 4) s t) := by
  obtain ⟨hcanon, -⟩ := hg
  intro new
  have hact := anyActive_mapIcnt hcanon endlIcnt
  by_cases ha : someActive (getGroup s gid) new
  · exact ⟨_, (exec_endl hcur h).trans (by rw [if_pos (hact.2 ha), settle_ok]), fun _ => structuredTo_mapIcnt hcur hcanon _ true i rfl, fun hno => absurd ha hno⟩
  · refine ⟨_, (exec_endl hcur h).trans (by rw [if_neg (fun h => ha (hact.1 h)), settle_ok]), fun h => absurd h ha, fun _ => ?_⟩
    refine structuredTo_structured hcur false i rfl (fun l hl => ?_) rfl
    rw [icntAt_mapIcnt (icnt_mapIcnt_canon hcanon _) _ hl]
    unfold icntAfter
    rw [show doneAt (mapIcnt (getGroup s gid) endlIcnt) l = doneAt (getGroup s gid) l from rfl]
    cases hd : doneAt (getGroup s gid) l with
    | true => simp only [if_true, icntAt_mapIcnt hcanon _ hl, icntAfter, hd]
    | false => simp only [Bool.false_eq_true, if_false, newIcnt, leaveIcnt, icntAt_mapIcnt hcanon _ hl, icntAfter, hd, new]

end

end Sys2Proof.Machine

namespace Sys2Proof.Claim

open Machine

/-- Settles O18: each instruction maps ICNT lane by lane over a canonical table, from which the active lanes and the range follow. -/
theorem structuredControlChangesIcnt : Obligations.StructuredControlChangesIcnt := by
  unfold Obligations.StructuredControlChangesIcnt
  refine ⟨fun p i n s gid hcur => ?moves, fun p i s gid hcur hg => ⟨ifp_traps hcur hg, loop_traps hcur hg⟩⟩
  case moves =>
    intro g old act onP next ifp els endl hg
    have hregs : regsOf s = g.regs := by rw [regsOf, hcur]
    have hgroup : curGroup s = g := curGroup_eq hcur
    have hifp : ifp = newIcnt g (ifpIcnt g p.toNat) := by
      funext l
      simp only [ifp, hregs]
      rfl
    have honP (l : Nat) : onP l = (act l && g.regs.readP p.toNat l) := by simp only [onP, hregs]
    have hto := structuredTo_mapIcnt hcur hg.1
    refine ⟨fun h hle => ?ifp, fun h => ?els, fun h => ?fi, loop_opens hcur hg, endl_repeats_or_leaves hcur hg, fun h => ?brkp, fun h => ?contp⟩
    case ifp =>
      rw [hifp] at hle ⊢
      exact ⟨_, exec_ifp_inRange hcur hg h hle, structuredTo_unless hcur hg.1 _ i⟩
    case els =>
      refine ⟨_, exec_of_canIssue h rfl, ?_⟩
      rw [settle_ok, hgroup]
      exact structuredTo_unless hcur hg.1 elseIcnt i
    case fi =>
      refine ⟨_, exec_of_canIssue h rfl, ?_⟩
      rw [settle_ok, hgroup]
      exact hto _ false 0 rfl
    case brkp =>
      refine ⟨_, exec_of_canIssue h rfl, ?_⟩
      simp only [honP]
      rw [settle_ok, hgroup]
      exact hto _ false 0 rfl
    case contp =>
      refine ⟨_, exec_of_canIssue h rfl, ?_⟩
      simp only [honP]
      rw [settle_ok, hgroup]
      exact hto _ false 0 rfl

end Sys2Proof.Claim
end

section
/-! EXIT (03_group R104; 06_core_matrix R191): the end of a region, and what EXIT does in a group and in an access slice. -/

namespace Sys2Proof.Machine

open Claim

/-! ## The end of a region (R98, R191) -/

/-- Streams push entries and end: nothing but the queues and the slice changes. -/
theorem pumpStreams_frame (g : Group) : ∃ q axp, pumpStreams g = { g with q := q, axp := axp } := by
  unfold pumpStreams
  split
  · exact ⟨g.q, g.axp, rfl⟩
  · next a _ =>
    exact of_foldl (P := fun g' : Group => ∃ q axp, g' = { g with q := q, axp := axp }) ⟨g.q, g.axp, rfl⟩ fun g' p h => by
      obtain ⟨q, axp, rfl⟩ := h
      exact ⟨_, _, rfl⟩

theorem endRegionG_frame (g : Group) : ∃ q axp, endRegionG g = { g with regv := false, q := q, axp := axp } := by
  obtain ⟨q, axp, h⟩ := pumpStreams_frame { g with regv := false, q := g.q.map (fun p => (p.1, { p.2 with entries := p.2.entries.drop p.2.consumed, consumed := 0 })) }
  exact ⟨q, axp, h⟩

/-- The end of a region changes its group's queues, its slice and REGV. -/
theorem endRegion_group {s : State} {gid : Nat} (hcur : s.cur = .group gid) : groupOnly gid s (endRegion s) ∧ (endRegion s).cur = .group gid ∧
    ∃ q axp, getGroup (endRegion s) gid = { getGroup s gid with regv := false, q := q, axp := axp } := by
  unfold endRegion
  rw [hcur]
  dsimp only
  split
  · obtain ⟨q, axp, h⟩ := endRegionG_frame (getGroup s gid)
    exact ⟨⟨rfl, fun k hk => tabFind_tabPut_other _ _ hk⟩, hcur, q, axp, by rw [getGroup_modGroup_same, h]⟩
  · next hregv =>
    exact ⟨⟨rfl, fun _ _ => rfl⟩, hcur, (getGroup s gid).q, (getGroup s gid).axp, by rw [← Bool.eq_false_iff.2 hregv]⟩

theorem groupOnly_trans {gid : Nat} {s t u : State} (h : groupOnly gid s t) (h' : groupOnly gid t u) : groupOnly gid s u := by
  obtain ⟨hst, hso⟩ := h
  obtain ⟨htu, hto⟩ := h'
  exact ⟨by rw [htu, hst], fun k hk => (hto k hk).trans (hso k hk)⟩

theorem groupOnly_setGroup (s : State) (gid : Nat) (g : Group) : groupOnly gid s (setGroup s gid g) := ⟨rfl, fun _ hk => tabFind_tabPut_other _ _ hk⟩

/-! ## EXIT (R104) -/

/-- The group before an EXIT goes on: DONE is set in the active lanes. -/
def exiting (s : State) (gid : Nat) : State :=
  if anyActive (getGroup s gid) then modGroup (endRegion s) gid (fun g => { g with done := g.done ||| activeMask g }) else s

theorem exec_exit_group {s : State} {gid : Nat} (hcur : s.cur = .group gid) (h : canIssue .exit s) :
    exec .exit s = .next (let t := advance 4 (exiting s gid)
      if (getGroup t gid).done = allLanes then tryBarriers (modGroup t gid (fun g => { g with run := .done })) (tagOf gid) else t) := by
  rw [exec_of_canIssue h rfl, settle_ok, hcur]
  rfl

section
variable {s : State} {gid : Nat} (hcur : s.cur = .group gid)
include hcur

theorem exiting_active (ha : activeMask (getGroup s gid) ≠ 0) : groupOnly gid s (exiting s gid) ∧ (exiting s gid).cur = .group gid ∧
    ∃ q axp, getGroup (exiting s gid) gid =
      { getGroup s gid with done := (getGroup s gid).done ||| activeMask (getGroup s gid), regv := false, q := q, axp := axp } := by
  obtain ⟨honly, hcur', q, axp, hg⟩ := endRegion_group hcur
  rw [exiting, anyActive, if_pos (decide_eq_true ha)]
  refine ⟨groupOnly_trans honly (groupOnly_setGroup ..), hcur', q, axp, ?_⟩
  rw [getGroup_modGroup_same, hg]
  rfl

/-- An EXIT with active lanes leaves the group with DONE set in them, without a region. -/
theorem advance_exiting (ha : activeMask (getGroup s gid) ≠ 0) : let t := advance 4 (exiting s gid)
    groupOnly gid s t ∧ getGroup t gid = { groupDone (getGroup s gid) ((getGroup s gid).pc + 4) with
      done := (getGroup s gid).done ||| activeMask (getGroup s gid), regv := false, q := (getGroup t gid).q, axp := (getGroup t gid).axp } := by
  obtain ⟨honly, hcur', q, axp, hg⟩ := exiting_active hcur ha
  dsimp only
  rw [advance_group _ gid 4 hcur']
  refine ⟨groupOnly_trans honly (groupOnly_setGroup ..), ?_⟩
  rw [getGroup_setGroup_same, hg]
  rfl

theorem exit_goesOn (h : canIssue .exit s) (ha : activeMask (getGroup s gid) ≠ 0)
    (hd : (getGroup s gid).done ||| activeMask (getGroup s gid) ≠ allLanes) : ∃ t, exec .exit s = .next t ∧ groupOnly gid s t ∧
      getGroup t gid = { groupDone (getGroup s gid) ((getGroup s gid).pc + 4) with
        done := (getGroup s gid).done ||| activeMask (getGroup s gid), regv := false, q := (getGroup t gid).q, axp := (getGroup t gid).axp } := by
  obtain ⟨honly, hg⟩ := advance_exiting hcur ha
  refine ⟨_, ?_, honly, hg⟩
  rw [exec_exit_group hcur h]
  dsimp only
  rw [if_neg]
  rw [hg]
  exact hd

theorem exit_finishes (h : canIssue .exit s) (ha : activeMask (getGroup s gid) ≠ 0)
    (hd : (getGroup s gid).done ||| activeMask (getGroup s gid) = allLanes) : ∃ u, exec .exit s = .next (tryBarriers u (tagOf gid)) ∧ groupOnly gid s u ∧
      getGroup u gid = { groupDone (getGroup s gid) ((getGroup s gid).pc + 4) with
        done := allLanes, run := .done, regv := false, q := (getGroup u gid).q, axp := (getGroup u gid).axp } := by
  obtain ⟨honly, hg⟩ := advance_exiting hcur ha
  refine ⟨modGroup (advance 4 (exiting s gid)) gid (fun g => { g with run := .done }), ?_, groupOnly_trans honly (groupOnly_setGroup ..), ?_⟩
  · rw [exec_exit_group hcur h]
    dsimp only
    rw [if_pos]
    rw [hg]
    exact hd
  · rw [getGroup_modGroup_same, hg, hd]

theorem exit_inactive (h : canIssue .exit s) (ha : activeMask (getGroup s gid) = 0) (hd : (getGroup s gid).done ≠ allLanes) :
    ∃ t, exec .exit s = .next t ∧ groupOnly gid s t ∧ getGroup t gid = groupDone (getGroup s gid) ((getGroup s gid).pc + 4) := by
  have hsame : exiting s gid = s := by rw [exiting, anyActive, decide_eq_false (not_not.2 ha), if_neg Bool.false_ne_true]
  have hg : getGroup (advance 4 s) gid = groupDone (getGroup s gid) ((getGroup s gid).pc + 4) := by
    rw [advance_group s gid 4 hcur, getGroup_setGroup_same]
    rfl
  refine ⟨advance 4 s, ?_, ?_, hg⟩
  · rw [exec_exit_group hcur h, hsame]
    dsimp only
    rw [if_neg]
    rw [hg]
    exact hd
  · rw [advance_group s gid 4 hcur]
    exact groupOnly_setGroup ..

end

theorem exit_slice {s : State} {gid : Nat} (hcur : s.cur = .axp gid) (h : canIssue .exit s) : ∃ t, exec .exit s = .next t ∧ groupOnly gid s t ∧
    getGroup t gid = { getGroup s gid with axp := some { getAxp s gid with running := false, pc := (getAxp s gid).pc + 4, mlimit := false, mwait := none } } := by
  have hgo : advance 4 (setAxp s gid { getAxp s gid with running := false }) =
      setAxp s gid { getAxp s gid with running := false, pc := (getAxp s gid).pc + 4, mlimit := false, mwait := none } := by
    have hcur' : (setAxp s gid { getAxp s gid with running := false }).cur = .axp gid := hcur
    have hpc : nextPc (setAxp s gid { getAxp s gid with running := false }) 4 = (getAxp s gid).pc + 4 := by
      simp only [nextPc, pcOf, hcur', getAxp_setAxp]
      rfl
    rw [advance_eq_goTo (onRegisters_iff.2 (.inr (.inl ⟨gid, hcur'⟩))) (by rw [hcur']; exact fun _ h => by cases h), goTo_axp _ gid _ hcur', setAxp_setAxp,
      hpc, getAxp_setAxp]
  refine ⟨_, exec_of_canIssue h rfl, ?_⟩
  rw [settle_ok, hcur]
  dsimp only
  rw [hgo]
  exact ⟨groupOnly_setGroup .., getGroup_setAxp ..⟩

end Sys2Proof.Machine

namespace Sys2Proof.Claim

open Machine

/-- Settles O19: EXIT comes down to one change of its group and to going on; what ends with it is decided by the DONE mask that results. -/
theorem exitSetsDone : Obligations.ExitSetsDone := by
  unfold Obligations.ExitSetsDone
  intro s gid h
  exact ⟨fun hcur => ⟨exit_goesOn hcur h, exit_inactive hcur h, exit_finishes hcur h⟩, fun hcur => exit_slice hcur h⟩

end Sys2Proof.Claim
end

section
/-! TRAP (03_group R110; 07_core_sched_traps R246-R250): what a write at a VA leaves, what a trap whose record can be written leaves, and the instruction that takes one. -/

namespace Sys2Proof.Machine

open Claim

/-! ## A write at a VA (R521) -/

/-- Writes of global memory leave groups, works, teams, matrix queues and claims. -/
theorem sameClaims_locWriteRun {ws : List (Loc × Byte)} (hglob : ∀ w ∈ ws, ∃ pa, w.1 = .glob pa) (s : State) (by' : Option Nat) (run : List (Nat × Byte)) :
    SameClaims s (locWriteRun s by' ws run) := by
  induction ws generalizing s run with
  | nil =>
    unfold locWriteRun
    split
    · exact .refl s
    · exact sameClaims_homeWrite ..
  | cons w ws ih =>
    obtain ⟨l, b⟩ := w
    obtain ⟨pa, rfl : l = .glob pa⟩ := hglob _ (List.mem_cons_self ..)
    have ih := fun s run => ih (fun w hw => hglob w (List.mem_cons_of_mem _ hw)) s run
    cases run with
    | nil =>
      simp only [locWriteRun]
      exact ih s _
    | cons p run =>
      simp only [locWriteRun]
      exact .ite (ih s _) ((sameClaims_homeWrite ..).trans (ih _ _))

theorem keeps_writeVirt (s : State) (sp : Space) (va : Nat) (bs : List Byte) : Keeps s (writeVirt s sp va bs) := by
  unfold writeVirt
  refine (keeps_translateRun s none sp va bs.length .write).bind fun (ps, t) ht => ?_
  dsimp only at ht ⊢
  split
  · exact returns_error _
  · refine returns_ok (ht.trans (sameClaims_locWriteRun (fun w hw => ?_) t none []))
    obtain ⟨pa, -, hpa⟩ := List.mem_map.1 (List.of_mem_zip hw).1
    exact ⟨pa, hpa.symm⟩

/-! ## A trap whose record can be written (R249, R250) -/

theorem length_leBytes (n v : Nat) : (leBytes n v).length = n := by
  induction n generalizing v with
  | zero => rfl
  | succ n ih => rw [leBytes, List.length_cons, ih]

theorem length_recBytes (r : TrapRec) (gid pl : Nat) : (r.bytes gid pl).length = 64 := by
  simp only [TrapRec.bytes, List.length_append, length_leBytes]

/-- The record as it is written: with its address, the region's state and the time, unless it has waited to be written. -/
def recordOf (s : State) (gid : Nat) (r : TrapRec) : TrapRec :=
  if decide ((getGroup s gid).recDue = some r) then r
  else { r with addr := BitVec.ofNat 64 (recordVa s gid), rgv := (getGroup s gid).regv, cyc := BitVec.ofNat 64 (s.time / 2) }

/-- A group that is TRAPPED with a record. -/
def trappedWith (r : TrapRec) (g : Group) : Group :=
  { g with run := .trapped, trap := some r, deferred := none, recDue := none, noticeDue := true, pc := r.pc, wdog := 0, mlimit := false, mwait := none }

/-- A trap whose record can be written changes its group alone. -/
theorem trapGroupRec_writable {s : State} {gid : Nat} (hw : recordWritable s gid) (r : TrapRec) :
    ∃ t, SameClaims s t ∧ trapGroupRec s gid r = modGroup t gid (trappedWith (recordOf s gid r)) := by
  obtain ⟨⟨_, t⟩, ht⟩ := hw ((recordOf s gid r).bytes gid 0) (length_recBytes ..)
  refine ⟨t, (keeps_writeVirt ..).of_ok _ ht, ?_⟩
  unfold recordOf at ht ⊢
  unfold trapGroupRec
  dsimp only
  rw [ht]
  rfl

/-- The group after it, and the others. -/
theorem getGroup_trapGroup_writable {s : State} {gid : Nat} (hw : recordWritable s gid) (tr : Trap) (pc : DWord) : ∃ r,
    r = recordOf s gid (mkRec s (getGroup s gid) tr pc (getGroup s gid).deferred.isSome) ∧
    getGroup (trapGroup s gid tr pc) gid = trappedWith r (getGroup s gid) ∧
    ∀ k, k ≠ gid → tabFind (trapGroup s gid tr pc).groups k = tabFind s.groups k := by
  obtain ⟨t, ht, he⟩ := trapGroupRec_writable hw (mkRec s (getGroup s gid) tr pc (getGroup s gid).deferred.isSome)
  refine ⟨_, rfl, ?_, fun k hk => ?_⟩
  · rw [trapGroup, he, getGroup_modGroup_same]
    exact congrArg (trappedWith _) (congrArg (tabGet · gid _) ht.groups)
  · rw [trapGroup, he, ← ht.groups]
    exact tabFind_tabPut_other _ _ hk

/-! ## TRAP (R110) -/

/-- An instruction that ends a region does not run while a trap is deferred (R248). -/
theorem deferred_of_canIssue {i : Instr} {s : State} {gid : Nat} (hcur : s.cur = .group gid) (h : canIssue i s) (hends : endsRegion i.opn = true) :
    (getGroup s gid).deferred = none := by
  obtain ⟨hstops, -⟩ := h
  simpa only [runOnStops, hcur, hends, Bool.true_or, Bool.and_true, Option.isSome_eq_false_iff, Option.isNone_iff_eq_none] using hstops

theorem recordVa_groupOnly {gid : Nat} {s t : State} (h : groupOnly gid s t) (k : Nat) : recordVa t k = recordVa s k := by
  obtain ⟨ht, -⟩ := h
  rw [ht]
  rfl

/-- The user trap of a TRAP instruction. -/
def userTrap (i : BitVec 14) : Trap := { cause := 0x15, aux := i.setWidth 32 }

theorem exec_trap {i : BitVec 14} {s : State} {gid : Nat} (hcur : s.cur = .group gid) (h : canIssue (.trap i) s) :
    exec (.trap i) s = .next (trapGroup (endRegion s) gid (userTrap i) (getGroup s gid).pc) := by
  obtain ⟨-, hcur', q, axp, hg⟩ := endRegion_group hcur
  have hpc : (getGroup (endRegion s) gid).pc = (getGroup s gid).pc := by rw [hg]
  rw [exec_of_canIssue h rfl, settle_ok, ← hpc]
  unfold takeTrap noteError
  rw [if_neg (by decide : ¬ (0x15 : Nat) = 0x0C)]
  dsimp only
  rw [hcur']
  rfl

end Sys2Proof.Machine

namespace Sys2Proof.Claim

open Machine

/-- Settles O21: TRAP is the trap of its group after the end of its region, and a trap whose record can be written changes its group alone. -/
theorem trapTakesUserTrap : Obligations.TrapTakesUserTrap := by
  unfold Obligations.TrapTakesUserTrap
  intro i s gid hcur h hw hdue
  obtain ⟨honly, hcur', q, axp, hg⟩ := endRegion_group hcur
  have hdeferred := deferred_of_canIssue hcur h rfl
  obtain ⟨r, hr, ht, hother⟩ := getGroup_trapGroup_writable hw (userTrap i) (getGroup s gid).pc
  refine ⟨_, r, exec_trap hcur h, ?_⟩
  rw [recordOf, if_neg (by rw [hg]; simp [hdue]), recordVa_groupOnly honly, mkRec, hg] at hr
  obtain ⟨-, hsame⟩ := honly
  rw [ht, hg, hr]
  refine ⟨rfl, rfl, rfl, rfl, rfl, rfl, rfl, rfl, rfl, rfl, rfl, fun k hk => (hother k hk).trans (hsame k hk), ?_, rfl, rfl, rfl, rfl, rfl, rfl, rfl, rfl, rfl⟩
  rw [hdeferred]
  rfl

end Sys2Proof.Claim
end

section
/-! Proofs of the statements on SRD and on the checks of special registers (03_group R90, R109; 14_tenancy R435). -/

namespace Sys2Proof.Machine

open Claim

/-! ## One register in the active lanes -/

theorem laneList_lt_64 (s : State) : ∀ l ∈ laneList s, l < 64 := by
  cases hc : s.cur with
  | group gid => exact laneList_lt hc
  | _ => simp [laneList, hc]

/-- Writing a register in several lanes is one change of the registers. -/
theorem putLanes_setRegs {s : State} (hx : onRegisters s) (d : Nat) (lanes : List Nat) (f : Nat → Word) (r : RegFile) :
    putLanes (setRegs s r) d lanes f = setRegs s (r.putLanes d lanes f) := by
  induction lanes generalizing r with
  | nil => rfl
  | cons l ls ih =>
    calc putLanes (setRegs s r) d (l :: ls) f
        _ = putLanes (setRegs s (r.put d l (f l))) d ls f := by
          rw [putLanes, List.foldl_cons, writeField_eq, regsOf_setRegs hx, setRegs_setRegs]
          rfl
        _ = setRegs s (r.putLanes d (l :: ls) f) := ih _

theorem advance_putLanes {s : State} (hx : onRegisters s) (len d : Nat) (lanes : List Nat) (f : Nat → Word) :
    advance len (putLanes s d lanes f) = advance len (setRegs s ((regsOf s).putLanes d lanes f)) := by
  cases lanes with
  | nil => exact (advance_setRegs_self hx len).symm
  | cons l ls => exact congrArg (advance len) (putLanes_setRegs hx d ls f _)

theorem keepsBut_putLanes {r : RegFile} (hr : regsRising r) {d : Nat} (hd : d < 88) {lanes : List Nat} (hlanes : ∀ l ∈ lanes, l < 64) (f : Nat → Word)
    (hfull : r.isEmpty d = false) : KeepsBut (fun n m => n = d ∧ m ∈ lanes) r (r.putLanes d lanes f) where
  values n m hm _ _ hn := by rw [read_putLanes f hd hlanes hr hm, if_neg hn]
  full n hn _ := isEmpty_putLanes f (by omega) lanes hfull hn
  erm := putLanes_erm ..

/-! ## What SRD places (R90, R109) -/

section
variable {s : State} (hx : onRegisters s) (hr : regsRising (regsOf s))
include hx hr

theorem put_reads {d : BitVec 7} (hd : isS d = true) (w : Word) (hfull : (regsOf s).isEmpty d.toNat = false) (i : Instr) :
    let t := advance 4 (setRegs s ((regsOf s).put d.toNat 0 w))
    readField t d.toNat 0 = kept d.toNat w ∧ writesOnly (covers s d 1) s t := by
  have hS : 96 ≤ d.toNat := of_decide_eq_true hd
  have hq : ¬namesQ d.toNat := by omega
  obtain ⟨hregs, -, -⟩ := advance_setRegs hx ((regsOf s).put d.toNat 0 w) i 4
  constructor
  · rw [readField_eq _ _ hq, hregs, read_put hr w hq (by decide) (by decide), if_pos ⟨rfl, .inl hS⟩]
  · refine writesOnly_of_keepsBut ?_
    rw [hregs]
    exact (keepsBut_put hr w hq (by decide) hfull).mono fun n l _ h => ⟨h.1.ge, by omega, .inl hd⟩

theorem putPair_reads {d : BitVec 7} (hd : isS d = true) (heven : d.toNat % 2 = 0) (w : DWord)
    (hfull : (regsOf s).isEmpty d.toNat = false ∧ (regsOf s).isEmpty (d.toNat + 1) = false) (i : Instr) :
    let t := advance 4 (setRegs s ((regsOf s).putPair d.toNat 0 w))
    readField t d.toNat 0 = w.extractLsb' 0 32 ∧ readField t (d.toNat + 1) 0 = kept (d.toNat + 1) (w.extractLsb' 32 32) ∧ writesOnly (covers s d 2) s t := by
  have hS : 96 ≤ d.toNat := of_decide_eq_true hd
  have hlt := d.isLt
  have hq : ¬namesQ d.toNat ∧ ¬namesQ (d.toNat + 1) := by omega
  obtain ⟨hregs, -, -⟩ := advance_setRegs hx ((regsOf s).putPair d.toNat 0 w) i 4
  obtain ⟨hlow, hhigh⟩ := read_putPair hr w hq (l := 0) (by decide) (by omega)
  refine ⟨?_, ?_, writesOnly_of_keepsBut ?_⟩
  · rw [readField_eq _ _ hq.1, hregs, hlow]
  · rw [readField_eq _ _ hq.2, hregs, hhigh]
  · rw [hregs]
    exact (keepsBut_putPair hr w hq (by decide) (by omega) hfull).mono fun n l _ h => ⟨by omega, by omega, .inl hd⟩

theorem putLanes_reads {d : BitVec 7} (hd : isV d = true) (f : Nat → Word) (hfull : (regsOf s).isEmpty d.toNat = false) (i : Instr) :
    let t := advance 4 (setRegs s ((regsOf s).putLanes d.toNat (laneList s) f))
    (∀ l ∈ laneList s, readField t d.toNat l = f l) ∧ writesOnly (covers s d 1) s t := by
  have hV : d.toNat < 88 := of_decide_eq_true hd
  have hlanes := laneList_lt_64 s
  obtain ⟨hregs, -, -⟩ := advance_setRegs hx ((regsOf s).putLanes d.toNat (laneList s) f) i 4
  constructor
  · intro l hl
    rw [readField_eq _ _ (by omega), hregs, read_putLanes f hV hlanes hr (hlanes l hl), if_pos ⟨rfl, hl⟩]
  · refine writesOnly_of_keepsBut ?_
    rw [hregs]
    refine (keepsBut_putLanes hr hV hlanes f hfull).mono fun n l _ h => ⟨h.1.ge, by omega, .inr ?_⟩
    rw [opLanes, if_neg (by rw [isS, decide_eq_true_eq]; omega)]
    exact h.2

end

/-- A register that a check found of the right kind, with its access allowed and its level reached. -/
theorem srCheck_eq_ok {s : State} {n : Nat} {d : BitVec 7} {writes : Bool} {k : SrInfo} (h : srCheck s n d writes = .ok k) :
    srInfo n = some k ∧ srReach s n = true ∧ k.kind.fits d = true ∧ (writes = true → k.acc ≠ .ro) := by
  unfold srCheck at h
  split at h
  · cases h
  · next i hi =>
    split at h
    · cases h
    · next hok =>
      split at h
      · cases h
      · cases h
        simpa [hi, not_or, and_assoc] using hok

/-- The registers that SRD or SWR names are full. -/
theorem full_of_fields {s : State} {k : SrKind} {d : BitVec 7} (h : ∀ f ∈ k.fields d, (regsOf s).isEmpty f = false) :
    (regsOf s).isEmpty d.toNat = false ∧ (k = .pair → (regsOf s).isEmpty (d.toNat + 1) = false) := by
  have h127 : (regsOf s).isEmpty 127 = false := by simp [RegFile.isEmpty]
  have hfull (f : Nat) (hf : f = d.toNat ∨ k = .pair ∧ f = d.toNat + 1) : (regsOf s).isEmpty f = false := by
    by_cases hf' : f = 127
    · rw [hf', h127]
    · refine h f ?_
      rcases hf with rfl | ⟨rfl, rfl⟩
      · cases k <;> simp [SrKind.fields, hf']
      · simp [SrKind.fields, hf']
  exact ⟨hfull _ (.inl rfl), fun hk => hfull _ (.inr ⟨hk, rfl⟩)⟩

/-- What the register file holds once SRD has placed a register of a kind in D. -/
def srdRegs (s : State) (d : BitVec 7) (n : Nat) (k : SrInfo) : RegFile :=
  match k.kind with
  | .lane => (regsOf s).putLanes d.toNat (laneList s) (srLane s n)
  | .word => (regsOf s).put d.toNat 0 (if k.acc = .wo then 0 else srWord s n)
  | .pair => (regsOf s).putPair d.toNat 0 (srPair s n)

theorem exec_srd {d : BitVec 7} {n : BitVec 14} {s : State} {k : SrInfo} (h : runs (.srd d n) s) (hk : srCheck s n.toNat d false = .ok k)
    (hread : readCheck s [] (k.kind.fields d) = .ok ()) (hwait : srWait s n.toNat = .ok ()) :
    exec (.srd d n) s = .next (advance 4 (setRegs s (srdRegs s d n.toNat k))) := by
  obtain ⟨hx, -, hissue⟩ := h
  have hbody : srdBody s d n.toNat = .ok (match k.kind with
      | .lane => putLanes s d.toNat (laneList s) (srLane s n.toNat)
      | .word => writeSReg s d (if k.acc = .wo then 0 else srWord s n.toNat)
      | .pair => writeSPair s d (srPair s n.toNat)) :=
    bind_eq_ok.2 ⟨k, hk, bind_eq_ok.2 ⟨(), hread, bind_eq_ok.2 ⟨(), hwait, rfl⟩⟩⟩
  rw [exec_of_canIssue hissue rfl, hbody]
  change Host.Outcome.next (advance 4 _) = _
  unfold srdRegs
  cases k.kind with
  | lane => rw [← advance_putLanes hx]
  | word => rfl
  | pair => exact congrArg (fun t => Host.Outcome.next (advance 4 t)) (writePair_eq hx ..)

theorem srdRegs_p (s : State) (d : BitVec 7) (n : Nat) (k : SrInfo) : (srdRegs s d n k).p = (regsOf s).p := by
  unfold srdRegs
  cases k.kind with
  | lane => exact putLanes_p ..
  | word => exact put_p ..
  | pair => exact putPair_p ..

/-! ## What the special registers of a group hold (R90, R91) -/

/-- A sum of powers of two by bits, as PRED is built. -/
def bitSum (p : Nat → Bool) (n : Nat) : Nat := (List.range n).foldl (fun a k => a + (if p k then 2 ^ k else 0)) 0

theorem bitSum_succ (p : Nat → Bool) (n : Nat) : bitSum p (n + 1) = bitSum p n + if p n then 2 ^ n else 0 := by
  rw [bitSum, List.range_succ, List.foldl_append]
  rfl

theorem bitSum_bits (p : Nat → Bool) (n : Nat) : bitSum p n < 2 ^ n ∧ ∀ k, k < n → (bitSum p n).testBit k = p k := by
  induction n with
  | zero => exact ⟨Nat.one_pos, fun k hk => absurd hk (Nat.not_lt_zero k)⟩
  | succ n ih =>
    obtain ⟨hlt, hbits⟩ := ih
    rw [bitSum_succ, Nat.pow_succ]
    by_cases hp : p n = true
    · rw [if_pos hp, Nat.add_comm]
      refine ⟨by omega, fun k hk => ?_⟩
      rcases Nat.lt_succ_iff_lt_or_eq.1 hk with hk | rfl
      · rw [Nat.testBit_two_pow_add_gt hk, hbits k hk]
      · rw [Nat.testBit_two_pow_add_eq, Nat.testBit_lt_two_pow hlt, hp, Bool.not_false]
    · rw [if_neg hp, Nat.add_zero]
      refine ⟨by omega, fun k hk => ?_⟩
      rcases Nat.lt_succ_iff_lt_or_eq.1 hk with hk | rfl
      · exact hbits k hk
      · rw [Nat.testBit_lt_two_pow hlt, Bool.eq_false_iff.2 hp]

/-- PRED: P0 to P6, and bit 7 set (R90). -/
theorem srLane_pred {s : State} {gid : Nat} (hcur : s.cur = .group gid) (l : Nat) :
    srLane s 0x012 l = BitVec.ofNat 32 (2 ^ 7 + bitSum (fun k => (getGroup s gid).regs.readP k l) 7) := by
  unfold srLane groupOfCur
  rw [hcur]
  rfl

theorem pred_bits {s : State} {gid : Nat} (hcur : s.cur = .group gid) (l : Nat) :
    (∀ k, k < 7 → (srLane s 0x012 l).getLsbD k = (getGroup s gid).regs.readP k l) ∧ (srLane s 0x012 l).toNat / 128 = 1 := by
  obtain ⟨hlt, hbits⟩ := bitSum_bits (fun k => (getGroup s gid).regs.readP k l) 7
  rw [srLane_pred hcur]
  constructor
  · intro k hk
    rw [BitVec.getLsbD_ofNat, Nat.testBit_two_pow_add_gt hk, hbits k hk, decide_eq_true (by omega : k < 32), Bool.true_and]
  · rw [BitVec.toNat_ofNat]
    omega

/-- MODID names Taloilu Gwynif, A1 in its high half (R11). -/
theorem modid_high (s : State) : (modid s).toNat / 2 ^ 16 = 0x0101 := by
  have hc := s.memCode.isLt
  have hm := s.modn.isLt
  rw [modid, BitVec.toNat_ofNat]
  omega

/-! ## The checks of SRD and SWR (R109) -/

theorem srCheck_unassigned {s : State} {n : Nat} {d : BitVec 7} {writes : Bool} (h : srInfo n = none) : srCheck s n d writes = .error illegal := by
  rw [srCheck, h]

theorem srCheck_illegal {s : State} {n : Nat} {d : BitVec 7} {writes : Bool} {k : SrInfo} (h : srInfo n = some k)
    (hbad : srReach s n = false ∨ k.kind.fits d = false ∨ (writes = true ∧ k.acc = .ro)) : srCheck s n d writes = .error illegal := by
  rw [srCheck, h]
  refine if_pos ?_
  rcases hbad with h | h | ⟨h, h'⟩ <;> simp [*]

theorem srCheck_privilege {s : State} {n : Nat} {d : BitVec 7} {writes : Bool} {k : SrInfo} (h : srInfo n = some k) (hreach : srReach s n = true)
    (hfits : k.kind.fits d = true) (hacc : writes = true → k.acc ≠ .ro) (hpl : levelOf s < k.pl) : srCheck s n d writes = .error (trapOf 0x03) := by
  rw [srCheck, h]
  dsimp only
  rw [if_neg, if_pos hpl]
  cases writes <;> simp_all

/-- A check of SRD or SWR that fails is the instruction's trap. -/
theorem srd_traps {d : BitVec 7} {n : BitVec 14} {s : State} {c : Nat} (h : canIssue (.srd d n) s) (hc : srCheck s n.toNat d false = .error (trapOf c)) :
    trapsWith (.srd d n) { cause := c } s := by
  rw [trapsWith, exec_of_canIssue h rfl, srdBody, hc]
  rfl

theorem swr_traps {d : BitVec 7} {n : BitVec 14} {s : State} {c : Nat} (h : canIssue (.swr d n) s) (hc : srCheck s n.toNat d true = .error (trapOf c)) :
    trapsWith (.swr d n) { cause := c } s := by
  rw [trapsWith, exec_of_canIssue h rfl, swrBody, hc]
  rfl

end Sys2Proof.Machine

namespace Sys2Proof.Claim

open Machine

/-- Settles O22: SRD is one change of the registers, by the kind of the register that it reads. -/
theorem srdReadsSpecialRegister : Obligations.SrdReadsSpecialRegister := by
  unfold Obligations.SrdReadsSpecialRegister
  intro d n s k h hk hread hwait
  obtain ⟨hx, hr, -⟩ := id h
  obtain ⟨-, -, hfits, -⟩ := srCheck_eq_ok hk
  obtain ⟨hfull, hpair⟩ := full_of_fields (full_of_readCheck hread).2
  obtain ⟨hregs, hpc, hctx⟩ := advance_setRegs hx (srdRegs s d n.toNat k) (.srd d n) 4
  refine ⟨_, exec_srd h hk hread hwait, hpc, by rw [hregs, srdRegs_p], fun hkind => ?lane, fun hkind => ?word, fun hkind => ?pair, hctx⟩
  all_goals rw [hkind] at hfits; rw [srdRegs, hkind]
  case lane => exact putLanes_reads hx hr hfits _ hfull (.srd d n)
  case word => exact put_reads hx hr hfits _ hfull (.srd d n)
  case pair =>
    obtain ⟨hS, heven⟩ := Bool.and_eq_true_iff.1 hfits
    exact putPair_reads hx hr hS (of_decide_eq_true heven) _ ⟨hfull, hpair hkind⟩ (.srd d n)

/-- Settles O23: each value is the register's, and the sums of PRED, ICNT, REGCNT and MODID do not run over. -/
theorem specialRegisterValues : Obligations.SpecialRegisterValues := by
  unfold Obligations.SpecialRegisterValues
  intro s gid l hcur hl
  have hgid : groupOfCur s = gid := by rw [groupOfCur, hcur]
  have hregs : regsOf s = (getGroup s gid).regs := by rw [regsOf, hcur]
  obtain ⟨hpred, hset⟩ := pred_bits hcur l
  refine ⟨rfl, ?fcsr, ?_, hset, ?icnt, rfl, ?_, ?_, ?_, ?_, ?_, ?_, ?regcnt, ?_, ?level, modid_high s⟩
  case fcsr =>
    rw [fcsrOf, hcur, srLane, hgid]
    rfl
  case icnt =>
    intro hle
    change (BitVec.ofNat 32 (tabGet (getGroup s (groupOfCur s)).icnt l 0 + (if (getGroup s (groupOfCur s)).done.getLsbD l then 65536 else 0))).toNat = _
    rw [hgid, BitVec.toNat_ofNat, ← icntAt, ← doneAt]
    split <;> omega
  case regcnt =>
    have hlt := (getGroup s gid).regcnt.isLt
    change (BitVec.ofNat 32 ((getGroup s (groupOfCur s)).regcnt.toNat + (if (getGroup s (groupOfCur s)).regv then 65536 else 0))).toNat = _
    rw [hgid, BitVec.toNat_ofNat]
    split <;> omega
  case level =>
    change BitVec.ofNat 32 (levelOf s) = 0
    rw [levelOf, hcur]
    rfl
  · rw [hregs]
    exact hpred
  all_goals exact hgid ▸ rfl

/-- Settles O26: the checks of R109 stop the instruction before it changes anything. -/
theorem specialRegisterTraps : Obligations.SpecialRegisterTraps := by
  unfold Obligations.SpecialRegisterTraps
  intro d n s
  refine ⟨fun h => ⟨fun hn => ?_, fun k hk hbad => ?_, fun k hk hreach hfits hpl => ?_⟩, fun h => ⟨fun hn => ?_, fun k hk hbad => ?_, fun k hk hro => ?_, fun k hk hreach hfits hacc hpl => ?_⟩⟩
  · exact srd_traps h (srCheck_unassigned hn)
  · exact srd_traps h (srCheck_illegal hk (hbad.imp_right .inl))
  · exact srd_traps h (srCheck_privilege hk hreach hfits (fun h => by cases h) hpl)
  · exact swr_traps h (srCheck_unassigned hn)
  · exact swr_traps h (srCheck_illegal hk (hbad.imp_right .inl))
  · exact swr_traps h (srCheck_illegal hk (.inr (.inr ⟨rfl, hro⟩)))
  · exact swr_traps h (srCheck_privilege hk hreach hfits (fun _ => hacc) hpl)

end Sys2Proof.Claim
end

section
/-! Proof that the statement on SWR to a group's registers fails: it says that no register a field can name changes, which leaves out Q0-Q7. -/

namespace Sys2Proof.Machine

open Claim

/-- SWR of a register whose checks pass hands it the S register and goes on. -/
theorem exec_swr_word {d : BitVec 7} {n : BitVec 14} {s : State} {k : SrInfo} (h : canIssue (.swr d n) s) (hk : srCheck s n.toNat d true = .ok k)
    (hread : readCheck s (k.kind.fields d) [] = .ok ()) (hwait : srWait s n.toNat = .ok ()) (hword : k.kind = .word) :
    exec (.swr d n) s = .next (advance 4 (setSrWord s n.toNat (readSReg s d))) := by
  have hbody : swrBody s d n.toNat = .ok (setSrWord s n.toNat (readSReg s d)) :=
    bind_eq_ok.2 ⟨k, hk, bind_eq_ok.2 ⟨(), hread, bind_eq_ok.2 ⟨(), hwait, by rw [hword]; rfl⟩⟩⟩
  rw [exec_of_canIssue h rfl, hbody]
  rfl

end Sys2Proof.Machine

namespace Sys2Proof.Claim

open Machine

/-- A group that executes again what it executed in some lanes alone (R253): the entry of Q0 that its earlier pop took is at the front again (R30). -/
def againOnQ0 : State := { cur := .group 16, groups := [(16, { only := some allLanes, q := [(0, { again := some (.scalar 5) })] })] }

/-- SWR of MFR completes there, which gives that entry up: Q0 read 5 before and reads 0 after. -/
theorem readField_q0_of_swr : readField againOnQ0 88 0 = 5 ∧ readField (advance 4 (setSrWord againOnQ0 0x011 (readSReg againOnQ0 100))) 88 0 = 0 := by
  decide

/-- Refutes O24: in `againOnQ0` an SWR of MFR ends the confinement of its group, and with it the entry at the front of Q0 that the statement says field 88 still reads. -/
theorem not_swrWritesGroupRegister : ¬ Obligations.SwrWritesGroupRegister := by
  unfold Obligations.SwrWritesGroupRegister
  intro h
  have hruns : runsFp (.swr 100 0x011) againOnQ0 := ⟨⟨trivial, ⟨rfl, rfl, rfl⟩, rfl, rfl⟩, rfl⟩
  have hcheck : srCheck againOnQ0 (0x011#14).toNat 100 true = .ok { kind := .word, acc := .rw, pl := 0 } := rfl
  have hread : readCheck againOnQ0 (SrKind.word.fields 100) [] = .ok () := rfl
  have hwait : srWait againOnQ0 (0x011#14).toNat = .ok () := rfl
  obtain ⟨t, ht, -, -, -, -, -, hfields, -⟩ := h 100 0x011 againOnQ0 16 _ rfl hruns hcheck hread hwait
  obtain ⟨⟨-, -, hissue⟩, -⟩ := hruns
  have ht' := Host.Outcome.next.inj (ht.symm.trans (exec_swr_word hissue hcheck hread hwait rfl))
  obtain ⟨hbefore, hafter⟩ := readField_q0_of_swr
  have hq := hfields 88 0 (by decide) (by decide)
  rw [ht', hbefore] at hq
  exact absurd (hafter.symm.trans hq) (by decide)

end Sys2Proof.Claim
end

section
/-! Proof of the statement on SWR in a queue context (03_group R109; 13_translation R388; 14_tenancy R435; 15_platform R469): what each register reads once it is written. -/

namespace Sys2Proof.Machine

open Claim

/-! ## The instruction -/

/-- No register that a queue context reaches is one of lanes, MFR or PRED. -/
theorem srReach_queue {s : State} {qid n : Nat} (hcur : s.cur = .queue qid) (h : srReach s n = true) : n = 0x000 ∨ n = 0x00D ∨ n = 0x020 ∨ 0x100 ≤ n := by
  simpa [srReach, hcur, or_assoc] using h

theorem kind_ne_lane {n : Nat} {k : SrInfo} (h : srInfo n = some k) (hn : n = 0x000 ∨ n = 0x00D ∨ n = 0x020 ∨ 0x100 ≤ n) : k.kind ≠ .lane := by
  rcases hn with rfl | rfl | rfl | hn
  · cases h; decide
  · cases h; decide
  · cases h; decide
  · rw [srInfo, if_neg (by omega)] at h
    split at h
    · unfold srInfoQueue at h
      split at h <;> cases h <;> decide
    · unfold srInfoPlatform at h
      split_ifs at h <;> cases h <;> decide

theorem exec_swr_queue {d : BitVec 7} {n : BitVec 14} {s : State} {qid : Nat} {k : SrInfo} (hcur : s.cur = .queue qid) (h : canIssue (.swr d n) s)
    (hk : srCheck s n.toNat d true = .ok k) (hread : readCheck s (k.kind.fields d) [] = .ok ()) :
    exec (.swr d n) s = .next (advance 4 (if k.kind = .pair then setSrPair s n.toNat (readPair s d.toNat 0) else setSrWord s n.toNat (readField s d.toNat 0))) := by
  obtain ⟨hinfo, hreach, -, -⟩ := srCheck_eq_ok hk
  have hn := srReach_queue hcur hreach
  have hwait : srWait s n.toNat = .ok () := by rw [srWait, if_neg (by omega), if_neg (by omega)]
  have hbody : swrBody s d n.toNat = .ok (match k.kind with
      | .lane => (laneList s).foldl (fun t l => setSrLane t n.toNat l (readField s d.toNat l)) s
      | .word => setSrWord s n.toNat (readSReg s d)
      | .pair => setSrPair s n.toNat (readSPair s d)) :=
    bind_eq_ok.2 ⟨k, hk, bind_eq_ok.2 ⟨(), hread, bind_eq_ok.2 ⟨(), hwait, rfl⟩⟩⟩
  rw [exec_of_canIssue h rfl, hbody]
  have hlane := kind_ne_lane hinfo hn
  cases hkind : k.kind with
  | lane => exact absurd hkind hlane
  | word => rfl
  | pair => rfl

/-! ## Registers of the context, of its slot and of a VF -/

section
variable (s : State)

theorem procSlot_setProcSlot (p : PSlot) : procSlot (setProcSlot s p) = p := by
  have hvf : getVf (setProcSlot s p) (queueOfCur s / 64) = { getVf s (queueOfCur s / 64) with
      slots := tabPut (getVf s (queueOfCur s / 64)).slots (getQueue s (queueOfCur s)).slot p } := getVf_setVf_same ..
  change tabGet (getVf (setProcSlot s p) (queueOfCur s / 64)).slots (getQueue s (queueOfCur s)).slot {} = p
  rw [hvf]
  exact tabGet_tabPut_same ..

theorem procSlot_setRoots (p : PSlot) : procSlot (setRoots s p) = p := procSlot_setProcSlot ..

theorem deliverHeld_hvctx (vf : Nat) : (getVf (deliverHeld s vf) vf).hvctx = (getVf s vf).hvctx := by
  unfold deliverHeld
  split
  · rw [getVf_setVf_same]
  · rfl

/-- Notices that are handed over leave VFSEL. -/
theorem deliverHeld_regVf (vf : Nat) : regVf (deliverHeld s vf) = regVf s := by
  unfold deliverHeld
  split
  · next q _ =>
    have hsel (k : Nat) (f : QCtx → QCtx) (hf : ∀ c, (f c).vfsel = c.vfsel) : (getQueue (modQueue s q f) k).vfsel = (getQueue s k).vfsel := by
      by_cases hk : k = q
      · rw [hk, getQueue_modQueue_same, hf]
      · rw [getQueue_modQueue_other s f hk]
    exact congrArg (fun x : Word => if queueOfCur s / 64 = hostVf then x.toNat % 32 else queueOfCur s / 64)
      (hsel (queueOfCur s) (fun c => { c with notices := c.notices ++ (getVf s vf).held }) fun _ => rfl)
  · rfl

theorem writeHvctx_reads (w : Word) : srWord (writeHvctx s (regVf s) w) 0x11C = w &&& hvctxMask := by
  change (getVf (writeHvctx s (regVf s) w) (regVf (writeHvctx s (regVf s) w))).hvctx = _
  rw [writeHvctx, deliverHeld_regVf]
  exact (deliverHeld_hvctx ..).trans (congrArg Vf.hvctx (getVf_setVf_same ..))

/-- A register of the VF that a context's registers act on reads as it is written there. -/
theorem regVf_reads {α : Type} (x : Vf) (f : Vf → α) : f (getVf (setVf s (regVf s) x) (regVf (setVf s (regVf s) x))) = f x :=
  congrArg f (getVf_setVf_same ..)

theorem selVf_reads {α : Type} (x : Vf) (f : Vf → α) : f (getVf (setVf s (selVf s) x) (selVf (setVf s (selVf s) x))) = f x :=
  congrArg f (getVf_setVf_same ..)

theorem queueOfCur_reads {α : Type} (f : QCtx → QCtx) (g : QCtx → α) :
    g (getQueue (modQueue s (queueOfCur s) f) (queueOfCur (modQueue s (queueOfCur s) f))) = g (f (getQueue s (queueOfCur s))) :=
  congrArg g (getQueue_modQueue_same ..)

end

/-! ## Fields within their limits -/

/-- A field from bit 0 on is clamped to its limits. -/
theorem clampField_low (w : Word) (hi mn mx : Nat) : clampField w hi 0 mn mx = max mn (min mx (w.toNat % 2 ^ (hi + 1))) := by
  simp [clampField, bits]

/-! ## Registers that come in rows (R469) -/

section
variable (s : State) (w : Word) {k : Nat}

theorem setSrWord_platform {n : Nat} (h : 0x200 ≤ n) : setSrWord s n w = setSrPlat s n w := by
  rw [setSrWord, if_neg (by omega), if_neg (by omega)]

theorem mset_reads (h : k < 8) : srWord (setSrWord s (0x208 + k) w) (0x208 + k) = w &&& 0x01FF01FF := by
  have hset : setSrWord s (0x208 + k) w = setVf s (selVf s) { getVf s (selVf s) with mset := tabPut (getVf s (selVf s)).mset k (w &&& 0x01FF01FF) } := by
    rw [setSrWord_platform s w (by omega), setSrPlat]
    simp (disch := omega) only [if_neg, if_pos, Nat.add_sub_cancel_left]
  rw [srWord_platform _ (by omega), srPlatWord, hset]
  simp (disch := omega) only [if_neg, if_pos, Nat.add_sub_cancel_left]
  rw [selVf_reads s _ Vf.mset]
  exact tabGet_tabPut_same ..

theorem l2pwm_reads (h : k < 8) : srWord (setSrWord s (0x218 + k) w) (0x218 + k) = w &&& 0xFFFF := by
  have hset : setSrWord s (0x218 + k) w = { s with l2pwm := tabPut s.l2pwm k (w.extractLsb' 0 16) } := by
    rw [setSrWord_platform s w (by omega), setSrPlat]
    simp (disch := omega) only [if_neg, if_pos, Nat.add_sub_cancel_left]
  rw [hset, srWord_l2pwm _ h, tabGet_tabPut_same]
  refine BitVec.eq_of_toNat_eq ?_
  simp only [BitVec.toNat_setWidth, BitVec.extractLsb'_toNat, BitVec.toNat_and, Nat.shiftRight_zero]
  exact (Nat.mod_eq_of_lt (by omega)).trans (Nat.and_two_pow_sub_one_eq_mod w.toNat 16).symm

theorem chewt_reads (h : k < 32) : (srWord (setSrWord s (0x220 + k) w) (0x220 + k)).toNat = max 1 (w.toNat / 256 % 256) * 256 + w.toNat % 16 := by
  have hset : setSrWord s (0x220 + k) w = { s with chewt := tabPut s.chewt k (BitVec.ofNat 32 (clampField w 15 8 1 255 + clampField w 3 0 0 15)) } := by
    rw [setSrWord_platform s w (by omega), setSrPlat]
    simp (disch := omega) only [if_neg, if_pos, Nat.add_sub_cancel_left]
  rw [hset, srWord_chewt _ h, tabGet_tabPut_same, clampField_low]
  simp only [clampField, bits, BitVec.toNat_ofNat]
  omega

theorem charb_reads (h : k < 192) : (srWord (setSrWord s (0x300 + k) w) (0x300 + k)).toNat = max 1 (w.toNat / 256 % 256) * 256 + w.toNat % 256 := by
  have hset : setSrWord s (0x300 + k) w = { s with charb := tabPut s.charb k (BitVec.ofNat 32 (clampField w 15 8 1 255 + clampField w 7 0 0 255)) } := by
    rw [setSrWord_platform s w (by omega), setSrPlat]
    simp (disch := omega) only [if_neg, if_pos, Nat.add_sub_cancel_left]
  rw [hset, srWord_charb _ h, tabGet_tabPut_same, clampField_low]
  simp only [clampField, bits, BitVec.toNat_ofNat]
  omega

end

end Sys2Proof.Machine

namespace Sys2Proof.Claim

open Machine

/-- Settles O25: the register is written where it is read, under the masks and limits of R388, R435 and R469. -/
theorem swrWritesQueueRegister : Obligations.SwrWritesQueueRegister := by
  unfold Obligations.SwrWritesQueueRegister
  refine ⟨fun d n s qid k hcur h hk hread => exec_swr_queue hcur h hk hread, fun s qid w v hcur => ?_⟩
  refine ⟨?pairs, ?words, ?limits, ?htrt, ?hrdt, ?agtlen, ?mset, ?chewt, ?charb, writeHvctx_reads s w, rfl, rfl, rfl, rfl, ?ring⟩
  case pairs =>
    simp only [List.forall_mem_cons, List.not_mem_nil, false_imp_iff, implies_true, and_true]
    refine ⟨congrArg PSlot.gtrt (procSlot_setRoots ..), congrArg PSlot.grdt (procSlot_setRoots ..), ?_, ?_, regVf_reads s _ Vf.chfslot, ?_, rfl⟩
    · exact (congrArg PSlot.tvec (procSlot_setProcSlot ..)).trans BitVec.and_allOnes.symm
    · exact (queueOfCur_reads s (fun q => { q with trpc := v }) QCtx.trpc).trans BitVec.and_allOnes.symm
    · exact (regVf_reads s _ Vf.hvvec).trans BitVec.and_allOnes.symm
  case words =>
    simp only [List.forall_mem_cons, List.not_mem_nil, false_imp_iff, implies_true, and_true]
    refine ⟨queueOfCur_reads s (fun q => { q with trinfo := w &&& 0x33FF }) QCtx.trinfo, queueOfCur_reads s (fun q => { q with vfsel := w &&& 0x1F }) QCtx.vfsel, BitVec.and_allOnes.symm, BitVec.and_allOnes.symm, ?_⟩
    exact (selVf_reads s _ Vf.vfpcap).trans BitVec.and_allOnes.symm
  case limits =>
    have hclamp (hi mn mx : Nat) (hmn : mn ≤ mx) (hmx : mx < 2 ^ 32) : (BitVec.ofNat 32 (clampField w hi 0 mn mx)).toNat = max mn (min mx (w.toNat % 2 ^ (hi + 1))) := by
      rw [clampField_low, BitVec.toNat_ofNat, Nat.mod_eq_of_lt (by omega)]
    simp only [List.forall_mem_cons, List.not_mem_nil, false_imp_iff, implies_true, and_true]
    refine ⟨?_, ?_, hclamp 31 1 600 (by decide) (by decide), hclamp 31 1 1000000 (by decide) (by decide), hclamp 31 1 10000 (by decide) (by decide),
      hclamp 31 600 2400 (by decide) (by decide)⟩
    · exact (selVf_reads s _ fun x => x.msetc.toNat).trans (hclamp 2 0 4 (by decide) (by decide))
    · exact (selVf_reads s _ fun x => (BitVec.ofNat 32 x.weight).toNat).trans (hclamp 3 1 15 (by decide) (by decide))
  case htrt =>
    have hb := v.isLt
    refine (selVf_reads s _ fun x => x.htrt.toNat).trans ?_
    simp only [hostRoot, bits, BitVec.toNat_ofNat]
    omega
  case hrdt =>
    have hb := v.isLt
    refine (selVf_reads s _ fun x => x.hrdt.toNat).trans ?_
    simp only [hostRange, bits, BitVec.toNat_ofNat]
    omega
  case agtlen =>
    refine (selVf_reads s _ fun x => (BitVec.ofNat 32 x.agtlen).toNat).trans ?_
    dsimp only
    rw [clampField_low, BitVec.toNat_ofNat]
    omega
  case mset => exact fun k hk => ⟨mset_reads s w hk, l2pwm_reads s w hk⟩
  case chewt => exact fun k hk => chewt_reads s w hk
  case charb => exact fun k hk => charb_reads s w hk
  case ring =>
    intro pkg hpkg
    rw [restartRing, if_pos hpkg]
    exact congrArg Ring.halted (getRing_setRing_same ..)

end Sys2Proof.Claim
end

section
/-! Proof of the statement on the state of a group as it is placed (03_group R85): the launch arguments in its S registers, and nothing else. -/

namespace Sys2Proof.Machine

open Claim

/-- The launch arguments as they are put into a table of registers, from register k on. -/
def putArgs (t : Tab Word) (args : List Word) (k : Nat) : Tab Word := (args.zipIdx k).foldl (fun t a => tabSet t a.2 a.1 0) t

/-- Register n holds argument n - k, where there is one. -/
theorem tabGet_putArgs {t : Tab Word} (ht : tabRising t = true) (args : List Word) (k n : Nat) :
    tabGet (putArgs t args k) n 0 = (if k ≤ n then args[n - k]? else none).getD (tabGet t n 0) := by
  induction args generalizing t k with
  | nil => simp [putArgs]
  | cons w ws ih =>
    have hstep : tabGet (putArgs t (w :: ws) k) n 0 = tabGet (putArgs (tabSet t k w 0) ws (k + 1)) n 0 := rfl
    rw [hstep, ih (tabRising_tabSet k w 0 ht), tabGet_tabSet t k n w 0 ht]
    rcases Nat.lt_trichotomy n k with h | rfl | h
    · rw [if_neg (by omega), if_neg (by omega), if_neg (by omega)]
    · simp
    · rw [if_neg (show ¬n = k by omega), if_pos (show k + 1 ≤ n from h), if_pos h.le, show n - k = n - (k + 1) + 1 by omega, List.getElem?_cons_succ]

end Sys2Proof.Machine

namespace Sys2Proof.Claim

open Machine

/-- Settles O58: of the tables of a new group only that of the S registers has entries, the launch arguments. -/
theorem groupPlacementState : Obligations.GroupPlacementState := by
  unfold Obligations.GroupPlacementState
  intro g i p0 slot axp hargs
  have hs (n : Nat) (hn : n < 31) : (newGroup g i p0 slot axp).regs.readS n = g.args.getD n 0 := by
    have hget := tabGet_putArgs (t := []) rfl g.args 0 n
    rw [RegFile.readS, if_neg (by omega)]
    exact hget.trans List.getD_eq_getElem?_getD.symm
  exact ⟨rfl, hs, fun _ _ _ _ => rfl, fun n l hn _ => by simp [RegFile.readP, newGroup, tabGet]; omega, fun _ _ => by simp [RegFile.isEmpty, newGroup], rfl,
    fun _ => rfl, rfl, rfl, rfl, fun _ => rfl, rfl, rfl, rfl, rfl, rfl, rfl, rfl⟩

end Sys2Proof.Claim
end

section
/-! Proof of the statement on TBAR, GBAR and STEP (03_group R107; 07_core_sched_traps R242, R243): a group that arrives blocks, and a team barrier releases all its groups or none. -/

namespace Sys2Proof.Machine

open Claim

/-! ## Arriving (R107, R242, R243) -/

section
variable {s : State} {gid : Nat} (hcur : s.cur = .group gid)
include hcur

theorem groupOfCur_group : groupOfCur s = gid := by rw [groupOfCur, hcur]

/-- A group none of whose remote stores has failed has nothing to report at the end of its region. -/
theorem failedReport_endRegion (hfailed : (getGroup s gid).failed = []) (us : List Use) (sc : Scope) (len : Nat) : failedReport (endRegion s) us sc len = none := by
  obtain ⟨-, hcur', q, axp, hg⟩ := endRegion_group hcur
  have hnone : (getGroup (endRegion s) gid).failed = [] := by rw [hg]; exact hfailed
  rw [failedReport, hcur']
  dsimp only
  rw [hnone]

theorem exec_tbar (h : canIssue .tbar s) (hfull : tokensFull s gid = true) (hdone : releaseDone s gid .core = true) :
    exec .tbar s = .next (arriveAt (endRegion s) gid .tbar) := by
  rw [exec_of_canIssue h rfl, groupOfCur_group hcur]
  dsimp only
  rw [hfull, hdone]
  rfl

theorem exec_gbar (h : canIssue .gbar s) (hgang : (gridOf s gid).gang = true) (hfailed : (getGroup s gid).failed = []) (hsq : sqOf s gid = [])
    (hfull : tokensFull s gid = true) (hdone : releaseDone s gid (gbarScope (gridOf s gid)) = true) :
    exec .gbar s = .next (arriveAt (endRegion s) gid .gbar) := by
  rw [exec_of_canIssue h rfl, groupOfCur_group hcur]
  dsimp only
  rw [hgang, failedReport_endRegion hcur hfailed, hsq, hfull, hdone]
  rfl

theorem exec_gbar_noGang (h : canIssue .gbar s) (hgang : (gridOf s gid).gang = false) : trapsWith .gbar { cause := 0x01 } s := by
  rw [trapsWith, exec_of_canIssue h rfl, groupOfCur_group hcur]
  dsimp only
  rw [hgang]
  rfl

theorem exec_step (h : canIssue .step s) (hfailed : (getGroup s gid).failed = []) (hfull : tokensFull s gid = true) (hdone : releaseDone s gid .fab = true) :
    exec .step s = .next (arriveAt (endRegion s) gid .step) := by
  rw [exec_of_canIssue h rfl, groupOfCur_group hcur]
  dsimp only
  rw [failedReport_endRegion hcur hfailed, hfull, hdone]
  rfl

end

/-! ## The release (R242) -/

theorem getGroup_releaseGroup (s : State) (k : Nat) (b : Block) (sc : Scope) (g : Nat) : getGroup (releaseGroup s k b sc) g =
    if g = k ∧ (getGroup s g).run = .blocked b then groupDone (getGroup s g) ((getGroup s g).pc + 4) else getGroup s g := by
  unfold releaseGroup groupRun
  by_cases hk : g = k
  · subst hk
    by_cases hrun : (getGroup s g).run = .blocked b
    · rw [if_pos hrun, if_pos ⟨rfl, hrun⟩, getGroup_modGroup_same]
      rfl
    · rw [if_neg hrun, if_neg fun h => hrun h.2]
  · rw [if_neg (c := g = k ∧ _) fun h => hk h.1]
    split
    · exact getGroup_modGroup_other _ _ hk
    · rfl

/-- A release of several groups sends on each of them that is blocked there. -/
theorem getGroup_releases (gs : List Nat) (s : State) (b : Block) (sc : Scope) (g : Nat) :
    getGroup (gs.foldl (fun s k => releaseGroup s k b sc) s) g =
      if g ∈ gs ∧ (getGroup s g).run = .blocked b then groupDone (getGroup s g) ((getGroup s g).pc + 4) else getGroup s g := by
  induction gs generalizing s with
  | nil => simp
  | cons k ks ih =>
    rw [List.foldl_cons, ih, getGroup_releaseGroup]
    by_cases hk : g = k ∧ (getGroup s g).run = .blocked b
    · obtain ⟨rfl, hrun⟩ := hk
      have hnow : ¬(g ∈ ks ∧ (groupDone (getGroup s g) ((getGroup s g).pc + 4)).run = .blocked b) := fun h => nomatch h.2
      rw [if_pos (c := g = g ∧ _) ⟨rfl, hrun⟩, if_neg hnow, if_pos ⟨List.mem_cons_self .., hrun⟩]
    · rw [if_neg hk]
      refine if_congr (and_congr_left fun hrun => ?_) rfl rfl
      rw [List.mem_cons]
      exact (or_iff_right fun h => hk ⟨h, hrun⟩).symm

end Sys2Proof.Machine

namespace Sys2Proof.Claim

open Machine

/-- Settles O29: arriving is one change of the group, and a team barrier looks at all groups before it releases the first. -/
theorem teamAndGridBarriers : Obligations.TeamAndGridBarriers := by
  unfold Obligations.TeamAndGridBarriers
  refine ⟨fun s gid hcur hfull => ⟨fun h hdone => exec_tbar hcur h hfull hdone, fun h hgang hfailed hsq hdone => exec_gbar hcur h hgang hfailed hsq hfull hdone,
    fun h hgang => exec_gbar_noGang hcur h hgang, fun h hdone hfailed => exec_step hcur h hfailed hfull hdone⟩, fun s tag hsaving => ⟨fun hmissing => ?_, fun hall _ g hg hrun => ?_⟩⟩
  · obtain ⟨g, hg, hat⟩ := hmissing
    rw [tryTbar, if_neg]
    rw [List.all_eq_true]
    exact fun h => absurd (h.1 g hg) (by simp [hat])
  · rw [tryTbar, if_pos ⟨List.all_eq_true.2 hall, by simp [hsaving]⟩, getGroup_releases, if_pos ⟨hg, hrun⟩]

end Sys2Proof.Claim
end

section
/-! Proof of the statement on issued loads (03_group R88; 05_core_memory R164, R168): the words of an access in its destination, and what an access that pends leaves. -/

namespace Sys2Proof.Machine

open Claim

/-! ## The words of an access in their registers (R168) -/

/-- A V register in a lane, or an S register that holds what is written. -/
def wordPlace (f l : Nat) : Prop := (f < 88 ∧ l < 64) ∨ (96 ≤ f ∧ f < 127)

/-- An S register has no lanes. -/
theorem read_put_lane (r : RegFile) {f : Nat} (hf : 96 ≤ f) (l m : Nat) (w : Word) (k j : Nat) : (r.put f l w).read k j = (r.put f m w).read k j := by
  obtain ⟨bad, h⟩ := put_eq r f l w
  obtain ⟨bad', h'⟩ := put_eq r f m w
  rw [h, h', RegFile.writeField, if_pos hf, RegFile.writeField, if_pos hf]
  rfl

theorem read_put_same {r : RegFile} (hr : regsRising r) {f l : Nat} (h : wordPlace f l) (w : Word) : (r.put f l w).read f l = w := by
  rcases h with ⟨hf, hl⟩ | ⟨hf, hf'⟩
  · rw [read_put hr w (by omega) hl hl, if_pos ⟨rfl, .inr rfl⟩, kept, if_neg (by omega)]
  · have h0 : (r.put f 0 w).read f l = (r.put f 0 w).read f 0 := by simp only [RegFile.read, if_pos hf]
    rw [read_put_lane r hf l 0, h0, read_put hr w (by omega) (by decide) (by decide), if_pos ⟨rfl, .inl hf⟩, kept, if_neg (by omega)]

theorem read_put_other {r : RegFile} (hr : regsRising r) {f k l : Nat} (h : wordPlace f l) (hk : wordPlace k l) (hne : k ≠ f) (w : Word) :
    (r.put f l w).read k l = r.read k l := by
  rcases hk with ⟨hk, hl⟩ | ⟨hk, -⟩
  · rw [read_put hr w (by rcases h with h | h <;> omega) hl hl, if_neg fun h => hne h.1]
  · have h0 (x : RegFile) : x.read k l = x.read k 0 := by simp only [RegFile.read, if_pos hk]
    rw [h0, h0 r]
    rcases h with ⟨hf, hl⟩ | ⟨hf, -⟩
    · rw [read_put hr w (by omega) hl (by decide), if_neg fun h => hne h.1]
    · rw [read_put_lane r hf l 0, read_put hr w (by omega) (by decide) (by decide), if_neg fun h => hne h.1]

/-- What writing words to successive registers leaves of a register file. -/
def RegFile.putWords (r : RegFile) (d l : Nat) : List Word → RegFile
  | [] => r
  | w :: ws => (r.put d l w).putWords (d + 1) l ws

theorem read_putWords_below {r : RegFile} (hr : regsRising r) {d l k : Nat} {ws : List Word} (hplace : ∀ i, i < ws.length → wordPlace (d + i) l)
    (hk : wordPlace k l) (hlt : k < d) : (r.putWords d l ws).read k l = r.read k l := by
  induction ws generalizing r d with
  | nil => rfl
  | cons w ws ih =>
    have hrest (i : Nat) (hi : i < ws.length) : wordPlace (d + 1 + i) l := by
      have h := hplace (i + 1) (by simpa using hi)
      rwa [show d + (i + 1) = d + 1 + i by omega] at h
    calc (r.putWords d l (w :: ws)).read k l
        _ = (r.put d l w).read k l := ih (regsRising_put hr d l w) hrest (by omega)
        _ = r.read k l := read_put_other hr (hplace 0 (by simp)) hk (by omega) w

/-- Each register holds its word. -/
theorem read_putWords {r : RegFile} (hr : regsRising r) {d l : Nat} {ws : List Word} (hplace : ∀ i, i < ws.length → wordPlace (d + i) l) {i : Nat}
    (hi : i < ws.length) : (r.putWords d l ws).read (d + i) l = ws.getD i 0 := by
  induction ws generalizing r d i with
  | nil => exact absurd hi (Nat.not_lt_zero i)
  | cons w ws ih =>
    have hrest (i : Nat) (hi : i < ws.length) : wordPlace (d + 1 + i) l := by
      have h := hplace (i + 1) (by simpa using hi)
      rwa [show d + (i + 1) = d + 1 + i by omega] at h
    have hr' := regsRising_put hr d l w
    have hfirst : wordPlace d l := hplace 0 (by simp)
    cases i with
    | zero => exact (read_putWords_below hr' hrest hfirst (by omega)).trans (read_put_same hr hfirst w)
    | succ i =>
      rw [show d + (i + 1) = d + 1 + i by omega, List.getD_cons_succ]
      exact ih hr' hrest (by simpa using hi)

theorem writeWords_setRegs {s : State} (hx : onRegisters s) (d l : Nat) (ws : List Word) (r : RegFile) (i : Nat) :
    (ws.foldl (fun (p : State × Nat) w => (writeField p.1 (d + p.2) l w, p.2 + 1)) (setRegs s r, i)).1 = setRegs s (r.putWords (d + i) l ws) := by
  induction ws generalizing r i with
  | nil => rfl
  | cons w ws ih =>
    rw [List.foldl_cons, writeField_eq, regsOf_setRegs hx, setRegs_setRegs, ih]
    rfl

/-- The registers after the words of an access are written. -/
theorem regsOf_writeWords {s : State} (hx : onRegisters s) (d l : Nat) (ws : List Word) : regsOf (writeWords s d l ws) = (regsOf s).putWords d l ws := by
  cases ws with
  | nil => rfl
  | cons w ws =>
    have h := writeWords_setRegs hx d l ws ((regsOf s).put d l w) 1
    exact (congrArg regsOf h).trans (regsOf_setRegs hx _)

/-- A load of 1 to 8 bytes gives one word, or two. -/
theorem length_loadWords (signed : Bool) {bs : List Byte} {n : Nat} (hn : n ∈ [1, 2, 4, 8]) (hbs : bs.length = n) : (loadWords signed bs).length = max 1 (n / 4) := by
  simp only [List.mem_cons, List.not_mem_nil, or_false] at hn
  unfold loadWords
  rw [hbs]
  rcases hn with rfl | rfl | rfl | rfl <;> simp

/-! ## An access that pends (R88) -/

theorem isEmpty_markRegs (fs : List Nat) (r : RegFile) {f : Nat} (hf : f < 127) :
    (fs.foldl (fun r f => if f = 127 then r else r.setEmpty f true) r).isEmpty f = (r.isEmpty f || decide (f ∈ fs)) := by
  induction fs generalizing r with
  | nil => simp
  | cons g fs ih =>
    rw [List.foldl_cons, ih]
    by_cases hg : g = 127
    · rw [if_pos hg]
      simp [show f ≠ g by omega]
    · rw [if_neg hg, isEmpty_setEmpty_true r (by omega) hg]
      simp [Bool.or_assoc]

theorem onRegisters_of_coreOf {s : State} {core : Nat} (h : coreOf s = some core) : onRegisters s := by
  unfold coreOf at h
  unfold onRegisters
  cases hc : s.cur <;> simp_all

/-- An access as it joins those that pend. -/
def pendingOne (s : State) (kind : AccKind) (core dst n : Nat) (parts : List AccPart) (strong : Bool) : Pending :=
  { id := s.nextId, seq := s.seq, agent := s.cur, core := core, kind := kind, dst := dst, width := n, parts := parts, strong := strong }

theorem addPending_eq (s : State) (kind : AccKind) (core dst n : Nat) (parts : List AccPart) (strong : Bool) :
    addPending s kind core dst n parts strong none none [] =
      markEmpty { s with seq := s.seq + 1, pending := s.pending ++ [pendingOne s kind core dst n parts strong], nextId := s.nextId + 1 } (dstFields dst n) := rfl

/-- An access that pends joins the others, memory is as it was, and its destination is empty. -/
theorem addPending_pends {s : State} (hx : onRegisters s) (kind : AccKind) (core dst n : Nat) (parts : List AccPart) (strong : Bool)
    (hdst : dst + max 1 (n / 4) ≤ 88) : let v := addPending s kind core dst n parts strong none none []
    v.pending = s.pending ++ [pendingOne s kind core dst n parts strong] ∧ v.mem = s.mem ∧ ∀ k, k < max 1 (n / 4) → isEmptyField v (dst + k) = true := by
  dsimp only
  rw [addPending_eq]
  unfold markEmpty
  refine ⟨?_, ?_, fun k hk => ?_⟩
  · rw [setRegs_frame]
  · rw [setRegs_frame]
  · rw [isEmptyField_eq _ (by omega), regsOf_setRegs (by exact hx), isEmpty_markRegs _ _ (by omega)]
    exact Bool.or_eq_true_iff.2 (.inr (decide_eq_true (List.mem_map.2 ⟨k, List.mem_range.2 hk, rfl⟩)))

/-- The one part of a load of one element. -/
def loadPart (s : State) (core : Nat) (strong uniform : Bool) (e : Elem) : AccPart :=
  let src := e.locs.map (loadSrc s core strong)
  { lane := if uniform then none else some e.lane, src := src, off := 0, va := e.ea, done := src.all Src.known }

/-- A load of one element of at most 8 bytes, whose line no work claims and no RED of the group's queue meets. -/
theorem issueLoad_one {s : State} {core dst n : Nat} {signed strong uniform : Bool} {e : Elem} (hcore : coreOf s = some core) (hn : n ≠ 16)
    (hlen : e.locs.length = n) (hclaim : ∀ m ∈ e.locs, ∀ tag off, m = .spad tag off → claimed s m = false)
    (hred : queueHas s (fun q => q.isRed && e.locs.any (fun m => q.locs.contains m)) = false) (hpages : e.pages = []) :
    issueLoad s dst n signed strong none uniform [e] =
      if (loadPart s core strong uniform e).done then .ok (writePart s (.load signed) dst (loadPart s core strong uniform e))
      else .ok (addPending s (.load signed) core dst n [loadPart s core strong uniform e] strong none none []) := by
  have hspad : spadClaimed s [e] = false := by
    simp only [spadClaimed, List.any_cons, List.any_nil, Bool.or_false, List.any_eq_false]
    intro m hm
    cases m with
    | spad tag off => simp [hclaim _ hm tag off rfl]
    | _ => simp
  have hhalves : halves strong n = [(0, n)] := if_neg fun h => hn h.1
  have htake : (e.locs.drop 0).take n = e.locs := by rw [List.drop_zero, ← hlen, List.take_length]
  unfold issueLoad
  rw [hcore]
  simp only [hspad, List.any_cons, List.any_nil, Bool.or_false, hred, List.flatMap_cons, List.flatMap_nil, List.append_nil, hhalves, List.map_cons, List.map_nil,
    htake, hpages, List.all_cons, List.all_nil, Bool.and_true, List.foldl_cons, List.foldl_nil, Bool.false_eq_true, if_false]
  rfl

end Sys2Proof.Machine

namespace Sys2Proof.Claim

open Machine

/-- Settles O32: the load has one part, which is done when every byte is known. -/
theorem loadWritesOrPends : Obligations.LoadWritesOrPends := by
  unfold Obligations.LoadWritesOrPends
  intro s core dst n signed strong uniform l locs hcore hn hlen hl hdst hr hclaim hred src e
  have hx := onRegisters_of_coreOf hcore
  have hn4 : n = 1 ∨ n = 2 ∨ n = 4 ∨ n = 8 := by simpa using hn
  have hissue := issueLoad_one (s := s) (dst := dst) (signed := signed) (strong := strong) (uniform := uniform) (e := e) hcore (by omega) hlen hclaim hred rfl
  refine ⟨fun hknown huniform => ?_, fun hknown => ?_⟩
  · refine ⟨_, hissue.trans (if_pos hknown), fun k hk => ?_⟩
    have hwords := length_loadWords signed hn (bs := srcBytes src) (by simp [srcBytes, src, hlen])
    subst huniform
    change readField (writeWords s (dst + 0) l (loadWords signed (srcBytes src))) (dst + k) l = _
    rw [readField_eq _ _ (by omega), regsOf_writeWords hx, Nat.add_zero]
    exact read_putWords hr (fun i hi => .inl ⟨by omega, hl⟩) (by omega)
  · obtain ⟨hpending, hmem, hempty⟩ := addPending_pends hx (.load signed) core dst n [loadPart s core strong uniform e] strong (by omega)
    exact ⟨_, _, hissue.trans (if_neg (Bool.eq_false_iff.1 hknown)), hpending, rfl, rfl, rfl, rfl, hmem, hempty⟩

end Sys2Proof.Claim
end

section
/-! Proof of the statement on limits (03_group R93, R94; 07_core_sched_traps R231; 12_die_channel R385; 13_translation R416, R420; 14_tenancy R442, R452; 16_fabric R490, R499): each event looks at its limit, and does nothing else. -/

namespace Sys2Proof.Machine

open Claim

theorem tabGet_of_find {α : Type} {t : Tab α} {k : Nat} {a : α} (d : α) (h : tabFind t k = some a) : tabGet t k d = a := congrArg (Option.getD · d) h

theorem getGroup_of_find {s : State} {gid : Nat} {g : Group} (h : tabFind s.groups gid = some g) : getGroup s gid = g := tabGet_of_find _ h

theorem getQueue_of_find {s : State} {qid : Nat} {q : QCtx} (h : tabFind s.queues qid = some q) : getQueue s qid = q := tabGet_of_find _ h

theorem getTeam_of_find {s : State} {tag : Nat} {t : Team} (h : tabFind s.teams tag = some t) : getTeam s tag = t := tabGet_of_find _ h

theorem getGrid_of_find {s : State} {n : Nat} {g : Grid} (h : tabFind s.grids n = some g) : getGrid s n = g := tabGet_of_find _ h

/-! ## Timers (R93, R94) -/

theorem exec_gtcmpFire_due {s : State} {gid : Nat} (hmay : mayTakeTimer s gid = true) (h : gtimeDue (getGroup s gid) = true) :
    exec (.gtcmpFire gid) s = .next (fireTimers s gid) :=
  congrArg Host.Outcome.next (if_pos (by rw [h, hmay]; rfl))

theorem exec_gtcmpFire_not {s : State} {gid : Nat} (h : gtimeDue (getGroup s gid) = false) : exec (.gtcmpFire gid) s = .next s :=
  congrArg Host.Outcome.next (if_neg (by rw [h]; exact Bool.false_ne_true))

theorem exec_wdlFire_due {s : State} {gid : Nat} (hmay : mayTakeTimer s gid = true) (h : wallDue s (getGroup s gid) = true) :
    exec (.wdlFire gid) s = .next (fireTimers s gid) :=
  congrArg Host.Outcome.next (if_pos (by rw [h, hmay]; rfl))

theorem exec_wdlFire_not {s : State} {gid : Nat} (h : wallDue s (getGroup s gid) = false) : exec (.wdlFire gid) s = .next s :=
  congrArg Host.Outcome.next (if_neg (by rw [h]; exact Bool.false_ne_true))

/-! ## Watchdogs and the time cap (R231, R385, R442) -/

section
variable {s : State} {gid qid : Nat} {g : Group} {q : QCtx}

/-- The trap of a group's watchdog. -/
def watchdogTrap (s : State) (gid : Nat) : State :=
  trapGroup (modGroup s gid (fun g => { g with feDone := 0 })) gid { cause := 0x14 } (getGroup s gid).pc

theorem exec_hangWatchdog_due (hg : tabFind s.groups gid = some g) (h : wdogLimit s ≤ g.wdog) :
    exec (.hangWatchdog (.group gid)) s = .next (watchdogTrap s gid) :=
  if_pos ⟨by rw [hg]; rfl, by rwa [getGroup_of_find hg]⟩

theorem exec_hangWatchdog_not (hg : tabFind s.groups gid = some g) (h : g.wdog < wdogLimit s) : exec (.hangWatchdog (.group gid)) s = .next s :=
  if_neg fun hdue => by
    rw [getGroup_of_find hg] at hdue
    omega

theorem exec_hangWatchdog_queue_due (hq : tabFind s.queues qid = some q) (h : wdogLimit s ≤ q.wdog) :
    exec (.hangWatchdog (.queue qid)) s = .next (queueFaulted s qid { cause := 0x14 }) :=
  if_pos ⟨by rw [hq]; rfl, by rwa [getQueue_of_find hq]⟩

theorem exec_hangWatchdog_queue_not (hq : tabFind s.queues qid = some q) (h : q.wdog < wdogLimit s) : exec (.hangWatchdog (.queue qid)) s = .next s :=
  if_neg fun hdue => by
    rw [getQueue_of_find hq] at hdue
    omega

/-- Any trap whose record can be written is the group's, whether it has waited to be written or not. -/
theorem recordOf_trap (s : State) (gid : Nat) (r : TrapRec) : (recordOf s gid r).trap = r.trap ∧ (recordOf s gid r).pc = r.pc := by
  unfold recordOf
  split <;> exact ⟨rfl, rfl⟩

theorem watchdogTrap_trapped (hw : recordWritable (modGroup s gid (fun g => { g with feDone := 0 })) gid) : ∃ r,
    (getGroup (watchdogTrap s gid) gid).run = .trapped ∧ (getGroup (watchdogTrap s gid) gid).trap = some r ∧
    r.trap = { cause := 0x14 } ∧ r.pc = (getGroup s gid).pc := by
  obtain ⟨r, hr, ht, -⟩ := getGroup_trapGroup_writable hw { cause := 0x14 } (getGroup s gid).pc
  obtain ⟨htrap, hpc⟩ := recordOf_trap (modGroup s gid (fun g => { g with feDone := 0 })) gid
    (mkRec (modGroup s gid (fun g => { g with feDone := 0 })) (getGroup (modGroup s gid (fun g => { g with feDone := 0 })) gid) { cause := 0x14 }
      (getGroup s gid).pc (getGroup (modGroup s gid (fun g => { g with feDone := 0 })) gid).deferred.isSome)
  exact ⟨r, congrArg Group.run ht, congrArg Group.trap ht, by rw [hr, htrap]; rfl, by rw [hr, hpc]; rfl⟩

end

section
variable {s : State} {tag : Nat} {t : Team} (ht : tabFind s.teams tag = some t)
include ht

theorem exec_detTeamTimeCap_due (hdet : (getGrid s t.grid).det = true) (hfired : t.capFired = false) (h : ((getGrid s t.grid).tcap : Int) ≤ t.capCount) :
    let gs := (teamGids s tag).filter (fun g => decide (groupRun s g ≠ .done))
    let u := gs.foldl (fun u g => modGroup u g (fun x => { x with capDue := true })) (modTeam s tag (fun t => { t with capFired := true }))
    exec (.detTeamTimeCap tag) s = .next ((gs.filter (mayTakeCap u)).foldl takeCap u) :=
  if_neg (by
    rw [getTeam_of_find ht, ht, hdet, hfired]
    simp only [Option.isNone_some, Bool.not_true, Bool.false_eq_true, false_or]
    omega)

theorem exec_detTeamTimeCap_not (h : t.capCount < ((getGrid s t.grid).tcap : Int)) : exec (.detTeamTimeCap tag) s = .next s :=
  if_pos (by rw [getTeam_of_find ht]; exact .inr (.inr (.inr h)))

end

section
variable {s : State} {pkg vf : Nat} {t : ChTask} (ht : getTask s pkg vf = some t)
include ht

theorem exec_cheTaskWatchdog_eq : exec (.cheTaskWatchdog pkg vf) s =
    if !t.started ∨ t.compact ∨ t.stalled < 2000000 then .next s
    else if t.aDone ∧ !t.xDone then .next (faultTask s pkg vf 0x14 1 t.xpc 0)
    else if t.xDone ∧ !t.aDone then .next (faultTask s pkg vf 0x14 0 t.apc 0)
    else .next (if (freeBool s).1 then faultTask (freeBool s).2 pkg vf 0x14 0 t.apc 0 else faultTask (freeBool s).2 pkg vf 0x14 1 t.xpc 0) := by
  change execCheTaskWatchdog pkg vf s = _
  rw [execCheTaskWatchdog, ht]

theorem exec_cheTaskWatchdog_due (hst : t.started = true) (hcompact : t.compact = false) (h : 2000000 ≤ t.stalled) :
    (t.aDone = true → t.xDone = false → exec (.cheTaskWatchdog pkg vf) s = .next (faultTask s pkg vf 0x14 1 t.xpc 0)) ∧
    (t.aDone = false → t.xDone = true → exec (.cheTaskWatchdog pkg vf) s = .next (faultTask s pkg vf 0x14 0 t.apc 0)) ∧
    (t.aDone = t.xDone → ∃ u, exec (.cheTaskWatchdog pkg vf) s = .next (faultTask u pkg vf 0x14 0 t.apc 0) ∨
      exec (.cheTaskWatchdog pkg vf) s = .next (faultTask u pkg vf 0x14 1 t.xpc 0)) := by
  rw [exec_cheTaskWatchdog_eq ht, if_neg (by simp [hst, hcompact, h])]
  refine ⟨fun ha hx => if_pos (by simp [ha, hx]), fun ha hx => ?_, fun hax => ⟨(freeBool s).2, ?_⟩⟩
  · rw [if_neg (by simp [ha]), if_pos (by simp [ha, hx])]
  · rw [if_neg (by simp [hax]), if_neg (by simp [hax])]
    split
    · exact .inl rfl
    · exact .inr rfl

theorem exec_cheTaskWatchdog_not (h : t.stalled < 2000000) : exec (.cheTaskWatchdog pkg vf) s = .next s := by
  rw [exec_cheTaskWatchdog_eq ht, if_pos (.inr (.inr h))]

end

/-! ## Leases, migrations, launches, collectives and CTXSW (R416, R420, R452, R490, R499) -/

theorem exec_leaseTimeout {s : State} {grid n : Nat} {l : Lease} {d : Nat} (hl : (getGrid s grid).leases.find? (fun l => l.n = n) = some l)
    (hd : l.pending = some d) : exec (.leaseTimeout grid n) s = if d ≤ s.time ∧ !l.revoked then .next (revokeLease s grid l) else .next s := by
  change execLeaseTimeout grid n s = _
  rw [execLeaseTimeout, hl]
  dsimp only
  rw [hd]

/-- Has a wait on M lasted 10 ms? -/
def migrationDue (s : State) (m : Option (Nat × Nat)) : Bool := m.any (fun p => decide (p.2 + migrationLimit ≤ s.time))

theorem migrationDue_some (s : State) (m : Nat × Nat) : migrationDue s (some m) = decide (m.2 + migrationLimit ≤ s.time) := by
  rw [migrationDue, Option.any_some]

/-- A group, and its slice, after the limit has been looked at. -/
def limitGroup (s : State) (g : Group) : Group :=
  { g with mlimit := g.mlimit || migrationDue s g.mwait, axp := g.axp.map (fun a => { a with mlimit := a.mlimit || migrationDue s a.mwait }) }

/-- A work of that group or slice. -/
def limitWork (s : State) (gid : Nat) (w : Work) : Work :=
  if (decide (w.agent = .group gid) || decide (w.agent = .axp gid)) = true ∧ migrationDue s w.mwait = true then { w with mlimit := true } else w

/-- What the event makes of the module. -/
def limitLooked (s : State) (gid : Nat) : State :=
  let t := modGroup s gid (limitGroup s)
  { t with works := t.works.map (limitWork s gid) }

theorem exec_migrationLimit_group {s : State} {gid : Nat} (h : (tabFind s.groups gid).isNone = false) :
    exec (.migrationLimit (.group gid)) s = .next (limitLooked s gid) := by
  change execMigrationLimit (.group gid) s = _
  unfold execMigrationLimit
  exact congrArg _ (if_neg (Bool.eq_false_iff.1 h))

theorem limitWork_due {s : State} {gid : Nat} {w : Work} {m : Nat × Nat} (hagent : (limitWork s gid w).agent = .group gid) (hm : (limitWork s gid w).mwait = some m)
    (hdue : m.2 + migrationLimit ≤ s.time) : (limitWork s gid w).mlimit = true := by
  unfold limitWork at hagent hm ⊢
  by_cases h : (decide (w.agent = .group gid) || decide (w.agent = .axp gid)) = true ∧ migrationDue s w.mwait = true
  · rw [if_pos h]
  · rw [if_neg h] at hagent hm
    refine absurd ⟨by rw [hagent]; simp, ?_⟩ h
    rw [hm, migrationDue_some, decide_eq_true hdue]

theorem isNone_of_mwait {s : State} {gid : Nat} {m : Nat × Nat} (h : (getGroup s gid).mwait = some m) : (tabFind s.groups gid).isNone = false := by
  unfold getGroup tabGet at h
  cases hfind : tabFind s.groups gid with
  | none => rw [hfind] at h; cases h
  | some g => rfl

theorem exec_migrationLimit_acts {s : State} {gid leaf since : Nat} (hm : (getGroup s gid).mwait = some (leaf, since)) :
    ∃ t, exec (.migrationLimit (.group gid)) s = .next t ∧ t = { s with groups := t.groups, works := t.works } ∧
      getGroup t gid = { getGroup s gid with mlimit := (getGroup t gid).mlimit, axp := (getGroup t gid).axp } ∧
      (getGroup t gid).mlimit = ((getGroup s gid).mlimit || decide (since + migrationLimit ≤ s.time)) ∧
      ∀ w ∈ t.works, w.agent = .group gid → ∀ m, w.mwait = some m → m.2 + migrationLimit ≤ s.time → w.mlimit = true := by
  have hg : getGroup (limitLooked s gid) gid = limitGroup s (getGroup s gid) := getGroup_modGroup_same ..
  refine ⟨_, exec_migrationLimit_group (isNone_of_mwait hm), rfl, ?_, ?_, fun w hw hagent m hwm hdue => ?_⟩
  · rw [hg, limitGroup]
  · rw [hg, limitGroup, hm, migrationDue_some]
  · obtain ⟨v, -, rfl⟩ := List.mem_map.1 hw
    exact limitWork_due hagent hwm hdue

theorem exec_placementLimit_due {s : State} {grid : Nat} {g : Grid} (hg : tabFind s.grids grid = some g) (hwait : g.waiting = true) (hhome : g.home = none)
    (h : g.issuedAt + 2000000000 ≤ s.time) : exec (.placementLimit grid) s = .next (failLaunch s grid 0x01 (if g.mods.length < g.minMods then 0x43 else 0x44)) := by
  change execPlacementLimit grid s = _
  unfold execPlacementLimit
  rw [getGrid_of_find hg]
  exact if_neg (by simp [hg, hwait, hhome, h])

theorem exec_placementLimit_not {s : State} {grid : Nat} {g : Grid} (hg : tabFind s.grids grid = some g) (h : s.time < g.issuedAt + 2000000000) :
    exec (.placementLimit grid) s = .next s :=
  if_pos (by rw [getGrid_of_find hg]; exact .inr (.inr (.inr h)))

theorem exec_collGatherTimeout_eq {s : State} {inst : Nat} {c : Coll} (hc : s.colls.find? (fun c => c.id = inst) = some c) :
    exec (.collGatherTimeout inst) s = if c.full ∨ c.closed ∨ s.time < c.opened + 2000000000 then .next s
      else .next (c.works.foldl (fun s id => endWork s id 0x14 0) (setColl s { c with closed := true })) := by
  change execCollGatherTimeout inst s = _
  rw [execCollGatherTimeout, hc]

theorem exec_ctxswRollback_eq {s : State} {qid slot : Nat} (h : (getQueue s qid).swap = some slot) :
    exec (.ctxswRollback qid) s = .next (if swapOverdue s qid then rollBack s qid slot else s) := by
  change execCtxswRollback qid s = _
  rw [execCtxswRollback, h]

/-- A queue context whose CTXSW is undone. -/
def swapUndone (q : QCtx) : QCtx := { q with swap := none, state := if q.state = .waiting then .running else q.state, wait := none }

theorem swapUndone_state (q : QCtx) : (swapUndone q).state ≠ .waiting := by
  rw [swapUndone]
  dsimp only
  split
  · exact fun h => nomatch h
  · assumption

/-- An undone CTXSW does not wait any more. -/
theorem getQueue_rollBack (s : State) (qid slot : Nat) : (getQueue (rollBack s qid slot) qid).swap = none ∧ (getQueue (rollBack s qid slot) qid).wait = none ∧
    (getQueue (rollBack s qid slot) qid).state ≠ .waiting := by
  obtain ⟨t, ht⟩ : ∃ t, rollBack s qid slot = modQueue t qid swapUndone := ⟨_, rfl⟩
  rw [ht, getQueue_modQueue_same]
  exact ⟨rfl, rfl, swapUndone_state _⟩

end Sys2Proof.Machine

namespace Sys2Proof.Claim

open Machine

/-- Settles O50: each event compares its count or its time with its limit, and acts or leaves the module as it is. -/
theorem limitsAct : Obligations.LimitsAct := by
  unfold Obligations.LimitsAct
  intro gid qid tag pkg vf grid n inst s
  refine ⟨fun hmay => ⟨exec_gtcmpFire_due hmay, exec_wdlFire_due hmay⟩, exec_gtcmpFire_not, exec_wdlFire_not, fun g hg hle => ?watchdog, fun g hg => exec_hangWatchdog_not hg,
    fun q hq => exec_hangWatchdog_queue_due hq, fun q hq => exec_hangWatchdog_queue_not hq, fun t ht => exec_detTeamTimeCap_due ht, fun t ht => exec_detTeamTimeCap_not ht,
    fun t ht => exec_cheTaskWatchdog_due ht, fun t ht => exec_cheTaskWatchdog_not ht, fun l d hl hd => ?lease, fun leaf since hm => ?migration,
    fun g hg => exec_placementLimit_due hg, fun g hg => exec_placementLimit_not hg, fun c hc => ?coll, fun slot hslot => ?swap⟩
  case watchdog =>
    have hpc := getGroup_of_find hg
    subst hpc
    refine ⟨exec_hangWatchdog_due hg hle, fun hw => ?_⟩
    obtain ⟨r, hrun, htrap, hr, hpc⟩ := watchdogTrap_trapped hw
    exact ⟨_, r, exec_hangWatchdog_due hg hle, hrun, htrap, by rw [hr], by rw [hr], hpc⟩
  case lease =>
    rw [exec_leaseTimeout hl hd]
    exact ⟨fun hrevoked hle => if_pos ⟨hle, by simp [hrevoked]⟩, fun hlt => if_neg fun h => by omega⟩
  case migration =>
    obtain ⟨t, ht, hstate, hgroup, hlimit, hworks⟩ := exec_migrationLimit_acts hm
    exact ⟨t, ht, hstate, hgroup, fun hle => by rw [hlimit, decide_eq_true (by exact hle), Bool.or_true],
      fun hlt => by rw [hlimit, decide_eq_false (by exact not_le.2 hlt), Bool.or_false], hworks⟩
  case coll =>
    rw [exec_collGatherTimeout_eq hc]
    exact ⟨fun hfull hclosed hle => if_neg (by simp [hfull, hclosed, hle]), fun hlt => if_pos (.inr (.inr hlt))⟩
  case swap =>
    rw [exec_ctxswRollback_eq hslot]
    exact ⟨fun h => ⟨by rw [if_pos h], getQueue_rollBack s qid slot⟩, fun h => by rw [if_neg (by simp [h])]⟩

end Sys2Proof.Claim
end

section
/-! Proof of the statement on the scheduler's events (05_core_memory R155; 07_core_sched_traps R242, R243, R255-R260; 12_die_channel R374-R376, R385; 14_tenancy R436, R446, R452; 16_fabric R490, R491): each acts under its conditions, and leaves the module as it is without them. -/

namespace Sys2Proof.Machine

open Claim

/-- Two changes that agree on a key's entry agree. -/
theorem tabMod_congr {α : Type} {t : Tab α} {k : Nat} {a : α} {f g : α → α} (h : tabFind t k = some a) (hfg : f a = g a) : tabMod t k f = tabMod t k g := by
  induction t with
  | nil => rfl
  | cons p r ih =>
    obtain ⟨j, b⟩ := p
    rw [tabFind] at h
    rw [tabMod, tabMod]
    by_cases hj : j = k
    · rw [if_pos hj] at h
      rw [if_pos hj, if_pos hj, Option.some.inj h, hfg]
    · rw [if_neg hj] at h
      split at h
      · cases h
      · rw [if_neg hj, if_neg hj, ih h]

theorem modTeam_congr {s : State} {tag : Nat} {x : Team} {f g : Team → Team} (hx : tabFind s.teams tag = some x) (hfg : f x = g x) :
    modTeam s tag f = modTeam s tag g := by
  rw [modTeam, modTeam, tabMod_congr hx hfg]

/-! ## Teams (R155, R255-R260) -/

/-- The teams that a request to one of a grid concerns: all of a gang, else that one. -/
def requested (s : State) (tag n : Nat) : List Nat :=
  if (getGrid s n).gang then (s.teams.filter (fun p => decide (p.2.grid = n))).map (·.1) else [tag]

section
variable {s : State} {tag core p0 : Nat} {x : Team} (hx : tabFind s.teams tag = some x)
include hx

theorem exec_preemptionRequest : exec (.preemptionRequest tag) s = .next (
    if x.res = .flushing then (requested s tag x.grid).foldl flushTeam s
    else if mayPreempt s tag then (requested s tag x.grid).foldl (fun s t => flushTeam (preemptTeam s t) t) s
    else s) := by
  change execPreemptionRequest tag s = _
  unfold execPreemptionRequest
  rw [hx, getTeam_of_find hx]
  rfl

theorem mayPreempt_running (h : mayPreempt s tag = true) : x.res = .running := by
  unfold mayPreempt at h
  rw [getTeam_of_find hx] at h
  exact of_decide_eq_true (Bool.and_eq_true_iff.1 h).1

theorem evictedReady_evicted (h : evictedReady s tag = true) : x.res = .evicted := by
  unfold evictedReady at h
  rw [getTeam_of_find hx] at h
  exact of_decide_eq_true (Bool.and_eq_true_iff.1 h).1

theorem exec_teamRestore (hstage : s.stage = .summit) : exec (.teamRestore tag core p0) s =
    let u := spillUntil (fun u => roomFor u tag core p0) s (heldTags s core)
    match x.res with
    | .held => if x.core = core ∧ seatsFree s core x.p0 x.ngrp then .next (repeatGang (resumeTeam (takeSlots s tag core) tag core) x.grid) else .next s
    | .spilled => if roomFor u tag core p0 then .next (repeatGang (resumeTeam (seatTeam u tag core p0) tag core) x.grid) else .next s
    | .evicted => if evictedReady s tag && roomFor u tag core p0 then .next (repeatGang (resumeTeam (seatTeam u tag core p0) tag core) x.grid) else .next s
    | _ => .next s := by
  change execTeamRestore tag core p0 s = _
  unfold execTeamRestore
  rw [hx, getTeam_of_find hx, hstage]
  exact if_neg (by simp)

theorem exec_teamRestore_held (hres : x.res = .held) (hcore : x.core = core) (hstage : s.stage = .summit) (hfree : seatsFree s core x.p0 x.ngrp = true) :
    exec (.teamRestore tag core p0) s = .next (repeatGang (resumeTeam (takeSlots s tag core) tag core) x.grid) := by
  rw [exec_teamRestore hx hstage, hres]
  exact if_pos ⟨hcore, hfree⟩

theorem exec_teamRestore_away (h : x.res = .spilled ∨ evictedReady s tag = true) (hstage : s.stage = .summit)
    (hroom : roomFor (spillUntil (fun u => roomFor u tag core p0) s (heldTags s core)) tag core p0 = true) :
    exec (.teamRestore tag core p0) s = .next (repeatGang (resumeTeam
      (seatTeam (spillUntil (fun u => roomFor u tag core p0) s (heldTags s core)) tag core p0) tag core) x.grid) := by
  rw [exec_teamRestore hx hstage]
  rcases h with hres | hready
  · rw [hres]
    exact if_pos hroom
  · rw [evictedReady_evicted hx hready]
    exact if_pos (by rw [hready, hroom]; rfl)

theorem exec_victimEviction (hissues : x.res.issues = true) (hgang : (getGrid s x.grid).gang = false) (hvictim : isVictim s tag = true)
    (hquiet : teamQuiet s tag = true) (hshort : placementShort s = true) : exec (.victimEviction tag) s = .next (leaveCore s tag .evicted) := by
  change execVictimEviction tag s = _
  unfold execVictimEviction
  rw [hx, getTeam_of_find hx]
  exact if_pos ⟨rfl, hissues, by rw [hgang]; rfl, hvictim, hquiet, hshort⟩

/-- A team to be saved whose groups are stopped. -/
def forcedTeam (s : State) (tag : Nat) (x : Team) : State := modTeam s tag (fun t => { t with res := .saving (savingFor x) true })

theorem exec_forcedSave_due (hsaving : isSaving x = true) (hlate : 40000 ≤ savingFor x) (hmissing : (teamGids s tag).all (fun g => isAt (getGroup s g) .tbar) = false) :
    exec (.forcedSave tag) s = .next (if teamQuiet (forcedTeam s tag x) tag then (keepTeam (forcedTeam s tag x) tag).2 else forcedTeam s tag x) := by
  have hu : modTeam s tag (fun t => { t with res := .saving (savingFor t) true }) = forcedTeam s tag x :=
    modTeam_congr hx rfl
  change execForcedSave tag s = _
  unfold execForcedSave
  rw [getTeam_of_find hx, hu]
  exact if_neg (by simp [hsaving, hlate, hmissing])

theorem exec_forcedSave_not (h : savingFor x < 40000 ∨ (teamGids s tag).all (fun g => isAt (getGroup s g) .tbar) = true) :
    exec (.forcedSave tag) s = .next s := by
  change execForcedSave tag s = _
  unfold execForcedSave
  rw [getTeam_of_find hx]
  exact if_pos (.inr h)

theorem exec_saveAtTbar (hsaving : isSaving x = true) (hat : ∀ g ∈ teamGids s tag, isAt (getGroup s g) .tbar = true) (hquiet : teamQuiet s tag = true) :
    exec (.saveAtTbar tag) s = .next (let k := keepTeam s tag
      if k.1 then (if (freeBool k.2).1 then discardDead (freeBool k.2).2 tag else (freeBool k.2).2) else discardDead k.2 tag) := by
  change execSaveAtTbar tag s = _
  unfold execSaveAtTbar
  rw [getTeam_of_find hx]
  exact if_pos ⟨hsaving, List.all_eq_true.2 hat, hquiet⟩

end

/-- Has a core room for the next team of a grid, from a pipeline on (R155)? -/
def gridRoom (g : Grid) (core p0 : Nat) (u : State) : Bool := roomOn u core p0 (gridBudgets g) g.spad (decide (g.access ≠ 0))

section
variable {s : State} {grid core p0 tag : Nat} {g : Grid} (hg : tabFind s.grids grid = some g)
include hg

theorem exec_teamPlacement {v : State} (hwants : wantsCore s g = true) (htag : 1 ≤ tag) (htag' : tag ≤ 65535) (hfree : tabFind s.teams tag = none)
    (hstage : s.stage = .summit)
    (hevicted : s.teams.any (fun p => evictedReady s p.1 && (List.range 4).any (fun q => roomFor (sansHeld s) p.1 core q)) = false) :
    let u := spillUntil (gridRoom g core p0) s (heldTags s core)
    gridRoom g core p0 u = true → reserved s g.vf core = false → withSat u grid (clusterOfCore core) = some v →
      exec (.teamPlacement grid core p0 tag) s = .next (placeTeam v grid core p0 tag) := by
  intro u hfits hreserved hsat
  change execTeamPlacement grid core p0 tag s = _
  unfold execTeamPlacement
  rw [getGrid_of_find hg]
  change (if _ ∨ _ ∨ _ ∨ _ ∨ _ ∨ _ ∨ _ ∨ _ ∨ (!gridRoom g core p0 u) = true ∨ _ then _ else match withSat u grid (clusterOfCore core) with | none => _ | some t => _) = _
  rw [hsat]
  refine if_neg ?_
  rw [hg, hfree, hstage, hevicted, hwants, hreserved, hfits]
  simp [show tag ≠ 0 by omega, htag']

theorem exec_teamPlacement_foreign (h : heldHere s g = false) : exec (.teamPlacement grid core p0 tag) s = .next s := by
  have hwants : wantsCore s g = false := by rw [wantsCore, h, Bool.and_false]
  change execTeamPlacement grid core p0 tag s = _
  unfold execTeamPlacement
  rw [getGrid_of_find hg]
  exact if_pos (.inr (.inl (by rw [hwants]; rfl)))

theorem exec_gridOfferReceived {m : Nat} {a : Bool} (hmax : 1 < g.maxMods) (hhome : g.home = none) (hplaced : placedAll g = 0) (hmods : g.mods.length < g.maxMods)
    (hnext : nextOffer s g = some m) : exec (.gridOfferReceived grid m a) s = .next (startGrid (setGrid s grid { g with
      offered := g.offered ++ [m], mods := if a then addModule g.mods m else g.mods }) grid) := by
  change execGridOfferReceived grid m a s = _
  unfold execGridOfferReceived
  rw [getGrid_of_find hg]
  exact if_neg (by simp [hg, hmax, hhome, hplaced, hmods, hnext])

end

/-! ## Retirement and barriers (R104, R108, R242, R243, R446) -/

theorem exec_groupRetirement {s : State} {gid : Nat} {g : Group} (hg : tabFind s.groups gid = some g) (hdone : g.run = .done) (hfull : tokensFull s gid = true)
    (hsq : g.sq = []) (hpending : s.pending = []) (hmatrix : ∀ c ∈ s.cores, c.2.matrix = []) : exec (.groupRetirement gid) s = .next (retireGroup s gid) := by
  change execGroupRetirement gid s = _
  unfold execGroupRetirement
  rw [getGroup_of_find hg]
  refine if_pos ⟨by rw [hg]; rfl, hdone, hfull, by rw [hsq]; rfl, by rw [hpending]; rfl, List.all_eq_true.2 fun c hc => ?_⟩
  rw [hmatrix c hc]
  rfl

theorem exec_gridRetirement {s : State} {grid : Nat} {w : Work} (h : gridDone s grid = true) (hw : getWork s grid = some w) :
    ∃ t, exec (.gridRetirement grid) s = .next t ∧ t.grids = tabErase s.grids grid ∧ (∀ c ∈ t.colls, c.grid ≠ grid) ∧
      ∀ v ∈ t.works, v.id = grid → v.ended = true ∧ v.status = (getGrid s grid).ended.getD 0 := by
  have hid : w.id = grid := of_decide_eq_true (List.find?_some (p := fun w : Work => decide (w.id = grid)) hw)
  have hstep : exec (.gridRetirement grid) s = .next (setWork { s with grids := tabErase s.grids grid, colls := s.colls.filter (fun c => decide (c.grid ≠ grid)) }
      { w with status := (getGrid s grid).ended.getD 0, index := 0, ended := true }) := by
    have hw' : getWork { s with grids := tabErase s.grids grid, colls := s.colls.filter (fun c => decide (c.grid ≠ grid)) } grid = some w := hw
    change execGridRetirement grid s = _
    unfold execGridRetirement
    rw [if_pos h]
    dsimp only
    rw [hw']
  refine ⟨_, hstep, rfl, fun c hc => of_decide_eq_true (List.mem_filter.1 hc).2, fun v hv hvid => ?_⟩
  obtain ⟨y, -, rfl⟩ := List.mem_map.1 hv
  by_cases hy : y.id = w.id
  · rw [if_pos hy]
    exact ⟨rfl, rfl⟩
  · rw [if_neg hy] at hvid
    exact absurd (hvid.trans hid.symm) hy

theorem exec_gridRetirement_not {s : State} {grid : Nat} (h : gridDone s grid = false) : exec (.gridRetirement grid) s = .next s :=
  if_neg (Bool.eq_false_iff.1 h)

theorem exec_stepBarrierComplete_keep {s : State} {grid : Nat} (h : stepArrived s grid = true) :
    exec (.stepBarrierComplete grid .keep) s = .next (releaseStep (setGrid s grid (getGrid s grid)) grid) :=
  if_pos ⟨h, rfl⟩

theorem exec_stepBarrierComplete_not {s : State} {grid : Nat} (h : stepArrived s grid = false) (c : StepChange) : exec (.stepBarrierComplete grid c) s = .next s :=
  if_neg fun h' => by
    obtain ⟨h', -⟩ := h'
    rw [h] at h'
    cases h'

theorem exec_gridBarrierComplete {s : State} {grid : Nat} (h : gbarArrived s grid = true) :
    exec (.teamBarrierComplete (.grid grid)) s = .next (releaseGbar s grid) :=
  congrArg Host.Outcome.next (if_pos h)

/-! ## Quanta and tasks (R374-R376, R385, R436, R452) -/

section
variable {s : State} {qp : Nat} (hqp : qp < 8)
include hqp

theorem exec_qpQuantumExpiry_more (hasked : qp ∉ s.qpAsked) (hrun : vfRunnable s (tabGet s.qpVf qp 0) = true)
    (hmore : tabGet s.qpQuanta qp 0 + 1 < turnWeight s (tabGet s.qpVf qp 0)) :
    exec (.qpQuantumExpiry qp) s = .next { s with qpQuanta := tabPut s.qpQuanta qp (tabGet s.qpQuanta qp 0 + 1) } := by
  change execQpQuantumExpiry qp s = _
  unfold execQpQuantumExpiry
  dsimp only
  rw [if_neg (by omega), if_pos (by simp [hasked, hrun, hmore])]

theorem exec_qpQuantumExpiry_next {v : Nat} (hout : qp ∈ s.qpAsked ∨ vfRunnable s (tabGet s.qpVf qp 0) = false ∨ turnWeight s (tabGet s.qpVf qp 0) ≤ tabGet s.qpQuanta qp 0 + 1)
    (hnext : ((List.range (hostVf + 1)).map (fun i => (tabGet s.qpVf qp 0 + 1 + i) % (hostVf + 1))).find?
      (fun v => decide (v ≠ tabGet s.qpVf qp 0) && vfRunnable s v) = some v) :
    exec (.qpQuantumExpiry qp) s = if swapping s (tabGet s.qpVf qp 0) then .next { s with qpAsked := qp :: s.qpAsked.filter (· ≠ qp) }
      else .next (unserved { s with qpVf := tabPut s.qpVf qp v, qpQuanta := tabErase s.qpQuanta qp, qpAsked := s.qpAsked.filter (· ≠ qp) } (tabGet s.qpVf qp 0)) := by
  change execQpQuantumExpiry qp s = _
  unfold execQpQuantumExpiry
  dsimp only
  rw [if_neg (by omega), if_neg (by rcases hout with h | h | h <;> simp [h]), hnext]

end

section
variable {s : State} {pkg vf : Nat} {t : ChTask} (ht : getTask s pkg vf = some t)
include ht

theorem exec_cheQuantumExpiry_next {v : Nat} {r : List Nat} (hturn : tabGet s.cheTurn pkg 0 = vf) (hst : t.started = true) (hfetch : ∀ f ∈ t.fetch, f.data ≠ none)
    (hout : tabGet s.cheSince pkg 0 + cheQuant s vf ≤ s.time)
    (hothers : ((List.range Config.vfs).map (fun i => (vf + 1 + i) % Config.vfs)).filter (fun u => decide (u ≠ vf) && ringReady s pkg u) = v :: r) :
    exec (.cheQuantumExpiry pkg) s = .next (beginQuantum s pkg (if moreQuanta s pkg then vf else v)) := by
  subst hturn
  have hothers' : otherRings s pkg = v :: r := hothers
  have hquantum : quantumOut s pkg = true := decide_eq_true hout
  have hlanded : t.fetch.any (fun f => f.data.isNone) = false := by
    rw [List.any_eq_false]
    exact fun f hf h => hfetch f hf (Option.isNone_iff_eq_none.1 h)
  change execCheQuantumExpiry pkg s = _
  unfold execCheQuantumExpiry
  dsimp only
  rw [ht]
  dsimp only
  rw [if_neg (by simp [hst, hquantum, hlanded]), hothers']

theorem exec_cheTaskStart_first {w : Work} (hnext : cheNext s pkg = some vf) (hidle : cheIdle s pkg = true) (hst : t.started = false) (hdoomed : t.doomed = false)
    (hcompact : t.compact = false) (hw : getWork s t.work = some w) (hturn : tabGet s.cheTurn pkg 0 ≠ vf) :
    exec (.cheTaskStart pkg vf) s = .next (startTask (beginQuantum s pkg vf) pkg vf t w) := by
  have hw' : getWork (beginQuantum s pkg vf) t.work = some w := hw
  change execCheTaskStart pkg vf s = _
  unfold execCheTaskStart
  rw [ht]
  dsimp only
  rw [if_neg (by simp [hnext, hidle]), if_neg (Bool.eq_false_iff.1 hst), if_neg (Bool.eq_false_iff.1 hdoomed), if_neg (Bool.eq_false_iff.1 hcompact),
    if_neg (c := tabGet s.cheTurn pkg 0 = vf ∧ _) fun h => hturn h.1, hw']

theorem exec_cheTaskEnd (hst : t.started = true) (ha : t.aDone = true) (hxDone : t.xDone = true) (hstores : t.stores = []) :
    exec (.cheTaskEnd pkg vf) s = .next (endWork (setRing s pkg vf { getRing s pkg vf with tasks := (getRing s pkg vf).tasks.tail }) t.work 0 0) := by
  change execCheTaskEnd pkg vf s = _
  unfold execCheTaskEnd
  rw [ht]
  exact if_pos ⟨hst, ha, hxDone, by rw [hstores]; rfl⟩

end

theorem exec_cheQuantumExpiry_not {s : State} {pkg : Nat} (h : s.time < tabGet s.cheSince pkg 0 + cheQuant s (tabGet s.cheTurn pkg 0)) :
    exec (.cheQuantumExpiry pkg) s = .next s := by
  have hquantum : quantumOut s pkg = false := decide_eq_false (by omega)
  change execCheQuantumExpiry pkg s = _
  unfold execCheQuantumExpiry
  dsimp only
  split
  · rfl
  · exact if_pos (.inr (.inl (by rw [hquantum]; rfl)))

/-- The turn passes to another ring with its first quantum. -/
theorem beginQuantum_other {s : State} {pkg v : Nat} (h : tabGet s.cheTurn pkg 0 ≠ v) : beginQuantum s pkg v = { s with
    cheTurn := tabPut s.cheTurn pkg v, cheSince := tabPut s.cheSince pkg s.time, cheQuanta := tabErase s.cheQuanta pkg } := by
  rw [beginQuantum, if_neg fun h' => h h'.1]

/-- The ring that has the turn goes on in its next quantum. -/
theorem beginQuantum_same {s : State} {pkg vf : Nat} (hturn : tabGet s.cheTurn pkg 0 = vf) (hmore : moreQuanta s pkg = true) : beginQuantum s pkg vf = { s with
    cheTurn := tabPut s.cheTurn pkg vf, cheSince := tabPut s.cheSince pkg s.time, cheQuanta := tabPut s.cheQuanta pkg (tabGet s.cheQuanta pkg 0 + 1) } := by
  rw [beginQuantum, if_pos ⟨hturn, hmore⟩]

end Sys2Proof.Machine

namespace Sys2Proof.Claim

open Machine

/-- Settles O51: each event looks at its conditions, and acts or leaves the module as it is. -/
theorem schedulingEventsAct : Obligations.SchedulingEventsAct := by
  unfold Obligations.SchedulingEventsAct
  intro tag core p0 gid grid m qp pkg vf a s
  refine ⟨fun x hx => ⟨fun hmay => ?preempt, fun hflush => ?flush, fun hmay hflush => ?keep, exec_teamRestore_held hx, exec_teamRestore_away hx, exec_victimEviction hx,
      fun hsaving hlate hmissing => ⟨fun hquiet => ?forced, fun hquiet => ?forcedLater⟩, fun _ => exec_forcedSave_not hx, exec_saveAtTbar hx⟩,
    fun g v hg => exec_teamPlacement hg, fun g hg => exec_teamPlacement_foreign hg, fun g hg => exec_groupRetirement hg, fun w => exec_gridRetirement, exec_gridRetirement_not,
    exec_stepBarrierComplete_keep, exec_stepBarrierComplete_not, rfl, exec_gridBarrierComplete, fun g hg => exec_gridOfferReceived hg,
    fun hqp => exec_qpQuantumExpiry_more hqp, fun v hqp hout hnext => ?turn, fun t v r hturn ht hst hfetch hout hothers => ?quantum, exec_cheQuantumExpiry_not,
    fun t w ht hnext hidle hst hdoomed hcompact hw hturn => ?start, fun t ht => exec_cheTaskEnd ht⟩
  case preempt =>
    rw [exec_preemptionRequest hx, if_neg (by rw [mayPreempt_running hx hmay]; exact fun h => nomatch h), if_pos hmay]
    rfl
  case flush =>
    rw [exec_preemptionRequest hx, if_pos hflush]
    rfl
  case keep => rw [exec_preemptionRequest hx, if_neg hflush, if_neg (Bool.eq_false_iff.1 hmay)]
  case forced => exact (exec_forcedSave_due hx hsaving hlate hmissing).trans (congrArg Host.Outcome.next (if_pos hquiet))
  case forcedLater => exact (exec_forcedSave_due hx hsaving hlate hmissing).trans (congrArg Host.Outcome.next (if_neg (Bool.eq_false_iff.1 hquiet)))
  case turn =>
    rw [exec_qpQuantumExpiry_next hqp hout hnext]
    exact ⟨fun h => if_pos h, fun h => if_neg (Bool.eq_false_iff.1 h)⟩
  case quantum =>
    obtain ⟨-, hv'⟩ := List.mem_filter.1 (hothers.symm ▸ List.mem_cons_self : v ∈ List.filter (fun u => decide (u ≠ vf) && ringReady s pkg u) _)
    have hv : v ≠ vf := of_decide_eq_true (Bool.and_eq_true_iff.1 hv').1
    rw [exec_cheQuantumExpiry_next ht hturn hst hfetch hout hothers]
    refine ⟨fun h => ?_, fun h => ?_⟩
    · have hmore : moreQuanta s pkg = true := decide_eq_true (hturn ▸ h)
      rw [if_pos hmore, beginQuantum_same hturn hmore]
    · have hmore : moreQuanta s pkg = false := decide_eq_false (by rw [hturn]; omega)
      rw [if_neg (Bool.eq_false_iff.1 hmore), beginQuantum_other (by rw [hturn]; exact hv.symm)]
  case start => rw [exec_cheTaskStart_first ht hnext hidle hst hdoomed hcompact hw hturn, beginQuantum_other hturn]

end Sys2Proof.Claim
end

section
/-! Proof that the statement on work that goes on by itself fails: it says that SCCLR leaves memory, but the end of any work records claims that waited, and a claim recalls the partials of its line (10_die_memory R313, R316). -/

namespace Sys2Proof.Claim

open Machine

/-- An SCCLR of one entry, at the head of its cluster's queue. -/
def scclrWork : Work := { id := 1, kind := .scclr, agent := .group 16, grid := 1, space := noSpace, token := 97, blk := [0, 1, 0, 0] }

/-- A claim of other work on line 0 waits to be recorded, and core 0 holds a partial of its first word, which adds 1. -/
def claimWaits : State :=
  { stage := .summit, grids := [(1, { noGrid with sat := [(0, 0)], satlen := 1 })], clusters := [(0, { sqe := [1] })], works := [scclrWork],
    claimQueue := [(0, 2)], cores := [(0, { u := [(0, { op := 0, width := 4, val := 1 })] })] }

/-- When the SCCLR ends, the claim is recorded, and the partial goes home. -/
theorem memRead_claimWaits : memRead (sqeHead claimWaits 0).mem 0 = 1 ∧ memRead claimWaits.mem 0 = 0 := by decide +kernel

/-- Refutes O53: in `claimWaits` the SCCLR at the head of the queue of cluster 0 changes the byte at 0. -/
theorem not_workGoesOnByItself : ¬ Obligations.WorkGoesOnByItself := by
  unfold Obligations.WorkGoesOnByItself
  intro h
  obtain ⟨-, -, -, -, -, -, -, -, hsqe, -, -, -⟩ := h 0 0 0 0 1 0 0 none claimWaits rfl
  obtain ⟨-, hscclr⟩ := hsqe [] scclrWork rfl rfl
  obtain ⟨t, ht, -, hmem, -⟩ := hscclr rfl rfl (by decide) (by decide) (by decide) rfl rfl
  have ht' : sqeHead claimWaits 0 = t := Host.Outcome.next.inj ht
  obtain ⟨hafter, hbefore⟩ := memRead_claimWaits
  rw [ht', hmem, hbefore] at hafter
  exact absurd hafter (by decide)

end Sys2Proof.Claim
end

section
/-! What a lane operation leaves of its context: the registers it writes, the flags it raises, the queue registers it pops, and the PC (04_lane_ops R111-R115; 01_encoding R30, R34). -/

namespace Sys2Proof.Machine

open Claim

/-! ## Changes of the executing context alone -/

/-- u is s but for the registers and the FCSR of the executing context. -/
structure OwnOnly (s u : State) : Prop where
  state : u = { s with groups := u.groups, queues := u.queues }
  otherGroups : ∀ k, s.cur ≠ .group k → s.cur ≠ .axp k → tabFind u.groups k = tabFind s.groups k
  otherQueues : ∀ k, s.cur ≠ .queue k → tabFind u.queues k = tabFind s.queues k
  group : ∀ k, s.cur = .group k → getGroup u k = { getGroup s k with regs := (getGroup u k).regs, fcsr := (getGroup u k).fcsr }
  slice : ∀ k, s.cur = .axp k → getGroup u k = { getGroup s k with axp := (getGroup u k).axp } ∧
    getAxp u k = { getAxp s k with regs := (getAxp u k).regs }
  queue : ∀ k, s.cur = .queue k → getQueue u k = { getQueue s k with regs := (getQueue u k).regs }

theorem OwnOnly.refl (s : State) : OwnOnly s s := ⟨rfl, fun _ _ _ => rfl, fun _ _ => rfl, fun _ _ => rfl, fun _ _ => ⟨rfl, rfl⟩, fun _ _ => rfl⟩

theorem OwnOnly.cur_eq {s u : State} (h : OwnOnly s u) : u.cur = s.cur := by rw [h.state]

theorem OwnOnly.trans {s u v : State} (h : OwnOnly s u) (h' : OwnOnly u v) : OwnOnly s v where
  state := by rw [h'.state, h.state]
  otherGroups k hg ha := (h'.otherGroups k (h.cur_eq ▸ hg) (h.cur_eq ▸ ha)).trans (h.otherGroups k hg ha)
  otherQueues k hq := (h'.otherQueues k (h.cur_eq ▸ hq)).trans (h.otherQueues k hq)
  group k hk := by rw [h'.group k (h.cur_eq.trans hk), h.group k hk]
  slice k hk := by
    obtain ⟨hg, ha⟩ := h.slice k hk
    obtain ⟨hg', ha'⟩ := h'.slice k (h.cur_eq.trans hk)
    exact ⟨by rw [hg', hg], by rw [ha', ha]⟩
  queue k hk := by rw [h'.queue k (h.cur_eq.trans hk), h.queue k hk]

theorem OwnOnly.foldl {α : Type} {f : State → α → State} (hf : ∀ s a, OwnOnly s (f s a)) (l : List α) (s : State) : OwnOnly s (l.foldl f s) := by
  induction l generalizing s with
  | nil => exact .refl s
  | cons a l ih => exact (hf s a).trans (ih _)

theorem OwnOnly.onRegisters {s u : State} (h : OwnOnly s u) (hx : onRegisters s) : onRegisters u := by
  unfold Claim.onRegisters at hx ⊢
  rwa [h.cur_eq]

/-- The active lanes are as they were (R86). -/
theorem OwnOnly.laneList_eq {s u : State} (h : OwnOnly s u) : laneList u = laneList s := by
  unfold laneList
  rw [h.cur_eq]
  cases hc : s.cur with
  | group gid => 
    dsimp only
    rw [h.group gid hc]
    rfl
  | _ => rfl

theorem ownOnly_setRegs (s : State) (r : RegFile) : OwnOnly s (setRegs s r) := by
  cases hc : s.cur with
  | group gid =>
    rw [setRegs_group hc]
    refine ⟨rfl, fun k hk _ => tabFind_tabPut_other _ _ fun e => hk (e ▸ hc), fun _ _ => rfl, fun k hk => ?_, fun k hk => ?_, fun k hk => ?_⟩
    · obtain rfl : gid = k := Agent.group.inj (hc.symm.trans hk)
      rw [getGroup_setGroup_same]
    · exact nomatch hc.symm.trans hk
    · exact nomatch hc.symm.trans hk
  | axp gid =>
    rw [setRegs_axp hc]
    refine ⟨rfl, fun k _ hk => tabFind_tabPut_other _ _ fun e => hk (e ▸ hc), fun _ _ => rfl, fun k hk => ?_, fun k hk => ?_, fun k hk => ?_⟩
    · exact nomatch hc.symm.trans hk
    · obtain rfl : gid = k := Agent.axp.inj (hc.symm.trans hk)
      rw [getGroup_setAxp, getAxp_setAxp]
      exact ⟨rfl, rfl⟩
    · exact nomatch hc.symm.trans hk
  | queue qid =>
    rw [setRegs_queue hc]
    refine ⟨rfl, fun _ _ _ => rfl, fun k hk => tabFind_tabPut_other _ _ fun e => hk (e ▸ hc), fun k hk => ?_, fun k hk => ?_, fun k hk => ?_⟩
    · exact nomatch hc.symm.trans hk
    · exact nomatch hc.symm.trans hk
    · obtain rfl : qid = k := Agent.queue.inj (hc.symm.trans hk)
      rw [getQueue_setQueue_same]
  | cheA p v => simpa only [setRegs, hc] using OwnOnly.refl s
  | cheX p v => simpa only [setRegs, hc] using OwnOnly.refl s

theorem ownOnly_setFcsr (s : State) (lane : Nat) (w : Word) : OwnOnly s (setFcsr s lane w) := by
  unfold setFcsr
  split
  · next gid hc =>
    refine ⟨rfl, fun k hk _ => tabFind_tabPut_other _ _ fun e => hk (e ▸ hc), fun _ _ => rfl, fun k hk => ?_, fun k hk => ?_, fun k hk => ?_⟩
    · obtain rfl : gid = k := Agent.group.inj (hc.symm.trans hk)
      rw [getGroup_modGroup_same]
    · exact nomatch hc.symm.trans hk
    · exact nomatch hc.symm.trans hk
  · exact .refl s

theorem ownOnly_orFcsr (s : State) (lane : Nat) (f : Flags) : OwnOnly s (orFcsr s lane f) := by
  unfold orFcsr
  split
  · exact .refl s
  · exact ownOnly_setFcsr ..

theorem ownOnly_writePair (s : State) (f lane : Nat) (w : DWord) : OwnOnly s (writePair s f lane w) := (ownOnly_setRegs ..).trans (ownOnly_setRegs ..)

theorem ownOnly_putLanes (s : State) (d : Nat) (lanes : List Nat) (f : Nat → Word) : OwnOnly s (putLanes s d lanes f) :=
  .foldl (fun _ _ => ownOnly_setRegs ..) lanes s

theorem ownOnly_putPairs (s : State) (d : Nat) (lanes : List Nat) (f : Nat → DWord) : OwnOnly s (putPairs s d lanes f) :=
  .foldl (fun _ _ => ownOnly_writePair ..) lanes s

theorem ownOnly_putPreds (s : State) (p : Nat) (lanes : List Nat) (f : Nat → Bool) : OwnOnly s (putPreds s p lanes f) :=
  .foldl (fun _ _ => ownOnly_setRegs ..) lanes s

theorem ownOnly_orFcsrAll (s : State) (lanes : List Nat) (f : Flags) : OwnOnly s (orFcsrAll s lanes f) := .foldl (fun _ _ => ownOnly_orFcsr ..) lanes s

theorem ownOnly_fpFlags (s : State) (uniform : Bool) (lanes : List Nat) (f : Nat → Flags) : OwnOnly s (fpFlags s uniform lanes f) := by
  unfold fpFlags
  split
  · exact ownOnly_orFcsrAll ..
  · exact .foldl (fun _ _ => ownOnly_orFcsr ..) lanes s

/-! ## The queue registers popped (R30) -/

/-- What is left of a group besides its queue registers and its slice. -/
def Group.sansQueues (g : Group) : Group := { g with q := [], axp := none }

theorem sansQueues_pumpStreams (g : Group) : (pumpStreams g).sansQueues = g.sansQueues := by
  unfold pumpStreams
  split
  · rfl
  · refine foldl_keeps Group.sansQueues (fun _ _ => ?_) _ g
    rfl

theorem eq_of_sansQueues {g g' : Group} (h : g'.sansQueues = g.sansQueues) : g' = { g with q := g'.q, axp := g'.axp } := by
  cases g
  cases g'
  simp only [Group.sansQueues, Group.mk.injEq] at h ⊢
  simp only [h, and_true]

/-- v is u but for the queue registers of group gid, and its slice's streams that fill them. -/
structure PopsOnly (gid : Nat) (u v : State) : Prop where
  state : v = { u with groups := v.groups }
  others : ∀ k, k ≠ gid → tabFind v.groups k = tabFind u.groups k
  group : (getGroup v gid).sansQueues = (getGroup u gid).sansQueues

theorem PopsOnly.trans {gid : Nat} {s t u : State} (h : PopsOnly gid s t) (h' : PopsOnly gid t u) : PopsOnly gid s u :=
  ⟨by rw [h'.state, h.state], fun k hk => (h'.others k hk).trans (h.others k hk), h'.group.trans h.group⟩

theorem popsOnly_popQs {s : State} {gid : Nat} (hgid : s.cur = .group gid) (fields : List Nat) : PopsOnly gid s (popQs s fields) := by
  unfold popQs popQsBy
  rw [hgid]
  dsimp only
  generalize (fields.filter _).eraseDups = l
  clear hgid
  induction l generalizing s with
  | nil => exact ⟨rfl, fun _ _ => rfl, rfl⟩
  | cons f l ih =>
    refine .trans ⟨rfl, fun k hk => tabFind_tabPut_other _ _ hk, ?_⟩ (ih (s := _))
    rw [getGroup_modGroup_same, sansQueues_pumpStreams]
    rfl

theorem popQs_other {s : State} (h : ∀ gid, s.cur ≠ .group gid) (fields : List Nat) : popQs s fields = s := by
  unfold popQs popQsBy
  split
  · next gid hc => exact absurd hc (h gid)
  · rfl

/-! ## The end of an instruction -/

/-- The FCSR table of the executing group. -/
def fcsrTab (s : State) : Tab Word := match s.cur with | .group gid => (getGroup s gid).fcsr | _ => []

theorem fcsrOf_eq (s : State) (lane : Nat) : fcsrOf s lane = tabGet (fcsrTab s) lane 0 := by
  unfold fcsrOf fcsrTab
  cases s.cur <;> rfl

theorem fcsrRising_iff (s : State) : fcsrRising s ↔ tabRising (fcsrTab s) = true := by
  unfold fcsrRising fcsrTab
  cases s.cur <;> simp [tabRising]

/-- What the end of an instruction leaves when its body changed the executing context alone. -/
structure EndsAs (i : Instr) (flags : Bool) (s u t : State) : Prop where
  regs : regsOf t = regsOf u
  fcsr : fcsrTab t = fcsrTab u
  pc : pcOf t = nextPc s (ilen i)
  context : contextOnly i flags s t

section
variable {i : Instr} {flags : Bool} {s u : State} (h : OwnOnly s u)
include h

theorem endsAs_group {gid : Nat} (hc : s.cur = .group gid) (hflags : flags = false → fcsrTab u = fcsrTab s) :
    EndsAs i flags s u (finish (uses i) (ilen i) u) := by
  have huc := h.cur_eq.trans hc
  obtain ⟨hstate, hothers, hgroup⟩ := popsOnly_popQs huc ((uses i).flatMap Use.sources)
  have hnone : readsQ i = false → popQs u ((uses i).flatMap Use.sources) = u := fun hq =>
    popQs_none u _ (List.filter_eq_nil_iff.2 (List.any_eq_false.1 hq))
  unfold finish
  generalize popQs u ((uses i).flatMap Use.sources) = v at *
  have hvc : v.cur = .group gid := by rw [hstate, huc]
  have hv := eq_of_sansQueues hgroup
  have hown := h.group gid hc
  have hpc : (getGroup v gid).pc = (getGroup s gid).pc := by rw [hv, hown]
  rw [advance_group v gid _ hvc]
  refine ⟨?regs, ?fcsr, ?pc, ?state, fun k hk _ => ?groups, fun k hk => ?queues, ?own⟩
  case regs =>
    simp only [regsOf, setGroup_cur, hvc, huc, getGroup_setGroup_same, groupDone_regs]
    rw [hv]
  case fcsr =>
    simp only [fcsrTab, setGroup_cur, hvc, huc, getGroup_setGroup_same, groupDone_fcsr]
    rw [hv]
  case pc => simp only [pcOf, nextPc, setGroup_cur, hvc, hc, getGroup_setGroup_same, groupDone_pc, hpc]
  case state => rw [setGroup, hstate, h.state]
  case groups =>
    have hne : k ≠ gid := fun e => hk (e ▸ hc)
    rw [setGroup_groups, tabFind_tabPut_other _ _ hne, hothers k hne, h.otherGroups k hk (by rw [hc]; exact nofun)]
  case queues => rw [setGroup_queues, hstate, h.otherQueues k hk]
  case own =>
    rw [hc]
    simp only [getGroup_setGroup_same]
    refine ⟨?_, fun hq => ?_, fun hf => ?_⟩
    · rw [hv, hown]
      rfl
    · rw [hnone hq, hown]
      exact ⟨rfl, rfl⟩
    · have := hflags hf
      simp only [fcsrTab, huc, hc] at this
      rw [groupDone_fcsr, hv]
      exact this

theorem endsAs_axp {gid : Nat} (hc : s.cur = .axp gid) : EndsAs i flags s u (finish (uses i) (ilen i) u) := by
  have huc := h.cur_eq.trans hc
  have hpop : popQs u ((uses i).flatMap Use.sources) = u := popQs_other (fun k => by rw [huc]; exact nofun) _
  obtain ⟨hg, ha⟩ := h.slice gid hc
  have hadv : advance (ilen i) u = setAxp u gid { getAxp u gid with pc := (getAxp s gid).pc + BitVec.ofNat 64 (ilen i), mlimit := false, mwait := none } := by
    simp only [advance, huc, pcOf, goTo_axp u gid _ huc]
    rw [ha]
  rw [finish, hpop, hadv]
  refine ⟨?regs, ?fcsr, ?pc, ?state, fun k _ hk => ?groups, fun k hk => ?queues, ?own⟩
  case regs => simp only [regsOf, setAxp_cur, huc, getAxp_setAxp]
  case fcsr => simp only [fcsrTab, setAxp_cur, huc]
  case pc => simp only [pcOf, nextPc, setAxp_cur, huc, hc, getAxp_setAxp]
  case state => rw [setAxp, modGroup, setGroup, h.state]
  case groups =>
    have hne : k ≠ gid := fun e => hk (e ▸ hc)
    exact (tabFind_tabPut_other _ _ hne).trans (h.otherGroups k (by rw [hc]; exact nofun) hk)
  case queues => exact h.otherQueues k hk
  case own =>
    rw [hc]
    simp only [getAxp_setAxp, getGroup_setAxp]
    rw [hg, ha]

theorem endsAs_queue {qid : Nat} (hc : s.cur = .queue qid) : EndsAs i flags s u (finish (uses i) (ilen i) u) := by
  have huc := h.cur_eq.trans hc
  have hpop : popQs u ((uses i).flatMap Use.sources) = u := popQs_other (fun k => by rw [huc]; exact nofun) _
  have hq := h.queue qid hc
  rw [finish, hpop, advance_queue u qid _ huc, hq, goesOn_regs]
  refine ⟨?regs, ?fcsr, ?pc, ?state, fun k hg ha => ?groups, fun k hk => ?queues, ?own⟩
  case regs => simp only [regsOf, setQueue_cur, huc, getQueue_setQueue_same]
  case fcsr => simp only [fcsrTab, setQueue_cur, huc]
  case pc =>
    simp only [pcOf, nextPc, setQueue_cur, huc, hc, getQueue_setQueue_same]
    exact queuePc_goesOn _ (ilen i)
  case state => rw [setQueue, h.state]
  case groups => exact h.otherGroups k hg ha
  case queues =>
    have hne : k ≠ qid := fun e => hk (e ▸ hc)
    exact (tabFind_tabPut_other _ _ hne).trans (h.otherQueues k hk)
  case own =>
    rw [hc]
    simp only [getQueue_setQueue_same]
    rw [goesOn_eq]

/-- An instruction that changed the executing context alone pops its queue registers, and the context goes on. -/
theorem endsAs_finish (hx : onRegisters s) (hflags : flags = false → fcsrTab u = fcsrTab s) : EndsAs i flags s u (finish (uses i) (ilen i) u) := by
  rcases onRegisters_iff.1 hx with ⟨gid, hc⟩ | ⟨gid, hc⟩ | ⟨qid, hc⟩
  · exact endsAs_group h hc hflags
  · exact endsAs_axp h hc
  · exact endsAs_queue h hc

end

end Sys2Proof.Machine
end

section
/-! The values that a lane operation leaves in its destination and in FCSR, lane by lane (04_lane_ops R111, R114, R115; 01_encoding R34). -/

namespace Sys2Proof.Machine

open Claim

/-! ## One change of the registers for each lane -/

section
variable {P : RegFile → Prop} {g : RegFile → Nat → RegFile} {w : Nat → Nat → Nat → Prop} {lanes : List Nat}

/-- What the changes of the lanes change together. -/
theorem keepsBut_foldl (hg : ∀ r, P r → ∀ l ∈ lanes, P (g r l) ∧ KeepsBut (w l) r (g r l)) {r : RegFile} (hr : P r) :
    KeepsBut (fun n m => ∃ l ∈ lanes, w l n m) r (lanes.foldl g r) := by
  induction lanes generalizing r with
  | nil => exact .refl _ r
  | cons l ls ih =>
    obtain ⟨hP, hstep⟩ := hg r hr l List.mem_cons_self
    have hrest := ih (fun r hr l hl => hg r hr l (List.mem_cons_of_mem _ hl)) hP
    exact (hstep.mono fun n m _ h => ⟨l, List.mem_cons_self, h⟩).trans (hrest.mono fun n m _ ⟨l', hl', h⟩ => ⟨l', List.mem_cons_of_mem _ hl', h⟩)

/-- A lane's value stands when no later lane writes over it. -/
theorem read_foldl (hg : ∀ r, P r → ∀ l ∈ lanes, P (g r l) ∧ KeepsBut (w l) r (g r l)) {n : Nat} (hn : n < 128 ∧ ¬namesQ n) {val : Nat → Word}
    (hval : ∀ r, P r → ∀ l ∈ lanes, (g r l).read n l = val l) (hlanes : ∀ l ∈ lanes, l < 64) (hapart : lanes.Pairwise fun l l' => ¬w l' n l)
    {r : RegFile} (hr : P r) : ∀ l ∈ lanes, (lanes.foldl g r).read n l = val l := by
  induction lanes generalizing r with
  | nil => exact fun l hl => absurd hl List.not_mem_nil
  | cons l ls ih =>
    obtain ⟨hfirst, hrest⟩ := List.pairwise_cons.1 hapart
    have hg' : ∀ r, P r → ∀ l ∈ ls, P (g r l) ∧ KeepsBut (w l) r (g r l) := fun r hr l hl => hg r hr l (List.mem_cons_of_mem _ hl)
    have hP := (hg r hr l List.mem_cons_self).1
    rintro m (_ | ⟨_, hm⟩)
    · have hkeep := (keepsBut_foldl hg' hP).values n l (hlanes l List.mem_cons_self) hn.1 hn.2 fun ⟨l', hl', h⟩ => hfirst l' hl' h
      exact hkeep.trans (hval r hr l List.mem_cons_self)
    · exact ih hg' (fun r hr l hl => hval r hr l (List.mem_cons_of_mem _ hl)) (fun l hl => hlanes l (List.mem_cons_of_mem _ hl)) hrest hP m hm

end

/-- What writing pairs in several lanes leaves. -/
def RegFile.putPairs (r : RegFile) (d : Nat) (lanes : List Nat) (f : Nat → DWord) : RegFile := lanes.foldl (fun r l => r.putPair d l (f l)) r

@[simp] theorem putPairs_p (r : RegFile) (d : Nat) (lanes : List Nat) (f : Nat → DWord) : (r.putPairs d lanes f).p = r.p :=
  foldl_keeps RegFile.p (fun _ _ => putPair_p ..) lanes r

/-- Register d may be written: no field of it names a queue register, and it is full. -/
def writable (r : RegFile) (d : Nat) : Prop := d < 128 ∧ ¬namesQ d ∧ r.isEmpty d = false

theorem writable.of_keepsBut {w : Nat → Nat → Prop} {r r' : RegFile} {d : Nat} (h : writable r d) (hk : KeepsBut w r r') : writable r' d :=
  ⟨h.1, h.2.1, (hk.full d h.1 h.2.1).trans h.2.2⟩

/-- The lanes in which d is written: one when it is an S register, which all lanes share. -/
def lanesApart (d : Nat) (lanes : List Nat) : Prop := (∀ l ∈ lanes, l < 64) ∧ lanes.Pairwise fun l l' => d < 96 ∧ l ≠ l'

section
variable {r : RegFile} (hr : regsRising r) {d : Nat} {lanes : List Nat} (hlanes : lanesApart d lanes)
include hr hlanes

theorem putLanes_writes (hd : writable r d) (f : Nat → Word) :
    KeepsBut (fun n m => ∃ l ∈ lanes, n = d ∧ (96 ≤ d ∨ m = l)) r (r.putLanes d lanes f) ∧
    ∀ l ∈ lanes, (r.putLanes d lanes f).read d l = kept d (f l) := by
  obtain ⟨hlt, hapart⟩ := hlanes
  have hstep : ∀ r, regsRising r ∧ writable r d → ∀ l ∈ lanes, (regsRising (r.put d l (f l)) ∧ writable (r.put d l (f l)) d) ∧
      KeepsBut (fun n m => n = d ∧ (96 ≤ d ∨ m = l)) r (r.put d l (f l)) := by
    intro r ⟨hr, hd⟩ l hl
    have hk := keepsBut_put hr (f l) hd.2.1 (hlt l hl) hd.2.2
    exact ⟨⟨regsRising_put hr .., hd.of_keepsBut hk⟩, hk⟩
  refine ⟨keepsBut_foldl hstep ⟨hr, hd⟩, read_foldl hstep ⟨hd.1, hd.2.1⟩ ?_ hlt (hapart.imp fun h => ?_) ⟨hr, hd⟩⟩
  · intro r ⟨hr, hd⟩ l hl
    rw [read_put hr _ hd.2.1 (hlt l hl) (hlt l hl), if_pos ⟨rfl, .inr rfl⟩]
  · omega

theorem putPairs_writes (hd : writable r d ∧ writable r (d + 1)) (heven : d % 2 = 0) (f : Nat → DWord) :
    KeepsBut (fun n m => ∃ l ∈ lanes, (n = d ∨ n = d + 1) ∧ (96 ≤ n ∨ m = l)) r (r.putPairs d lanes f) ∧
    ∀ l ∈ lanes, (r.putPairs d lanes f).read d l = (f l).extractLsb' 0 32 ∧ (r.putPairs d lanes f).read (d + 1) l = kept (d + 1) ((f l).extractLsb' 32 32) := by
  obtain ⟨hlt, hapart⟩ := hlanes
  have hstep : ∀ r, regsRising r ∧ writable r d ∧ writable r (d + 1) → ∀ l ∈ lanes,
      (regsRising (r.putPair d l (f l)) ∧ writable (r.putPair d l (f l)) d ∧ writable (r.putPair d l (f l)) (d + 1)) ∧
      KeepsBut (fun n m => (n = d ∨ n = d + 1) ∧ (96 ≤ n ∨ m = l)) r (r.putPair d l (f l)) := by
    intro r ⟨hr, hd, hd1⟩ l hl
    have hk := keepsBut_putPair hr (f l) ⟨hd.2.1, hd1.2.1⟩ (hlt l hl) hd1.1 ⟨hd.2.2, hd1.2.2⟩
    exact ⟨⟨regsRising_put (regsRising_put hr ..) .., hd.of_keepsBut hk, hd1.of_keepsBut hk⟩, hk⟩
  have hval : ∀ r, regsRising r ∧ writable r d ∧ writable r (d + 1) → ∀ l ∈ lanes,
      (r.putPair d l (f l)).read d l = (f l).extractLsb' 0 32 ∧ (r.putPair d l (f l)).read (d + 1) l = kept (d + 1) ((f l).extractLsb' 32 32) :=
    fun r ⟨hr, hd, hd1⟩ l hl => read_putPair hr (f l) ⟨hd.2.1, hd1.2.1⟩ (hlt l hl) (by have := hd1.1; omega)
  have hP : regsRising r ∧ writable r d ∧ writable r (d + 1) := ⟨hr, hd⟩
  refine ⟨keepsBut_foldl hstep hP, fun l hl => ⟨?_, ?_⟩⟩
  · exact read_foldl hstep ⟨hd.1.1, hd.1.2.1⟩ (fun r hr l hl => (hval r hr l hl).1) hlt (hapart.imp fun h => by omega) hP l hl
  · exact read_foldl hstep ⟨hd.2.1, hd.2.2.1⟩ (fun r hr l hl => (hval r hr l hl).2) hlt (hapart.imp fun h => by omega) hP l hl

end

theorem keepsBut_putPreds (r : RegFile) (p : Nat) (lanes : List Nat) (f : Nat → Bool) : KeepsBut (fun _ _ => False) r (r.putPreds p lanes f) := by
  obtain ⟨q, hq⟩ := putPreds_frame f lanes r (p := p)
  rw [hq]
  exact ⟨fun _ _ _ _ _ _ => rfl, fun _ _ _ => rfl, rfl⟩

/-! ## The registers of the context after the lanes -/

theorem regsOf_foldl {g : State → Nat → State} {h : RegFile → Nat → RegFile} (hg : ∀ s l, onRegisters s → g s l = setRegs s (h (regsOf s) l))
    (lanes : List Nat) {s : State} (hx : onRegisters s) : regsOf (lanes.foldl g s) = lanes.foldl h (regsOf s) := by
  induction lanes generalizing s with
  | nil => rfl
  | cons l ls ih =>
    rw [List.foldl_cons, ih (by rw [hg s l hx]; exact onRegisters_setRegs hx _), hg s l hx, regsOf_setRegs hx]
    rfl

section
variable {s : State} (hx : onRegisters s) (d : Nat) (lanes : List Nat)
include hx

theorem regsOf_putLanes (f : Nat → Word) : regsOf (putLanes s d lanes f) = (regsOf s).putLanes d lanes f :=
  regsOf_foldl (h := fun r l => r.put d l (f l)) (fun _ _ _ => rfl) lanes hx

theorem regsOf_putPairs (f : Nat → DWord) : regsOf (putPairs s d lanes f) = (regsOf s).putPairs d lanes f :=
  regsOf_foldl (h := fun r l => r.putPair d l (f l)) (fun _ _ hx => writePair_eq hx ..) lanes hx

theorem regsOf_putPreds (f : Nat → Bool) : regsOf (putPreds s d lanes f) = (regsOf s).putPreds d lanes f :=
  regsOf_foldl (h := fun r l => r.writeP d l (f l)) (fun _ _ _ => rfl) lanes hx

end

/-! ## FCSR (R72, R73, R114) -/

theorem fcsrTab_setRegs (s : State) (r : RegFile) : fcsrTab (setRegs s r) = fcsrTab s := by
  cases hc : s.cur with
  | group gid =>
    rw [setRegs_group hc]
    simp only [fcsrTab, setGroup_cur, hc, getGroup_setGroup_same]
  | _ => simp only [fcsrTab, setRegs_cur, hc]

@[simp] theorem fcsrTab_putLanes (s : State) (d : Nat) (lanes : List Nat) (f : Nat → Word) : fcsrTab (putLanes s d lanes f) = fcsrTab s :=
  foldl_keeps fcsrTab (fun _ _ => fcsrTab_setRegs ..) lanes s

@[simp] theorem fcsrTab_writePair (s : State) (f lane : Nat) (w : DWord) : fcsrTab (writePair s f lane w) = fcsrTab s :=
  (fcsrTab_setRegs ..).trans (fcsrTab_setRegs ..)

@[simp] theorem fcsrTab_putPairs (s : State) (d : Nat) (lanes : List Nat) (f : Nat → DWord) : fcsrTab (putPairs s d lanes f) = fcsrTab s :=
  foldl_keeps fcsrTab (fun _ _ => fcsrTab_writePair ..) lanes s

@[simp] theorem fcsrTab_putPreds (s : State) (p : Nat) (lanes : List Nat) (f : Nat → Bool) : fcsrTab (putPreds s p lanes f) = fcsrTab s :=
  foldl_keeps fcsrTab (fun _ _ => fcsrTab_setRegs ..) lanes s

theorem regsOf_setFcsr (s : State) (lane : Nat) (w : Word) : regsOf (setFcsr s lane w) = regsOf s := by
  unfold setFcsr
  split
  · next gid hc => simp only [regsOf, modGroup, setGroup_cur, hc, getGroup_setGroup_same]
  · rfl

theorem regsOf_orFcsr (s : State) (lane : Nat) (f : Flags) : regsOf (orFcsr s lane f) = regsOf s := by
  unfold orFcsr
  split
  · rfl
  · exact regsOf_setFcsr ..

@[simp] theorem regsOf_orFcsrAll (s : State) (lanes : List Nat) (f : Flags) : regsOf (orFcsrAll s lanes f) = regsOf s :=
  foldl_keeps regsOf (fun _ _ => regsOf_orFcsr ..) lanes s

@[simp] theorem regsOf_fpFlags (s : State) (uniform : Bool) (lanes : List Nat) (f : Nat → Flags) : regsOf (fpFlags s uniform lanes f) = regsOf s := by
  unfold fpFlags
  split
  · exact regsOf_orFcsrAll ..
  · exact foldl_keeps regsOf (fun _ _ => regsOf_orFcsr ..) lanes s

@[simp] theorem withFlags_zero (w : Word) : withFlags w 0 = w := if_pos rfl

section
variable {s : State} {gid : Nat} (hc : s.cur = .group gid) (hr : tabRising (fcsrTab s) = true)
include hc hr

theorem fcsrOf_orFcsr (lane : Nat) (f : Flags) (k : Nat) : fcsrOf (orFcsr s lane f) k = if k = lane then withFlags (fcsrOf s k) f else fcsrOf s k := by
  unfold orFcsr withFlags
  by_cases hf : f = 0
  · simp [hf]
  · have htab : fcsrTab s = (getGroup s gid).fcsr := by simp only [fcsrTab, hc]
    simp only [if_neg hf, fcsrOf_eq, htab] at hr ⊢
    simp only [setFcsr, hc, fcsrTab, modGroup, setGroup_cur, getGroup_setGroup_same]
    rw [tabGet_tabSet _ _ _ _ _ (htab ▸ hr)]
    split
    · next h => rw [h]
    · rfl

theorem fcsrTab_rising_orFcsr (lane : Nat) (f : Flags) : tabRising (fcsrTab (orFcsr s lane f)) = true := by
  unfold orFcsr
  split
  · exact hr
  · simp only [fcsrTab, hc] at hr
    simp only [setFcsr, hc, fcsrTab, modGroup, setGroup_cur, getGroup_setGroup_same]
    exact tabRising_tabSet _ _ _ hr

/-- Flags of several lanes reach FCSR of each lane once. -/
theorem fcsrOf_foldl_orFcsr (f : Nat → Flags) {lanes : List Nat} (hn : lanes.Nodup) (k : Nat) :
    fcsrOf (lanes.foldl (fun t l => orFcsr t l (f l)) s) k = withFlags (fcsrOf s k) (if k ∈ lanes then f k else 0) := by
  induction lanes generalizing s with
  | nil => exact (withFlags_zero _).symm
  | cons l ls ih =>
    obtain ⟨hl, hn⟩ := List.nodup_cons.1 hn
    have hc' : (orFcsr s l (f l)).cur = .group gid := (ownOnly_orFcsr s l (f l)).cur_eq.trans hc
    rw [List.foldl_cons, ih hc' (fcsrTab_rising_orFcsr hc hr l (f l)) hn, fcsrOf_orFcsr hc hr]
    by_cases hk : k = l
    · subst hk
      rw [if_neg hl, if_pos rfl, if_pos List.mem_cons_self]
      exact withFlags_zero _
    · simp [hk]

end

theorem laneList_nodup (s : State) : (laneList s).Nodup := by
  unfold laneList
  split
  · exact List.nodup_range.filter _
  · simp

theorem flagLanes_nodup (s : State) : (flagLanes s).Nodup := by
  have h := laneList_nodup s
  unfold flagLanes
  split
  · simp
  · exact h

/-- Flags reach FCSR as R114 says when the body before left FCSR as it was. -/
theorem flagsRaised_fpFlags {s u t : State} {gid : Nat} (hc : s.cur = .group gid) (hr : fcsrRising s) (hu : OwnOnly s u) (hfcsr : fcsrTab u = fcsrTab s)
    {uniform : Bool} {lanes : List Nat} (hn : lanes.Nodup) (f : Nat → Flags) (ht : fcsrTab t = fcsrTab (fpFlags u uniform lanes f)) :
    flagsRaised s t uniform lanes f := by
  intro k _
  have huc := hu.cur_eq.trans hc
  have hur : tabRising (fcsrTab u) = true := hfcsr ▸ (fcsrRising_iff s).1 hr
  have hold : fcsrOf u k = fcsrOf s k := by rw [fcsrOf_eq, fcsrOf_eq, hfcsr]
  rw [fcsrOf_eq t, ht, ← fcsrOf_eq, fpFlags, ← hold]
  cases uniform with
  | false => exact fcsrOf_foldl_orFcsr huc hur f hn k
  | true =>
    have hlanes : flagLanes u = flagLanes s := by rw [flagLanes, flagLanes, hu.laneList_eq]
    rw [if_pos rfl, if_pos rfl, orFcsrAll, fcsrOf_foldl_orFcsr huc hur (fun _ => f 0) (flagLanes_nodup u), hlanes]

end Sys2Proof.Machine
end

section
/-! The operand forms of lane operations (04_lane_ops R111-R115): what each leaves when its instruction has passed its checks. -/

namespace Sys2Proof.Machine

open Claim

/-! ## Destinations that the checks allow (01_encoding R28, R31) -/

/-- The kinds of a destination of one register, and of two. -/
def oneWord (k : Kind) : Bool := match k with | .word => true | .v => true | .s => true | _ => false
def twoWords (k : Kind) : Bool := match k with | .pair => true | .vpair => true | .spair => true | _ => false

theorem ok_of_fieldsOk {s : State} {opn : Nat} {us : List Use} (hx : onRegisters s) (h : fieldsOk s opn us = true) : ∀ u ∈ us, u.ok = true := by
  unfold fieldsOk at h
  rcases onRegisters_iff.1 hx with ⟨gid, hc⟩ | ⟨gid, hc⟩ | ⟨qid, hc⟩
  · simp only [hc, Bool.and_eq_true, List.all_eq_true] at h
    exact h.1.1
  · simp only [hc, Bool.and_eq_true, List.all_eq_true] at h
    exact h.1
  · simp only [hc, Bool.and_eq_true, List.all_eq_true] at h
    exact h.1

/-- The fields of an instruction that runs are legal. -/
theorem ok_of_runs {i : Instr} {s : State} (h : runs i s) {u : Use} (hu : u ∈ uses i) : u.ok = true := by
  obtain ⟨hx, -, -, hready⟩ := h
  exact ok_of_fieldsOk hx (ctxAllows_of_guardOp (checks_of_ready hready).1).2 u hu

/-- A register that a destination spans is full, whether the instruction reads it too or not. -/
theorem writable_of_field {s : State} {us : List Use} {k : Kind} {d : BitVec 7} {reads : Bool}
    (h : readCheck s (us.flatMap Use.sources) (us.flatMap Use.targets) = .ok ()) (hd : Use.field k d reads true ∈ us) {n : Nat} (hn : n < k.span)
    (hlt : d.toNat + n < 128) (hq : ¬namesQ (d.toNat + n)) : writable (regsOf s) (d.toNat + n) := by
  obtain ⟨hsrc, hdst⟩ := full_of_readCheck h
  refine ⟨hlt, hq, ?_⟩
  by_cases h127 : d.toNat + n = 127
  · simp [h127, RegFile.isEmpty]
  · cases reads with
    | true =>
      rw [← isEmptyField_eq s hq]
      exact hsrc _ (List.mem_flatMap.2 ⟨_, hd, by simp [Use.sources, hn, h127]⟩)
    | false => exact hdst _ (List.mem_flatMap.2 ⟨_, hd, by simp [Use.targets, hn, h127]⟩)

/-- The first field of the instruction is its destination d, of a kind that names one register. -/
def writesWord (i : Instr) (d : BitVec 7) : Prop := match uses i with | .field k f _ true :: _ => f = d ∧ oneWord k = true | _ => False

/-- The same, of a kind that names a pair. -/
def writesPair (i : Instr) (d : BitVec 7) : Prop := match uses i with | .field k f _ true :: _ => f = d ∧ twoWords k = true | _ => False

section
variable {i : Instr} {s : State} {d : BitVec 7} (h : runs i s)
include h

theorem writable_of_writesWord (hd : writesWord i d) : writable (regsOf s) d.toNat := by
  obtain ⟨hx, -, -, hready⟩ := h
  obtain ⟨hguard, hread⟩ := checks_of_ready hready
  unfold writesWord at hd
  split at hd
  · next k f reads us huses =>
    obtain ⟨rfl, hk⟩ := hd
    have hmem : Use.field k f reads true ∈ uses i := huses ▸ List.mem_cons_self
    have hok := ok_of_fieldsOk hx (ctxAllows_of_guardOp hguard).2 _ hmem
    have hq : ¬namesQ f.toNat := by
      cases k <;> simp_all [oneWord, Use.ok, Kind.ok, isV, isQ, isS]
      all_goals omega
    have hspan : 0 < k.span := by cases k <;> simp_all [oneWord, Kind.span]
    exact writable_of_field hread hmem hspan f.isLt hq
  · exact hd.elim

theorem writable_of_writesPair (hd : writesPair i d) : (writable (regsOf s) d.toNat ∧ writable (regsOf s) (d.toNat + 1)) ∧ d.toNat % 2 = 0 := by
  obtain ⟨hx, -, -, hready⟩ := h
  obtain ⟨hguard, hread⟩ := checks_of_ready hready
  unfold writesPair at hd
  split at hd
  · next k f reads us huses =>
    obtain ⟨rfl, hk⟩ := hd
    have hmem : Use.field k f reads true ∈ uses i := huses ▸ List.mem_cons_self
    have hok := ok_of_fieldsOk hx (ctxAllows_of_guardOp hguard).2 _ hmem
    obtain ⟨heven, hq⟩ : f.toNat % 2 = 0 ∧ ¬namesQ f.toNat := by
      cases k <;> simp_all [twoWords, Use.ok, Kind.ok, isV, isQ, isS]
      all_goals omega
    have hspan : k.span = 2 := by cases k <;> simp_all [twoWords, Kind.span]
    have hlt := f.isLt
    exact ⟨⟨writable_of_field hread hmem (by omega : 0 < k.span) hlt hq, writable_of_field hread hmem (by omega : 1 < k.span) (by omega) (by omega)⟩, heven⟩
  · exact hd.elim

end

/-! ## Lanes (R34) -/

theorem lanesApart_opLanes (s : State) (d : BitVec 7) : lanesApart d.toNat (opLanes s d) := by
  unfold opLanes
  split
  · exact ⟨by simp, List.pairwise_singleton ..⟩
  · next hd =>
    have hlt : d.toNat < 96 := not_le.1 (of_decide_eq_false (Bool.not_eq_true _ ▸ hd))
    exact ⟨laneList_lt_64 s, (laneList_nodup s).imp fun h => ⟨hlt, h⟩⟩

theorem opLanes_nodup (s : State) (d : BitVec 7) : (opLanes s d).Nodup := by
  unfold opLanes
  split
  · simp
  · exact laneList_nodup s

theorem opLanes_of_lt (s : State) {d : BitVec 7} (hd : d.toNat < 96) : isS d = false ∧ opLanes s d = laneList s := by
  have hS : isS d = false := decide_eq_false (by omega)
  exact ⟨hS, by rw [opLanes, hS, if_neg Bool.false_ne_true]⟩

theorem covers_word {s : State} {d : BitVec 7} {n m : Nat} (h : ∃ l ∈ opLanes s d, n = d.toNat ∧ (96 ≤ d.toNat ∨ m = l)) : covers s d 1 n m := by
  obtain ⟨l, hl, rfl, hm⟩ := h
  refine ⟨le_rfl, Nat.lt_succ_self _, hm.imp decide_eq_true ?_⟩
  rintro rfl
  exact hl

theorem covers_pair {s : State} {d : BitVec 7} (heven : d.toNat % 2 = 0) {n m : Nat}
    (h : ∃ l ∈ opLanes s d, (n = d.toNat ∨ n = d.toNat + 1) ∧ (96 ≤ n ∨ m = l)) : covers s d 2 n m := by
  obtain ⟨l, hl, hn, hm⟩ := h
  refine ⟨by omega, by omega, hm.imp (fun h => decide_eq_true (by omega)) ?_⟩
  rintro rfl
  exact hl

/-! ## The forms -/

/-- An instruction that has passed its checks does its body, pops its queue registers and goes on; of its modifier only the level it needs counts (R38). -/
theorem exec_of_runOp {i : Instr} {s u : State} {b : BitVec 7} (h : runs i s) (he : exec i s = runOp s i.opn b (uses i) (ilen i) u)
    (hlevel : lowestLevel i.opn (mod7 i) = lowestLevel i.opn b) : exec i s = .next (finish (uses i) (ilen i) u) := by
  obtain ⟨-, -, hstops, hready⟩ := h
  have hready' : ready s i.opn b (uses i) = .ok () := by
    rw [← hready]
    simp only [ready_eq, guardOp, hlevel]
  rw [he, runOp_ready s _ _ _ _ _ hstops hready']

section
variable {i : Instr} {d : BitVec 7} {s : State}

/-- An operation whose body writes d in its lanes. -/
theorem wordResult_of_finish {f : Nat → Word} (h : runs i s) (hd : writesWord i d)
    (he : exec i s = .next (finish (uses i) (ilen i) (putLanes s d.toNat (opLanes s d) f))) : wordResult i d f s := by
  have hdw := writable_of_writesWord h hd
  obtain ⟨hx, hr, -⟩ := h
  obtain ⟨hkeep, hval⟩ := putLanes_writes hr (lanesApart_opLanes s d) hdw f
  obtain ⟨hregs, -, hpc, hctx⟩ := endsAs_finish (i := i) (flags := false) (ownOnly_putLanes s d.toNat (opLanes s d) f) hx fun _ => fcsrTab_putLanes ..
  rw [regsOf_putLanes hx] at hregs
  refine ⟨_, he, fun l hl => ?_, writesOnly_of_keepsBut ?_, ?_, hpc, hctx⟩
  · rw [readField_eq _ _ hdw.2.1, hregs, hval l hl]
  · rw [hregs]
    exact hkeep.mono fun n m _ => covers_word
  · rw [hregs, putLanes_p]

theorem pairResult_of_finish {f : Nat → DWord} (h : runs i s) (hd : writesPair i d)
    (he : exec i s = .next (finish (uses i) (ilen i) (putPairs s d.toNat (opLanes s d) f))) : pairResult i d f s := by
  obtain ⟨hdw, heven⟩ := writable_of_writesPair h hd
  obtain ⟨hx, hr, -⟩ := h
  obtain ⟨hkeep, hval⟩ := putPairs_writes hr (lanesApart_opLanes s d) hdw heven f
  obtain ⟨hregs, -, hpc, hctx⟩ := endsAs_finish (i := i) (flags := false) (ownOnly_putPairs s d.toNat (opLanes s d) f) hx fun _ => fcsrTab_putPairs ..
  rw [regsOf_putPairs hx] at hregs
  refine ⟨_, he, fun l hl => ?_, writesOnly_of_keepsBut ?_, ?_, hpc, hctx⟩
  · rw [readField_eq _ _ hdw.1.2.1, readField_eq _ _ hdw.2.2.1, hregs]
    exact hval l hl
  · rw [hregs]
    exact hkeep.mono fun n m _ => covers_pair heven
  · rw [hregs, putPairs_p]

theorem predResult_of_finish {p : BitVec 7} {f : Nat → Bool} (h : runs i s)
    (he : exec i s = .next (finish (uses i) (ilen i) (putPreds s p.toNat (laneList s) f))) : predResult i p f s := by
  obtain ⟨hx, hr, -⟩ := h
  obtain ⟨hregs, -, hpc, hctx⟩ := endsAs_finish (i := i) (flags := false) (ownOnly_putPreds s p.toNat (laneList s) f) hx fun _ => fcsrTab_putPreds ..
  rw [regsOf_putPreds hx] at hregs
  refine ⟨_, he, ⟨fun l hl => ?_, fun k l _ hl hn => ?_⟩, writesOnly_of_keepsBut ?_, hpc, hctx⟩
  · rw [hregs, readP_putPreds f hr (laneList_lt_64 s l hl), if_pos ⟨rfl, hl⟩]
  · rw [hregs, readP_putPreds f hr hl, if_neg hn]
  · rw [hregs]
    exact keepsBut_putPreds ..

/-- Floating-point operations run in groups alone (R39). -/
theorem group_of_runs (h : runs i s) (hi : ctxAllows .axp i.opn = false ∧ ctxAllows .queue i.opn = false) : ∃ gid, s.cur = .group gid := by
  obtain ⟨hx, -, -, hready⟩ := h
  exact group_of_ready hready hx hi

section
variable {f : Nat → Nat × Flags} (h : runsFp i s) (hi : ctxAllows .axp i.opn = false ∧ ctxAllows .queue i.opn = false)
include h hi

theorem fpWord_of_finish (hd : writesWord i d)
    (he : exec i s = .next (finish (uses i) (ilen i) (fpFlags (putLanes s d.toNat (opLanes s d) (fun l => BitVec.ofNat 32 (f l).1)) (isS d) (opLanes s d)
      (fun l => (f l).2)))) : fpWord i d f s := by
  obtain ⟨hruns, hfcsr⟩ := h
  obtain ⟨gid, hc⟩ := group_of_runs hruns hi
  have hdw := writable_of_writesWord hruns hd
  obtain ⟨hx, hr, -⟩ := hruns
  obtain ⟨hkeep, hval⟩ := putLanes_writes hr (lanesApart_opLanes s d) hdw fun l => BitVec.ofNat 32 (f l).1
  have hown := ownOnly_putLanes s d.toNat (opLanes s d) fun l => BitVec.ofNat 32 (f l).1
  obtain ⟨hregs, hflags, hpc, hctx⟩ := endsAs_finish (i := i) (flags := true) (hown.trans (ownOnly_fpFlags _ (isS d) (opLanes s d) fun l => (f l).2)) hx nofun
  rw [regsOf_fpFlags, regsOf_putLanes hx] at hregs
  refine ⟨_, he, fun l hl => ?_, flagsRaised_fpFlags hc hfcsr hown (fcsrTab_putLanes ..) (opLanes_nodup s d) _ hflags, writesOnly_of_keepsBut ?_, ?_, hpc, hctx⟩
  · rw [readField_eq _ _ hdw.2.1, hregs, hval l hl]
  · rw [hregs]
    exact hkeep.mono fun n m _ => covers_word
  · rw [hregs, putLanes_p]

theorem fpPair_of_finish (hd : writesPair i d)
    (he : exec i s = .next (finish (uses i) (ilen i) (fpFlags (putPairs s d.toNat (opLanes s d) (fun l => BitVec.ofNat 64 (f l).1)) (isS d) (opLanes s d)
      (fun l => (f l).2)))) : fpPair i d f s := by
  obtain ⟨hruns, hfcsr⟩ := h
  obtain ⟨gid, hc⟩ := group_of_runs hruns hi
  obtain ⟨hdw, heven⟩ := writable_of_writesPair hruns hd
  obtain ⟨hx, hr, -⟩ := hruns
  obtain ⟨hkeep, hval⟩ := putPairs_writes hr (lanesApart_opLanes s d) hdw heven fun l => BitVec.ofNat 64 (f l).1
  have hown := ownOnly_putPairs s d.toNat (opLanes s d) fun l => BitVec.ofNat 64 (f l).1
  obtain ⟨hregs, hflags, hpc, hctx⟩ := endsAs_finish (i := i) (flags := true) (hown.trans (ownOnly_fpFlags _ (isS d) (opLanes s d) fun l => (f l).2)) hx nofun
  rw [regsOf_fpFlags, regsOf_putPairs hx] at hregs
  refine ⟨_, he, fun l hl => ?_, flagsRaised_fpFlags hc hfcsr hown (fcsrTab_putPairs ..) (opLanes_nodup s d) _ hflags, writesOnly_of_keepsBut ?_, ?_, hpc, hctx⟩
  · rw [readField_eq _ _ hdw.1.2.1, readField_eq _ _ hdw.2.2.1, hregs]
    exact hval l hl
  · rw [hregs]
    exact hkeep.mono fun n m _ => covers_pair heven
  · rw [hregs, putPairs_p]

end

theorem fpPred_of_finish {p : BitVec 7} {f : Nat → Bool × Flags} (h : runsFp i s) (hi : ctxAllows .axp i.opn = false ∧ ctxAllows .queue i.opn = false)
    (he : exec i s = .next (finish (uses i) (ilen i) (fpFlags (putPreds s p.toNat (laneList s) (fun l => (f l).1)) false (laneList s)
      (fun l => (f l).2)))) : fpPred i p f s := by
  obtain ⟨hruns, hfcsr⟩ := h
  obtain ⟨gid, hc⟩ := group_of_runs hruns hi
  obtain ⟨hx, hr, -⟩ := hruns
  have hown := ownOnly_putPreds s p.toNat (laneList s) fun l => (f l).1
  obtain ⟨hregs, hflags, hpc, hctx⟩ := endsAs_finish (i := i) (flags := true) (hown.trans (ownOnly_fpFlags _ false (laneList s) fun l => (f l).2)) hx nofun
  rw [regsOf_fpFlags, regsOf_putPreds hx] at hregs
  refine ⟨_, he, ⟨fun l hl => ?_, fun k l _ hl hn => ?_⟩, flagsRaised_fpFlags hc hfcsr hown (fcsrTab_putPreds ..) (laneList_nodup s) _ hflags,
    writesOnly_of_keepsBut ?_, hpc, hctx⟩
  · rw [hregs, readP_putPreds _ hr (laneList_lt_64 s l hl), if_pos ⟨rfl, hl⟩]
  · rw [hregs, readP_putPreds _ hr hl, if_neg hn]
  · rw [hregs]
    exact keepsBut_putPreds ..

end

/-! ## The forms of the model -/

section
variable {i : Instr} {s : State} {b : BitVec 7} {d : BitVec 7}

theorem wordResult_of_lane0 {f : Nat → Word} (h : runs i s) (he : exec i s = lane0 s i.opn b (uses i) (ilen i) d f)
    (hd : writesWord i d := by exact ⟨rfl, rfl⟩) (hlevel : lowestLevel i.opn (mod7 i) = lowestLevel i.opn b := by rfl) : wordResult i d f s :=
  wordResult_of_finish h hd (exec_of_runOp h he hlevel)

theorem pairResult_of_pair0 {f : Nat → DWord} (h : runs i s) (he : exec i s = pair0 s i.opn b (uses i) d f)
    (hd : writesPair i d := by exact ⟨rfl, rfl⟩) (hlevel : lowestLevel i.opn (mod7 i) = lowestLevel i.opn b := by rfl)
    (hlen : 4 = ilen i := by rfl) : pairResult i d f s :=
  pairResult_of_finish h hd (exec_of_runOp h (by rw [he, pair0, hlen]) hlevel)

theorem predResult_of_pred0 {f : Nat → Bool} (h : runs i s) (he : exec i s = pred0 s i.opn b (uses i) d f)
    (hlevel : lowestLevel i.opn (mod7 i) = lowestLevel i.opn b := by rfl) (hlen : 4 = ilen i := by rfl) : predResult i d f s :=
  predResult_of_finish h (exec_of_runOp h (by rw [he, pred0, hlen]) hlevel)

section
variable (h : runsFp i s) (hlevel : lowestLevel i.opn (mod7 i) = lowestLevel i.opn b)
  (hg : ctxAllows .axp i.opn = false ∧ ctxAllows .queue i.opn = false)
include h hlevel hg

theorem fpWord_of_fp0 {f : Nat → FpCtl → Nat × Flags} (he : exec i s = fp0 s i.opn b (uses i) (ilen i) d f) (hd : writesWord i d) :
    fpWord i d (fun l => f l (fpCtl s d l)) s :=
  fpWord_of_finish h hg hd (exec_of_runOp h.1 he hlevel)

theorem fpPair_of_dp0 {f : Nat → FpCtl → Nat × Flags} (he : exec i s = dp0 s i.opn b (uses i) d f) (hd : writesPair i d) (hlen : 4 = ilen i) :
    fpPair i d (fun l => f l (fpCtl s d l)) s :=
  fpPair_of_finish h hg hd (exec_of_runOp h.1 (by rw [he, dp0, hlen]) hlevel)

theorem fpPred_of_fpCmp0 {f : Nat → FpCtl → Bool × Flags} (he : exec i s = fpCmp0 s i.opn b (uses i) d f) (hlen : 4 = ilen i) :
    fpPred i d (fun l => f l (laneCtl s l)) s :=
  fpPred_of_finish h hg (exec_of_runOp h.1 (by rw [he, fpCmp0, hlen]) hlevel)

end

end

section
variable {s : State} {opn : Nat} {b : BitVec 7} {us : List Use} {len : Nat} {d a : BitVec 7}

/-- A context that holds V and S registers is no address thread. -/
theorem onCheA_of_onRegisters (hx : onRegisters s) : onCheA s = false := by
  unfold onCheA
  rcases onRegisters_iff.1 hx with ⟨gid, hc⟩ | ⟨gid, hc⟩ | ⟨qid, hc⟩ <;> rw [hc]

theorem lane2w_eq (hx : onRegisters s) (f : (w : Nat) → BitVec w → BitVec w → BitVec w) : lane2w s opn us d a b f = lane2 s opn us 4 d a b (f 32) := by
  rw [lane2w, onCheA_of_onRegisters hx, if_neg Bool.false_ne_true]

theorem lane1w_eq (hx : onRegisters s) (f : (w : Nat) → BitVec w → BitVec w) :
    lane1w s opn b us d a f = lane0 s opn b us 4 d (fun l => f 32 (readField s a.toNat l)) := by
  rw [lane1w, onCheA_of_onRegisters hx, if_neg Bool.false_ne_true]

theorem shiftI_eq (hx : onRegisters s) (f : (w : Nat) → BitVec w → BitVec w) :
    shiftI s opn us d a b f = lane0 s opn b us 4 d (fun l => f 32 (readField s a.toNat l)) := by
  rw [shiftI, onCheA_of_onRegisters hx, Bool.false_and, if_neg Bool.false_ne_true, lane1w_eq hx]

end

end Sys2Proof.Machine
end

section
/-! Proofs of the statements on integer operations (04_lane_ops R117-R126): what each computes, over integers and by bits, and the forms that write it. -/

namespace Sys2Proof.Machine

open Claim

/-! ## Operations on integers (R117, R118) -/

theorem mulWide_signed (x y : Word) : mulWide true x y = BitVec.ofInt 64 (x.toInt * y.toInt) := (BitVec.ofInt_mul ..).symm

theorem mulWide_unsigned (x y : Word) : mulWide false x y = BitVec.ofNat 64 (x.toNat * y.toNat) := by
  rw [BitVec.ofNat_mul, BitVec.ofNat_toNat, BitVec.ofNat_toNat]
  rfl

theorem mulHiS_eq (x y : Word) : (mulWide true x y).extractLsb' 32 32 = BitVec.ofInt 32 (x.toInt * y.toInt / 2 ^ 32) := by
  rw [mulWide_signed]
  generalize x.toInt * y.toInt = z
  apply BitVec.eq_of_toNat_eq
  rw [BitVec.extractLsb'_toNat, BitVec.toNat_ofInt, BitVec.toNat_ofInt, Nat.shiftRight_eq_div_pow]
  omega

theorem mulHiU_eq (x y : Word) : (mulWide false x y).extractLsb' 32 32 = BitVec.ofNat 32 (x.toNat * y.toNat / 2 ^ 32) := by
  rw [mulWide_unsigned]
  generalize x.toNat * y.toNat = z
  apply BitVec.eq_of_toNat_eq
  rw [BitVec.extractLsb'_toNat, BitVec.toNat_ofNat, BitVec.toNat_ofNat, Nat.shiftRight_eq_div_pow]
  omega

theorem minU_eq_toNat (x y : Word) : minU x y = if x.toNat ≤ y.toNat then x else y := by
  unfold minU
  rw [BitVec.ult_eq_decide]
  rcases lt_trichotomy x.toNat y.toNat with h | h | h
  · simp [h, h.le]
  · simp [BitVec.eq_of_toNat_eq h]
  · simp [h.not_gt, h.not_ge]

theorem maxU_eq_toNat (x y : Word) : maxU x y = if x.toNat ≤ y.toNat then y else x := by
  unfold maxU
  rw [BitVec.ult_eq_decide]
  rcases lt_trichotomy x.toNat y.toNat with h | h | h
  · simp [h, h.le]
  · simp [BitVec.eq_of_toNat_eq h]
  · simp [h.not_gt, h.not_ge]

section
variable {i : Instr} {s : State} {d a b : BitVec 7} {g : Word → Word → Word}

/-- d := g a b, given what its operation computes. -/
theorem wordResult_of_lane2 {f : Word → Word → Word} (hfg : ∀ x y, f x y = g x y) (h : runs i s)
    (he : exec i s = lane2 s i.opn (uses i) (ilen i) d a b f) (hd : writesWord i d := by exact ⟨rfl, rfl⟩)
    (hlevel : lowestLevel i.opn (mod7 i) = lowestLevel i.opn b := by rfl) :
    wordResult i d (fun l => g (readField s a.toNat l) (readField s b.toNat l)) s := by
  simp only [← hfg]
  exact wordResult_of_lane0 h he hd hlevel

/-- The same for an operation that an address thread also runs, on 64 bits. -/
theorem wordResult_of_lane2w (f : (w : Nat) → BitVec w → BitVec w → BitVec w) (hfg : ∀ x y, f 32 x y = g x y) (h : runs i s)
    (he : exec i s = lane2w s i.opn (uses i) d a b f) (hd : writesWord i d := by exact ⟨rfl, rfl⟩)
    (hlevel : lowestLevel i.opn (mod7 i) = lowestLevel i.opn b := by rfl) (hlen : 4 = ilen i := by rfl) :
    wordResult i d (fun l => g (readField s a.toNat l) (readField s b.toNat l)) s :=
  wordResult_of_lane2 hfg h (he.trans ((lane2w_eq h.1 f).trans (by rw [hlen]))) hd hlevel

end

/-! ## MAD, PERM, BFX and BFI (R117, R119, R120) -/

theorem mad_eq_ofNat (x y z : Word) : x * y + z = BitVec.ofNat 32 (x.toNat * y.toNat + z.toNat) := by
  rw [BitVec.ofNat_add, ← mul_eq_ofNat, BitVec.ofNat_toNat, BitVec.setWidth_eq]

/-- Nibble k of a word. -/
theorem nibble_toNat (b : Word) (k : Nat) : (b.extractLsb' (4 * k) 4).toNat = b.toNat / 16 ^ k % 16 := by
  rw [BitVec.extractLsb'_toNat, Nat.shiftRight_eq_div_pow, pow_mul]
  rfl

theorem permByte_eq_permRule (a d : Word) (n : Nat) : permByte a d n = permRule a d n := by
  have hsign : ∀ m, (byteOf a m).msb = a.getLsbD (8 * m + 7) := fun m => by simp [byteOf, BitVec.msb_eq_getLsbD_last]
  simp only [permByte, permRule, hsign]
  rfl

theorem permBytes_byte (a b d : Word) {k : Nat} (hk : k < 4) : (permBytes a b d).extractLsb' (8 * k) 8 = permRule a d (b.toNat / 16 ^ k % 16) := by
  rw [← nibble_toNat, ← permByte_eq_permRule, permBytes]
  interval_cases k
  all_goals simp [-Nat.reduceAdd, BitVec.extractLsb'_append_eq_of_le, BitVec.extractLsb'_append_eq_of_add_le]

theorem fieldPos_eq (b : Word) : fieldPos b = pos b := by
  simp [fieldPos, pos]

theorem fieldLen_eq (b : Word) : fieldLen b = len b := by
  rw [fieldLen, len, fieldPos_eq, BitVec.extractLsb'_toNat, Nat.shiftRight_eq_div_pow]

theorem len_add_pos_le (b : Word) : len b + pos b ≤ 32 := by
  have hlen : len b ≤ 32 - pos b := min_le_right _ _
  have hpos : pos b < 32 := Nat.mod_lt _ (by decide)
  omega

theorem getLsbD_onesBelow {n j : Nat} (hj : j < 32) : (onesBelow n).getLsbD j = decide (j < n) := by
  rw [onesBelow, BitVec.getLsbD_ofNat, Nat.testBit_two_pow_sub_one, decide_eq_true hj, Bool.true_and]

theorem bfxOp_bit (x y : Word) {j : Nat} (hj : j < 32) : (bfxOp x y).getLsbD j =
    if j < len y then x.getLsbD (pos y + j) else y.getLsbD 15 && decide (0 < len y) && x.getLsbD (pos y + len y - 1) := by
  have hsum := len_add_pos_le y
  have hfield : ∀ k, k < 32 → ((x >>> pos y) &&& onesBelow (len y)).getLsbD k = (x.getLsbD (pos y + k) && decide (k < len y)) := fun k hk => by
    rw [BitVec.getLsbD_and, BitVec.getLsbD_ushiftRight, getLsbD_onesBelow hk]
  have htop : 0 < len y → ((x >>> pos y) &&& onesBelow (len y)).getLsbD (len y - 1) = x.getLsbD (pos y + len y - 1) := fun h0 => by
    rw [hfield _ (by omega), decide_eq_true (by omega), Bool.and_true, Nat.add_sub_assoc h0]
  unfold bfxOp
  simp only [fieldPos_eq, fieldLen_eq]
  by_cases h0 : 0 < len y
  · rw [htop h0, decide_eq_true h0, Bool.and_true]
    split
    · next hsign =>
      rw [BitVec.getLsbD_or, BitVec.getLsbD_not, hfield j hj, getLsbD_onesBelow hj, hsign]
      by_cases hjl : j < len y <;> simp [hjl, hj]
    · next hsign =>
      rw [hfield j hj, Bool.eq_false_iff.2 hsign]
      by_cases hjl : j < len y <;> simp [hjl]
  · simp [h0, hfield j hj, show ¬j < len y by omega]

theorem bfiOp_bit (x y z : Word) {j : Nat} (hj : j < 32) : (bfiOp x y z).getLsbD j =
    if pos y ≤ j ∧ j < pos y + len y then x.getLsbD (j - pos y) else z.getLsbD j := by
  have hmask : (onesBelow (len y) <<< pos y).getLsbD j = decide (pos y ≤ j ∧ j < pos y + len y) := by
    rw [BitVec.getLsbD_shiftLeft, getLsbD_onesBelow (by omega), decide_eq_true hj, Bool.true_and, ← decide_not, ← Bool.decide_and]
    exact decide_eq_decide.2 (by omega)
  unfold bfiOp
  simp only [fieldPos_eq, fieldLen_eq]
  rw [BitVec.getLsbD_or, BitVec.getLsbD_and, BitVec.getLsbD_and, BitVec.getLsbD_not, hmask, BitVec.getLsbD_shiftLeft]
  by_cases hin : pos y ≤ j ∧ j < pos y + len y
  · simp [hin, hj]
  · simp [hin, hj]

/-! ## Operations of one source (R121) -/

theorem absOp_eq (x : Word) : absOp x = BitVec.ofNat 32 x.toInt.natAbs := by
  have hlt := x.isLt
  unfold absOp
  apply BitVec.eq_of_toNat_eq
  rw [BitVec.toInt_eq_msb_cond, BitVec.toNat_ofNat]
  split
  · rw [BitVec.toNat_sub, show (0 : Word).toNat = 0 from rfl]
    omega
  · omega

theorem neg_eq_ofInt (x : Word) : 0 - x = BitVec.ofInt 32 (-(x.toNat : Int)) := by
  rw [sub_eq_ofInt]
  congr 1
  simp

theorem popcOp_eq (x : Word) : popcOp x = BitVec.ofNat 32 ((List.range 32).map (fun k => (x.getLsbD k).toNat)).sum := by
  have hcount : ∀ l : List Nat, l.countP (fun k => x.getLsbD k) = (l.map (fun k => (x.getLsbD k).toNat)).sum := fun l => by
    induction l with
    | nil => rfl
    | cons k l ih => rw [List.countP_cons, List.map_cons, List.sum_cons, ih, add_comm]; cases x.getLsbD k <;> rfl
  rw [popcOp, hcount]

/-- The leading zeros of a word. -/
def leadingZeros (x : Word) : Nat := if x = 0 then 32 else 31 - Nat.log2 x.toNat

theorem clzOp_eq (x : Word) : clzOp x = BitVec.ofNat 32 (leadingZeros x) := by
  unfold clzOp leadingZeros
  split <;> rfl

theorem leadingZeros_spec (x : Word) :
    leadingZeros x ≤ 32 ∧ x.toNat < 2 ^ (32 - leadingZeros x) ∧ (leadingZeros x < 32 → 2 ^ (31 - leadingZeros x) ≤ x.toNat) := by
  unfold leadingZeros
  by_cases hx : x = 0
  · simp [hx]
  · have hne : x.toNat ≠ 0 := fun h => hx (BitVec.eq_of_toNat_eq h)
    have hlog : Nat.log2 x.toNat < 32 := (Nat.log2_lt hne).2 x.isLt
    have hlow := Nat.log2_self_le hne
    have hhigh := Nat.lt_log2_self (n := x.toNat)
    rw [if_neg hx, show 32 - (31 - Nat.log2 x.toNat) = Nat.log2 x.toNat + 1 by omega, show 31 - (31 - Nat.log2 x.toNat) = Nat.log2 x.toNat by omega]
    exact ⟨by omega, hhigh, fun _ => hlow⟩

theorem brevOp_bit (x : Word) {k : Nat} (hk : k < 32) : (brevOp x).getLsbD k = x.getLsbD (31 - k) := by
  rw [brevOp, BitVec.getLsbD_reverse, BitVec.getMsbD, decide_eq_true hk, Bool.true_and]

/-- R121: every mod7 bit of the X-format integer operations is reserved. -/
theorem decodeFields_unary_reserved {op : Nat} (d a : BitVec 7) {b : BitVec 7} (hlow : 0x018 ≤ op) (hhigh : op ≤ 0x01D) (hb : b ≠ 0) :
    decodeFields op d a b = none := by
  interval_cases op <;> exact if_neg hb

section
variable {i : Instr} {s : State} {d a b : BitVec 7} {g : Word → Word}

theorem wordResult_of_lane1 {f : Word → Word} (hfg : ∀ x, f x = g x) (h : runs i s) (he : exec i s = lane1 s i.opn (uses i) (ilen i) d a f)
    (hd : writesWord i d := by exact ⟨rfl, rfl⟩) (hlevel : lowestLevel i.opn (mod7 i) = lowestLevel i.opn 0 := by rfl) :
    wordResult i d (fun l => g (readField s a.toNat l)) s := by
  simp only [← hfg]
  exact wordResult_of_lane0 h he hd hlevel

theorem wordResult_of_lane1w (f : (w : Nat) → BitVec w → BitVec w) (hfg : ∀ x, f 32 x = g x) (h : runs i s)
    (he : exec i s = lane1w s i.opn b (uses i) d a f) (hd : writesWord i d := by exact ⟨rfl, rfl⟩)
    (hlevel : lowestLevel i.opn (mod7 i) = lowestLevel i.opn b := by rfl) (hlen : 4 = ilen i := by rfl) :
    wordResult i d (fun l => g (readField s a.toNat l)) s := by
  simp only [← hfg]
  exact wordResult_of_lane0 h (he.trans ((lane1w_eq h.1 f).trans (by rw [hlen]))) hd hlevel

end

end Sys2Proof.Machine

namespace Sys2Proof.Claim

open Machine

/-- Settles O1: each operation's value is the integer operation of R117 and R118, and the two-source form writes it. -/
theorem integerBinaryResults : Obligations.IntegerBinaryResults := by
  intro d a b s p hp h
  simp only [integerBinary, List.mem_cons, List.not_mem_nil, or_false] at hp
  rcases hp with rfl | rfl | rfl | rfl | rfl | rfl | rfl | rfl | rfl | rfl | rfl | rfl | rfl | rfl | rfl | rfl | rfl
  · exact wordResult_of_lane2w (fun _ x y => x + y) add_eq_ofNat h rfl
  · exact wordResult_of_lane2w (fun _ x y => x - y) sub_eq_ofInt h rfl
  · exact wordResult_of_lane2w (fun _ x y => x * y) mul_eq_ofNat h rfl
  · exact wordResult_of_lane2 mulHiS_eq h rfl
  · exact wordResult_of_lane2 mulHiU_eq h rfl
  · exact wordResult_of_lane2w (fun _ x y => x &&& y) (fun _ _ => rfl) h rfl
  · exact wordResult_of_lane2w (fun _ x y => x ||| y) (fun _ _ => rfl) h rfl
  · exact wordResult_of_lane2w (fun _ x y => x ^^^ y) (fun _ _ => rfl) h rfl
  · exact wordResult_of_lane2w (fun _ x y => x &&& ~~~y) (fun _ _ => rfl) h rfl
  · exact wordResult_of_lane2w (fun _ x y => shlBy x y.toNat) (fun _ _ => rfl) h rfl
  · exact wordResult_of_lane2w (fun _ x y => shrBy x y.toNat) (fun x y => shrBy_eq_div x y.toNat) h rfl
  · exact wordResult_of_lane2w (fun _ x y => sarBy x y.toNat) (fun x y => sarBy_eq_div x y.toNat) h rfl
  · exact wordResult_of_lane2 (fun _ _ => rfl) h rfl
  · exact wordResult_of_lane2 minS_eq_toInt h rfl
  · exact wordResult_of_lane2w (fun _ x y => minU x y) minU_eq_toNat h rfl
  · exact wordResult_of_lane2 maxS_eq_toInt h rfl
  · exact wordResult_of_lane2w (fun _ x y => maxU x y) maxU_eq_toNat h rfl

/-- Settles O2: each result is the operation's value, of which PERM's bytes and the bits of BFX and BFI are read off. -/
theorem madPermAndBitFieldResults : Obligations.MadPermAndBitFieldResults := by
  intro d a b s
  refine ⟨fun h => ?mad, fun h => ⟨_, wordResult_of_lane0 h (b := b) (f := fun l => permBytes (readField s a.toNat l) (readField s b.toNat l) (readField s d.toNat l)) rfl,
      fun l k hk => permBytes_byte _ _ _ hk⟩,
    fun h => ⟨_, wordResult_of_lane0 h (b := b) (f := fun l => bfxOp (readField s a.toNat l) (readField s b.toNat l)) rfl, fun l j hj => bfxOp_bit _ _ hj⟩,
    fun h => ⟨_, wordResult_of_lane0 h (b := b) (f := fun l => bfiOp (readField s a.toNat l) (readField s b.toNat l) (readField s d.toNat l)) rfl,
      fun l j hj => bfiOp_bit _ _ _ hj⟩⟩
  simp only [← mad_eq_ofNat]
  exact wordResult_of_lane0 (b := b) h rfl

/-- Settles O3: by value, and for CLZ and BREV by what their bits say; no opcode of the X format maps with a mod7 bit set. -/
theorem integerUnaryResults : Obligations.IntegerUnaryResults := by
  intro d a s
  refine ⟨fun p hp h => ?_, fun h => ⟨fun l => leadingZeros (readField s a.toNat l), wordResult_of_lane1 clzOp_eq h rfl, fun l => leadingZeros_spec _⟩,
    fun h => ⟨fun l => brevOp (readField s a.toNat l), wordResult_of_lane1 (fun _ => rfl) h rfl, fun l k hk => brevOp_bit _ hk⟩, rfl, rfl, rfl,
    fun op b hlow hhigh hb => decodeFields_unary_reserved d a hlow hhigh hb⟩
  simp only [integerUnary, List.mem_cons, List.not_mem_nil, or_false] at hp
  rcases hp with rfl | rfl | rfl | rfl
  · exact wordResult_of_lane1 absOp_eq h rfl
  · exact wordResult_of_lane1 neg_eq_ofInt h rfl
  · exact wordResult_of_lane1w (b := 0) (fun _ x => x) (fun _ => rfl) h rfl
  · exact wordResult_of_lane1 popcOp_eq h rfl

end Sys2Proof.Claim
end

section
/-! Proofs of the statements on immediates, pairs and comparisons (04_lane_ops R122-R126): what each computes, and the fields that are no legal instruction. -/

namespace Sys2Proof.Machine

open Claim

/-! ## Fields that are no legal instruction (01_encoding R28, R32, R35) -/

theorem wf_eq_false_of_uses {i : Instr} {us : List Use} (hi : uses i = us) {u : Use} (hu : u ∈ us) (h : u.ok = false) : wf i = false := by
  rw [wf, hi, List.all_eq_false]
  exact ⟨u, hu, by simp [h]⟩

theorem wf_eq_false {i : Instr} {u : Use} (hu : u ∈ uses i) (h : u.ok = false) : wf i = false := wf_eq_false_of_uses rfl hu h

theorem pair_not_ok {f : BitVec 7} (h : f.toNat % 2 = 1) (reads writes : Bool) : (Use.field .pair f reads writes).ok = false := by
  simp [Use.ok, Kind.ok, h]

theorem pred_not_ok {f : BitVec 7} (h : 8 ≤ f.toNat) (reads writes : Bool) : (Use.field .pred f reads writes).ok = false := by
  simp [Use.ok, Kind.ok, h]

theorem v_not_ok {f : BitVec 7} (h : 88 ≤ f.toNat) (reads writes : Bool) : (Use.field .v f reads writes).ok = false := by
  simp [Use.ok, Kind.ok, isV, h]

/-! ## Immediates (R122, R123) -/

theorem addi_eq (i : BitVec 7) (x : Word) : x + i.signExtend 32 = BitVec.ofInt 32 (x.toNat + i.toInt) := by
  rw [BitVec.ofInt_add, BitVec.ofInt_natCast, BitVec.ofNat_toNat, BitVec.setWidth_eq]
  rfl

theorem shl_eq_ofNat {w : Nat} (x : BitVec w) (n : Nat) : x <<< n = BitVec.ofNat w (x.toNat * 2 ^ n) := by
  apply BitVec.eq_of_toNat_eq
  rw [BitVec.toNat_shiftLeft, BitVec.toNat_ofNat, Nat.shiftLeft_eq]

theorem lui_eq (x : Word) (n : BitVec 14) : (x <<< 14) ||| n.setWidth 32 = BitVec.ofNat 32 (x.toNat * 2 ^ 14 + n.toNat) := by
  have hn := n.isLt
  have hx := x.isLt
  have hlow : x.toNat * 2 ^ 14 % 2 ^ 32 = (x.toNat % 2 ^ 18) <<< 14 := by
    rw [Nat.shiftLeft_eq]
    omega
  apply BitVec.eq_of_toNat_eq
  rw [BitVec.toNat_or, BitVec.toNat_shiftLeft, BitVec.toNat_setWidth, BitVec.toNat_ofNat, Nat.shiftLeft_eq, Nat.mod_eq_of_lt (by omega : n.toNat < 2 ^ 32), hlow,
    ← Nat.shiftLeft_add_eq_or_of_lt hn, Nat.shiftLeft_eq]
  omega

section
variable {i : Instr} {s : State} {d a m : BitVec 7} {g : Word → Word}

/-- The count of a shift that runs is at most 31. -/
theorem shift_le_of_runs (h : runs i s) (hm : uses i = Uses.shli d a m) : m.toNat ≤ 31 :=
  of_decide_eq_true (ok_of_runs h (u := .cond (decide (m.toNat ≤ 31))) (by simp [hm, Uses.shli]))

theorem wordResult_of_shiftI (f : (w : Nat) → BitVec w → BitVec w) (hfg : m.toNat ≤ 31 → ∀ x, f 32 x = g x) (h : runs i s)
    (he : exec i s = shiftI s i.opn (uses i) d a m f) (hm : uses i = Uses.shli d a m := by rfl) (hd : writesWord i d := by exact ⟨rfl, rfl⟩)
    (hlevel : lowestLevel i.opn (mod7 i) = lowestLevel i.opn m := by rfl) (hlen : 4 = ilen i := by rfl) :
    wordResult i d (fun l => g (readField s a.toNat l)) s := by
  simp only [← hfg (shift_le_of_runs h hm)]
  exact wordResult_of_lane0 h (he.trans ((shiftI_eq h.1 f).trans (by rw [hlen]))) hd hlevel

end

/-! ## Pairs (R117, R126) -/

theorem add64_eq (x y : DWord) : x + y = BitVec.ofNat 64 (x.toNat + y.toNat) := by
  rw [BitVec.ofNat_add, BitVec.ofNat_toNat, BitVec.ofNat_toNat, BitVec.setWidth_eq, BitVec.setWidth_eq]

theorem sub64_eq (x y : DWord) : x - y = BitVec.ofInt 64 ((x.toNat : Int) - y.toNat) := by
  apply BitVec.eq_of_toInt_eq
  rw [BitVec.toInt_sub, BitVec.toInt_ofInt, BitVec.toInt_eq_toNat_bmod, BitVec.toInt_eq_toNat_bmod, Int.sub_bmod_bmod, Int.bmod_sub_bmod]

theorem shr64_eq (x : DWord) (n : Nat) : shrBy x n = BitVec.ofNat 64 (x.toNat / 2 ^ n) := by
  apply BitVec.eq_of_toNat_eq
  have hlt : x.toNat / 2 ^ n < 2 ^ 64 := (Nat.div_le_self _ _).trans_lt x.isLt
  rw [BitVec.toNat_ofNat, Nat.mod_eq_of_lt hlt, shrBy]
  split
  · next hn => exact (Nat.div_eq_of_lt (x.isLt.trans_le (Nat.pow_le_pow_right (by decide) hn))).symm
  · rw [BitVec.toNat_ushiftRight, Nat.shiftRight_eq_div_pow]

/-- A pair, given what its operation computes in each lane. -/
theorem pairResult_of_pair0_eq {i : Instr} {s : State} {d b : BitVec 7} {f g : Nat → DWord} (hfg : ∀ l, f l = g l) (h : runs i s)
    (he : exec i s = pair0 s i.opn b (uses i) d f) (hd : writesPair i d := by exact ⟨rfl, rfl⟩)
    (hlevel : lowestLevel i.opn (mod7 i) = lowestLevel i.opn b := by rfl) (hlen : 4 = ilen i := by rfl) : pairResult i d g s :=
  funext hfg ▸ pairResult_of_pair0 h he hd hlevel hlen

/-! ## Comparisons (R124) -/

section
variable {i : Instr} {s : State} {p a b : BitVec 7} {g : Nat → Bool} (c : Cond)

theorem predResult_of_predCmp (hg : ∀ l, c.holds (readField s a.toNat l) (readField s b.toNat l) = g l) (h : runs i s)
    (he : exec i s = predCmp s i.opn (uses i) p a b c) (hlevel : lowestLevel i.opn (mod7 i) = lowestLevel i.opn b := by rfl)
    (hlen : 4 = ilen i := by rfl) : predResult i p g s :=
  funext hg ▸ predResult_of_pred0 h he hlevel hlen

theorem predResult_of_predCmp64 (hg : ∀ l, c.holds (readPair s a.toNat l) (readPair s b.toNat l) = g l) (h : runs i s)
    (he : exec i s = predCmp64 s i.opn (uses i) p a b c) (hlevel : lowestLevel i.opn (mod7 i) = lowestLevel i.opn b := by rfl)
    (hlen : 4 = ilen i := by rfl) : predResult i p g s :=
  funext hg ▸ predResult_of_pred0 h he hlevel hlen

end

/-- The conditions in opcode order. -/
def conds : List Cond := [.eq, .ne, .ltS, .leS, .gtS, .geS, .ltU, .leU, .gtU, .geU]

theorem integerCompare_values (p a b : BitVec 7) {w : Nat} (x y : BitVec w) : (integerCompare p a b x y).map (·.2.2) = conds.map (fun c => c.holds x y) := by
  have heq : (x == y) = decide (x.toNat = y.toNat) := by
    rw [Bool.eq_iff_iff, beq_iff_eq, decide_eq_true_iff, BitVec.toNat_inj]
  simp only [integerCompare, conds, List.map_cons, List.map_nil, Cond.holds, heq, bne, decide_not, BitVec.slt_eq_decide, BitVec.sle_eq_decide,
    BitVec.ult_eq_decide, BitVec.ule_eq_decide]

/-- Condition k of the table (R124). -/
theorem holds_eq_integerCompare (p a b : BitVec 7) {w : Nat} (x y : BitVec w) {k : Nat} {c : Cond} (hc : conds[k]? = some c) :
    c.holds x y = ((integerCompare p a b x y)[k]?.map (·.2.2)).getD false := by
  rw [← List.getElem?_map, integerCompare_values, List.getElem?_map, hc]
  rfl

/-! ## SEL (R33, R125) -/

theorem opn_sel (p : BitVec 3) (d a b : BitVec 7) : (Instr.sel p d a b).opn = 0x070 + p.toNat := by
  change (14#7 ++ p : BitVec 10).toNat = _
  revert p
  decide

theorem ilen_sel (p : BitVec 3) (d a b : BitVec 7) : ilen (.sel p d a b) = 4 := by
  have hp := p.isLt
  rw [ilen, opn_sel, if_neg (by omega)]

end Sys2Proof.Machine

namespace Sys2Proof.Claim

open Machine

/-- Settles O4: an instruction that runs is well formed, so the count of a shift that runs is at most 31. -/
theorem immediateResults : Obligations.ImmediateResults := by
  intro d a i n s
  refine ⟨fun p hp h => ?imm, fun h => ?li, fun h => ?lui, rfl, rfl, rfl, fun j hj hi => ?wf⟩
  case imm =>
    simp only [integerImmediate, List.mem_cons, List.not_mem_nil, or_false] at hp
    rcases hp with rfl | rfl | rfl | rfl | rfl | rfl | rfl
    · exact wordResult_of_lane1w (b := i) (fun w x => x + i.signExtend w) (addi_eq i) h rfl
    · exact wordResult_of_lane1w (b := i) (fun w x => x &&& i.signExtend w) (fun _ => rfl) h rfl
    · exact wordResult_of_lane1w (b := i) (fun w x => x ||| i.signExtend w) (fun _ => rfl) h rfl
    · exact wordResult_of_lane1w (b := i) (fun w x => x ^^^ i.signExtend w) (fun _ => rfl) h rfl
    · exact wordResult_of_shiftI (fun _ x => shlBy x i.toNat) (fun hi x => (if_neg (by omega)).trans (shl_eq_ofNat x i.toNat)) h rfl
    · exact wordResult_of_shiftI (fun _ x => shrBy x i.toNat) (fun _ x => shrBy_eq_div x i.toNat) h rfl
    · exact wordResult_of_shiftI (fun _ x => sarBy x i.toNat) (fun _ x => sarBy_eq_div x i.toNat) h rfl
  case li => exact wordResult_of_lane0 (b := 0) h (if_neg (by rw [onCheA_of_onRegisters h.1]; exact Bool.false_ne_true))
  case lui =>
    simp only [← lui_eq]
    exact wordResult_of_lane0 (b := 0) h (if_neg (by rw [onCheA_of_onRegisters h.1]; exact Bool.false_ne_true))
  case wf =>
    have hcond : (Use.cond (decide (i.toNat ≤ 31))).ok = false := decide_eq_false (by omega)
    simp only [List.mem_cons, List.not_mem_nil, or_false] at hj
    rcases hj with rfl | rfl | rfl <;> exact wf_eq_false (u := .cond (decide (i.toNat ≤ 31))) (.tail _ (.tail _ (.tail _ (.head _)))) hcond

/-- Settles O6: each operation's value as an integer, written to the pair; a field that is no even pair is not well formed. -/
theorem pairResults : Obligations.PairResults := by
  refine ⟨fun d a b s k hk i hi h => ?results, fun d a b hodd i hi => ?odd, fun d a b hodd => ?oddB, fun d a b => rfl⟩
  case results =>
    interval_cases k <;> cases hi
    · exact pairResult_of_pair0_eq (b := b) (fun l => mulWide_signed _ _) h rfl
    · exact pairResult_of_pair0_eq (b := b) (fun l => mulWide_unsigned _ _) h rfl
    · exact pairResult_of_pair0_eq (b := b) (fun l => add64_eq _ _) h rfl
    · exact pairResult_of_pair0_eq (b := b) (fun l => sub64_eq _ _) h rfl
    · exact pairResult_of_pair0 (b := b) h rfl
    · exact pairResult_of_pair0_eq (b := b) (fun l => shr64_eq _ _) h rfl
  case odd =>
    have hmem : wr .pair d ∈ uses i ∧ rd .pair a ∈ uses i := by
      simp only [List.mem_cons, List.not_mem_nil, or_false] at hi
      rcases hi with rfl | rfl | rfl | rfl <;> exact ⟨.head _, .tail _ (.head _)⟩
    rcases hodd with hodd | hodd
    · exact wf_eq_false hmem.1 (pair_not_ok hodd ..)
    · exact wf_eq_false hmem.2 (pair_not_ok hodd ..)
  case oddB =>
    have hb : (rd .pair b).ok = false := pair_not_ok hodd ..
    exact ⟨wf_eq_false (.tail _ (.tail _ (.head _))) hb, wf_eq_false (.tail _ (.tail _ (.head _))) hb⟩

/-- Settles O7: CMP and CMP64 of the k-th opcode hold under the k-th condition of the table, and SEL reads the predicate that its opcode names. -/
theorem comparesAndSelects : Obligations.ComparesAndSelects := by
  refine ⟨fun p a b s k hk i j hij => ?cmp, fun p d a b s h => ?sel, fun p d a b => ⟨opn_sel p d a b, fun hd => wf_eq_false (.head _) (v_not_ok hd ..)⟩,
    fun p a b => rfl, fun p a b x hx => ?wf⟩
  case cmp =>
    interval_cases k <;> cases hij
    all_goals exact ⟨fun h => predResult_of_predCmp _ (fun l => holds_eq_integerCompare p a b _ _ rfl) h rfl,
      fun h => predResult_of_predCmp64 _ (fun l => holds_eq_integerCompare p a b _ _ rfl) h rfl⟩
  case sel => exact wordResult_of_lane0 (b := b) h (by rw [ilen_sel, opn_sel]; rfl)
  case wf =>
    have huses : uses x.1 = Uses.cmpEq p a b ∧ uses x.2.1 = Uses.cmp64Eq p a b := by
      simp only [integerCompare, List.mem_cons, List.not_mem_nil, or_false] at hx
      rcases hx with rfl | rfl | rfl | rfl | rfl | rfl | rfl | rfl | rfl | rfl <;> exact ⟨rfl, rfl⟩
    obtain ⟨hcmp, hcmp64⟩ := huses
    refine ⟨fun hp => ⟨wf_eq_false_of_uses hcmp (.head _) (pred_not_ok hp ..), wf_eq_false_of_uses hcmp64 (.head _) (pred_not_ok hp ..)⟩, ?_⟩
    rintro (ha | hb)
    · exact wf_eq_false_of_uses hcmp64 (.tail _ (.head _)) (pair_not_ok ha ..)
    · exact wf_eq_false_of_uses hcmp64 (.tail _ (.tail _ (.head _))) (pair_not_ok hb ..)

end Sys2Proof.Claim
end

section
/-! Proofs of the statements on floating-point lanes (04_lane_ops R127-R133, R136, R137; 01_encoding R20): the forms that write them, and what they compute. -/

namespace Sys2Proof.Machine

open Claim

/-! ## The floating-point forms -/

section
variable {i : Instr} {s : State} {b d a : BitVec 7} (h : runsFp i s)
include h

theorem fpWord_of_fp1 {f : FpCtl → Nat → Nat × Flags} (he : exec i s = fp1 s i.opn b (uses i) d a f)
    (hd : writesWord i d := by exact ⟨rfl, rfl⟩) (hlevel : lowestLevel i.opn (mod7 i) = lowestLevel i.opn b := by rfl)
    (hg : ctxAllows .axp i.opn = false ∧ ctxAllows .queue i.opn = false := by exact ⟨rfl, rfl⟩) (hlen : 4 = ilen i := by rfl) :
    fpWord i d (fun l => f (fpCtl s d l) (readField s a.toNat l).toNat) s :=
  fpWord_of_fp0 h hlevel hg (by rw [he, fp1, hlen]) hd

theorem fpWord_of_fp2 {f : FpCtl → Nat → Nat → Nat × Flags} (he : exec i s = fp2 s i.opn (uses i) (ilen i) d a b f)
    (hd : writesWord i d := by exact ⟨rfl, rfl⟩) (hlevel : lowestLevel i.opn (mod7 i) = lowestLevel i.opn b := by rfl)
    (hg : ctxAllows .axp i.opn = false ∧ ctxAllows .queue i.opn = false := by exact ⟨rfl, rfl⟩) :
    fpWord i d (fun l => f (fpCtl s d l) (readField s a.toNat l).toNat (readField s b.toNat l).toNat) s :=
  fpWord_of_fp0 h hlevel hg he hd

theorem fpWord_of_fp3 {f : FpCtl → Nat → Nat → Nat → Nat × Flags} (he : exec i s = fp3 s i.opn (uses i) d a b f)
    (hd : writesWord i d := by exact ⟨rfl, rfl⟩) (hlevel : lowestLevel i.opn (mod7 i) = lowestLevel i.opn b := by rfl)
    (hg : ctxAllows .axp i.opn = false ∧ ctxAllows .queue i.opn = false := by exact ⟨rfl, rfl⟩) (hlen : 4 = ilen i := by rfl) :
    fpWord i d (fun l => f (fpCtl s d l) (readField s a.toNat l).toNat (readField s b.toNat l).toNat (readField s d.toNat l).toNat) s :=
  fpWord_of_fp0 h hlevel hg (by rw [he, fp3, hlen]) hd

theorem fpPair_of_dp1 {f : FpCtl → Nat → Nat × Flags} (he : exec i s = dp1 s i.opn b (uses i) d a f)
    (hd : writesPair i d := by exact ⟨rfl, rfl⟩) (hlevel : lowestLevel i.opn (mod7 i) = lowestLevel i.opn b := by rfl)
    (hg : ctxAllows .axp i.opn = false ∧ ctxAllows .queue i.opn = false := by exact ⟨rfl, rfl⟩) (hlen : 4 = ilen i := by rfl) :
    fpPair i d (fun l => f (fpCtl s d l) (readPair s a.toNat l).toNat) s :=
  fpPair_of_dp0 h hlevel hg he hd hlen

theorem fpPair_of_dp2 {f : FpCtl → Nat → Nat → Nat × Flags} (he : exec i s = dp2 s i.opn (uses i) d a b f)
    (hd : writesPair i d := by exact ⟨rfl, rfl⟩) (hlevel : lowestLevel i.opn (mod7 i) = lowestLevel i.opn b := by rfl)
    (hg : ctxAllows .axp i.opn = false ∧ ctxAllows .queue i.opn = false := by exact ⟨rfl, rfl⟩) (hlen : 4 = ilen i := by rfl) :
    fpPair i d (fun l => f (fpCtl s d l) (readPair s a.toNat l).toNat (readPair s b.toNat l).toNat) s :=
  fpPair_of_dp0 h hlevel hg he hd hlen

theorem fpPair_of_dp3 {f : FpCtl → Nat → Nat → Nat → Nat × Flags} (he : exec i s = dp3 s i.opn (uses i) d a b f)
    (hd : writesPair i d := by exact ⟨rfl, rfl⟩) (hlevel : lowestLevel i.opn (mod7 i) = lowestLevel i.opn b := by rfl)
    (hg : ctxAllows .axp i.opn = false ∧ ctxAllows .queue i.opn = false := by exact ⟨rfl, rfl⟩) (hlen : 4 = ilen i := by rfl) :
    fpPair i d (fun l => f (fpCtl s d l) (readPair s a.toNat l).toNat (readPair s b.toNat l).toNat (readPair s d.toNat l).toNat) s :=
  fpPair_of_dp0 h hlevel hg he hd hlen

/-- A comparison of words (R133). -/
theorem fpPred_of_fcmp {c : FCond} (he : exec i s = fcmp s i.opn (uses i) d a b c)
    (hlevel : lowestLevel i.opn (mod7 i) = lowestLevel i.opn b := by rfl)
    (hg : ctxAllows .axp i.opn = false ∧ ctxAllows .queue i.opn = false := by exact ⟨rfl, rfl⟩) (hlen : 4 = ilen i := by rfl) :
    fpPred i d (fun l => fpCmp fp32 (laneCtl s l) c (readField s a.toNat l).toNat (readField s b.toNat l).toNat) s :=
  fpPred_of_fpCmp0 h hlevel hg he hlen

/-- A comparison of pairs. -/
theorem fpPred_of_dcmp {c : FCond} (he : exec i s = dcmp s i.opn (uses i) d a b c)
    (hlevel : lowestLevel i.opn (mod7 i) = lowestLevel i.opn b := by rfl)
    (hg : ctxAllows .axp i.opn = false ∧ ctxAllows .queue i.opn = false := by exact ⟨rfl, rfl⟩) (hlen : 4 = ilen i := by rfl) :
    fpPred i d (fun l => fpCmp fp64 (laneCtl s l) c (readPair s a.toNat l).toNat (readPair s b.toNat l).toNat) s :=
  fpPred_of_fpCmp0 h hlevel hg he hlen

end

/-- The two-address form on V registers D and A (01_encoding R20): each lane computes under its own FCSR. -/
theorem fpWord_of_halfFp {i : Instr} {s : State} {d : BitVec 6} {a : BitVec 5} {f : FpCtl → Nat → Nat → Nat × Flags} (h : runsFp i s)
    (he : exec i s = halfFp s (uses i) d a f) (hopn : i.opn = 1024 := by rfl) (hd : writesWord i (d.setWidth 7) := by exact ⟨rfl, rfl⟩) :
    fpWord i (d.setWidth 7) (fun l => f (laneCtl s l) (readField s d.toNat l).toNat (readField s a.toNat l).toNat) s := by
  obtain ⟨hdn, han, -⟩ := half_field_ne d a
  have hlt := d.isLt
  obtain ⟨hS, -⟩ := opLanes_of_lt s (d := d.setWidth 7) (by omega)
  have hctl : ∀ l, fpCtl s (d.setWidth 7) l = laneCtl s l := fun l => by rw [fpCtl, hS, if_neg Bool.false_ne_true]
  have hword := fpWord_of_fp2 h (d := d.setWidth 7) (a := d.setWidth 7) (b := a.setWidth 7) (f := f) (by rw [he, halfFp, ilen, hopn]; rfl) hd
    (by rw [hopn]; rfl) (by rw [hopn]; exact ⟨rfl, rfl⟩)
  simpa only [hctl, hdn, han] using hword

/-! ## Signs (R129) -/

/-- A word from its sign and its magnitude. -/
theorem ofNat_signed (n : Bool) (x : Nat) : BitVec.ofNat 32 (fp32.signed n (fp32.mag x)) = BitVec.ofBool n ++ (BitVec.ofNat 32 x).extractLsb' 0 31 := by
  have hmag : (BitVec.ofNat 32 x).extractLsb' 0 31 = BitVec.ofNat 31 x := by
    apply BitVec.eq_of_toNat_eq
    rw [BitVec.extractLsb'_toNat, BitVec.toNat_ofNat, BitVec.toNat_ofNat, Nat.shiftRight_zero]
    omega
  apply BitVec.eq_of_toNat_eq
  rw [hmag, BitVec.toNat_append, ← Nat.shiftLeft_add_eq_or_of_lt (BitVec.isLt _), Nat.shiftLeft_eq, BitVec.toNat_ofNat, BitVec.toNat_ofNat, BitVec.toNat_ofBool]
  cases n <;> simp [Fmt.signed, Fmt.mag, fp32] <;> omega

theorem sign_ofNat (x : Nat) : (BitVec.ofNat 32 x).extractLsb' 31 1 = BitVec.ofBool (fp32.isNeg x) := by
  apply BitVec.eq_of_toNat_eq
  rw [BitVec.extractLsb'_toNat, BitVec.toNat_ofNat, Nat.shiftRight_eq_div_pow, BitVec.toNat_ofBool]
  have hneg : fp32.isNeg x = decide (x / 2 ^ 31 % 2 = 1) := rfl
  rw [hneg]
  by_cases h : x / 2 ^ 31 % 2 = 1
  · simp only [h, decide_true, Bool.toNat_true]
    omega
  · simp only [h, decide_false, Bool.toNat_false]
    omega

theorem sign_word (w : Word) : w.extractLsb' 31 1 = BitVec.ofBool (fp32.isNeg w.toNat) := by
  rw [← sign_ofNat, BitVec.ofNat_toNat, BitVec.setWidth_eq]

/-! ## Packed halves (R137) -/

/-- Element k of a packed word. -/
def packedElem (w : Word) (k : Nat) : Nat := w.toNat / 65536 ^ k % 65536

theorem packedElem_zero (w : Word) : packedElem w 0 = w.toNat % 65536 := by rw [packedElem, pow_zero, Nat.div_one]

theorem packedElem_one (w : Word) : packedElem w 1 = w.toNat / 65536 := by
  have hw := w.isLt
  rw [packedElem, pow_one, Nat.mod_eq_of_lt (by omega)]

section
variable {i : Instr} {s : State} {d a b : BitVec 7} (h : runsFp i s)
include h

theorem fpWord_of_packed2 {f : FpCtl → Nat → Nat → Nat × Flags} (he : exec i s = packed2 s i.opn (uses i) d a b f)
    (hd : writesWord i d := by exact ⟨rfl, rfl⟩) (hlevel : lowestLevel i.opn (mod7 i) = lowestLevel i.opn b := by rfl)
    (hg : ctxAllows .axp i.opn = false ∧ ctxAllows .queue i.opn = false := by exact ⟨rfl, rfl⟩) (hlen : 4 = ilen i := by rfl) :
    let g (l k : Nat) := f (fpCtl s d l) (packedElem (readField s a.toNat l) k) (packedElem (readField s b.toNat l) k)
    fpWord i d (fun l => ((g l 1).1 * 65536 + (g l 0).1, (g l 1).2 ||| (g l 0).2)) s := by
  simp only [packedElem_zero, packedElem_one]
  exact fpWord_of_fp2 h (f := fun c x y => packed (fun x y _ => f c x y) x y 0) (by rw [he, packed2, hlen]) hd hlevel hg

theorem fpWord_of_packed3 {f : FpCtl → Nat → Nat → Nat → Nat × Flags} (he : exec i s = packed3 s i.opn (uses i) d a b f)
    (hd : writesWord i d := by exact ⟨rfl, rfl⟩) (hlevel : lowestLevel i.opn (mod7 i) = lowestLevel i.opn b := by rfl)
    (hg : ctxAllows .axp i.opn = false ∧ ctxAllows .queue i.opn = false := by exact ⟨rfl, rfl⟩) (hlen : 4 = ilen i := by rfl) :
    let g (l k : Nat) := f (fpCtl s d l) (packedElem (readField s a.toNat l) k) (packedElem (readField s b.toNat l) k) (packedElem (readField s d.toNat l) k)
    fpWord i d (fun l => ((g l 1).1 * 65536 + (g l 0).1, (g l 1).2 ||| (g l 0).2)) s := by
  simp only [packedElem_zero, packedElem_one]
  exact fpWord_of_fp3 h (f := fun c x y z => packed (f c) x y z) he hd hlevel hg hlen

end

/-! ## Comparisons (R133) -/

theorem daz_of_not_isSub {f : Fmt} {x : Nat} (h : f.isSub x = false) (on : Bool) : f.daz on x = x := by
  rw [Fmt.daz, h, Bool.and_false, if_neg Bool.false_ne_true]

theorem isNaN_eq {f : Fmt} (hf : f.beyond = .infinity) (x : Nat) : f.isNaN x = decide (f.infCode < f.mag x) := by simp only [Fmt.isNaN, hf]

theorem not_isSub_of_isNaN {f : Fmt} (hf : f = fp32 ∨ f = fp64) {x : Nat} (h : f.isNaN x = true) : f.isSub x = false := by
  have hfmt : f.beyond = .infinity ∧ 2 ^ f.m ≤ f.infCode := by rcases hf with rfl | rfl <;> exact ⟨rfl, by decide⟩
  obtain ⟨hinf, hm⟩ := hfmt
  rw [isNaN_eq hinf, decide_eq_true_eq] at h
  rw [Fmt.isSub, decide_eq_false (p := f.mag x < 2 ^ f.m) (by omega), Bool.and_false]

theorem decode_of_isNaN {f : Fmt} {x : Nat} (h : f.isNaN x = true) : f.decode x = .nan := if_pos h

theorem not_isSub_of_mag_zero {f : Fmt} {x : Nat} (h : f.mag x = 0) : f.isSub x = false := by simp [Fmt.isSub, h]

theorem decode_of_mag_zero {f : Fmt} (hf : f.beyond = .infinity) {x : Nat} (h : f.mag x = 0) : f.decode x = .fin (f.isNeg x) 0 1 := by
  simp [Fmt.decode, Fmt.isNaN, hf, h, Fmt.infCode]

theorem cmp_nan (x y : XR) : XR.cmp .nan y = none ∧ XR.cmp x .nan = none := by
  constructor
  · rfl
  · cases x <;> rfl

section
variable {f : Fmt} (hf : f = fp32 ∨ f = fp64) (c : FpCtl) (k : FCond) {x y : Nat}
include hf

theorem fpCmp_nan (h : f.isNaN x = true ∨ f.isNaN y = true) : (fpCmp f c k x y).1 = (decide (k = .ne) || decide (k = .un)) := by
  have hcmp : (f.decode (f.daz c.daz x)).cmp (f.decode (f.daz c.daz y)) = none := by
    rcases h with h | h
    · rw [daz_of_not_isSub (not_isSub_of_isNaN hf h), decode_of_isNaN h]
      exact (cmp_nan .nan _).1
    · rw [daz_of_not_isSub (not_isSub_of_isNaN hf h), decode_of_isNaN h]
      exact (cmp_nan _ .nan).2
  simp only [fpCmp, hcmp]

theorem fpCmp_zeros (hx : f.mag x = 0) (hy : f.mag y = 0) : (fpCmp f c k x y).1 = (decide (k = .eq) || decide (k = .le) || decide (k = .ge)) := by
  have hinf : f.beyond = .infinity := by rcases hf with rfl | rfl <;> rfl
  have hcmp : (f.decode (f.daz c.daz x)).cmp (f.decode (f.daz c.daz y)) = some 0 := by
    rw [daz_of_not_isSub (not_isSub_of_mag_zero hx), daz_of_not_isSub (not_isSub_of_mag_zero hy), decode_of_mag_zero hinf hx, decode_of_mag_zero hinf hy]
    simp [XR.cmp, XR.signedNum]
  simp only [fpCmp, hcmp]
  cases k <;> rfl

end

end Sys2Proof.Machine

namespace Sys2Proof.Claim

open Machine

/-- Settles O8: each operation is the FP32 computation of its rule in the one-, two- or three-source form, or in the two-address form. -/
theorem fp32Results : Obligations.Fp32Results := by
  refine ⟨fun d a b r s => ⟨fun p hp h => ?two, fun h => fpWord_of_fp3 (b := b) h rfl, fun h => fpWord_of_fp1 (b := r.setWidth 7) (f := fun c x => fpSqrt fp32 (staticRm r c) x) h rfl,
    fun h => fpWord_of_fp1 (b := r.setWidth 7) (f := fun c x => fpRint fp32 (staticRm r c) x) h rfl,
    fun h => fpWord_of_fp1 (b := 0) (f := fun c x => (fpClass fp32 c x, 0)) h rfl⟩, fun d a s p hp h => ?half⟩
  case two =>
    simp only [List.mem_cons, List.not_mem_nil, or_false] at hp
    rcases hp with rfl | rfl | rfl | rfl | rfl | rfl
    all_goals exact fpWord_of_fp2 (a := a) (b := b) h rfl
  case half =>
    simp only [List.mem_cons, List.not_mem_nil, or_false] at hp
    rcases hp with rfl | rfl | rfl | rfl
    all_goals exact fpWord_of_halfFp h rfl

/-- Settles O9: the three write the magnitude of the operand after DAZ under another sign. -/
theorem signOperationsChangeOnlyTheSign : Obligations.SignOperationsChangeOnlyTheSign := by
  intro d a b s
  let x (l : Nat) : Nat := fp32.daz (fpCtl s d l).daz (readField s a.toNat l).toNat
  refine ⟨fun h => ⟨fun l => fp32.signed (fp32.isNeg (readField s b.toNat l).toNat) (fp32.mag (x l)),
      fpWord_of_fp2 (b := b) (f := fun c x y => fsign c x (fun _ => fp32.isNeg y)) h rfl, fun l => ?_⟩,
    fun h => ⟨fun l => fp32.signed false (fp32.mag (x l)), fpWord_of_fp1 (b := 0) (f := fun c x => fsign c x (fun _ => false)) h rfl, fun l => ?_⟩,
    fun h => ⟨fun l => fp32.signed (!fp32.isNeg (x l)) (fp32.mag (x l)), fpWord_of_fp1 (b := 0) (f := fun c x => fsign c x not) h rfl, fun l => ?_⟩⟩
  · rw [ofNat_signed, sign_word]
  · exact ofNat_signed false (x l)
  · rw [ofNat_signed, sign_ofNat]
    cases fp32.isNeg (x l) <;> rfl

/-- Settles O10: FP64 in the forms on pairs; each half of a packed operand is an element. -/
theorem fp64AndPackedResults : Obligations.Fp64AndPackedResults := by
  intro d a b r s
  refine ⟨fun p hp h => ?two, fun h => fpPair_of_dp3 (b := b) h rfl, fun h => fpPair_of_dp1 (b := r.setWidth 7) (f := fun c x => fpSqrt fp64 (staticRm r c) x) h rfl,
    fun p hp h => ?packed2, fun p hp h => ?packed3⟩
  case two =>
    simp only [List.mem_cons, List.not_mem_nil, or_false] at hp
    rcases hp with rfl | rfl | rfl | rfl
    all_goals exact fpPair_of_dp2 (a := a) (b := b) h rfl
  case packed2 =>
    simp only [List.mem_cons, List.not_mem_nil, or_false] at hp
    rcases hp with rfl | rfl | rfl | rfl
    all_goals exact fpWord_of_packed2 (a := a) (b := b) h rfl
  case packed3 =>
    simp only [List.mem_cons, List.not_mem_nil, or_false] at hp
    rcases hp with rfl | rfl
    all_goals exact fpWord_of_packed3 (a := a) (b := b) h rfl

/-- Settles O11: the comparison forms, and what the comparison itself answers for a NaN and for two zeros. -/
theorem floatCompareWritesPredicate : Obligations.FloatCompareWritesPredicate := by
  intro p a b s k hk
  refine ⟨?word, ?pair, fun f c x y hf => ⟨fpCmp_nan hf c k.1, fpCmp_zeros hf c k.1⟩⟩
  case word =>
    simp only [List.mem_cons, List.not_mem_nil, or_false] at hk
    rcases hk with rfl | rfl | rfl | rfl | rfl | rfl | rfl
    all_goals exact fun h => fpPred_of_fcmp (b := b) h rfl
  case pair =>
    simp only [List.mem_cons, List.not_mem_nil, or_false] at hk
    rcases hk with rfl | rfl | rfl | rfl | rfl | rfl | rfl
    all_goals exact fun h => fpPred_of_dcmp (b := b) h rfl

end Sys2Proof.Claim
end

section
/-! Proofs of the statement on conversions (04_lane_ops R138-R145): CVT, the codebook, and block records over the lanes of a group. -/

namespace Sys2Proof.Machine

open Claim

/-! ## Operations of a whole group (R86, R143) -/

/-- A group-collective operation runs with every lane active. -/
theorem laneList_of_collective {i : Instr} {s : State} {gid : Nat} (h : runs i s) (hc : s.cur = .group gid) (hi : isCollective i.opn = true) :
    laneList s = List.range 64 := by
  obtain ⟨-, -, -, hready⟩ := h
  simp only [ready_eq, bind_eq_ok, hi, if_true] at hready
  obtain ⟨⟨⟩, -, ⟨⟩, hconv, -⟩ := hready
  have hmask : activeMask (getGroup s gid) = allLanes := by
    by_contra hne
    simp only [converged, hc, if_neg hne] at hconv
    cases hconv
  rw [laneList, hc]
  refine List.filter_eq_self.2 fun l hl => ?_
  rw [hmask, allLanes, BitVec.getLsbD_allOnes, decide_eq_true (List.mem_range.1 hl)]

theorem putLanes_congr {s : State} {d : Nat} {lanes : List Nat} {f g : Nat → Word} (h : ∀ l ∈ lanes, f l = g l) : putLanes s d lanes f = putLanes s d lanes g :=
  List.foldl_ext _ _ _ fun _ l hl => by rw [h l hl]

theorem fpFlags_congr {s : State} {lanes : List Nat} {f g : Nat → Flags} (h : ∀ l ∈ lanes, f l = g l) : fpFlags s false lanes f = fpFlags s false lanes g :=
  List.foldl_ext _ _ _ fun _ l hl => by rw [h l hl]

/-- What writes a V register in all 64 lanes, and their flags. -/
theorem fpWord_of_allLanes {i : Instr} {s : State} {d : BitVec 7} {w : Nat → Word} {fl : Nat → Flags} {f : Nat → Nat × Flags} (h : runsFp i s)
    (hi : isCollective i.opn = true ∧ ctxAllows .axp i.opn = false ∧ ctxAllows .queue i.opn = false) (hd : writesWord i d) (hlt : d.toNat < 96)
    (he : exec i s = .next (finish (uses i) (ilen i) (fpFlags (putLanes s d.toNat (List.range 64) w) false (List.range 64) fl)))
    (hw : ∀ l, l < 64 → w l = BitVec.ofNat 32 (f l).1) (hfl : ∀ l, l < 64 → fl l = (f l).2) : fpWord i d f s := by
  obtain ⟨gid, hc⟩ := group_of_runs h.1 hi.2
  obtain ⟨hS, hlanes⟩ := opLanes_of_lt s hlt
  rw [laneList_of_collective h.1 hc hi.1] at hlanes
  refine fpWord_of_finish h hi.2 hd ?_
  rw [he, hS, hlanes, putLanes_congr fun l hl => hw l (List.mem_range.1 hl), fpFlags_congr fun l hl => hfl l (List.mem_range.1 hl)]

/-- The first field of the instruction names a V register. -/
theorem lt_of_vDest {i : Instr} {s : State} {d : BitVec 7} {reads writes : Bool} (h : runs i s) (hd : Use.field .v d reads writes ∈ uses i) : d.toNat < 88 :=
  of_decide_eq_true (ok_of_runs h hd)

/-! ## CVTB (R142-R145) -/

theorem packRecord_length (f : Nat) {xs : List Nat} (h : xs.length = 32) : (packRecord f xs).1.length = 32 ∧ (packRecord f xs).2.length = 32 := by
  constructor
  · simp [packRecord]
  · simp only [packRecord, List.length_map]
    split <;> rw [List.length_map, h]

/-- Two records of 32 entries end to end: lane l finds entry l mod 32 of its half. -/
theorem getD_two_halves {α : Type} (r : Nat → List α) (hr : ∀ h, (r h).length = 32) (x : α) {l : Nat} (hl : l < 64) :
    (r 0 ++ r 1).getD l x = (r (l / 32)).getD (l % 32) x := by
  by_cases h : l < 32
  · rw [List.getD_append _ _ _ _ (by rw [hr]; exact h), Nat.div_eq_of_lt h, Nat.mod_eq_of_lt h]
  · rw [List.getD_append_right _ _ _ _ (by rw [hr]; omega), hr, show l / 32 = 1 by omega, show l % 32 = l - 32 by omega]

theorem cvtbPack_fpWord {d a : BitVec 7} {m : BitVec 3} {s : State} (h : runsFp (.cvtbPack d a m) s) :
    let rec' (h : Nat) := packRecord m.toNat ((List.range 32).map (fun j => fp32.daz (laneCtl s (32 * h + j)).daz (readField s a.toNat (32 * h + j)).toNat))
    fpWord (.cvtbPack d a m) d (fun l => (((rec' (l / 32)).1.getD (l % 32) 0).toNat, (rec' (l / 32)).2.getD (l % 32) 0)) s := by
  intro rec'
  have hlen : ∀ h, (rec' h).1.length = 32 ∧ (rec' h).2.length = 32 := fun h => packRecord_length _ (by simp)
  refine fpWord_of_allLanes h ⟨rfl, rfl, rfl⟩ ⟨rfl, rfl⟩ ((lt_of_vDest h.1 (.head _)).trans (by decide)) (exec_of_runOp (b := 0) h.1 rfl rfl) (fun l hl => ?_) fun l hl => ?_
  · rw [BitVec.ofNat_toNat, BitVec.setWidth_eq]
    exact getD_two_halves (fun h => (rec' h).1) (fun h => (hlen h).1) 0 hl
  · exact getD_two_halves (fun h => (rec' h).2) (fun h => (hlen h).2) 0 hl

theorem cvtbUnpack_fpWord {d a : BitVec 7} {m : BitVec 3} {s : State} (h : runsFp (.cvtbUnpack d a m) s) :
    let words (h : Nat) : List Word := (List.range 32).map (fun j => readField s a.toNat (32 * h + j))
    fpWord (.cvtbUnpack d a m) d (fun l =>
      unpackElem m.toNat ((readField s a.toNat (32 * (l / 32))).toNat / 256 % 256) (imageElem m.toNat (words (l / 32)) (l % 32)) (laneCtl s l)) s := by
  intro words
  have hscale : ∀ h, (((words h).headD 0).extractLsb' 8 8).toNat = (readField s a.toNat (32 * h)).toNat / 256 % 256 := fun h => by
    rw [BitVec.extractLsb'_toNat, Nat.shiftRight_eq_div_pow]
    rfl
  have hhalf : ∀ l, l < 64 → (if l < 32 then words 0 else words 1) = words (l / 32) := fun l hl => by
    split
    · next h => rw [Nat.div_eq_of_lt h]
    · rw [show l / 32 = 1 by omega]
  refine fpWord_of_allLanes h ⟨rfl, rfl, rfl⟩ ⟨rfl, rfl⟩ ((lt_of_vDest h.1 (.head _)).trans (by decide)) (exec_of_runOp (b := 0) h.1 rfl rfl) (fun l hl => ?_) fun l hl => ?_
  · rw [← hscale, ← hhalf l hl]
  · rw [← hscale, ← hhalf l hl]

/-! ## CBLOOK (R141) -/

/-- The even entries of a table of halves lie low. -/
theorem half_of_word (w : Word) (c : Nat) : (if c % 2 = 0 then w.extractLsb' 0 16 else w.extractLsb' 16 16).toNat = w.toNat / 65536 ^ (c % 2) % 65536 := by
  rcases Nat.mod_two_eq_zero_or_one c with h | h <;> simp [h, Nat.shiftRight_eq_div_pow]

/-! ## CVT (R138-R140) -/

theorem cvtDst_cases (c : BitVec 6) : cvtDst c = .pair ∨ cvtDst c = .word := by
  unfold cvtDst
  split
  · exact .inl rfl
  · exact .inr rfl

end Sys2Proof.Machine

namespace Sys2Proof.Claim

open Machine

/-- Settles O14: CVT in the word form or the pair form as its number says, CBLOOK in the word form, and CVTB with all lanes active. -/
theorem conversionResults : Obligations.ConversionResults := by
  intro d a b c o m s
  refine ⟨fun h => ⟨fun hc => ?pair, fun hc => ?word⟩, fun h => ?look, cvtbPack_fpWord, cvtbUnpack_fpWord⟩
  case pair =>
    have hd : writesPair (.cvt d a c o) d := ⟨rfl, by rw [hc]; rfl⟩
    have he : exec (.cvt d a c o) s = .next (finish (uses (.cvt d a c o)) 4 (cvtBody s d a c (o = 1))) := exec_of_runOp (b := o ++ c) h.1 rfl rfl
    refine fpPair_of_finish h ⟨rfl, rfl⟩ hd ?_
    simp only [he, cvtBody, if_pos hc, BitVec.ofNat_toNat, BitVec.setWidth_eq]
    rfl
  case word =>
    have hd : writesWord (.cvt d a c o) d := ⟨rfl, by rw [(cvtDst_cases c).resolve_left hc]; rfl⟩
    have he : exec (.cvt d a c o) s = .next (finish (uses (.cvt d a c o)) 4 (cvtBody s d a c (o = 1))) := exec_of_runOp (b := o ++ c) h.1 rfl rfl
    refine fpWord_of_finish h ⟨rfl, rfl⟩ hd ?_
    simp only [he, cvtBody, if_neg hc, BitVec.ofNat_toNat]
    rfl
  case look =>
    simp only [← half_of_word]
    exact wordResult_of_lane0 (b := b) h rfl

end Sys2Proof.Claim
end

section
/-! Proofs of the statement on moves across lanes (04_lane_ops R146, R147, R151): shuffles, votes and matches. -/

namespace Sys2Proof.Machine

open Claim

/-! ## Masks of lanes -/

theorem getLsbD_maskOf (ls : List Nat) {l : Nat} (hl : l < 64) : (maskOf ls).getLsbD l = true ↔ l ∈ ls := by
  have hfold : ∀ (ls : List Nat) (m : Mask), (ls.foldl (fun m l => m ||| BitVec.ofNat 64 (2 ^ l)) m).getLsbD l = true ↔ m.getLsbD l = true ∨ l ∈ ls := fun ls => by
    induction ls with
    | nil => simp
    | cons k r ih =>
      intro m
      rw [List.foldl_cons, ih, BitVec.getLsbD_or, getLsbD_two_pow _ hl, Bool.or_eq_true, decide_eq_true_iff, List.mem_cons, or_assoc, eq_comm (a := k)]
  rw [maskOf, hfold]
  simp

theorem getLsbD_maskOf_filter (ls : List Nat) (p : Nat → Bool) {l : Nat} (hl : l < 64) : (maskOf (ls.filter p)).getLsbD l = true ↔ l ∈ ls ∧ p l = true := by
  rw [getLsbD_maskOf _ hl, List.mem_filter]

theorem mem_laneList_iff {s : State} {l : Nat} : l ∈ laneList s ↔ l < 64 ∧ (activeOf s).getLsbD l = true := by
  unfold laneList activeOf
  split
  · rw [lanesOf, List.mem_filter, List.mem_range]
  · rw [List.mem_singleton]
    constructor
    · rintro rfl
      decide
    · intro ⟨hl, h⟩
      simpa [eq_comm] using h

theorem activeOf_eq_maskOf (s : State) : activeOf s = maskOf (laneList s) := by
  refine BitVec.eq_of_getLsbD_eq fun l hl => Bool.eq_iff_iff.2 ?_
  rw [getLsbD_maskOf _ hl, mem_laneList_iff, and_iff_right hl]

/-! ## Votes (R147) -/

theorem vote_iff {s : State} {q : BitVec 3} {n : BitVec 1} {l : Nat} :
    (readPred s q.toNat l != decide (n = 1)) = true ↔ (regsOf s).readP q.toNat l = decide (n = 0) := by
  unfold readPred
  rcases BitVec.eq_zero_or_eq_one n with rfl | rfl <;> simp

theorem votes_any {s : State} {q : BitVec 3} {n : BitVec 1} : (votes s q n).any id = true ↔ ∃ l ∈ laneList s, (regsOf s).readP q.toNat l = decide (n = 0) := by
  simp only [votes, List.any_map, List.any_eq_true, Function.comp, id, vote_iff]

theorem votes_all {s : State} {q : BitVec 3} {n : BitVec 1} : (votes s q n).all id = true ↔ ∀ l ∈ laneList s, (regsOf s).readP q.toNat l = decide (n = 0) := by
  simp only [votes, List.all_map, List.all_eq_true, Function.comp, id, vote_iff]

/-! ## Matches (R151) -/

theorem matchVal_eq_iff {s : State} {a : BitVec 7} {w : BitVec 1} {k l : Nat} : (matchVal s a w k == matchVal s a w l) = true ↔
    if w = 1 then readPair s a.toNat k = readPair s a.toNat l else readField s a.toNat k = readField s a.toNat l := by
  unfold matchVal
  rw [beq_iff_eq]
  split
  · rfl
  · exact ⟨fun h => by simpa [BitVec.setWidth_setWidth_of_le] using congrArg (BitVec.setWidth 32) h, fun h => by rw [h]⟩

/-- The active lanes whose value is that of lane l. -/
def matchMask (s : State) (a : BitVec 7) (w : BitVec 1) (l : Nat) : DWord := maskOf ((laneList s).filter (fun k => matchVal s a w k == matchVal s a w l))

/-- The result of MATCH.all. -/
def matchAll (s : State) (a : BitVec 7) (w : BitVec 1) : DWord := match laneList s with
  | [] => 0
  | k :: _ => if matchMask s a w k = activeOf s then activeOf s else 0

theorem matchMask_eq_activeOf {s : State} {a : BitVec 7} {w : BitVec 1} {l : Nat} :
    matchMask s a w l = activeOf s ↔ ∀ k ∈ laneList s, matchVal s a w k = matchVal s a w l := by
  constructor
  · intro h k hk
    have hbit : (matchMask s a w l).getLsbD k = true := by rw [h, activeOf_eq_maskOf, getLsbD_maskOf _ (laneList_lt_64 s k hk)]; exact hk
    exact beq_iff_eq.1 ((getLsbD_maskOf_filter _ _ (laneList_lt_64 s k hk)).1 hbit).2
  · intro h
    rw [matchMask, List.filter_eq_self.2 fun k hk => beq_iff_eq.2 (h k hk), activeOf_eq_maskOf]

theorem matchAll_spec (s : State) (a : BitVec 7) (w : BitVec 1) :
    ((∀ k ∈ laneList s, ∀ l ∈ laneList s, matchVal s a w k = matchVal s a w l) → matchAll s a w = activeOf s) ∧
    (¬(∀ k ∈ laneList s, ∀ l ∈ laneList s, matchVal s a w k = matchVal s a w l) → matchAll s a w = 0) := by
  unfold matchAll
  split
  · next h => exact ⟨fun _ => by rw [activeOf_eq_maskOf, h]; rfl, fun _ => rfl⟩
  · next k ls h =>
    have hk : k ∈ laneList s := h ▸ List.mem_cons_self
    simp only [matchMask_eq_activeOf]
    exact ⟨fun hall => if_pos fun l hl => hall l hl k hk, fun hno => if_neg fun hall => hno fun l hl m hm => (hall l hl).trans (hall m hm).symm⟩

/-! ## Fields (R28, R32) -/

theorem spair_not_ok {f : BitVec 7} (h : f.toNat < 96 ∨ f.toNat % 2 = 1) (reads writes : Bool) : (Use.field .spair f reads writes).ok = false := by
  simp only [Use.ok, Kind.ok, isS, Bool.and_eq_false_iff, decide_eq_false_iff_not]
  omega

theorem vpair_not_ok {f : BitVec 7} (h : 88 ≤ f.toNat ∨ f.toNat % 2 = 1) (reads writes : Bool) : (Use.field .vpair f reads writes).ok = false := by
  simp only [Use.ok, Kind.ok, isV, Bool.and_eq_false_iff, decide_eq_false_iff_not]
  omega

theorem vq_not_ok {f : BitVec 7} (h : 96 ≤ f.toNat) (reads writes : Bool) : (Use.field .vq f reads writes).ok = false := by
  simp only [Use.ok, Kind.ok, isV, isQ, Bool.or_eq_false_iff, Bool.and_eq_false_iff, decide_eq_false_iff_not]
  omega

/-- Reserved bits above bit k of mod7 are 0 when it is below 2^k. -/
theorem extract_eq_zero_iff (b : BitVec 7) {k m : Nat} (h : k + m = 7) : b.extractLsb' k m = 0 ↔ b.toNat < 2 ^ k := by
  have hb : b.toNat < 2 ^ k * 2 ^ m := by rw [← pow_add, h]; exact b.isLt
  rw [← BitVec.toNat_inj, BitVec.extractLsb'_toNat, Nat.shiftRight_eq_div_pow, Nat.mod_eq_of_lt (Nat.div_lt_of_lt_mul hb)]
  simp [Nat.div_eq_zero_iff]

section
variable {i : Instr} {s : State} {d b : BitVec 7} {m : DWord}

/-- One pair in S registers. -/
theorem pairResult_of_writePair (h : runs i s) (hd : writesPair i d) (hS : isS d = true)
    (he : exec i s = runOp s i.opn b (uses i) (ilen i) (writePair s d.toNat 0 m)) (hlevel : lowestLevel i.opn (mod7 i) = lowestLevel i.opn b) :
    pairResult i d (fun _ => m) s := by
  refine pairResult_of_finish h hd ((exec_of_runOp h he hlevel).trans ?_)
  rw [opLanes, hS, if_pos rfl]
  rfl

end

theorem isS_of_spair {i : Instr} {s : State} {d : BitVec 7} {reads writes : Bool} (h : runs i s) (hd : Use.field .spair d reads writes ∈ uses i) : isS d = true :=
  (Bool.and_eq_true_iff.1 (ok_of_runs h hd)).1

theorem lt_of_vPair {i : Instr} {s : State} {d : BitVec 7} {reads writes : Bool} (h : runs i s) (hd : Use.field .vpair d reads writes ∈ uses i) : d.toNat < 88 :=
  of_decide_eq_true (Bool.and_eq_true_iff.1 (ok_of_runs h hd)).1

/-! ## The instructions -/

section
variable {d a b : BitVec 7} {q : BitVec 3} {n w : BitVec 1} {s : State}

theorem shfl_wordResult : ∀ p ∈ [(Instr.shflIdx d a b, fun (_ : Nat) (n : Nat) => n % 64), (.shflUp d a b, fun l n => if n ≤ l then l - n else l),
    (.shflDn d a b, fun l n => if l + n ≤ 63 then l + n else l), (.shflXor d a b, fun l n => l ^^^ (n % 64))],
    runs p.1 s → wordResult p.1 d (fun l => readField s a.toNat (p.2 l (readField s b.toNat l).toNat)) s := by
  have hup : ∀ l n : Nat, (if n ≤ l then l - n else l) = if l < n then l else l - n := fun l n => by simp only [← not_lt, ite_not]
  have hdn : ∀ l n : Nat, (if l + n ≤ 63 then l + n else l) = if 63 < l + n then l else l + n := fun l n => by simp only [← not_lt, ite_not]
  rintro p (_ | ⟨_, _ | ⟨_, _ | ⟨_, _ | ⟨_, hp⟩⟩⟩⟩) h
  case head => exact wordResult_of_lane0 (b := b) h rfl
  case tail.head =>
    simp only [hup]
    exact wordResult_of_lane0 (b := b) h rfl
  case tail.tail.head =>
    simp only [hdn]
    exact wordResult_of_lane0 (b := b) h rfl
  case tail.tail.tail.head => exact wordResult_of_lane0 (b := b) h rfl
  case tail.tail.tail.tail => exact absurd hp List.not_mem_nil

theorem voteBal_pairResult (h : runs (.voteBal d q n) s) : ∃ m : DWord, pairResult (.voteBal d q n) d (fun _ => m) s ∧
    ∀ l, l < 64 → (m.getLsbD l = true ↔ l ∈ laneList s ∧ (regsOf s).readP q.toNat l = decide (n = 0)) := by
  refine ⟨maskOf ((laneList s).filter fun l => readPred s q.toNat l != decide (n = 1)), ?_, fun l hl => ?_⟩
  · exact pairResult_of_writePair (b := 0) h ⟨rfl, rfl⟩ (isS_of_spair h (.head _)) rfl rfl
  · rw [getLsbD_maskOf_filter _ _ hl, vote_iff]

theorem match_pairResult (h : runs (.matchOp d a 0 w) s) : pairResult (.matchOp d a 0 w) d (matchMask s a w) s := by
  obtain ⟨-, hlanes⟩ := opLanes_of_lt s ((lt_of_vPair h (.head _)).trans (by decide : 88 < 96))
  refine pairResult_of_finish h ⟨rfl, rfl⟩ ?_
  rw [hlanes]
  exact exec_of_runOp (b := 0) h rfl rfl

theorem matchAll_pairResult (h : runs (.matchOp d a 1 w) s) : pairResult (.matchOp d a 1 w) d (fun _ => matchAll s a w) s :=
  pairResult_of_writePair (b := 0) h ⟨rfl, rfl⟩ (isS_of_spair h (.head _)) rfl rfl

end

end Sys2Proof.Machine

namespace Sys2Proof.Claim

open Machine

/-- Settles O15: SHFL in the word form with its source lane, votes and matches as masks of lanes. -/
theorem crossLaneMoves : Obligations.CrossLaneMoves := by
  refine ⟨fun d a b s => shfl_wordResult, fun d a q n w s => ?results, fun d a b q n w => ?fields⟩
  case results =>
    intro vote same
    have hsame : ∀ {k l}, matchVal s a w k = matchVal s a w l ↔ same k l := beq_iff_eq.symm.trans matchVal_eq_iff
    refine ⟨fun h => ⟨_, predResult_of_pred0 (b := 0) h rfl, votes_any⟩, fun h => ⟨_, predResult_of_pred0 (b := 0) h rfl, votes_all⟩, voteBal_pairResult,
      fun h => ⟨_, match_pairResult h, fun l _ k hk => ?_⟩, fun h => ⟨_, matchAll_pairResult h, ?_⟩⟩
    · rw [matchMask, getLsbD_maskOf_filter _ _ hk, beq_iff_eq, hsame]
    · simpa only [hsame] using matchAll_spec s a w
  case fields =>
    refine ⟨fun hd => ?_, fun hd => ?_, fun hd => ?_, fun hd => ?_, fun ha m => ?_, fun ha m => ?_, rfl, ?_, ?_⟩
    · simp only [List.forall_mem_cons, List.not_mem_nil, false_implies, implies_true, and_true]
      exact ⟨wf_eq_false (.head _) (v_not_ok hd _ _), wf_eq_false (.head _) (v_not_ok hd _ _), wf_eq_false (.head _) (v_not_ok hd _ _), wf_eq_false (.head _) (v_not_ok hd _ _)⟩
    · exact ⟨wf_eq_false (.head _) (pred_not_ok hd _ _), wf_eq_false (.head _) (pred_not_ok hd _ _)⟩
    · exact ⟨wf_eq_false (.head _) (spair_not_ok hd _ _), wf_eq_false (.head _) (spair_not_ok hd _ _)⟩
    · exact wf_eq_false (.head _) (vpair_not_ok hd _ _)
    · rcases BitVec.eq_zero_or_eq_one w with rfl | rfl
      · exact wf_eq_false (.tail _ (.head _)) (vq_not_ok ha _ _)
      · exact wf_eq_false (.tail _ (.head _)) (vpair_not_ok (.inl (by omega)) _ _)
    · exact wf_eq_false (.tail _ (.head _)) (vpair_not_ok ha _ _)
    · have hbits : b.toNat < 16 ↔ b.extractLsb' 4 3 = 0 := (extract_eq_zero_iff b (k := 4) (m := 3) rfl).symm
      simp only [hbits, and_comm (a := a = 0)]
      exact ⟨rfl, rfl, rfl⟩
    · have hbits : b.toNat < 4 ↔ b.extractLsb' 2 5 = 0 := (extract_eq_zero_iff b (k := 2) (m := 5) rfl).symm
      simp only [hbits]
      rfl

end Sys2Proof.Claim
end

section
/-! Proofs of the statement on reductions and scans (04_lane_ops R148-R150): the combines, the tree of REDX, the strides of SCAN, and what both leave. -/

namespace Sys2Proof.Machine

open Claim

/-! ## Combines (R148) -/

theorem combines_eq (x y : Word) : combines x y = (List.range 11).map fun o => (combine o x y, combineNone o) := by
  simp only [combines, ← add_eq_ofNat, ← minS_eq_toInt, ← maxS_eq_toInt, ← minU_eq_toNat, ← maxU_eq_toNat]
  rfl

/-- The integer combines raise nothing. -/
theorem combine_flags {o : Nat} (h : o < 8) (x y : Word) : (combine o x y).2 = 0 := by
  interval_cases o <;> rfl

@[simp] theorem combineOpt_some (o : Nat) (x y : Word) : combineOpt o (some x) (some y) = (some (combine o x y).1, (combine o x y).2) := rfl

@[simp] theorem combineOpt_none_right (o : Nat) (z : Option Word) : combineOpt o z none = (z, 0) := by cases z <;> rfl

@[simp] theorem combineOpt_none_left (o : Nat) (z : Option Word) : combineOpt o none z = (z, 0) := rfl

theorem combineOpt_flags {o : Nat} (h : o < 8) (x y : Option Word) : (combineOpt o x y).2 = 0 := by
  cases x with
  | none => rfl
  | some x =>
    cases y with
    | none => rfl
    | some y => exact combine_flags h x y

/-! ## The tree of REDX (R149) -/

/-- The flags of several nodes. -/
def flagsOf (h : Nat → Flags) (ls : List Nat) : Flags := ls.foldr (fun m f => h m ||| f) 0

theorem flagsOf_or (h h' : Nat → Flags) (ls : List Nat) : flagsOf (fun m => h m ||| h' m) ls = flagsOf h ls ||| flagsOf h' ls := by
  induction ls with
  | nil => exact BitVec.or_zero.symm
  | cons m ms ih =>
    simp only [flagsOf, List.foldr_cons] at ih ⊢
    rw [ih]
    ac_rfl

theorem flagsOf_zero {h : Nat → Flags} {ls : List Nat} (hz : ∀ m, h m = 0) : flagsOf h ls = 0 := by
  induction ls with
  | nil => rfl
  | cons m ms ih => exact (congrArg₂ _ (hz m) ih)

/-- Nodes 2a, 2a + 1, … by neighbours. -/
theorem range'_two_mul (a m : Nat) : List.range' (2 * a) (2 * (m + 1)) = 2 * a :: (2 * a + 1) :: List.range' (2 * (a + 1)) (2 * m) := by
  rw [show 2 * (m + 1) = 2 * m + 1 + 1 by omega, List.range'_succ, List.range'_succ]
  rfl

theorem flagsOf_range'_two_mul (h : Nat → Flags) (a m : Nat) :
    flagsOf h (List.range' (2 * a) (2 * m)) = flagsOf (fun j => h (2 * j) ||| h (2 * j + 1)) (List.range' a m) := by
  induction m generalizing a with
  | zero => rfl
  | succ m ih =>
    rw [range'_two_mul, List.range'_succ]
    simp only [flagsOf, List.foldr_cons] at ih ⊢
    rw [ih, BitVec.or_assoc]

theorem redxLevel_map (op : Nat) (g : Nat → Option Word) (a m : Nat) : redxLevel op ((List.range' (2 * a) (2 * m)).map g) =
    ((List.range' a m).map fun j => (combineOpt op (g (2 * j)) (g (2 * j + 1))).1, flagsOf (fun j => (combineOpt op (g (2 * j)) (g (2 * j + 1))).2) (List.range' a m)) := by
  induction m generalizing a with
  | zero => rfl
  | succ m ih =>
    rw [range'_two_mul, List.range'_succ]
    simp only [List.map_cons, redxLevel, ih]
    rfl

/-- n levels above level k of the tree. -/
theorem redxTree_eq (op : Nat) (v : Nat → Option Word) (n k : Nat) :
    redxTree op n ((List.range' 0 (2 ^ n)).map (redxNode op v k)) (flagsOf (redxFlags op v k) (List.range' 0 (2 ^ n))) = (redxNode op v (k + n) 0, redxFlags op v (k + n) 0) := by
  induction n generalizing k with
  | zero => simp [redxTree, flagsOf]
  | succ n ih =>
    have hlevel := redxLevel_map op (redxNode op v k) 0 (2 ^ n)
    have hflags := flagsOf_range'_two_mul (redxFlags op v k) 0 (2 ^ n)
    rw [Nat.mul_zero] at hlevel hflags
    rw [pow_succ', redxTree, hlevel, hflags, ← flagsOf_or, show k + (n + 1) = k + 1 + n by omega]
    exact ih (k + 1)

theorem redxFlags_zero {op : Nat} (h : op < 8) (v : Nat → Option Word) (k m : Nat) : redxFlags op v k m = 0 := by
  induction k generalizing m with
  | zero => rfl
  | succ k ih => simp only [redxFlags, ih, combineOpt_flags h]; rfl

/-! ## The strides of SCAN (R150) -/

theorem foldl_or_init {ls : List Nat} (c : Nat → Flags) (f : Flags) : ls.foldl (fun f i => f ||| c i) f = f ||| ls.foldl (fun f i => f ||| c i) 0 := by
  induction ls generalizing f with
  | nil => simp
  | cons i is ih =>
    rw [List.foldl_cons, List.foldl_cons, ih, ih (0 ||| c i), show (0 : Flags) ||| c i = c i from BitVec.zero_or, BitVec.or_assoc]

/-- What stride 2^k leaves in lane i, and its flags. -/
def scanStep (op : Nat) (v : Nat → Option Word) (k i : Nat) : Option Word × Flags :=
  if 2 ^ k ≤ i then combineOpt op (scanNode op v k (i - 2 ^ k)) (scanNode op v k i) else (scanNode op v k i, 0)

theorem scanNode_succ (op : Nat) (v : Nat → Option Word) (k i : Nat) : scanNode op v (k + 1) i = (scanStep op v k i).1 := by
  rw [scanNode, scanStep]
  split <;> rfl

theorem scanFlags_succ (op : Nat) (v : Nat → Option Word) (k : Nat) :
    scanFlags op v (k + 1) = scanFlags op v k ||| (List.range 64).foldl (fun f i => f ||| (scanStep op v k i).2) 0 := by
  rw [scanFlags, List.foldl_filter, ← foldl_or_init]
  congr 1
  funext f i
  rw [scanStep]
  by_cases h : 2 ^ k ≤ i <;> simp [h]

theorem scanStride_eq (op : Nat) (v : Nat → Option Word) (k : Nat) : scanStride op (2 ^ k) ((List.range 64).map (scanNode op v k)) =
    ((List.range 64).map (scanNode op v (k + 1)), (List.range 64).foldl (fun f i => f ||| (scanStep op v k i).2) 0) := by
  have hout : ((List.replicate (2 ^ k) none ++ (List.range 64).map (scanNode op v k)).zip ((List.range 64).map (scanNode op v k))).mapIdx
      (fun i (p : Option Word × Option Word) => if 2 ^ k ≤ i then combineOpt op p.1 p.2 else (p.2, (0 : Flags))) = (List.range 64).map (scanStep op v k) := by
    refine List.ext_getElem (by simp) fun i hi _ => ?_
    simp only [List.getElem_mapIdx, List.getElem_zip, List.getElem_map, List.getElem_range, scanStep, List.getElem_append, List.length_replicate]
    by_cases h : 2 ^ k ≤ i
    · simp [h, not_lt.2 h]
    · simp [h]
  simp only [scanStride, hout, List.map_map, List.foldl_map]
  exact congrArg (·, _) (List.map_congr_left fun i _ => (scanNode_succ op v k i).symm)

theorem scanAll_eq (op : Nat) (v : Nat → Option Word) : scanAll op ((List.range 64).map v) = ((List.range 64).map (scanNode op v 6), scanFlags op v 6) := by
  have hstrides : ∀ n, (List.range n).foldl (fun acc k => ((scanStride op (2 ^ k) acc.1).1, acc.2 ||| (scanStride op (2 ^ k) acc.1).2)) ((List.range 64).map v, 0) =
      ((List.range 64).map (scanNode op v n), scanFlags op v n) := fun n => by
    induction n with
    | zero => rfl
    | succ n ih => rw [List.range_succ (n := n), List.foldl_append, ih, List.foldl_cons, List.foldl_nil, scanStride_eq, ← scanFlags_succ]
  rw [← hstrides, scanAll, show [1, 2, 4, 8, 16, 32] = (List.range 6).map (2 ^ ·) from rfl, List.foldl_map]

theorem scanFlags_zero {op : Nat} (h : op < 8) (v : Nat → Option Word) (k : Nat) : scanFlags op v k = 0 := by
  induction k with
  | zero => rfl
  | succ k ih =>
    rw [scanFlags, ih]
    simp [combineOpt_flags h]

/-! ## The values of the lanes -/

section
variable {s : State} {a : BitVec 7}

/-- Lane l's value, none where it is inactive. -/
def laneVal (s : State) (a : BitVec 7) (l : Nat) : Option Word := if l < 64 ∧ (activeOf s).getLsbD l = true then some (readField s a.toNat l) else none

theorem laneVals_eq (s : State) (a : BitVec 7) : laneVals s a = (List.range 64).map (laneVal s a) :=
  List.map_congr_left fun l hl => by simp only [laneVal, List.mem_range.1 hl, true_and]

theorem redx_laneVals (op : Nat) : redxTree op 6 (laneVals s a) 0 = (redxNode op (laneVal s a) 6 0, redxFlags op (laneVal s a) 6 0) := by
  have h := redxTree_eq op (laneVal s a) 6 0
  rw [flagsOf_zero (h := redxFlags op (laneVal s a) 0) fun _ => rfl, show List.range' 0 (2 ^ 6) = List.range 64 from List.range_eq_range'.symm] at h
  rw [laneVals_eq]
  exact h

end

/-- The values of an inclusive scan, or, moved up a lane, of an exclusive one. -/
def scanVals (g : Nat → Option Word) (e : BitVec 1) : List (Option Word) := if e = 1 then none :: (List.range 64).map g else (List.range 64).map g

theorem scanVals_getD (g : Nat → Option Word) (e : BitVec 1) {l : Nat} (hl : l < 64) :
    (scanVals g e).getD l none = if e = 1 then (if l = 0 then none else g (l - 1)) else g l := by
  unfold scanVals
  split
  · cases l with
    | zero => rfl
    | succ l => simp [show l < 64 by omega]
  · simp [hl]

/-! ## What both leave -/

theorem fcsrTab_fpFlags_zero (s : State) (lanes : List Nat) : fcsrTab (fpFlags s false lanes fun _ => 0) = fcsrTab s :=
  foldl_keeps fcsrTab (fun _ _ => rfl) lanes s

/-- An operation that writes d in its lanes and raises the same flags in every active lane. -/
theorem sharedFlags_of_finish {i : Instr} {s : State} {d : BitVec 7} {f : Nat → Word} {fl : Flags} {flags : Bool} (h : runsFp i s)
    (hi : ctxAllows .axp i.opn = false ∧ ctxAllows .queue i.opn = false) (hd : writesWord i d) (hfl : flags = false → fl = 0)
    (he : exec i s = .next (finish (uses i) (ilen i) (orFcsrAll (putLanes s d.toNat (opLanes s d) f) (laneList s) fl))) :
    ∃ t, exec i s = .next t ∧ (∀ l ∈ opLanes s d, readField t d.toNat l = kept d.toNat (f l)) ∧ flagsRaised s t false (laneList s) (fun _ => fl) ∧
      writesOnly (covers s d 1) s t ∧ (regsOf t).p = (regsOf s).p ∧ pcOf t = nextPc s (ilen i) ∧ contextOnly i flags s t := by
  obtain ⟨hruns, hfcsr⟩ := h
  obtain ⟨gid, hc⟩ := group_of_runs hruns hi
  have hdw := writable_of_writesWord hruns hd
  obtain ⟨hx, hr, -⟩ := hruns
  obtain ⟨hkeep, hval⟩ := putLanes_writes hr (lanesApart_opLanes s d) hdw f
  have hown := ownOnly_putLanes s d.toNat (opLanes s d) f
  have htab : flags = false → fcsrTab (fpFlags (putLanes s d.toNat (opLanes s d) f) false (laneList s) fun _ => fl) = fcsrTab s := fun hf => by
    rw [hfl hf, fcsrTab_fpFlags_zero, fcsrTab_putLanes]
  obtain ⟨hregs, hflags, hpc, hctx⟩ := endsAs_finish (i := i) (hown.trans (ownOnly_fpFlags _ false (laneList s) fun _ => fl)) hx htab
  rw [regsOf_fpFlags, regsOf_putLanes hx] at hregs
  refine ⟨_, he, fun l hl => ?_, flagsRaised_fpFlags hc hfcsr hown (fcsrTab_putLanes ..) (laneList_nodup s) _ hflags, writesOnly_of_keepsBut ?_, ?_, hpc, hctx⟩
  · rw [readField_eq _ _ hdw.2.1]
    exact (congrArg (fun r => RegFile.read r d.toNat l) hregs).trans (hval l hl)
  · exact hregs ▸ hkeep.mono fun n m _ => covers_word
  · exact (congrArg RegFile.p hregs).trans (putLanes_p ..)

theorem s_not_ok {f : BitVec 7} (h : f.toNat < 96) (reads writes : Bool) : (Use.field .s f reads writes).ok = false :=
  decide_eq_false (not_le.2 h)

theorem cond_not_ok {o : BitVec 4} (h : 11 ≤ o.toNat) : (Use.cond (decide (o.toNat ≤ 10))).ok = false :=
  decide_eq_false (by omega)

theorem isS_of_s {i : Instr} {s : State} {d : BitVec 7} {reads writes : Bool} (h : runs i s) (hd : Use.field .s d reads writes ∈ uses i) : isS d = true :=
  ok_of_runs h hd

end Sys2Proof.Machine

namespace Sys2Proof.Claim

open Machine

/-- Settles O16: the tree and the strides level by level, then the value and the shared flags through the registers and FCSR. -/
theorem reductionAndScanResults : Obligations.ReductionAndScanResults := by
  refine ⟨fun x y o z ho => ⟨?combines, combineOpt_some o x y, combineOpt_none_right o z, combineOpt_none_left o z⟩, fun d a o e s => ⟨fun h => ?redx, fun h => ?scan⟩,
    fun d a o e ha => ⟨wf_eq_false (.tail _ (.head _)) (vq_not_ok ha _ _), wf_eq_false (.tail _ (.head _)) (vq_not_ok ha _ _)⟩,
    fun d a o e => ⟨fun hd => wf_eq_false (.head _) (s_not_ok hd _ _), fun hd => wf_eq_false (.head _) (v_not_ok hd _ _),
      fun ho => ⟨wf_eq_false (.tail _ (.tail _ (.head _))) (cond_not_ok ho), wf_eq_false (.tail _ (.tail _ (.head _))) (cond_not_ok ho)⟩⟩, fun d a b => ?fields⟩
  case combines =>
    rw [combines_eq]
    simp [ho]
  case redx =>
    have hlanes : opLanes s d = [0] := if_pos (isS_of_s h.1 (.head _))
    have hbody : exec (.redx d a o) s = runOp s (Instr.opn (.redx d a o)) 0 (uses (.redx d a o)) (ilen (.redx d a o))
      (orFcsrAll (writeField s d.toNat 0 ((redxTree o.toNat 6 (laneVals s a) 0).1.getD (combineNone o.toNat))) (laneList s) (redxTree o.toNat 6 (laneVals s a) 0).2) := rfl
    rw [redx_laneVals] at hbody
    obtain ⟨t, he, hval, hrest⟩ := sharedFlags_of_finish (d := d) (f := fun _ => (redxNode o.toNat (laneVal s a) 6 0).getD (combineNone o.toNat))
      (flags := decide (8 ≤ o.toNat)) h ⟨rfl, rfl⟩ ⟨rfl, rfl⟩ (fun ho => redxFlags_zero (not_le.1 (of_decide_eq_false ho)) _ _ _)
      (by rw [hlanes]; exact exec_of_runOp (b := 0) h.1 hbody rfl)
    exact ⟨t, he, hval 0 (hlanes ▸ List.mem_cons_self), hrest⟩
  case scan =>
    have hlt := lt_of_vDest h.1 (.head _)
    obtain ⟨-, hlanes⟩ := opLanes_of_lt s (hlt.trans (by decide : 88 < 96))
    have hbody : exec (.scan d a o e) s = runOp s (Instr.opn (.scan d a o e)) 0 (uses (.scan d a o e)) (ilen (.scan d a o e))
      (orFcsrAll (putLanes s d.toNat (laneList s) fun l => ((if e = 1 then none :: (scanAll o.toNat (laneVals s a)).1 else (scanAll o.toNat (laneVals s a)).1).getD l none).getD
        (combineNone o.toNat)) (laneList s) (scanAll o.toNat (laneVals s a)).2) := rfl
    rw [laneVals_eq, scanAll_eq] at hbody
    obtain ⟨t, he, hval, hrest⟩ := sharedFlags_of_finish (d := d) (f := fun l => ((scanVals (scanNode o.toNat (laneVal s a) 6) e).getD l none).getD (combineNone o.toNat))
      (flags := decide (8 ≤ o.toNat)) h ⟨rfl, rfl⟩ ⟨rfl, rfl⟩ (fun ho => scanFlags_zero (not_le.1 (of_decide_eq_false ho)) _ _)
      (by rw [hlanes]; exact exec_of_runOp (b := 0) h.1 hbody rfl)
    refine ⟨t, he, fun l hl => ?_, hrest⟩
    rw [hval l (hlanes ▸ hl), kept, if_neg (by omega), scanVals_getD _ _ (laneList_lt_64 s l hl)]
    rfl
  case fields =>
    have hredx : b.toNat < 16 ↔ b.extractLsb' 4 3 = 0 := (extract_eq_zero_iff b (k := 4) (m := 3) rfl).symm
    have hscan : b.toNat < 32 ↔ b.extractLsb' 5 2 = 0 := (extract_eq_zero_iff b (k := 5) (m := 2) rfl).symm
    simp only [hredx, hscan]
    exact ⟨rfl, rfl⟩

end Sys2Proof.Claim
end

section
/-! The codes of FP32 by value (02_numbers R60, R70): what a finite code decodes to, the code that an exact value rounds to, powers of two, and square roots of even powers. -/

namespace Sys2Proof.Machine

open Claim

theorem hasInfinity_fp32 : HasInfinity fp32 := hasInfinity_of_mem (by simp)

/-! ## Finite codes with their sign -/

/-- The whole number that a finite code counts, and the power of two that it counts in (R60). -/
def unitsOf (f : Fmt) (x : Nat) : Nat := if f.mag x / 2 ^ f.m = 0 then f.mag x else 2 ^ f.m + f.mag x % 2 ^ f.m
def unitExp (f : Fmt) (x : Nat) : Int := (if f.mag x / 2 ^ f.m = 0 then 1 else (f.mag x / 2 ^ f.m : Nat) : Int) - f.bias - f.m

/-- Its magnitude as a fraction. -/
def fraction (f : Fmt) (x : Nat) : Nat × Nat := if unitsOf f x = 0 then (0, 1) else scalePow (unitsOf f x) 1 (unitExp f x)

theorem fraction_pos (f : Fmt) (x : Nat) : 0 < (fraction f x).2 := by
  unfold fraction
  split
  · exact one_pos
  · exact scalePow_pos _ one_pos

theorem ratio_fraction (f : Fmt) (x : Nat) : ratio (fraction f x).1 (fraction f x).2 = codeValue f (f.mag x) := by
  have hval : codeValue f (f.mag x) = unitsOf f x * 2 ^ unitExp f x := rfl
  rw [hval, fraction]
  split
  · next h => simp [h, ratio]
  · rw [ratio_scalePow, ratio, Nat.cast_one, div_one]

theorem decode_of_finite {f : Fmt} (hf : f.beyond = .infinity) {x : Nat} (h : f.mag x ≤ f.maxCode) :
    f.decode x = .fin (f.isNeg x) (fraction f x).1 (fraction f x).2 := by
  have hinf : f.mag x < f.infCode := Nat.lt_succ_of_le h
  have hnan : f.isNaN x = false := by rw [isNaN_eq hf, decide_eq_false hinf.not_gt]
  rw [Fmt.decode, hnan, if_neg Bool.false_ne_true, if_neg fun h => hinf.ne h.2, fraction]
  change (if unitsOf f x = 0 then _ else _) = _
  split <;> rfl

theorem codeValue_zero (f : Fmt) : codeValue f 0 = 0 := by simp [codeValue]

theorem le_infCode {f : Fmt} {c : Nat} (h : c ≤ f.maxCode) : c ≤ f.infCode := h.trans f.maxCode.le_succ

/-! ## Exact values -/

section
variable {f : Fmt} (hf : HasInfinity f) {num den : Nat} (hn : 0 < num) (hd : 0 < den) (neg : Bool)
include hf hn hd

/-- The value of a finite code rounds to that code. -/
theorem roundFP_exact {c : Nat} (hc : c ≤ f.maxCode) (h : ratio num den = codeValue f c) : (roundFP (.fin neg num den) f .rne false).1 = f.signed neg c := by
  have hnear := roundedMag_rne_nearest f hn hd neg c
  rw [h, sub_self, abs_zero, abs_nonpos_iff, sub_eq_zero] at hnear
  rw [roundFP_rne_fst hf hn, ← (codeValue_strictMono f).injective hnear, min_eq_right (le_infCode hc)]

/-- A value from a finite code's on rounds to no lower code. -/
theorem le_mag_roundFP {c : Nat} (hc : c ≤ f.maxCode) (h : codeValue f c ≤ ratio num den) :
    c ≤ f.mag (roundFP (.fin neg num den) f .rne false).1 ∧ f.mag (roundFP (.fin neg num den) f .rne false).1 ≤ f.infCode := by
  have hbelow := (codeValue_le_iff f hn hd).1 h
  rw [roundFP_rne_fst hf hn, mag_signed hf neg (min_le_left ..)]
  refine ⟨le_min (le_infCode hc) ?_, min_le_left ..⟩
  rcases roundedMag_rne f hn hd neg with ⟨hk, -⟩ | ⟨hk, -⟩
  · exact hk ▸ hbelow
  · exact hk ▸ hbelow.trans (Nat.le_succ _)

end

theorem ratio_inv (num den : Nat) : ratio den num = (ratio num den)⁻¹ := (inv_div _ _).symm

theorem pos_of_ratio_pos {num den : Nat} (h : 0 < ratio num den) : 0 < num ∧ 0 < den := by
  constructor <;> refine Nat.pos_of_ne_zero ?_ <;> rintro rfl <;> simp [ratio] at h

theorem ratio_eq_zero_iff {num den : Nat} (hd : 0 < den) : ratio num den = 0 ↔ num = 0 := by
  have : (den : ℚ) ≠ 0 := by exact_mod_cast hd.ne'
  simp [ratio, this]

/-! ## Powers of two -/

theorem codeValue_normal {e : Nat} (he : 1 ≤ e) : codeValue fp32 (e * 2 ^ 23) = 2 ^ ((e : Int) - 127) := by
  obtain ⟨j, rfl⟩ := Nat.exists_eq_add_of_le' he
  have h := codeValue_row fp32 (j := j) (k := 2 ^ 23) (by decide) (.inr le_rfl)
  rw [show (j + 1) * 2 ^ 23 = j * 2 ^ fp32.m + 2 ^ 23 by rw [add_one_mul]; rfl, h, Nat.cast_pow, ← zpow_natCast, Nat.cast_ofNat, ← zpow_add₀ two_ne_zero]
  congr 1
  simp only [quantum, fp32]
  push_cast
  ring

theorem codeValue_subnormal {j : Nat} (hj : j < 23) : codeValue fp32 (2 ^ j) = 2 ^ ((j : Int) - 149) := by
  have hle : 2 ^ j ≤ 2 ^ (fp32.m + 1) := Nat.pow_le_pow_right two_pos (by simp only [fp32]; omega)
  have h := codeValue_row fp32 (j := 0) hle (.inl rfl)
  rw [Nat.zero_mul, Nat.zero_add] at h
  rw [h, Nat.cast_pow, ← zpow_natCast, Nat.cast_ofNat, ← zpow_add₀ two_ne_zero]
  rfl

/-- An exact power of two in the normal range rounds to a code of fraction 0. -/
theorem roundFP_pow {num den : Nat} {p : Int} (neg : Bool) (h : ratio num den = 2 ^ p) (hlow : -126 ≤ p) (hhigh : p ≤ 127) :
    (roundFP (.fin neg num den) fp32 .rne false).1 = fp32.signed neg ((127 + p).toNat * 2 ^ 23) := by
  obtain ⟨hn, hd⟩ := pos_of_ratio_pos (h ▸ zpow_pos two_pos p)
  obtain ⟨e, he⟩ := Int.eq_ofNat_of_zero_le (by omega : 0 ≤ 127 + p)
  refine roundFP_exact hasInfinity_fp32 hn hd neg ?_ ?_
  · rw [he, Int.toNat_natCast, show fp32.maxCode = 2139095039 from rfl]
    omega
  · rw [h, he, Int.toNat_natCast, codeValue_normal (by omega), ← he, add_sub_cancel_left]

theorem floorLog2_pow {num den : Nat} {p : Int} (h : ratio num den = 2 ^ p) : floorLog2 num den = p := by
  obtain ⟨hn, hd⟩ := pos_of_ratio_pos (h ▸ zpow_pos two_pos p)
  obtain ⟨hlow, hhigh⟩ := floorLog2_spec hn hd
  rw [h, zpow_le_zpow_iff_right₀ one_lt_two] at hlow
  rw [h, zpow_lt_zpow_iff_right₀ one_lt_two] at hhigh
  omega

theorem isPow2Rat_pow (k l : Nat) : isPow2Rat (2 ^ k) (2 ^ l) = true := by simp [isPow2Rat, Nat.log2_two_pow]

theorem isPow2Rat_scalePow (k : Nat) (e : Int) : isPow2Rat (scalePow (2 ^ k) 1 e).1 (scalePow (2 ^ k) 1 e).2 = true := by
  unfold scalePow
  split
  · rw [← pow_add]
    exact isPow2Rat_pow _ 0
  · rw [one_mul]
    exact isPow2Rat_pow ..

/-- The finite magnitudes of FP32 whose value is a power of two, with its exponent. -/
def powerCode (c : Nat) (p : Int) : Prop := (∃ e : Nat, 1 ≤ e ∧ e ≤ 254 ∧ c = e * 2 ^ 23 ∧ p = e - 127) ∨ ∃ j : Nat, j < 23 ∧ c = 2 ^ j ∧ p = j - 149

theorem powerCode.value {c : Nat} {p : Int} (h : powerCode c p) : codeValue fp32 c = 2 ^ p := by
  rcases h with ⟨e, he, -, rfl, rfl⟩ | ⟨j, hj, rfl, rfl⟩
  · exact codeValue_normal he
  · exact codeValue_subnormal hj

theorem powerCode.le {c : Nat} {p : Int} (h : powerCode c p) : c ≤ fp32.maxCode := by
  rw [show fp32.maxCode = 2139095039 from rfl]
  rcases h with ⟨e, -, he, rfl, -⟩ | ⟨j, hj, rfl, -⟩
  · omega
  · have := Nat.pow_le_pow_right two_pos hj.le
    omega

/-- The whole number that such a code counts is a power of two too. -/
theorem powerCode.units {x : Nat} {p : Int} (h : powerCode (fp32.mag x) p) : ∃ k, unitsOf fp32 x = 2 ^ k := by
  have hm : fp32.m = 23 := rfl
  unfold unitsOf
  rw [hm]
  rcases h with ⟨e, he, -, hc, -⟩ | ⟨j, hj, hc, -⟩
  · rw [hc, Nat.mul_div_cancel _ (by decide), Nat.mul_mod_left, if_neg (by omega)]
    exact ⟨23, rfl⟩
  · rw [hc, if_pos (Nat.div_eq_of_lt (Nat.pow_lt_pow_right one_lt_two hj))]
    exact ⟨j, rfl⟩

theorem powerCode.isPow2Rat {x : Nat} {p : Int} (h : powerCode (fp32.mag x) p) : isPow2Rat (fraction fp32 x).1 (fraction fp32 x).2 = true := by
  obtain ⟨k, hk⟩ := h.units
  rw [fraction, hk, if_neg (by positivity)]
  exact isPow2Rat_scalePow ..

theorem powerCode.ratio {x : Nat} {p : Int} (h : powerCode (fp32.mag x) p) : ratio (fraction fp32 x).1 (fraction fp32 x).2 = 2 ^ p :=
  (ratio_fraction ..).trans h.value

/-! ## Square roots -/

theorem isqrtLoop_spec (n b r : Nat) (hlow : r * r ≤ n) (hhigh : n < (r + 2 ^ b) * (r + 2 ^ b)) :
    isqrtLoop n b r * isqrtLoop n b r ≤ n ∧ n < (isqrtLoop n b r + 1) * (isqrtLoop n b r + 1) := by
  induction b generalizing r with
  | zero => exact ⟨hlow, hhigh⟩
  | succ b ih =>
    unfold isqrtLoop
    dsimp only
    split
    · next ht => exact ih _ ht (by rwa [add_assoc, ← two_mul, ← pow_succ'])
    · next ht => exact ih _ hlow (not_le.1 ht)

theorem isqrt_spec (n : Nat) : isqrt n * isqrt n ≤ n ∧ n < (isqrt n + 1) * (isqrt n + 1) := by
  refine isqrtLoop_spec n _ 0 (Nat.zero_le n) ?_
  rw [Nat.zero_add, ← pow_add]
  exact Nat.lt_log2_self.trans_le (Nat.pow_le_pow_right two_pos (by omega))

theorem isqrt_mul_self (k : Nat) : isqrt (k * k) = k := by
  obtain ⟨hlow, hhigh⟩ := isqrt_spec (k * k)
  exact le_antisymm (Nat.mul_self_le_mul_self_iff.1 hlow) (Nat.lt_succ_iff.1 (Nat.mul_self_lt_mul_self_iff.1 hhigh))

theorem le_isqrt {k n : Nat} (h : k * k ≤ n) : k ≤ isqrt n :=
  Nat.lt_succ_iff.1 (Nat.mul_self_lt_mul_self_iff.1 (h.trans_lt (isqrt_spec n).2))

/-- A root as XR.sqrt gives it: a fraction, exact when the operand is an even power of two that is not too small. -/
theorem sqrt_even_pow {num den : Nat} {q : Int} (h : ratio num den = 2 ^ (2 * q)) (hq : -66 ≤ q) :
    ∃ k l : Nat, XR.sqrt (.fin false num den) = (.fin false (2 ^ k) (2 ^ l), 0) ∧ ratio (2 ^ k) (2 ^ l) = 2 ^ q := by
  obtain ⟨hn, hd⟩ := pos_of_ratio_pos (h ▸ zpow_pos two_pos (2 * q))
  obtain ⟨t, ht⟩ : ∃ t, t = 66 + Nat.log2 den := ⟨_, rfl⟩
  obtain ⟨k, hk⟩ := Int.eq_ofNat_of_zero_le (by omega : 0 ≤ t + q)
  have hscaled : num * 4 ^ t = 2 ^ k * 2 ^ k * den := by
    have hdq : (den : ℚ) ≠ 0 := by exact_mod_cast hd.ne'
    have hnum : (num : ℚ) = 2 ^ (2 * q) * den := by rw [← h, ratio, div_mul_cancel₀ _ hdq]
    have hpow : (2 : ℚ) ^ (2 * q) * 4 ^ t = 2 ^ k * 2 ^ k := by
      rw [show (4 : ℚ) = 2 ^ 2 by norm_num, ← pow_mul, ← zpow_natCast, ← zpow_natCast, ← zpow_add₀ two_ne_zero, ← zpow_add₀ two_ne_zero, ← hk]
      congr 1
      push_cast
      ring
    have : (num : ℚ) * 4 ^ t = 2 ^ k * 2 ^ k * den := by rw [hnum, mul_right_comm, hpow]
    exact_mod_cast this
  refine ⟨k, t, ?_, ?_⟩
  · simp only [XR.sqrt, if_neg hn.ne', Bool.false_eq_true, if_false, ← ht, hscaled, Nat.mul_div_cancel _ hd, isqrt_mul_self, if_true]
  · rw [ratio, Nat.cast_pow, Nat.cast_pow, ← zpow_natCast, ← zpow_natCast, Nat.cast_ofNat, ← zpow_sub₀ two_ne_zero, ← hk, add_sub_cancel_left]

/-- The root of a value above 2^-128 is far from the subnormals. -/
theorem sqrt_not_small {num den : Nat} (hn : 0 < num) (hd : 0 < den) (hlt : den < 2 ^ 128) :
    ∃ rn rd, XR.sqrt (.fin false num den) = (.fin false rn rd, 0) ∧ (2 : ℚ) ^ (-126 : Int) ≤ ratio rn rd := by
  obtain ⟨l, hl⟩ : ∃ l, l = Nat.log2 den := ⟨_, rfl⟩
  obtain ⟨k, hk⟩ : ∃ k, k = (131 + l) / 2 := ⟨_, rfl⟩
  have hl128 : l < 128 := hl ▸ (Nat.log2_lt hd.ne').2 hlt
  have hroot : 2 ^ k ≤ isqrt (num * 4 ^ (66 + l) / den) := by
    refine le_isqrt ((Nat.le_div_iff_mul_le hd).2 ?_)
    calc 2 ^ k * 2 ^ k * den ≤ 2 ^ (131 + l) * 2 ^ (l + 1) := by
          rw [← pow_add]
          exact Nat.mul_le_mul (Nat.pow_le_pow_right two_pos (by omega)) (hl ▸ Nat.lt_log2_self.le)
      _ = 4 ^ (66 + l) := by rw [← pow_add, show 4 = 2 ^ 2 by norm_num, ← pow_mul]; congr 1; ring
      _ ≤ num * 4 ^ (66 + l) := Nat.le_mul_of_pos_left _ hn
  have hbound : ∀ r j : Nat, 2 ^ (k + j) ≤ r → (2 : ℚ) ^ (-126 : Int) ≤ ratio r (2 ^ (66 + l + j)) := fun r j h => by
    have hr : (2 : ℚ) ^ ((k + j : Nat) : Int) ≤ r := by exact_mod_cast h
    rw [ratio, Nat.cast_pow, Nat.cast_ofNat, ← zpow_natCast, le_div_iff₀ (zpow_pos two_pos _), ← zpow_add₀ two_ne_zero]
    exact (zpow_le_zpow_right₀ one_le_two (by push_cast; omega)).trans hr
  simp only [XR.sqrt, if_neg hn.ne', Bool.false_eq_true, if_false, ← hl]
  split
  · exact ⟨_, _, rfl, hbound _ 0 hroot⟩
  · exact ⟨_, _, rfl, hbound _ 1 (by rw [pow_succ]; omega)⟩

/-! ## Codes of whole numbers, and bounds -/

theorem codeValue_whole {n : Nat} (hn : 1 ≤ n) (h : n ≤ 127) : ∃ c, 2 ^ 23 ≤ c ∧ c ≤ fp32.maxCode ∧ codeValue fp32 c = n := by
  obtain ⟨e, he⟩ : ∃ e, e = Nat.log2 n := ⟨_, rfl⟩
  have he6 : e < 7 := he ▸ (Nat.log2_lt (by omega)).2 (by omega)
  have hpow : 2 ^ e * 2 ^ (23 - e) = 2 ^ 23 := by rw [← pow_add]; congr 1; omega
  have hlow : 2 ^ 23 ≤ n * 2 ^ (23 - e) := hpow ▸ Nat.mul_le_mul_right _ (he ▸ Nat.log2_self_le (by omega))
  have hhigh : n * 2 ^ (23 - e) ≤ 2 ^ 24 := by
    have := Nat.mul_le_mul_right (2 ^ (23 - e)) (he ▸ Nat.lt_log2_self (n := n)).le
    rw [pow_succ, mul_right_comm, hpow] at this
    omega
  refine ⟨(126 + e) * 2 ^ fp32.m + n * 2 ^ (23 - e), by omega, ?_, ?_⟩
  · rw [show fp32.maxCode = 2139095039 from rfl, show fp32.m = 23 from rfl]
    omega
  · rw [codeValue_row fp32 hhigh (.inr hlow), Nat.cast_mul, Nat.cast_pow, ← zpow_natCast, Nat.cast_ofNat, mul_assoc, ← zpow_add₀ two_ne_zero]
    have hexp : ((23 - e : Nat) : Int) + ((126 + e : Nat) + quantum fp32) = 0 := by
      simp only [quantum, fp32]
      omega
    rw [hexp, zpow_zero, mul_one]

section
variable {x : Nat} (n : Nat)

theorem pow_le_fraction (h : (127 + n) * 2 ^ 23 ≤ fp32.mag x) : 2 ^ n * (fraction fp32 x).2 ≤ (fraction fp32 x).1 := by
  have hval := (codeValue_strictMono fp32).monotone h
  rw [codeValue_normal (by omega), ← ratio_fraction, Nat.cast_add, Nat.cast_ofNat, add_sub_cancel_left, ratio,
    le_div_iff₀ (by exact_mod_cast fraction_pos fp32 x), zpow_natCast] at hval
  exact_mod_cast hval

theorem pow_lt_fraction (h : (127 + n) * 2 ^ 23 < fp32.mag x) : 2 ^ n * (fraction fp32 x).2 < (fraction fp32 x).1 := by
  have hval := codeValue_strictMono fp32 h
  rw [codeValue_normal (by omega), ← ratio_fraction, Nat.cast_add, Nat.cast_ofNat, add_sub_cancel_left, ratio,
    lt_div_iff₀ (by exact_mod_cast fraction_pos fp32 x), zpow_natCast] at hval
  exact_mod_cast hval

end

theorem fraction_eq_zero_iff (x : Nat) : (fraction fp32 x).1 = 0 ↔ fp32.mag x = 0 := by
  rw [← ratio_eq_zero_iff (fraction_pos fp32 x), ratio_fraction, ← codeValue_zero fp32, (codeValue_strictMono fp32).injective.eq_iff]

/-- The numerator of a finite code stays below 2^128. -/
theorem fraction_lt {x : Nat} (h : fp32.mag x ≤ fp32.maxCode) : (fraction fp32 x).1 < 2 ^ 128 := by
  rw [show fp32.maxCode = 2139095039 from rfl] at h
  have hunits : unitsOf fp32 x < 2 ^ 24 := by
    unfold unitsOf
    rw [show fp32.m = 23 from rfl]
    split <;> omega
  have hexp : (unitExp fp32 x).toNat ≤ 104 := by
    unfold unitExp
    rw [show fp32.m = 23 from rfl, show fp32.bias = 127 from rfl]
    split <;> omega
  unfold fraction scalePow
  split
  · positivity
  · split
    · calc unitsOf fp32 x * 2 ^ (unitExp fp32 x).toNat < 2 ^ 24 * 2 ^ 104 := Nat.mul_lt_mul_of_lt_of_le hunits (Nat.pow_le_pow_right two_pos hexp) (by positivity)
        _ = 2 ^ 128 := by norm_num
    · exact hunits.trans (by norm_num)

end Sys2Proof.Machine
end

section
/-! Proofs of the statement on the approximations (04_lane_ops R134, R135): the operand after DAZ, the results outside the ordinary range, and the exact ones. -/

namespace Sys2Proof.Machine

open Claim

/-! ## The operand after DAZ (R74) -/

theorem not_isSub_signed (neg : Bool) {m : Nat} (h : m = 0 ∨ 2 ^ 23 ≤ m) (hm : m ≤ fp32.infCode) : fp32.isSub (fp32.signed neg m) = false := by
  rw [Fmt.isSub, mag_signed hasInfinity_fp32 neg hm, Bool.and_eq_false_iff, decide_eq_false_iff_not, decide_eq_false_iff_not]
  exact h.imp (by omega) not_lt.2

theorem not_isSub_of_le {x : Nat} (h : 2 ^ 23 ≤ fp32.mag x) : fp32.isSub x = false := by
  rw [Fmt.isSub, decide_eq_false (p := fp32.mag x < 2 ^ fp32.m) (not_lt.2 h), Bool.and_false]

theorem isNeg_daz (on : Bool) (x : Nat) : fp32.isNeg (fp32.daz on x) = fp32.isNeg x := by
  unfold Fmt.daz
  split
  · exact isNeg_signed hasInfinity_fp32 _ (Nat.zero_le _)
  · rfl

/-- Under FTZ a result is flushed. -/
theorem not_isSub_flushTo {c : FpCtl} (h : c.ftz = true) (k : Nat) : fp32.isSub (flushTo c k) = false := by
  rw [flushTo, h, Fmt.daz, Bool.true_and]
  split
  · exact not_isSub_signed _ (.inl rfl) (Nat.zero_le _)
  · next hk => exact Bool.eq_false_iff.2 hk

theorem isNaN_daz (on : Bool) {x : Nat} (h : fp32.isNaN x = true) : fp32.daz on x = x := daz_of_not_isSub (not_isSub_of_isNaN (.inl rfl) h) on

theorem decode_of_inf {x : Nat} (h : fp32.mag x = fp32.infCode) : fp32.decode x = .inf (fp32.isNeg x) := by
  have hnan : fp32.isNaN x = false := by rw [isNaN_eq rfl, decide_eq_false (by omega)]
  rw [Fmt.decode, hnan, if_neg Bool.false_ne_true, if_pos ⟨rfl, h⟩]

theorem decode_cases (x : Nat) : fp32.decode x = .nan ∨ fp32.decode x = .inf (fp32.isNeg x) ∨
    (fp32.mag x ≤ fp32.maxCode ∧ fp32.decode x = .fin (fp32.isNeg x) (fraction fp32 x).1 (fraction fp32 x).2) := by
  rcases Nat.lt_trichotomy (fp32.mag x) fp32.infCode with h | h | h
  · exact .inr (.inr ⟨Nat.lt_succ_iff.1 h, decode_of_finite rfl (Nat.lt_succ_iff.1 h)⟩)
  · exact .inr (.inl (decode_of_inf h))
  · exact .inl (decode_of_isNaN (by rw [isNaN_eq rfl, decide_eq_true h]))

/-! ## Results by the kind of the operand (R135) -/

/-- The result of an infinity. -/
def approxOfInf (op : ApproxOp) (n : Bool) : Nat × Flags := match op with
  | .rcp => (fp32.signed n 0, 0)
  | .rsq => if n then (fp32.canonNaN, flagNV) else (0, 0)
  | .ex2 => (if n then 0 else fp32.infCode, 0)
  | .lg2 => if n then (fp32.canonNaN, flagNV) else (fp32.infCode, 0)
  | .sin => (fp32.canonNaN, flagNV)
  | .cos => (fp32.canonNaN, flagNV)

theorem signedNum_range {n : Bool} {k : Nat} (h : k ≤ if n then 126 else 127) : -126 ≤ XR.signedNum n k ∧ XR.signedNum n k ≤ 127 := by
  unfold XR.signedNum
  cases n
  · simp only [Bool.false_eq_true, if_false] at h ⊢
    omega
  · simp only [if_true] at h ⊢
    omega

theorem ratio_scalePow_one (e : Int) : ratio (scalePow 1 1 e).1 (scalePow 1 1 e).2 = 2 ^ e := by
  rw [ratio_scalePow, ratio, Nat.cast_one, div_one, one_mul]

theorem flushTo_ite (c : FpCtl) (p : Prop) [Decidable p] (k k' : Nat) :
    (if p then (flushTo c k, (0 : Flags)) else (flushTo c k', 0)) = (flushTo c (if p then k else k'), 0) := by
  split <;> rfl

section
variable {op : ApproxOp} {c : FpCtl} {x : Nat} {n : Bool} {num den : Nat}

theorem fpApprox_nan (h : fp32.decode (fp32.daz c.daz x) = .nan) : fpApprox op c x = (fp32.canonNaN, snanFlag fp32 [fp32.daz c.daz x]) := by
  unfold fpApprox
  cases op <;> simp only [h]

theorem fpApprox_inf (h : fp32.decode (fp32.daz c.daz x) = .inf n) : fpApprox op c x = approxOfInf op n := by
  unfold fpApprox
  cases op <;> simp only [h, approxOfInf]

/-! Of a finite operand: an inexact result is a code k, flushed. -/

variable (h : fp32.decode (fp32.daz c.daz x) = .fin n num den)
include h

theorem fpApprox_rcp_fin : ∃ k, fpApprox .rcp c x =
    if num = 0 then (fp32.signed n fp32.infCode, 0)
    else if isPow2Rat num den && !fp32.isSub (roundFP (.fin n den num) fp32 .rne false).1 && decide (fp32.mag (roundFP (.fin n den num) fp32 .rne false).1 ≠ fp32.infCode) then
      ((roundFP (.fin n den num) fp32 .rne false).1, 0)
    else (flushTo c k, 0) := by
  unfold fpApprox
  simp only [h, flushTo_ite]
  exact ⟨_, rfl⟩

theorem fpApprox_rsq_zero (hz : num = 0) : fpApprox .rsq c x = (fp32.signed n fp32.infCode, 0) := by
  unfold fpApprox
  simp only [h, if_pos hz]

theorem fpApprox_rsq_neg (hz : num ≠ 0) (hn : n = true) : fpApprox .rsq c x = (fp32.canonNaN, flagNV) := by
  unfold fpApprox
  simp only [h, if_neg hz, if_pos hn]

theorem fpApprox_rsq_pos (hz : num ≠ 0) (hn : n = false) {rn rd : Nat} (hsqrt : XR.sqrt (.fin false den num) = (.fin false rn rd, 0)) : ∃ k, fpApprox .rsq c x =
    if isPow2Rat rn rd then ((roundFP (.fin false rn rd) fp32 .rne false).1, 0) else (flushTo c k, 0) := by
  unfold fpApprox
  simp only [h, if_neg hz, hn, Bool.false_eq_true, if_false, hsqrt]
  exact ⟨_, rfl⟩

theorem fpApprox_ex2_fin : ∃ k k', fpApprox .ex2 c x =
    if !n && decide (128 * den ≤ num) then (fp32.infCode, 0)
    else if n && decide (300 * den ≤ num) then (flushTo c k, 0)
    else if num % den = 0 ∧ num ≤ (if n then 126 else 127) * den then
      ((roundFP (.fin false (scalePow 1 1 (XR.signedNum n (num / den))).1 (scalePow 1 1 (XR.signedNum n (num / den))).2) fp32 .rne false).1, 0)
    else (flushTo c k', 0) := by
  unfold fpApprox
  simp only [h, ← Bool.decide_and, decide_eq_true_eq]
  exact ⟨_, _, rfl⟩

theorem fpApprox_lg2_fin : ∃ k, fpApprox .lg2 c x =
    if num = 0 then (fp32.signed true fp32.infCode, 0)
    else if n then (fp32.canonNaN, flagNV)
    else if isPow2Rat num den then ((roundFP (XR.ofInt (floorLog2 num den) 1 false) fp32 .rne false).1, 0)
    else (flushTo c k, 0) := by
  unfold fpApprox
  simp only [h, flushTo_ite]
  exact ⟨_, rfl⟩

theorem fpApprox_sin_fin : ∃ k, fpApprox .sin c x =
    if num = 0 then (fp32.daz c.daz x, 0) else if 2 ^ 14 * den < num then (fp32.canonNaN, flagNV) else (flushTo c k, 0) := by
  unfold fpApprox
  simp only [h]
  exact ⟨_, rfl⟩

theorem fpApprox_cos_fin : ∃ k, fpApprox .cos c x =
    if num = 0 then (0x3F800000, 0) else if 2 ^ 14 * den < num then (fp32.canonNaN, flagNV) else (flushTo c k, 0) := by
  unfold fpApprox
  simp only [h]
  exact ⟨_, rfl⟩

theorem fpApprox_rcp_zero (hz : num = 0) : fpApprox .rcp c x = (fp32.signed n fp32.infCode, 0) := (fpApprox_rcp_fin h).elim fun _ hk => hk.trans (if_pos hz)

theorem fpApprox_lg2_zero (hz : num = 0) : fpApprox .lg2 c x = (fp32.signed true fp32.infCode, 0) := (fpApprox_lg2_fin h).elim fun _ hk => hk.trans (if_pos hz)

theorem fpApprox_sin_zero (hz : num = 0) : fpApprox .sin c x = (fp32.daz c.daz x, 0) := (fpApprox_sin_fin h).elim fun _ hk => hk.trans (if_pos hz)

theorem fpApprox_cos_zero (hz : num = 0) : fpApprox .cos c x = (0x3F800000, 0) := (fpApprox_cos_fin h).elim fun _ hk => hk.trans (if_pos hz)

theorem fpApprox_lg2_neg (hz : num ≠ 0) (hn : n = true) : fpApprox .lg2 c x = (fp32.canonNaN, flagNV) := by
  obtain ⟨k, hk⟩ := fpApprox_lg2_fin h
  rw [hk, if_neg hz, if_pos hn]

/-- From 128 on, 2^x is out of range. -/
theorem fpApprox_ex2_large (hn : n = false) (hb : 128 * den ≤ num) : fpApprox .ex2 c x = (fp32.infCode, 0) := by
  obtain ⟨k, k', hk⟩ := fpApprox_ex2_fin h
  rw [hk, if_pos (by rw [hn, decide_eq_true hb]; rfl)]

/-- Beyond 2^14 the angle is out of range. -/
theorem fpApprox_trig_large (hb : 2 ^ 14 * den < num) : fpApprox .sin c x = (fp32.canonNaN, flagNV) ∧ fpApprox .cos c x = (fp32.canonNaN, flagNV) := by
  have hz : num ≠ 0 := by omega
  obtain ⟨k, hk⟩ := fpApprox_sin_fin h
  obtain ⟨k', hk'⟩ := fpApprox_cos_fin h
  rw [hk, hk', if_neg hz, if_neg hz, if_pos hb, if_pos hb]
  exact ⟨rfl, rfl⟩

/-! ## Exact results (R134) -/

theorem fpApprox_rcp_pow {p : Int} (hr : ratio num den = 2 ^ p) (hpow : isPow2Rat num den = true) (hlow : -127 ≤ p) (hhigh : p ≤ 126) :
    fpApprox .rcp c x = (fp32.signed n ((127 - p).toNat * 2 ^ 23), 0) := by
  obtain ⟨hnum, -⟩ := pos_of_ratio_pos (hr ▸ zpow_pos two_pos p)
  have hround : (roundFP (.fin n den num) fp32 .rne false).1 = fp32.signed n ((127 - p).toNat * 2 ^ 23) :=
    roundFP_pow n (by rw [ratio_inv, hr, zpow_neg]) (by omega) (by omega)
  have hcode : 2 ^ 23 ≤ (127 - p).toNat * 2 ^ 23 ∧ (127 - p).toNat * 2 ^ 23 < fp32.infCode := by
    rw [show fp32.infCode = 2139095040 from rfl]
    omega
  obtain ⟨k, hk⟩ := fpApprox_rcp_fin h
  rw [hk, if_neg hnum.ne', hround, hpow, not_isSub_signed n (.inr hcode.1) hcode.2.le, mag_signed hasInfinity_fp32 n hcode.2.le, decide_eq_true hcode.2.ne]
  rfl

theorem fpApprox_rsq_pow {q : Int} (hn : n = false) (hr : ratio num den = 2 ^ (2 * q)) (hlow : -127 ≤ q) (hhigh : q ≤ 66) :
    fpApprox .rsq c x = ((127 - q).toNat * 2 ^ 23, 0) := by
  obtain ⟨hnum, -⟩ := pos_of_ratio_pos (hr ▸ zpow_pos two_pos _)
  obtain ⟨k, l, hsqrt, hroot⟩ := sqrt_even_pow (num := den) (den := num) (q := -q) (by rw [ratio_inv, hr, ← zpow_neg]; congr 1; ring) (by omega)
  have hround := roundFP_pow false hroot (by omega) (by omega)
  obtain ⟨k', hk'⟩ := fpApprox_rsq_pos h hnum.ne' hn hsqrt
  rw [hk', isPow2Rat_pow, if_pos rfl, hround, ← sub_eq_add_neg, Fmt.signed, if_neg Bool.false_ne_true, Nat.zero_add]

theorem fpApprox_lg2_pow {p : Int} (hn : n = false) (hr : ratio num den = 2 ^ p) (hpow : isPow2Rat num den = true) :
    fpApprox .lg2 c x = (roundF32 (XR.ofInt p 1 false), 0) := by
  obtain ⟨hnum, -⟩ := pos_of_ratio_pos (hr ▸ zpow_pos two_pos p)
  obtain ⟨k, hk⟩ := fpApprox_lg2_fin h
  rw [hk, if_neg hnum.ne', hn, if_neg Bool.false_ne_true, hpow, if_pos rfl, floorLog2_pow hr, roundF32]

/-- 2 to a whole number in the normal range. -/
theorem fpApprox_ex2_whole {k : Nat} (hden : 0 < den) (hk : num = k * den) (hle : k ≤ if n then 126 else 127) :
    fpApprox .ex2 c x = ((127 + XR.signedNum n k).toNat * 2 ^ 23, 0) := by
  have hk' : k ≤ 127 := hle.trans (by split <;> omega)
  have h128 : ¬128 * den ≤ num := by rw [hk, Nat.mul_le_mul_right_iff hden]; omega
  have h300 : ¬300 * den ≤ num := by rw [hk, Nat.mul_le_mul_right_iff hden]; omega
  have hwhole : num % den = 0 := by rw [hk, Nat.mul_mod_left]
  have hdiv : num / den = k := by rw [hk, Nat.mul_div_cancel _ hden]
  have hrange : num ≤ (if n then 126 else 127) * den := hk ▸ Nat.mul_le_mul_right _ hle
  obtain ⟨hlow, hhigh⟩ := signedNum_range hle
  have hround := roundFP_pow false (ratio_scalePow_one (XR.signedNum n k)) hlow hhigh
  obtain ⟨j, j', hj⟩ := fpApprox_ex2_fin h
  rw [hj, decide_eq_false h128, decide_eq_false h300, Bool.and_false, Bool.and_false, if_neg Bool.false_ne_true, if_neg Bool.false_ne_true, if_pos ⟨hwhole, hrange⟩, hdiv, hround,
    Fmt.signed, if_neg Bool.false_ne_true, Nat.zero_add]

end

/-! ## Flags, and results under FTZ (R134) -/

/-- No flag but NV, and no subnormal result under FTZ. -/
def approxProper (c : FpCtl) (r : Nat × Flags) : Prop := (r.2 = 0 ∨ r.2 = flagNV) ∧ (c.ftz = true → fp32.isSub r.1 = false)

section
variable {op : ApproxOp} {c : FpCtl} {x : Nat} {n : Bool} {num den : Nat}

theorem approxProper_flush (k : Nat) : approxProper c (flushTo c k, 0) := ⟨.inl rfl, fun h => not_isSub_flushTo h k⟩

theorem approxProper_of_not_isSub {k : Nat} (h : fp32.isSub k = false) : approxProper c (k, 0) := ⟨.inl rfl, fun _ => h⟩

theorem approxProper_invalid : approxProper c (fp32.canonNaN, flagNV) := ⟨.inr rfl, fun _ => by decide⟩

theorem approxProper_inf (op : ApproxOp) (n : Bool) : approxProper c (approxOfInf op n) := by
  cases op with
  | rcp => exact approxProper_of_not_isSub (not_isSub_signed n (.inl rfl) (Nat.zero_le _))
  | rsq =>
    cases n with
    | false => exact approxProper_of_not_isSub (by decide)
    | true => exact approxProper_invalid
  | ex2 => cases n <;> exact approxProper_of_not_isSub (by decide)
  | lg2 =>
    cases n with
    | false => exact approxProper_of_not_isSub (by decide)
    | true => exact approxProper_invalid
  | sin => exact approxProper_invalid
  | cos => exact approxProper_invalid

/-- A value in the normal range rounds to no subnormal. -/
theorem not_isSub_roundFP (neg : Bool) (hr : (2 : ℚ) ^ (-126 : Int) ≤ ratio num den) : fp32.isSub (roundFP (.fin neg num den) fp32 .rne false).1 = false := by
  obtain ⟨hnum, hden⟩ := pos_of_ratio_pos ((zpow_pos two_pos (-126)).trans_le hr)
  have hcode : codeValue fp32 (1 * 2 ^ 23) ≤ ratio num den := (codeValue_normal le_rfl).trans_le hr
  exact not_isSub_of_le (le_mag_roundFP hasInfinity_fp32 hnum hden neg (by decide) hcode).1

/-- A whole number rounds to no subnormal. -/
theorem not_isSub_roundFP_ofInt (i : Int) : fp32.isSub (roundFP (XR.ofInt i 1 false) fp32 .rne false).1 = false := by
  unfold XR.ofInt
  split
  · rfl
  · next hi =>
    refine not_isSub_roundFP _ ?_
    have : (1 : ℚ) ≤ ratio i.natAbs 1 := by
      rw [ratio, Nat.cast_one, div_one]
      exact_mod_cast Int.natAbs_pos.2 hi
    exact (zpow_le_one_of_nonpos₀ one_le_two (by decide)).trans this

variable (h : fp32.decode (fp32.daz c.daz x) = .fin n num den)
include h

theorem approxProper_rcp : approxProper c (fpApprox .rcp c x) := by
  obtain ⟨k, hk⟩ := fpApprox_rcp_fin h
  rw [hk]
  split
  · exact approxProper_of_not_isSub (not_isSub_signed n (.inr (by decide)) le_rfl)
  · split
    · next hexact =>
      simp only [Bool.and_eq_true, Bool.not_eq_true'] at hexact
      exact approxProper_of_not_isSub hexact.1.2
    · exact approxProper_flush _

theorem approxProper_rsq (hden : 0 < den) (hlt : num < 2 ^ 128) : approxProper c (fpApprox .rsq c x) := by
  by_cases hz : num = 0
  · rw [fpApprox_rsq_zero h hz]
    exact approxProper_of_not_isSub (not_isSub_signed n (.inr (by decide)) le_rfl)
  · cases hn : n with
    | true =>
      rw [fpApprox_rsq_neg h hz hn]
      exact approxProper_invalid
    | false =>
      obtain ⟨rn, rd, hsqrt, hr⟩ := sqrt_not_small hden (Nat.pos_of_ne_zero hz) hlt
      obtain ⟨k, hk⟩ := fpApprox_rsq_pos h hz hn hsqrt
      rw [hk]
      split
      · exact approxProper_of_not_isSub (not_isSub_roundFP false hr)
      · exact approxProper_flush _

theorem approxProper_ex2 (hden : 0 < den) : approxProper c (fpApprox .ex2 c x) := by
  by_cases hwhole : num % den = 0 ∧ num ≤ (if n then 126 else 127) * den
  · obtain ⟨hmod, hle⟩ := hwhole
    have hk : num / den ≤ if n then 126 else 127 := Nat.div_le_of_le_mul (by rwa [Nat.mul_comm])
    obtain ⟨hlow, hhigh⟩ := signedNum_range hk
    rw [fpApprox_ex2_whole h hden (Nat.div_mul_cancel (Nat.dvd_of_mod_eq_zero hmod)).symm hk, ← Nat.zero_add (_ * _)]
    refine approxProper_of_not_isSub (not_isSub_signed false (.inr ?_) ?_)
    · omega
    · rw [show fp32.infCode = 2139095040 from rfl]
      omega
  · obtain ⟨k, k', hk⟩ := fpApprox_ex2_fin h
    rw [hk, if_neg hwhole]
    split
    · exact approxProper_of_not_isSub (by decide)
    · split <;> exact approxProper_flush _

theorem approxProper_lg2 : approxProper c (fpApprox .lg2 c x) := by
  obtain ⟨k, hk⟩ := fpApprox_lg2_fin h
  rw [hk]
  split
  · exact approxProper_of_not_isSub (by decide)
  · split
    · exact approxProper_invalid
    · split
      · exact approxProper_of_not_isSub (not_isSub_roundFP_ofInt _)
      · exact approxProper_flush _

theorem approxProper_sin (hy : num = 0 → fp32.isSub (fp32.daz c.daz x) = false) : approxProper c (fpApprox .sin c x) := by
  obtain ⟨k, hk⟩ := fpApprox_sin_fin h
  rw [hk]
  split
  · next hz => exact approxProper_of_not_isSub (hy hz)
  · split
    · exact approxProper_invalid
    · exact approxProper_flush _

theorem approxProper_cos : approxProper c (fpApprox .cos c x) := by
  obtain ⟨k, hk⟩ := fpApprox_cos_fin h
  rw [hk]
  split
  · exact approxProper_of_not_isSub (by decide)
  · split
    · exact approxProper_invalid
    · exact approxProper_flush _

end

theorem fpApprox_proper (op : ApproxOp) (c : FpCtl) (x : Nat) : approxProper c (fpApprox op c x) := by
  rcases decode_cases (fp32.daz c.daz x) with h | h | ⟨hfin, h⟩
  · rw [fpApprox_nan h]
    refine ⟨?_, fun _ => (by decide : fp32.isSub fp32.canonNaN = false)⟩
    unfold snanFlag
    split
    · exact .inr rfl
    · exact .inl rfl
  · rw [fpApprox_inf h]
    exact approxProper_inf ..
  · cases op with
    | rcp => exact approxProper_rcp h
    | rsq => exact approxProper_rsq h (fraction_pos ..) (fraction_lt hfin)
    | ex2 => exact approxProper_ex2 h (fraction_pos ..)
    | lg2 => exact approxProper_lg2 h
    | sin => exact approxProper_sin h fun hz => not_isSub_of_mag_zero ((fraction_eq_zero_iff _).1 hz)
    | cos => exact approxProper_cos h

theorem fpWord_of_approx1 {i : Instr} {s : State} {d a : BitVec 7} {op : ApproxOp} (h : runsFp i s) (he : exec i s = approx1 s i.opn (uses i) d a op)
    (hd : writesWord i d := by exact ⟨rfl, rfl⟩) (hlevel : lowestLevel i.opn (mod7 i) = lowestLevel i.opn 0 := by rfl)
    (hg : ctxAllows .axp i.opn = false ∧ ctxAllows .queue i.opn = false := by exact ⟨rfl, rfl⟩) (hlen : 4 = ilen i := by rfl) :
    fpWord i d (fun l => fpApprox op (fpCtl s d l) (readField s a.toNat l).toNat) s :=
  fpWord_of_fp1 (b := 0) (f := fpApprox op) h he hd hlevel hg hlen

/-! ## The rows of the tables (R134, R135), by the operand -/

section
variable {c : FpCtl} {x : Nat}

theorem fpApprox_of_isNaN (op : ApproxOp) (h : fp32.isNaN x = true) : fpApprox op c x = (fp32.canonNaN, if fp32.isSNaN x then flagNV else 0) := by
  have hy := isNaN_daz c.daz h
  rw [fpApprox_nan (by rw [hy, decode_of_isNaN h]), hy, snanFlag]
  simp

/-- The operand of DAZ decodes to a fraction of its magnitude. -/
theorem decode_daz (h : fp32.mag (fp32.daz c.daz x) ≤ fp32.maxCode) : fp32.decode (fp32.daz c.daz x) =
    .fin (fp32.isNeg x) (fraction fp32 (fp32.daz c.daz x)).1 (fraction fp32 (fp32.daz c.daz x)).2 := by
  rw [decode_of_finite rfl h, isNeg_daz]

theorem decode_daz_inf (h : fp32.mag (fp32.daz c.daz x) = fp32.infCode) : fp32.decode (fp32.daz c.daz x) = .inf (fp32.isNeg x) := by
  rw [decode_of_inf h, isNeg_daz]

theorem decode_daz_zero (h : fp32.mag (fp32.daz c.daz x) = 0) : fp32.decode (fp32.daz c.daz x) = .fin (fp32.isNeg x) 0 1 := by
  rw [decode_of_mag_zero rfl h, isNeg_daz]

theorem fpApprox_ex2_zero (h : fp32.mag (fp32.daz c.daz x) = 0) : fpApprox .ex2 c x = (0x3F800000, 0) := by
  rw [fpApprox_ex2_whole (k := 0) (decode_daz_zero h) one_pos rfl (Nat.zero_le _)]
  cases fp32.isNeg x <;> rfl

/-- A negative operand that is no zero has no root and no logarithm. -/
theorem fpApprox_of_neg (hneg : fp32.isNeg x = true) (hpos : 0 < fp32.mag (fp32.daz c.daz x)) (hle : fp32.mag (fp32.daz c.daz x) ≤ fp32.infCode) :
    fpApprox .rsq c x = (fp32.canonNaN, flagNV) ∧ fpApprox .lg2 c x = (fp32.canonNaN, flagNV) := by
  rcases Nat.lt_or_eq_of_le hle with h | h
  · have hdec := decode_daz (Nat.lt_succ_iff.1 h)
    have hz := (fraction_eq_zero_iff _).not.2 hpos.ne'
    exact ⟨fpApprox_rsq_neg hdec hz hneg, fpApprox_lg2_neg hdec hz hneg⟩
  · rw [fpApprox_inf (decode_daz_inf h), fpApprox_inf (decode_daz_inf h), hneg]
    exact ⟨rfl, rfl⟩

/-- A code up to the positive infinity's is its own magnitude. -/
theorem mag_isNeg_of_le {k : Nat} (h : k ≤ fp32.infCode) : fp32.mag k = k ∧ fp32.isNeg k = false := by
  have hsigned : fp32.signed false k = k := Nat.zero_add _
  exact ⟨(congrArg fp32.mag hsigned).symm.trans (mag_signed hasInfinity_fp32 false h), (congrArg fp32.isNeg hsigned).symm.trans (isNeg_signed hasInfinity_fp32 false h)⟩

theorem fpApprox_ex2_of_le (hlow : 0x43000000 ≤ fp32.daz c.daz x) (hhigh : fp32.daz c.daz x ≤ fp32.infCode) : fpApprox .ex2 c x = (fp32.infCode, 0) := by
  obtain ⟨hmag, hneg⟩ := mag_isNeg_of_le hhigh
  rw [isNeg_daz] at hneg
  rcases Nat.lt_or_eq_of_le hhigh with h | h
  · exact fpApprox_ex2_large (decode_daz (hmag.trans_le (Nat.lt_succ_iff.1 h))) hneg (pow_le_fraction 7 (hlow.trans_eq hmag.symm))
  · rw [fpApprox_inf (decode_daz_inf (hmag.trans h)), hneg]
    rfl

theorem fpApprox_trig_of_lt (hlow : 0x46800000 < fp32.mag (fp32.daz c.daz x)) (hhigh : fp32.mag (fp32.daz c.daz x) ≤ fp32.infCode) :
    fpApprox .sin c x = (fp32.canonNaN, flagNV) ∧ fpApprox .cos c x = (fp32.canonNaN, flagNV) := by
  rcases Nat.lt_or_eq_of_le hhigh with h | h
  · exact fpApprox_trig_large (decode_daz (Nat.lt_succ_iff.1 h)) (pow_lt_fraction 14 hlow)
  · rw [fpApprox_inf (decode_daz_inf h), fpApprox_inf (decode_daz_inf h)]
    exact ⟨rfl, rfl⟩

section
variable {p : Int} (hy : fp32.daz c.daz x = x) (h : powerCode (fp32.mag x) p)
include hy h

theorem decode_power : fp32.decode (fp32.daz c.daz x) = .fin (fp32.isNeg x) (fraction fp32 x).1 (fraction fp32 x).2 := by
  rw [hy, decode_of_finite rfl h.le]

theorem fpApprox_rcp_of_power (hlow : -127 ≤ p) (hhigh : p ≤ 126) : fpApprox .rcp c x = (fp32.signed (fp32.isNeg x) ((127 - p).toNat * 2 ^ 23), 0) :=
  fpApprox_rcp_pow (decode_power hy h) h.ratio h.isPow2Rat hlow hhigh

theorem fpApprox_rsq_of_power (hneg : fp32.isNeg x = false) (heven : p % 2 = 0) (hlow : -254 ≤ p) (hhigh : p ≤ 132) :
    fpApprox .rsq c x = ((127 - p / 2).toNat * 2 ^ 23, 0) :=
  fpApprox_rsq_pow (decode_power hy h) hneg (h.ratio.trans (by congr 1; omega)) (by omega) (by omega)

theorem fpApprox_lg2_of_power (hneg : fp32.isNeg x = false) : fpApprox .lg2 c x = (roundF32 (XR.ofInt p 1 false), 0) :=
  fpApprox_lg2_pow (decode_power hy h) hneg h.ratio h.isPow2Rat

end

/-- The exact rows for an operand of exponent e and fraction 0. -/
theorem exact_of_normal {e : Nat} (hlow : 1 ≤ e) (hhigh : e ≤ 254) :
    (fp32.mag x = e * 2 ^ 23 → e ≤ 253 → fpApprox .rcp c x = (fp32.signed (fp32.isNeg x) ((254 - e) * 2 ^ 23), 0)) ∧
    (x = e * 2 ^ 23 → e % 2 = 1 → fpApprox .rsq c x = ((381 - e) / 2 * 2 ^ 23, 0)) ∧
    (x = e * 2 ^ 23 → fpApprox .lg2 c x = (roundF32 (XR.ofInt ((e : Int) - 127) 1 false), 0)) := by
  have hpower : fp32.mag x = e * 2 ^ 23 → powerCode (fp32.mag x) (e - 127) ∧ fp32.daz c.daz x = x := fun hm =>
    ⟨.inl ⟨e, hlow, hhigh, hm, rfl⟩, daz_of_not_isSub (not_isSub_of_le (hm ▸ Nat.le_mul_of_pos_left _ hlow)) _⟩
  have hcode : x = e * 2 ^ 23 → fp32.mag x = e * 2 ^ 23 ∧ fp32.isNeg x = false := fun hx => by
    obtain ⟨hmag, hneg⟩ := mag_isNeg_of_le (k := x) (by rw [hx, show fp32.infCode = 2139095040 from rfl]; omega)
    exact ⟨hmag.trans hx, hneg⟩
  refine ⟨fun hm he => ?rcp, fun hx hodd => ?rsq, fun hx => ?lg2⟩
  case rcp =>
    obtain ⟨hp, hy⟩ := hpower hm
    rw [fpApprox_rcp_of_power hy hp (by omega) (by omega)]
    congr 4
    omega
  case rsq =>
    obtain ⟨hmag, hneg⟩ := hcode hx
    obtain ⟨hp, hy⟩ := hpower hmag
    rw [fpApprox_rsq_of_power hy hp hneg (by omega) (by omega) (by omega)]
    congr 2
    omega
  case lg2 =>
    obtain ⟨hmag, hneg⟩ := hcode hx
    obtain ⟨hp, hy⟩ := hpower hmag
    exact fpApprox_lg2_of_power hy hp hneg

/-- The exact rows for a subnormal operand that is a power of two. -/
theorem exact_of_subnormal (hdaz : c.daz = false) {j : Nat} (hj : j < 23) :
    (fp32.mag x = 2 ^ 22 → fpApprox .rcp c x = (fp32.signed (fp32.isNeg x) (254 * 2 ^ 23), 0)) ∧
    (x = 2 ^ j → j % 2 = 1 → fpApprox .rsq c x = ((127 + (149 - j) / 2) * 2 ^ 23, 0)) ∧
    (x = 2 ^ j → fpApprox .lg2 c x = (roundF32 (XR.ofInt ((j : Int) - 149) 1 false), 0)) := by
  have hy : fp32.daz c.daz x = x := by rw [hdaz]; rfl
  have hcode : x = 2 ^ j → powerCode (fp32.mag x) (j - 149) ∧ fp32.isNeg x = false := fun hx => by
    have hle : (2 : Nat) ^ j ≤ 2 ^ 23 := Nat.pow_le_pow_right two_pos hj.le
    obtain ⟨hmag, hneg⟩ := mag_isNeg_of_le (k := x) (by rw [hx, show fp32.infCode = 2139095040 from rfl]; omega)
    exact ⟨.inr ⟨j, hj, hmag.trans hx, rfl⟩, hneg⟩
  refine ⟨fun hm => ?rcp, fun hx hodd => ?rsq, fun hx => ?lg2⟩
  case rcp =>
    have hp : powerCode (fp32.mag x) (-127) := .inr ⟨22, by omega, hm, rfl⟩
    rw [fpApprox_rcp_of_power hy hp le_rfl (by omega), show (127 - (-127) : Int).toNat = 254 from rfl]
  case rsq =>
    obtain ⟨hp, hneg⟩ := hcode hx
    rw [fpApprox_rsq_of_power hy hp hneg (by omega) (by omega) (by omega)]
    congr 2
    omega
  case lg2 =>
    obtain ⟨hp, hneg⟩ := hcode hx
    exact fpApprox_lg2_of_power hy hp hneg

/-- The code of a whole number: its sign and magnitude, in the normal range. -/
theorem fpApprox_ex2_of_ofInt {i : Int} {neg : Bool} (hlow : -126 ≤ i) (hhigh : i ≤ 127) (h : x = roundF32 (XR.ofInt i 1 neg)) :
    fpApprox .ex2 c x = ((127 + i).toNat * 2 ^ 23, 0) := by
  by_cases hi : i = 0
  · have hx : x = fp32.signed neg 0 := by rw [h, hi]; rfl
    have hmag : fp32.mag x = 0 := by rw [hx, mag_signed hasInfinity_fp32 neg (Nat.zero_le _)]
    rw [fpApprox_ex2_zero (by rw [daz_of_not_isSub (not_isSub_of_mag_zero hmag), hmag]), hi]
    rfl
  · obtain ⟨m, hm, hmax, hval⟩ := codeValue_whole (n := i.natAbs) (by omega) (by omega)
    have hx : x = fp32.signed (decide (i < 0)) m := by
      rw [h, roundF32, XR.ofInt, if_neg hi]
      exact roundFP_exact hasInfinity_fp32 (by omega) one_pos _ hmax (by rw [hval, ratio, Nat.cast_one, div_one])
    have hmag : fp32.mag x = m := hx ▸ mag_signed hasInfinity_fp32 _ (le_infCode hmax)
    have hneg : fp32.isNeg x = decide (i < 0) := hx ▸ isNeg_signed hasInfinity_fp32 _ (le_infCode hmax)
    have hdec : fp32.decode (fp32.daz c.daz x) = .fin (decide (i < 0)) (fraction fp32 x).1 (fraction fp32 x).2 := by
      rw [daz_of_not_isSub (not_isSub_of_le (hm.trans_eq hmag.symm)), decode_of_finite rfl (hmag.trans_le hmax), hneg]
    have hwhole : (fraction fp32 x).1 = i.natAbs * (fraction fp32 x).2 := by
      have hden : ((fraction fp32 x).2 : ℚ) ≠ 0 := by exact_mod_cast (fraction_pos fp32 x).ne'
      have hr := ratio_fraction fp32 x
      rw [hmag, hval, ratio, div_eq_iff hden] at hr
      exact_mod_cast hr
    have hsigned : XR.signedNum (decide (i < 0)) i.natAbs = i := by
      unfold XR.signedNum
      by_cases hlt : i < 0 <;> simp only [hlt, decide_true, decide_false, if_true, Bool.false_eq_true, if_false] <;> omega
    rw [fpApprox_ex2_whole hdec (fraction_pos ..) hwhole (by by_cases hlt : i < 0 <;> simp only [hlt, decide_true, decide_false, if_true, Bool.false_eq_true, if_false] <;> omega), hsigned]

end

end Sys2Proof.Machine

namespace Sys2Proof.Claim

open Machine

/-- Settles O12: the six in the one-source form; each row of the tables by what its operand decodes to, the exact ones by powers of two. -/
theorem approximationsComplete : Obligations.ApproximationsComplete := by
  refine ⟨fun d a s k hk h => ?forms, fun c x hx => ⟨fun op => ?all, fun hz => ?zero, fun hy => ?posInf, fun hy => ?inf, fpApprox_of_neg, fpApprox_ex2_of_le, fpApprox_trig_of_lt,
    fun e => exact_of_normal, fun hdaz j => exact_of_subnormal hdaz, fun i => fpApprox_ex2_of_ofInt⟩⟩
  case forms =>
    rcases hk with _ | ⟨_, _ | ⟨_, _ | ⟨_, _ | ⟨_, _ | ⟨_, _ | ⟨_, hk⟩⟩⟩⟩⟩⟩
    case tail.tail.tail.tail.tail.tail => exact absurd hk List.not_mem_nil
    all_goals exact fpWord_of_approx1 h rfl
  case all =>
    obtain ⟨hflags, hftz⟩ := fpApprox_proper op c x
    exact ⟨hflags, fpApprox_of_isNaN op, hftz⟩
  case zero =>
    have h := decode_daz_zero hz
    exact ⟨fpApprox_rcp_zero h rfl, fpApprox_rsq_zero h rfl, fpApprox_ex2_zero hz, fpApprox_lg2_zero h rfl, fpApprox_sin_zero h rfl, fpApprox_cos_zero h rfl⟩
  case posInf =>
    have hneg : fp32.isNeg x = false := by rw [← isNeg_daz c.daz, hy]; rfl
    have h := decode_daz_inf (c := c) (x := x) (by rw [hy]; rfl)
    rw [hneg] at h
    exact ⟨fpApprox_inf h, fpApprox_inf h, fpApprox_inf h⟩
  case inf =>
    have h := decode_daz_inf hy
    exact ⟨fpApprox_inf h, fun hneg => by rw [fpApprox_inf h, hneg]; rfl⟩
end Sys2Proof.Claim
end
